-- ==== Sys2Proof/Word.lean ====
section
/-! DEFINITION. The bit-vector types of the Wenaro: bytes, registers, register pairs. -/

namespace Sys2Proof

/-- One byte of memory. -/
abbrev Byte := BitVec 8

/-- The contents of one register (00 R2). -/
abbrev Word := BitVec 32

/-- The contents of a register pair, a pointer, a fault word (00 R2). -/
abbrev DWord := BitVec 64

end Sys2Proof
end

