-- ==== Sys2Proof/Syntax.lean ====
section
/-! DEFINITION. The instructions of the Wenaro: one constructor per row of the opcode table. The first part holds the
encoded words (06 R134), one argument per encoding field; the second the indivisible events of the package (95),
each with the arguments that say what it concerns. -/

namespace Sys2Proof

/-- What a home acknowledges (05 Table 5-3): a release store or release atomic, an ownership registration, or a
store to the half of cluster-local space on the other die. -/
inductive AckKind where
  | release | ownership | otherDie
  deriving DecidableEq, Repr

/-- What a management request carries besides its operation (24 R385): its sequence number and its signature. -/
structure MgmtRequest where
  sequence : Nat
  signature : List Byte
  deriving DecidableEq, Repr

/-- One image of bring-up (24 R379): its bytes, the security version number that they carry, the public key and the signature
that come with it. -/
structure BootImage where
  bytes : List Byte
  version : Nat
  key : List Byte
  signature : List Byte
  deriving DecidableEq, Repr

/-- The three images of bring-up (24 R379): Milliner, the F1 firmware and the C-die microcode. -/
structure BootImages where
  milliner : BootImage
  f1 : BootImage
  microcode : BootImage
  deriving DecidableEq, Repr

/-- What a Renhar packet asks or brings (23 R370, R373). A write names the bytes it covers by their offset from its
address; a record is carried as its bytes (02 R22) with the contents of its evacuated tiles. -/
inductive RenharKind where
  | postedWrite (va : Nat) (bytes : List (Nat × Byte))
  | releaseWrite (va : Nat) (bytes : List (Nat × Byte))
  | atomic (va : Nat) (opn : Nat) (wide : Bool) (returning : Bool) (compare data : BitVec 64)
  | signal (va : Nat) (value : BitVec 64)
  | read (va : Nat) (length : Nat)
  /-- An acquire load, whose response has a trailer. -/
  | acquire (va : Nat) (length : Nat)
  /-- Asks whether an address translates for an access of a kind (21 Table 21-3), or for an atomic one. -/
  | translate (va : Nat) (access : Nat) (atomic : Bool)
  /-- A package's registration of ownership in a line, which its home directory keeps. -/
  | own (va : Nat)
  | invalidate (va : Nat)
  /-- A home asks the owner of a line for it. -/
  | fetch (va : Nat)
  /-- Data: of a read or atomic of a thread at an address, with a congestion mark where the path met one. -/
  | response (launch thread va : Nat) (bytes : List Byte) (congested : Bool)
  | faulted (launch thread va : Nat) (word : BitVec 64)
  | ack (launch thread va count : Nat) (congested : Bool)
  | nack (launch thread : Nat)
  /-- The ring of the queue is full: the command is to be sent again. -/
  | full (launch thread : Nat)
  | accepted (launch thread : Nat)
  | enqueue (launch thread queue : Nat) (command : List Byte)
  /-- A piece of a record, one of so many: bytes of its image, or of the tiles of a handle slot. -/
  | record (launch core piece pieces : Nat) (slot : Option Nat) (bytes : List Byte)
  deriving DecidableEq, Repr

/-- A Renhar packet (23 R370). -/
structure RenharPacket where
  source : Nat
  destination : Nat
  rctx : Nat
  entropy : Nat
  sequence : Nat
  kind : RenharKind
  /-- How many posted writes it stands for (23 R371). -/
  count : Nat := 1
  deriving DecidableEq, Repr

/-- The instructions: one constructor per row of spec/opcode_table.json. -/
inductive Instr where
  /-- R143. Adds two 32-bit values modulo 2^32. -/
  | iadd (c : BitVec 1) (g : BitVec 2) (d a b : BitVec 7) (w : BitVec 1)
  /-- R143. Subtracts two 32-bit values modulo 2^32. -/
  | isub (c : BitVec 1) (g : BitVec 2) (d a b : BitVec 7) (w : BitVec 1)
  /-- R143. Multiplies two 32-bit values modulo 2^32. -/
  | imul (c : BitVec 1) (g : BitVec 2) (d a b : BitVec 7) (w : BitVec 1)
  /-- R143. Delivers the high word of the signed 64-bit product. -/
  | imulhS32 (c : BitVec 1) (g : BitVec 2) (d a b : BitVec 7) (w : BitVec 1)
  /-- R143. Delivers the high word of the natural 64-bit product. -/
  | imulhN32 (c : BitVec 1) (g : BitVec 2) (d a b : BitVec 7) (w : BitVec 1)
  /-- R143. Computes a times b plus the old D modulo 2^32. -/
  | imad (c : BitVec 1) (g : BitVec 2) (d a b : BitVec 7) (w : BitVec 1)
  /-- R144. Adds two 64-bit pairs modulo 2^64. -/
  | iadd64 (c : BitVec 1) (g : BitVec 2) (d a b : BitVec 7) (w : BitVec 1)
  /-- R144. Subtracts two 64-bit pairs modulo 2^64. -/
  | isub64 (c : BitVec 1) (g : BitVec 2) (d a b : BitVec 7) (w : BitVec 1)
  /-- R143. Bitwise AND of two 32-bit values. -/
  | and (c : BitVec 1) (g : BitVec 2) (d a b : BitVec 7) (w : BitVec 1)
  /-- R143. Bitwise OR of two 32-bit values. -/
  | or (c : BitVec 1) (g : BitVec 2) (d a b : BitVec 7) (w : BitVec 1)
  /-- R143. Bitwise XOR of two 32-bit values. -/
  | xor (c : BitVec 1) (g : BitVec 2) (d a b : BitVec 7) (w : BitVec 1)
  /-- R143. Computes a AND NOT b. -/
  | andn (c : BitVec 1) (g : BitVec 2) (d a b : BitVec 7) (w : BitVec 1)
  /-- R145. Shifts left by n32(b), giving zero at 32 or more. -/
  | shl (c : BitVec 1) (g : BitVec 2) (d a b : BitVec 7) (w : BitVec 1)
  /-- R145. Shifts right logically by n32(b). -/
  | shr (c : BitVec 1) (g : BitVec 2) (d a b : BitVec 7) (w : BitVec 1)
  /-- R145. Shifts right arithmetically by n32(b). -/
  | sar (c : BitVec 1) (g : BitVec 2) (d a b : BitVec 7) (w : BitVec 1)
  /-- R145. Rotates left by n32(b) mod 32. -/
  | rot (c : BitVec 1) (g : BitVec 2) (d a b : BitVec 7) (w : BitVec 1)
  /-- R143. Delivers the smaller value under the signed view. -/
  | iminS32 (c : BitVec 1) (g : BitVec 2) (d a b : BitVec 7) (w : BitVec 1)
  /-- R143. Delivers the smaller value under the natural view. -/
  | iminN32 (c : BitVec 1) (g : BitVec 2) (d a b : BitVec 7) (w : BitVec 1)
  /-- R143. Delivers the larger value under the signed view. -/
  | imaxS32 (c : BitVec 1) (g : BitVec 2) (d a b : BitVec 7) (w : BitVec 1)
  /-- R143. Delivers the larger value under the natural view. -/
  | imaxN32 (c : BitVec 1) (g : BitVec 2) (d a b : BitVec 7) (w : BitVec 1)
  /-- R143. Delivers the absolute value of a signed 32-bit value, wrapping at 0x8000_0000. -/
  | iabs (c : BitVec 1) (g : BitVec 2) (d a : BitVec 7) (w : BitVec 1)
  /-- R146. Signed saturating addition. -/
  | iaddsS32 (c : BitVec 1) (g : BitVec 2) (d a b : BitVec 7) (w : BitVec 1)
  /-- R146. Natural saturating addition. -/
  | iaddsN32 (c : BitVec 1) (g : BitVec 2) (d a b : BitVec 7) (w : BitVec 1)
  /-- R146. Signed saturating subtraction. -/
  | isubsS32 (c : BitVec 1) (g : BitVec 2) (d a b : BitVec 7) (w : BitVec 1)
  /-- R146. Natural saturating subtraction. -/
  | isubsN32 (c : BitVec 1) (g : BitVec 2) (d a b : BitVec 7) (w : BitVec 1)
  /-- R147. Signed division truncating toward zero, never trapping. -/
  | idivS32 (c : BitVec 1) (g : BitVec 2) (d a b : BitVec 7) (w : BitVec 1)
  /-- R147. Natural division, never trapping. -/
  | idivN32 (c : BitVec 1) (g : BitVec 2) (d a b : BitVec 7) (w : BitVec 1)
  /-- R147. Signed remainder with the sign of the dividend. -/
  | iremS32 (c : BitVec 1) (g : BitVec 2) (d a b : BitVec 7) (w : BitVec 1)
  /-- R147. Natural remainder. -/
  | iremN32 (c : BitVec 1) (g : BitVec 2) (d a b : BitVec 7) (w : BitVec 1)
  /-- R143. Counts the set bits of a. -/
  | popc (c : BitVec 1) (g : BitVec 2) (d a : BitVec 7) (w : BitVec 1)
  /-- R143. Counts leading zero bits of a. -/
  | clz (c : BitVec 1) (g : BitVec 2) (d a : BitVec 7) (w : BitVec 1)
  /-- R143. Counts trailing zero bits of a. -/
  | ctz (c : BitVec 1) (g : BitVec 2) (d a : BitVec 7) (w : BitVec 1)
  /-- R143. Reverses the 32 bits of a. -/
  | brev (c : BitVec 1) (g : BitVec 2) (d a : BitVec 7) (w : BitVec 1)
  /-- R148. Extracts a sign-extended bit field. -/
  | bfeS32 (c : BitVec 1) (g : BitVec 2) (d a b : BitVec 7) (w : BitVec 1)
  /-- R148. Extracts a zero-extended bit field. -/
  | bfeN32 (c : BitVec 1) (g : BitVec 2) (d a b : BitVec 7) (w : BitVec 1)
  /-- R148. Inserts a bit field of a into the old D. -/
  | bfi (c : BitVec 1) (g : BitVec 2) (d a b : BitVec 7) (w : BitVec 1)
  /-- R148. Forms a bit mask from position a and width b. -/
  | bmsk (c : BitVec 1) (g : BitVec 2) (d a b : BitVec 7) (w : BitVec 1)
  /-- R128. Selects a or b per lane by the predicate named in G; never guarded. -/
  | sel (c : BitVec 1) (s : BitVec 2) (d a b : BitVec 7) (w : BitVec 1)
  /-- R152. Writes a uniform register of the gang from the lowest guarded-on lane. -/
  | kmov (c : BitVec 1) (g : BitVec 2) (d : BitVec 5) (a : BitVec 7)
  /-- R150. Compares two 32-bit values and writes a predicate and the latch. -/
  | cmp (c : BitVec 1) (g : BitVec 2) (k : BitVec 4) (p : BitVec 3) (a b : BitVec 7) (w : BitVec 1)
  /-- R150. Compares and writes the result and its negation to a predicate pair. -/
  | cmpPair (c : BitVec 1) (g : BitVec 2) (k : BitVec 4) (p : BitVec 3) (a b : BitVec 7) (w : BitVec 1)
  /-- R168. Compares two FP32 values into a predicate. -/
  | fcmp (c : BitVec 1) (g : BitVec 2) (k : BitVec 4) (p : BitVec 3) (a b : BitVec 7) (w : BitVec 1)
  /-- R168. Compares two FP32 values into a predicate pair. -/
  | fcmpPair (c : BitVec 1) (g : BitVec 2) (k : BitVec 4) (p : BitVec 3) (a b : BitVec 7) (w : BitVec 1)
  /-- R151. ANDs two predicates. -/
  | pand (c : BitVec 1) (g : BitVec 2) (d a b : BitVec 3) (w : BitVec 1)
  /-- R151. ORs two predicates. -/
  | por (c : BitVec 1) (g : BitVec 2) (d a b : BitVec 3) (w : BitVec 1)
  /-- R151. XORs two predicates. -/
  | pxor (c : BitVec 1) (g : BitVec 2) (d a b : BitVec 3) (w : BitVec 1)
  /-- R151. Negates a predicate. -/
  | pnot (c : BitVec 1) (g : BitVec 2) (d a : BitVec 3) (w : BitVec 1)
  /-- R151. Copies the predicate set into a register. -/
  | pget (c : BitVec 1) (g : BitVec 2) (d : BitVec 7) (w : BitVec 1)
  /-- R151. Sets predicates p1 to p7 selected by b from a. -/
  | pset (c : BitVec 1) (g : BitVec 2) (a b : BitVec 7) (w : BitVec 1)
  /-- R164. FP32 addition rounded by ARND. -/
  | faddF32 (c : BitVec 1) (g : BitVec 2) (d a b : BitVec 7) (w : BitVec 1)
  /-- R164. Packed BF16 addition. -/
  | faddBf16x2 (c : BitVec 1) (g : BitVec 2) (d a b : BitVec 7) (w : BitVec 1)
  /-- R164. Packed FP16 addition. -/
  | faddF16x2 (c : BitVec 1) (g : BitVec 2) (d a b : BitVec 7) (w : BitVec 1)
  /-- R164. FP32 subtraction. -/
  | fsubF32 (c : BitVec 1) (g : BitVec 2) (d a b : BitVec 7) (w : BitVec 1)
  /-- R164. Packed BF16 subtraction. -/
  | fsubBf16x2 (c : BitVec 1) (g : BitVec 2) (d a b : BitVec 7) (w : BitVec 1)
  /-- R164. Packed FP16 subtraction. -/
  | fsubF16x2 (c : BitVec 1) (g : BitVec 2) (d a b : BitVec 7) (w : BitVec 1)
  /-- R164. FP32 multiplication. -/
  | fmulF32 (c : BitVec 1) (g : BitVec 2) (d a b : BitVec 7) (w : BitVec 1)
  /-- R164. Packed BF16 multiplication. -/
  | fmulBf16x2 (c : BitVec 1) (g : BitVec 2) (d a b : BitVec 7) (w : BitVec 1)
  /-- R164. Packed FP16 multiplication. -/
  | fmulF16x2 (c : BitVec 1) (g : BitVec 2) (d a b : BitVec 7) (w : BitVec 1)
  /-- R164. FP32 fused multiply-add rounded once. -/
  | ffmaF32 (c : BitVec 1) (g : BitVec 2) (d a b : BitVec 7) (w : BitVec 1)
  /-- R164. Packed BF16 fused multiply-add. -/
  | ffmaBf16x2 (c : BitVec 1) (g : BitVec 2) (d a b : BitVec 7) (w : BitVec 1)
  /-- R164. Packed FP16 fused multiply-add. -/
  | ffmaF16x2 (c : BitVec 1) (g : BitVec 2) (d a b : BitVec 7) (w : BitVec 1)
  /-- R166. Delivers the smaller FP32 element unrounded. -/
  | fminF32 (c : BitVec 1) (g : BitVec 2) (d a b : BitVec 7) (w : BitVec 1)
  /-- R166. Packed BF16 minimum. -/
  | fminBf16x2 (c : BitVec 1) (g : BitVec 2) (d a b : BitVec 7) (w : BitVec 1)
  /-- R166. Packed FP16 minimum. -/
  | fminF16x2 (c : BitVec 1) (g : BitVec 2) (d a b : BitVec 7) (w : BitVec 1)
  /-- R166. Delivers the larger FP32 element unrounded. -/
  | fmaxF32 (c : BitVec 1) (g : BitVec 2) (d a b : BitVec 7) (w : BitVec 1)
  /-- R166. Packed BF16 maximum. -/
  | fmaxBf16x2 (c : BitVec 1) (g : BitVec 2) (d a b : BitVec 7) (w : BitVec 1)
  /-- R166. Packed FP16 maximum. -/
  | fmaxF16x2 (c : BitVec 1) (g : BitVec 2) (d a b : BitVec 7) (w : BitVec 1)
  /-- R167. Inverts bit 31. -/
  | fnegF32 (c : BitVec 1) (g : BitVec 2) (d a : BitVec 7) (w : BitVec 1)
  /-- R167. Inverts bits 15 and 31. -/
  | fnegX2 (c : BitVec 1) (g : BitVec 2) (d a : BitVec 7) (w : BitVec 1)
  /-- R167. Clears bit 31. -/
  | fabsF32 (c : BitVec 1) (g : BitVec 2) (d a : BitVec 7) (w : BitVec 1)
  /-- R167. Clears bits 15 and 31. -/
  | fabsX2 (c : BitVec 1) (g : BitVec 2) (d a : BitVec 7) (w : BitVec 1)
  /-- R175. Quantises a scaled FP32 value to a canonical TSH8 code. -/
  | qtsh (c : BitVec 1) (g : BitVec 2) (d a b : BitVec 7) (w : BitVec 1)
  /-- R177. Takes a from the lane named by b. -/
  | lxAt (c : BitVec 1) (g : BitVec 2) (d a b : BitVec 7) (w : BitVec 1)
  /-- R177. Takes a from lane l minus n. -/
  | lxBelow (c : BitVec 1) (g : BitVec 2) (d a b : BitVec 7) (w : BitVec 1)
  /-- R177. Takes a from lane l plus n. -/
  | lxAbove (c : BitVec 1) (g : BitVec 2) (d a b : BitVec 7) (w : BitVec 1)
  /-- R177. Takes a from lane l XOR n. -/
  | lxMirror (c : BitVec 1) (g : BitVec 2) (d a b : BitVec 7) (w : BitVec 1)
  /-- R257. Makes a stream the intersection of two level streams. -/
  | sisect (c : BitVec 1) (g : BitVec 2) (d a b : BitVec 7)
  /-- R257. Makes a stream the union of two level streams. -/
  | sunion (c : BitVec 1) (g : BitVec 2) (d a b : BitVec 7)
  /-- R256. Binds a stream register to a stream table entry and parent position. -/
  | sbind (c : BitVec 1) (g : BitVec 2) (d a b : BitVec 7)
  /-- R149. Adds a sign-extended immediate. -/
  | iaddi (c : BitVec 1) (g : BitVec 2) (d a : BitVec 7) (i : BitVec 8)
  /-- R149. Writes a sign-extended immediate. -/
  | movi (c : BitVec 1) (g : BitVec 2) (d : BitVec 7) (i : BitVec 8)
  /-- R149. Multiplies by a sign-extended immediate. -/
  | imuli (c : BitVec 1) (g : BitVec 2) (d a : BitVec 7) (i : BitVec 8)
  /-- R149. Bitwise AND with an immediate. -/
  | andi (c : BitVec 1) (g : BitVec 2) (d a : BitVec 7) (i : BitVec 8)
  /-- R149. Bitwise OR with an immediate. -/
  | ori (c : BitVec 1) (g : BitVec 2) (d a : BitVec 7) (i : BitVec 8)
  /-- R149. Bitwise XOR with an immediate. -/
  | xori (c : BitVec 1) (g : BitVec 2) (d a : BitVec 7) (i : BitVec 8)
  /-- R149. Shifts left by an immediate amount. -/
  | shfiShl (c : BitVec 1) (g : BitVec 2) (d a : BitVec 7) (n : BitVec 5)
  /-- R149. Shifts right logically by an immediate amount. -/
  | shfiShr (c : BitVec 1) (g : BitVec 2) (d a : BitVec 7) (n : BitVec 5)
  /-- R149. Shifts right arithmetically by an immediate amount. -/
  | shfiSar (c : BitVec 1) (g : BitVec 2) (d a : BitVec 7) (n : BitVec 5)
  /-- R149. Rotates left by an immediate amount. -/
  | shfiRot (c : BitVec 1) (g : BitVec 2) (d a : BitVec 7) (n : BitVec 5)
  /-- R149. Compares with a sign-extended immediate into a predicate. -/
  | cmpi (c : BitVec 1) (g : BitVec 2) (k : BitVec 4) (p : BitVec 3) (a : BitVec 7) (i : BitVec 8)
  /-- R149. Compares with an immediate into a predicate pair. -/
  | cmpiPair (c : BitVec 1) (g : BitVec 2) (k : BitVec 4) (p : BitVec 3) (a : BitVec 7) (i : BitVec 8)
  /-- R164. Adds an E4M3 immediate to an FP32 value. -/
  | faddiF32 (c : BitVec 1) (g : BitVec 2) (d a : BitVec 7) (i : BitVec 8)
  /-- R164. Adds an E4M3 immediate to packed BF16. -/
  | faddiBf16x2 (c : BitVec 1) (g : BitVec 2) (d a : BitVec 7) (i : BitVec 8)
  /-- R164. Adds an E4M3 immediate to packed FP16. -/
  | faddiF16x2 (c : BitVec 1) (g : BitVec 2) (d a : BitVec 7) (i : BitVec 8)
  /-- R164. Multiplies an FP32 value by an E4M3 immediate. -/
  | fmuliF32 (c : BitVec 1) (g : BitVec 2) (d a : BitVec 7) (i : BitVec 8)
  /-- R164. Multiplies packed BF16 by an E4M3 immediate. -/
  | fmuliBf16x2 (c : BitVec 1) (g : BitVec 2) (d a : BitVec 7) (i : BitVec 8)
  /-- R164. Multiplies packed FP16 by an E4M3 immediate. -/
  | fmuliF16x2 (c : BitVec 1) (g : BitVec 2) (d a : BitVec 7) (i : BitVec 8)
  /-- R152. Loads a 32-bit literal through the instruction-fetch path. -/
  | ldl32 (c : BitVec 1) (g : BitVec 2) (d : BitVec 7) (i : BitVec 8)
  /-- R152. Loads a 64-bit literal into a pair. -/
  | ldl64 (c : BitVec 1) (g : BitVec 2) (d : BitVec 7) (i : BitVec 8)
  /-- R154. Branches by a signed 64-bit packet displacement from a literal. -/
  | brl (g : BitVec 2) (i : BitVec 8)
  /-- R154. Branches by a literal displacement and writes the link to d62. -/
  | calll (g : BitVec 2) (i : BitVec 8)
  /-- R171. Converts between formats under the rounding named by RND. -/
  | fcvt (c : BitVec 1) (g : BitVec 2) (d a : BitVec 7) (k : BitVec 5) (r : BitVec 3)
  /-- R170. Correctly rounded reciprocal. -/
  | frcp (c : BitVec 1) (g : BitVec 2) (d a : BitVec 7) (t : BitVec 2)
  /-- R170. Correctly rounded reciprocal square root. -/
  | frsq (c : BitVec 1) (g : BitVec 2) (d a : BitVec 7) (t : BitVec 2)
  /-- R170. Correctly rounded square root. -/
  | fsqrt (c : BitVec 1) (g : BitVec 2) (d a : BitVec 7) (t : BitVec 2)
  /-- R170. Correctly rounded power of two. -/
  | fexp2 (c : BitVec 1) (g : BitVec 2) (d a : BitVec 7) (t : BitVec 2)
  /-- R170. Correctly rounded base-2 logarithm. -/
  | flog2 (c : BitVec 1) (g : BitVec 2) (d a : BitVec 7) (t : BitVec 2)
  /-- R170. Correctly rounded sine. -/
  | fsin (c : BitVec 1) (g : BitVec 2) (d a : BitVec 7) (t : BitVec 2)
  /-- R170. Correctly rounded cosine. -/
  | fcos (c : BitVec 1) (g : BitVec 2) (d a : BitVec 7) (t : BitVec 2)
  /-- R170. Correctly rounded hyperbolic tangent. -/
  | ftanh (c : BitVec 1) (g : BitVec 2) (d a : BitVec 7) (t : BitVec 2)
  /-- R178. ORs a predicate over the active lanes. -/
  | lany (c : BitVec 1) (g : BitVec 2) (p q : BitVec 3)
  /-- R178. ANDs a predicate over the active lanes. -/
  | lall (c : BitVec 1) (g : BitVec 2) (p q : BitVec 3)
  /-- R178. Forms the mask of a predicate over the active lanes. -/
  | lmask (c : BitVec 1) (g : BitVec 2) (d : BitVec 7) (q : BitVec 3)
  /-- R178. Sums a over the active lanes. -/
  | lsum (c : BitVec 1) (g : BitVec 2) (d a : BitVec 7)
  /-- R178. Signed minimum over the active lanes. -/
  | lminS32 (c : BitVec 1) (g : BitVec 2) (d a : BitVec 7)
  /-- R178. Natural minimum over the active lanes. -/
  | lminN32 (c : BitVec 1) (g : BitVec 2) (d a : BitVec 7)
  /-- R178. Signed maximum over the active lanes. -/
  | lmaxS32 (c : BitVec 1) (g : BitVec 2) (d a : BitVec 7)
  /-- R178. Natural maximum over the active lanes. -/
  | lmaxN32 (c : BitVec 1) (g : BitVec 2) (d a : BitVec 7)
  /-- R179. Detects lanes holding equal values and gives mask, leader bit and rank. -/
  | cdet (c : BitVec 1) (g : BitVec 2) (d a : BitVec 7)
  /-- R178. Sets a predicate in the lowest-numbered active lane only. -/
  | lfirst (c : BitVec 1) (g : BitVec 2) (p : BitVec 3)
  /-- R187. Performs a returning atomic read-modify-write at the location's home. -/
  | atom (c : BitVec 1) (g : BitVec 2) (d a : BitVec 7) (o : BitVec 2) (w : BitVec 1) (n : BitVec 4)
  /-- R187. Performs a non-returning atomic reduction. -/
  | red (c : BitVec 1) (g : BitVec 2) (d a : BitVec 7) (o w : BitVec 1) (n : BitVec 4)
  /-- R134. Has no effect. -/
  | nop (c : BitVec 1) (g : BitVec 2)
  /-- R237. Closes the open batch, numbering it and returning the number. -/
  | seal (c : BitVec 1) (g : BitVec 2) (d : BitVec 7)
  /-- R239. Reads a batch's pending-byte counter. -/
  | batchBytes (c : BitVec 1) (g : BitVec 2) (d a : BitVec 7)
  /-- R268. Reads the counter named by a selector. -/
  | ctr (c : BitVec 1) (g : BitVec 2) (d a : BitVec 7)
  /-- R269. Reads the package time base. -/
  | tick (c : BitVec 1) (g : BitVec 2) (d : BitVec 7)
  /-- R203. Allocates a range of accumulator tiles and returns a handle or zero. -/
  | mtileAlloc (c : BitVec 1) (g : BitVec 2) (d a : BitVec 7)
  /-- R221. Reads the step counter and state of a handle. -/
  | mprog (c : BitVec 1) (g : BitVec 2) (d a : BitVec 7)
  /-- R154. Calls through a register code pointer and writes the link to pair D. -/
  | callx (g : BitVec 2) (d a : BitVec 7)
  /-- R259. Reads the value a stream would deliver without advancing it. -/
  | speek (c : BitVec 1) (g : BitVec 2) (d a : BitVec 7)
  /-- R259. Reads a stream's current coordinate. -/
  | scrd (c : BitVec 1) (g : BitVec 2) (d a : BitVec 7)
  /-- R259. Reads a stream's position. -/
  | spos (c : BitVec 1) (g : BitVec 2) (d a : BitVec 7)
  /-- R259. Reads which sides of a derived stream are present. -/
  | sin (c : BitVec 1) (g : BitVec 2) (d a : BitVec 7)
  /-- R259. Writes a stream's exhaustion to a predicate. -/
  | sdone (c : BitVec 1) (g : BitVec 2) (p : BitVec 3) (a : BitVec 7)
  /-- R291. Reads a system register into a pair. -/
  | sysrd (c : BitVec 1) (g : BitVec 2) (d a : BitVec 7)
  /-- R182. Loads a sign-extended byte. -/
  | ldS8 (c : BitVec 1) (g : BitVec 2) (d a : BitVec 7) (o : BitVec 5)
  /-- R182. Loads a zero-extended byte. -/
  | ldN8 (c : BitVec 1) (g : BitVec 2) (d a : BitVec 7) (o : BitVec 5)
  /-- R182. Loads a sign-extended halfword. -/
  | ldS16 (c : BitVec 1) (g : BitVec 2) (d a : BitVec 7) (o : BitVec 5)
  /-- R182. Loads a zero-extended halfword. -/
  | ldN16 (c : BitVec 1) (g : BitVec 2) (d a : BitVec 7) (o : BitVec 5)
  /-- R182. Loads a word. -/
  | ldB32 (c : BitVec 1) (g : BitVec 2) (d a : BitVec 7) (o : BitVec 5)
  /-- R182. Loads a pair. -/
  | ldB64 (c : BitVec 1) (g : BitVec 2) (d a : BitVec 7) (o : BitVec 5)
  /-- R182. Loads a quad. -/
  | ldB128 (c : BitVec 1) (g : BitVec 2) (d a : BitVec 7) (o : BitVec 5)
  /-- R182. Stores a byte, posted for buffered spaces. -/
  | stB8 (c : BitVec 1) (g : BitVec 2) (d a : BitVec 7) (o : BitVec 5)
  /-- R182. Stores a halfword. -/
  | stB16 (c : BitVec 1) (g : BitVec 2) (d a : BitVec 7) (o : BitVec 5)
  /-- R182. Stores a word. -/
  | stB32 (c : BitVec 1) (g : BitVec 2) (d a : BitVec 7) (o : BitVec 5)
  /-- R182. Stores a pair. -/
  | stB64 (c : BitVec 1) (g : BitVec 2) (d a : BitVec 7) (o : BitVec 5)
  /-- R182. Stores a quad in two store-buffer entries. -/
  | stB128 (c : BitVec 1) (g : BitVec 2) (d a : BitVec 7) (o : BitVec 5)
  /-- R185. Continuation load of a sign-extended byte that ends the segment. -/
  | ldcS8 (g : BitVec 2) (d a : BitVec 7) (o : BitVec 5)
  /-- R185. Continuation load of a zero-extended byte. -/
  | ldcN8 (g : BitVec 2) (d a : BitVec 7) (o : BitVec 5)
  /-- R185. Continuation load of a sign-extended halfword. -/
  | ldcS16 (g : BitVec 2) (d a : BitVec 7) (o : BitVec 5)
  /-- R185. Continuation load of a zero-extended halfword. -/
  | ldcN16 (g : BitVec 2) (d a : BitVec 7) (o : BitVec 5)
  /-- R185. Continuation load of a word. -/
  | ldcB32 (g : BitVec 2) (d a : BitVec 7) (o : BitVec 5)
  /-- R185. Continuation load of a pair. -/
  | ldcB64 (g : BitVec 2) (d a : BitVec 7) (o : BitVec 5)
  /-- R185. Continuation load of a quad. -/
  | ldcB128 (g : BitVec 2) (d a : BitVec 7) (o : BitVec 5)
  /-- R184. Acquire load of a word after the required acknowledgements. -/
  | ldAcqB32 (c : BitVec 1) (g : BitVec 2) (d a : BitVec 7) (o : BitVec 5)
  /-- R184. Acquire load of a pair, single-copy atomic. -/
  | ldAcqB64 (c : BitVec 1) (g : BitVec 2) (d a : BitVec 7) (o : BitVec 5)
  /-- R184. Release store of a word sent to its home after the release conditions. -/
  | stRelB32 (c : BitVec 1) (g : BitVec 2) (d a : BitVec 7) (o : BitVec 5)
  /-- R184. Release store of a pair. -/
  | stRelB64 (c : BitVec 1) (g : BitVec 2) (d a : BitVec 7) (o : BitVec 5)
  /-- R130. Branches by a signed packet displacement. -/
  | br (g : BitVec 2) (x : BitVec 22)
  /-- R130. Branches by a displacement and writes the link to d62. -/
  | call (g : BitVec 2) (x : BitVec 22)
  /-- R155. Transfers control to a return code pointer. -/
  | ret (g : BitVec 2) (a : BitVec 7)
  /-- R155. Transfers control to a register code pointer. -/
  | jmpx (g : BitVec 2) (a : BitVec 7)
  /-- R157. Requests code lines into I-L2 and I-L1 without waiting. -/
  | ipf (c : BitVec 1) (g : BitVec 2) (a b : BitVec 7)
  /-- R158. Raises USER_TRAP in each guarded-on lane. -/
  | trap (g : BitVec 2)
  /-- R160. Ends the handler and resumes at the trapping run. -/
  | tretRedo (g : BitVec 2) (a b : BitVec 7)
  /-- R160. Ends the handler and resumes at the packet after the trapping packet. -/
  | tretSkip (g : BitVec 2) (a b : BitVec 7)
  /-- R158. Raises BREAKPOINT, or halts the thread under a debugger. -/
  | brk (g : BitVec 2)
  /-- R195. Ends the segment at a gang barrier. -/
  | bar (g : BitVec 2)
  /-- R195. Ends the segment at a cluster barrier. -/
  | barc (g : BitVec 2)
  /-- R195. Ends the segment at a cohort-launch barrier. -/
  | barx (g : BitVec 2)
  /-- R196. Continues if at most n sealed batches are unfinished, else ends the segment. -/
  | waitBatch (g : BitVec 2) (n : BitVec 7)
  /-- R197. Ends the segment and bins the record at once. -/
  | yield (g : BitVec 2)
  /-- R199. Ends the segment and forwards the record to another core or package. -/
  | fwd (g : BitVec 2) (a b : BitVec 7)
  /-- R199. Forwards the record and later adds 1 to a gang-local word on acceptance. -/
  | fwdAck (g : BitVec 2) (a b : BitVec 7)
  /-- R200. Appends a 64-byte command to a device-produced user queue after a release. -/
  | enq (c : BitVec 1) (g : BitVec 2) (a b : BitVec 7)
  /-- R198. Ends the thread without a record. -/
  | exit (g : BitVec 2)
  /-- R200. Submits a child launch record after a release. -/
  | launch (c : BitVec 1) (g : BitVec 2) (a : BitVec 7)
  /-- R200. Adds a value to a 64-bit signal word as a release reduction. -/
  | signal (c : BitVec 1) (g : BitVec 2) (a b : BitVec 7)
  /-- R231. Issues a tensor-box copy between tensor and tile. -/
  | cpT (c : BitVec 1) (g : BitVec 2) (n : BitVec 3) (m : BitVec 5)
  /-- R233. Issues a row gather into a tile. -/
  | cpG (c : BitVec 1) (g : BitVec 2) (n : BitVec 3) (b : BitVec 7)
  /-- R233. Issues a row scatter from a tile. -/
  | cpS (c : BitVec 1) (g : BitVec 2) (n : BitVec 3) (b : BitVec 7)
  /-- R235. Issues a linear copy. -/
  | cpL (c : BitVec 1) (g : BitVec 2) (n : BitVec 3)
  /-- R236. Requests lines into the die's L2; no slot, no batch. -/
  | cpPf (c : BitVec 1) (g : BitVec 2) (a b : BitVec 7)
  /-- R235. Issues a reducing copy of word-wise atomic additions. -/
  | cpRed (c : BitVec 1) (g : BitVec 2) (n : BitVec 3)
  /-- R209. Issues a collective matrix tile task into the open batch. -/
  | mtask (c : BitVec 1) (g : BitVec 2) (a : BitVec 7) (n : BitVec 2)
  /-- R217. Issues a bitmap-sparse matrix tile task. -/
  | mtaskSb (c : BitVec 1) (g : BitVec 2) (a : BitVec 7) (n : BitVec 2)
  /-- R204. Frees a tile-store handle. -/
  | mtileFree (c : BitVec 1) (g : BitVec 2) (a : BitVec 7)
  /-- R223. Issues a load of a tile region from memory. -/
  | mtileLd (c : BitVec 1) (g : BitVec 2) (a : BitVec 7) (n : BitVec 3)
  /-- R223. Issues a store of a tile region to memory. -/
  | mtileSt (c : BitVec 1) (g : BitVec 2) (a : BitVec 7) (n : BitVec 3)
  /-- R223. Issues the zeroing of a tile region. -/
  | mtileZero (c : BitVec 1) (g : BitVec 2) (a : BitVec 7) (n : BitVec 3)
  /-- R223. Issues a converting store of a tile region. -/
  | mtileCvt (c : BitVec 1) (g : BitVec 2) (a : BitVec 7) (n : BitVec 3)
  /-- R215. Places a memory-ordering marker in a handle's queue. -/
  | mfence (c : BitVec 1) (g : BitVec 2) (a : BitVec 7)
  /-- R261. Unbinds a stream, returning slaves of a derived stream to level role. -/
  | sfree (c : BitVec 1) (g : BitVec 2) (a : BitVec 7)
  /-- R260. Skips a stream to the first coordinate at least v. -/
  | sskip (c : BitVec 1) (g : BitVec 2) (a b : BitVec 7)
  /-- R260. Advances a stream n elements. -/
  | sskipn (c : BitVec 1) (g : BitVec 2) (a b : BitVec 7)
  /-- R190. Waits for release conditions and acknowledgements, then acts as an acquire. -/
  | fence (c : BitVec 1) (g : BitVec 2)
  /-- R191. Prefetches data lines into L1 and L2 without trapping. -/
  | pfd (c : BitVec 1) (g : BitVec 2) (a b : BitVec 7)
  /-- R192. Asks that pages be re-homed onto the issuing die's HBM. -/
  | claim (c : BitVec 1) (g : BitVec 2) (a b : BitVec 7)
  /-- R291. Writes a system register without behaviour of its own, such as CTXCTL. -/
  | syswr (c : BitVec 1) (g : BitVec 2) (a b : BitVec 7)
  /-- R292. A syswr to MODE judged as a mode request, possibly waiting for a clock change. -/
  | modeRequest (c : BitVec 1) (g : BitVec 2) (a b : BitVec 7)
  /-- R291. A syswr to CTRZERO that zeroes the core's counters from 0x0100. -/
  | ctrzero (c : BitVec 1) (g : BitVec 2) (a b : BitVec 7)
  /-- R293. Loads a segment register of the gang from a descriptor. -/
  | segld (c : BitVec 1) (g : BitVec 2) (a b : BitVec 7)
  /-- R295. Discards a code range from every instruction cache of the package. -/
  | icinv (c : BitVec 1) (g : BitVec 2) (a b : BitVec 7)
  /-- R296. Invalidates translations of a context and waits for their users. -/
  | tlbinv (c : BitVec 1) (g : BitVec 2) (a b : BitVec 7)
  /-- R294. Sets the thread's effective context tag. -/
  | ctxtag (c : BitVec 1) (g : BitVec 2) (a : BitVec 7)
  /-- R302. Freezes the package as the FREEZE pin does. -/
  | halt (c : BitVec 1) (g : BitVec 2)
  /-- R298. Publishes a code module of the context, making its entry LIVE. -/
  | modPub (c : BitVec 1) (g : BitVec 2) (a b : BitVec 7)
  /-- R299. Retires a code module, optionally by force. -/
  | modRet (c : BitVec 1) (g : BitVec 2) (a b : BitVec 7)
  /-- R300. Extends a core's record pool with reserve frames. -/
  | poolx (c : BitVec 1) (g : BitVec 2) (a b : BitVec 7)
  /-- R301. Sets a context's pre-emption deadline. -/
  | pqSet (c : BitVec 1) (g : BitVec 2) (a b : BitVec 7)
  /-- R35. The picker forms an issue group and issues one run, checking its encoding. -/
  | runIssue (core : Nat)
  /-- R12. A fetched code line arrives and fills every level it missed. -/
  | codeLineFill (core : Nat)
  /-- R180. Load data returns and is written into the thread's window. -/
  | loadDataReturn (launch thread : Nat)
  /-- R322. A translation walker resolves a missed address through the page tables. -/
  | tlbMissWalk (core tag va : Nat)
  /-- R111. The oldest store-buffer entry is accepted by the die's L2. -/
  | storeBufferDrain (launch thread : Nat)
  /-- R118. A peer acknowledgement lowers PEERACK. -/
  | peerAck (launch thread count : Nat)
  /-- R113. A home acknowledges a release, ownership registration or other-die store. -/
  | releaseAck (launch thread : Nat) (kind : AckKind)
  /-- R26. A bin's oldest record reaches the drain threshold. -/
  | binReadyByAge (core launch gang packet pos : Nat)
  /-- R27. The Teasel drains one ready bin as an umbel, allocating windows. -/
  | drain (core : Nat)
  /-- R31. The compactor moves a live window in idle bank cycles. -/
  | compactorMove (core : Nat)
  /-- R20. A freed pool slot lets a stalled thread complete its segment end. -/
  | poolSlotFreed (launch thread : Nat)
  /-- R195. A thread's arrival is counted once its release conditions hold. -/
  | barrierArrival (launch thread : Nat)
  /-- R185. The deferred ldc load is performed into the record, which is then binned. -/
  | ldcLoad (launch thread : Nat)
  /-- R198. After batches, handles and stores drain, an exiting thread is counted as exited. -/
  | threadExit (launch thread : Nat)
  /-- R240. A copy's class queue starts it after the thread's stores drain. -/
  | copyStart (copy : Nat)
  /-- R238. A copy completes all accesses and frees its slot. -/
  | copyComplete (copy : Nat)
  /-- R214. The tile scheduler dispatches a ready operation to an engine. -/
  | taskDispatch (core : Nat)
  /-- R219. An engine executes or skips one step and advances the step counter. -/
  | taskStep (op : Nat)
  /-- R214. A tile operation completes its tile effects and memory accesses. -/
  | tileOpComplete (op : Nat)
  /-- R204. After a freed handle's operations complete its tiles are zeroed and freed. -/
  | tileRangeRelease (core gen : Nat)
  /-- R192. A claimed page begins its move once prior accesses are performed. -/
  | pageMove (tag page : Nat)
  /-- R192. A page move ends and waiting accesses proceed at the new home. -/
  | pageMoveComplete (tag page : Nat)
  /-- R348. The source asks the destination for a pool slot and tile ranges. -/
  | forwardRequest (launch thread : Nat)
  /-- R348. A destination refusal leaves the record in the source pool. -/
  | forwardNack (launch thread : Nat)
  /-- R349. The back-off delay after a refusal expires and the request is retried. -/
  | forwardRetry (launch thread : Nat)
  /-- R349. The 16th refusal makes a trap record or bins the record on the source. -/
  | poolExhausted (launch thread : Nat)
  /-- R348. On a grant the source sends the record and evacuated tile contents. -/
  | forwardGrant (launch thread : Nat)
  /-- R42. The destination Teasel accepts a forwarded record, rebinding handles. -/
  | recordAccept (launch thread : Nat)
  /-- R199. On acceptance the source adds 1 to the fwd.ack gang-local word. -/
  | fwdAckAdd (launch thread : Nat)
  /-- R327. The first item for a page posts an entry to the F-die fault queue when room exists. -/
  | faultQueuePost (fdie : Nat)
  /-- R328. The command processor re-reads the fault queue head word. -/
  | faultQueueHeadRead (fdie : Nat)
  /-- R309. A host write of a new tail to a queue's kick page. -/
  | kick (part idx offset : Nat) (tail : BitVec 64)
  /-- R315. A pending queue's ageing timer raises its priority and wakes a control core. -/
  | queueAgeingWake (part idx : Nat)
  /-- R311. A NOP command is consumed. -/
  | cmdNop (part idx : Nat)
  /-- R311. A LAUNCH command accepts a launch into the current job. -/
  | cmdLaunch (part idx : Nat)
  /-- R311. After earlier commands complete, a SIGNAL command adds to a word. -/
  | cmdSignal (part idx : Nat)
  /-- R311. A WAIT command stops consumption until its word satisfies its condition. -/
  | cmdWait (part idx : Nat)
  /-- R311. A BARRIER-JOB command waits for earlier commands and starts a new job. -/
  | cmdBarrierJob (part idx : Nat)
  /-- R320. The work distributor reserves and commits a unit of gangs on cores. -/
  | admission (fdie : Nat)
  /-- R320. The back-off after a failed reservation expires and the unit is retried. -/
  | admissionRetry (launch : Nat)
  /-- R318. A unit held at priority 15 for A cycles blocks other admissions. -/
  | admissionAgeingLock (launch : Nat)
  /-- R307. A launch completes, writing STATUS, adding DONESIG and releasing dependents. -/
  | launchComplete (launch : Nat)
  /-- R341. Milliner command that pre-empts a context. -/
  | preempt (tag : Nat)
  /-- R343. The stop walk reaches a launch, raising preq and starting its deadline. -/
  | stopWalkReach (launch : Nat)
  /-- R341. A launch's pre-emption deadline expires. -/
  | preemptDeadline (launch : Nat)
  /-- R346. Milliner command that resumes a stopped context. -/
  | resume (tag : Nat)
  /-- R351. Milliner command that removes a context. -/
  | remove (tag : Nat)
  /-- R351. A unit resets for a removed context once its in-flight count reaches zero. -/
  | removalUnitReset (tag : Nat)
  /-- R347. Milliner command that moves a record to another core. -/
  | moverec (tag launch thread core : Nat)
  /-- R350. Milliner command that moves a whole gang. -/
  | movegang (tag launch gang c0 c1 c2 c3 : Nat)
  /-- R315. Milliner command that maps a queue into a hardware slot. -/
  | mapq (fdie slot qcb part idx : Nat)
  /-- R315. Milliner command that unmaps a queue and saves its QCB. -/
  | unmapq (fdie slot save : Nat)
  /-- R316. Milliner command that sets a partition's ageing interval. -/
  | setage (part a : Nat)
  /-- R384. Milliner command that sets the modes while no context is resident. -/
  | setmode (value : BitVec 64)
  /-- R367. Milliner command that performs a Felt clock cut. -/
  | clkcut
  /-- R353. Milliner command that attaches a debugger holding breakpoints. -/
  | debugAttach (tag : Nat)
  /-- R355. Milliner command that detaches the debugger and continues held records. -/
  | debugDetach (tag : Nat)
  /-- R355. Releases a held record to continue after the brk packet. -/
  | releaseContinue (tag launch thread edit : Nat)
  /-- R355. Releases a held record as an ordinary BREAKPOINT trap. -/
  | releaseDeliver (tag launch thread edit : Nat)
  /-- R329. Releases every fault-bin item of a page to re-execute. -/
  | disposeRetry (tag launch core : Nat) (fault : BitVec 64)
  /-- R329. Gives the context a context fault for a fault entry. -/
  | disposeKill (tag launch core : Nat) (fault : BitVec 64)
  /-- R342. Milliner command that creates a context with tag, TBASE and save area. -/
  | createctx (tag part savelen tbase savebase : Nat)
  /-- R328. Milliner command that sets the F-die fault queue. -/
  | setfq (fdie fqlog base head : Nat)
  /-- R354. A debugger query returns the state of a held thread at one instant. -/
  | debugQuery (launch thread : Nat)
  /-- R356. The FREEZE pin stops every clock and holds all state. -/
  | freeze (asserted : Bool)
  /-- R356. A test access port read returns stored bits and check bits. -/
  | tapReadout (address : Nat)
  /-- R379. Package reset discards state and runs verified bring-up. -/
  | packageReset (images : BootImages)
  /-- R383. A thermal trip changes at once to the fastest mode within the limit. -/
  | thermalTrip (watts : Nat)
  /-- R383. A new clock mode comes into force and a waiting MODE write completes. -/
  | clockChangeDone
  /-- R385. Management reads die error counters, temperatures and rail currents. -/
  | mgmtReadStatus (request : MgmtRequest) (item : Nat)
  /-- R383. Management sets the power limit. -/
  | mgmtSetPlimit (request : MgmtRequest) (watts : Nat)
  /-- R356. Management freezes the package. -/
  | mgmtFreeze (request : MgmtRequest)
  /-- R357. Management thaw restarts every clock. -/
  | mgmtThaw (request : MgmtRequest)
  /-- R356. Management read-out of frozen state. -/
  | mgmtReadout (request : MgmtRequest) (address : Nat)
  /-- R385. Management request for package reset. -/
  | mgmtPackageReset (request : MgmtRequest) (images : BootImages)
  /-- R381. SPDM GET_VERSION message. -/
  | getVersion
  /-- R381. SPDM GET_CAPABILITIES message. -/
  | getCapabilities
  /-- R381. SPDM NEGOTIATE_ALGORITHMS message. -/
  | negotiateAlgorithms
  /-- R381. SPDM GET_DIGESTS message. -/
  | getDigests
  /-- R381. SPDM GET_CERTIFICATE message. -/
  | getCertificate (slot : Nat)
  /-- R381. SPDM CHALLENGE message. -/
  | challenge (nonce : Nat)
  /-- R381. SPDM GET_MEASUREMENTS message. -/
  | getMeasurements (index : Nat)
  /-- R362. A Felt packet arrives and is delivered or held. -/
  | feltPacketReceive (src dst : Nat)
  /-- R362. A held packet becomes deliverable and is delivered. -/
  | heldPacketDeliver (dst : Nat)
  /-- R359. A flit failing its CRC is retransmitted with later flits in order. -/
  | flitRetransmit (a b : Nat)
  /-- R359. After 64 failed retransmissions the link is declared failed. -/
  | linkFailed (a b : Nat)
  /-- R364. A die sends a clock beacon to every live die. -/
  | clockBeacon (die : Nat)
  /-- R364. A destination acknowledges its V vector. -/
  | vAck (die : Nat)
  /-- R364. No beacon for 1,024 cycles makes a die request a clock cut. -/
  | beaconTimeout (die silent : Nat)
  /-- R366. A die is removed and surviving clocks exclude it. -/
  | dieRemove (die : Nat)
  /-- R368. A split into two groups fences the losing dies. -/
  | networkSplit
  /-- R370. A Renhar packet arrives at a router or destination. -/
  | renharPacketReceive (fdie : Nat) (packet : RenharPacket)
  /-- R374. A reconfigured circuit returns and held packets proceed. -/
  | circuitRestored (part peer : Nat)
  /-- R374. A peer is declared lost and dependent contexts take context faults. -/
  | peerLost (part peer : Nat)
  /-- R376. An incoming RDMA WRITE to a registered region. -/
  | rdmaWrite (conn rkey va : Nat) (data : List Byte)
  /-- R376. An incoming RDMA READ of a registered region. -/
  | rdmaRead (conn rkey va length : Nat)
  /-- R376. An incoming SEND delivered to Milliner. -/
  | rdmaSend (conn : Nat) (data : List Byte)
  /-- R375. An incoming atomic request receives an invalid-request NAK. -/
  | rdmaAtomic (conn : Nat)
  /-- R375. A received CNP cuts the connection's injection rate. -/
  | cnpReceive (conn : Nat)
  /-- R375. An ECN-marked packet makes the port return a CNP. -/
  | ecnPacket (conn : Nat)
  /-- R375. 100 µs without a CNP restores an eighth of line rate. -/
  | rateRestore (conn : Nat)
  /-- R378. A connection entering error unbinds its windows. -/
  | connectionError (conn : Nat)
  /-- R266. Each core cycle advances the cycle count and time base and adds 1 to exactly one of the eleven stall or issue counters. -/
  | coreClockCycle
  /-- R295. Every die acknowledges the discard of a code range, completing a waiting icinv or the discard step of mod.pub. -/
  | icinvComplete (launch thread : Nat)
  /-- R296. Every invalidated translation entry is gone and every access that used one has been performed or parked, completing a waiting tlbinv. -/
  | tlbinvComplete (launch thread : Nat)
  /-- R310. Milliner writes QSTATE := 0 to a stopped queue, which reads the command at HEAD again and resumes consumption. -/
  | queueRestart (part idx : Nat)
  /-- R374. Renhar circuits to a peer go down for reconfiguration, and packets to that peer are held at their source F-die. -/
  | circuitReconfiguration (part peer : Nat)
  /-- R375. A RoCE reliable-connection request arrives and is accepted, or refused when it negotiates a path MTU below 4,096. -/
  | connectionRequest (conn mtu : Nat) (reliable : Bool)
  /-- R375. An IEEE 802.1Q priority flow control frame arrives and pauses or resumes RoCE transmission on its priority. -/
  | priorityFlowControlFrame (priority : Nat) (pause : Bool)
  deriving DecidableEq, Repr

end Sys2Proof
end

