-- ==== Sys2Proof/WellFormed.lean ====
section
/-! DEFINITION. Which instruction terms are words of the machine (06 Table 6-16, check 2, and 10, 11, 12 for the
fields): the value ranges of condition, conversion and rounding codes, the rule that a word which writes only its
latch names no destination register (R125), and the forbidden combinations of Table 6-12. An event is no word. -/

namespace Sys2Proof

/-- The well-formed words: those the encoding can hold and check 2 of Table 6-16 lets through. `iaddi` with the
operand `zero` is `movi` (R149); the words of `syswr` are told apart by their operands (see the assumption log). -/
def Instr.WellFormed : Instr → Prop
  | .iadd _ _ d _ _ w => (w = 1 → d = 0)
  | .isub _ _ d _ _ w => (w = 1 → d = 0)
  | .imul _ _ d _ _ w => (w = 1 → d = 0)
  | .imulhS32 _ _ d _ _ w => (w = 1 → d = 0)
  | .imulhN32 _ _ d _ _ w => (w = 1 → d = 0)
  | .imad _ _ d _ _ w => (w = 1 → d = 0)
  | .iadd64 _ _ d _ _ w => (w = 1 → d = 0)
  | .isub64 _ _ d _ _ w => (w = 1 → d = 0)
  | .and _ _ d _ _ w => (w = 1 → d = 0)
  | .or _ _ d _ _ w => (w = 1 → d = 0)
  | .xor _ _ d _ _ w => (w = 1 → d = 0)
  | .andn _ _ d _ _ w => (w = 1 → d = 0)
  | .shl _ _ d _ _ w => (w = 1 → d = 0)
  | .shr _ _ d _ _ w => (w = 1 → d = 0)
  | .sar _ _ d _ _ w => (w = 1 → d = 0)
  | .rot _ _ d _ _ w => (w = 1 → d = 0)
  | .iminS32 _ _ d _ _ w => (w = 1 → d = 0)
  | .iminN32 _ _ d _ _ w => (w = 1 → d = 0)
  | .imaxS32 _ _ d _ _ w => (w = 1 → d = 0)
  | .imaxN32 _ _ d _ _ w => (w = 1 → d = 0)
  | .iabs _ _ d _ w => (w = 1 → d = 0)
  | .iaddsS32 _ _ d _ _ w => (w = 1 → d = 0)
  | .iaddsN32 _ _ d _ _ w => (w = 1 → d = 0)
  | .isubsS32 _ _ d _ _ w => (w = 1 → d = 0)
  | .isubsN32 _ _ d _ _ w => (w = 1 → d = 0)
  | .idivS32 _ _ d _ _ w => (w = 1 → d = 0)
  | .idivN32 _ _ d _ _ w => (w = 1 → d = 0)
  | .iremS32 _ _ d _ _ w => (w = 1 → d = 0)
  | .iremN32 _ _ d _ _ w => (w = 1 → d = 0)
  | .popc _ _ d _ w => (w = 1 → d = 0)
  | .clz _ _ d _ w => (w = 1 → d = 0)
  | .ctz _ _ d _ w => (w = 1 → d = 0)
  | .brev _ _ d _ w => (w = 1 → d = 0)
  | .bfeS32 _ _ d _ _ w => (w = 1 → d = 0)
  | .bfeN32 _ _ d _ _ w => (w = 1 → d = 0)
  | .bfi _ _ d _ _ w => (w = 1 → d = 0)
  | .bmsk _ _ d _ _ w => (w = 1 → d = 0)
  | .sel _ _ d _ _ w => (w = 1 → d = 0)
  | .kmov _ _ _ _ => True
  | .cmp _ _ k _ _ _ _ => k ≤ 9
  | .cmpPair _ _ k p _ _ w => k ≤ 9 ∧ (w = 1 ∨ (p = 1 ∨ p = 3 ∨ p = 5))
  | .fcmp _ _ k _ _ _ _ => k ≤ 7
  | .fcmpPair _ _ k p _ _ w => k ≤ 7 ∧ (w = 1 ∨ (p = 1 ∨ p = 3 ∨ p = 5))
  | .pand _ _ d _ _ w => (w = 1 → d = 0)
  | .por _ _ d _ _ w => (w = 1 → d = 0)
  | .pxor _ _ d _ _ w => (w = 1 → d = 0)
  | .pnot _ _ d _ w => (w = 1 → d = 0)
  | .pget _ _ d w => (w = 1 → d = 0)
  | .pset _ _ _ _ _ => True
  | .faddF32 _ _ d _ _ w => (w = 1 → d = 0)
  | .faddBf16x2 _ _ d _ _ w => (w = 1 → d = 0)
  | .faddF16x2 _ _ d _ _ w => (w = 1 → d = 0)
  | .fsubF32 _ _ d _ _ w => (w = 1 → d = 0)
  | .fsubBf16x2 _ _ d _ _ w => (w = 1 → d = 0)
  | .fsubF16x2 _ _ d _ _ w => (w = 1 → d = 0)
  | .fmulF32 _ _ d _ _ w => (w = 1 → d = 0)
  | .fmulBf16x2 _ _ d _ _ w => (w = 1 → d = 0)
  | .fmulF16x2 _ _ d _ _ w => (w = 1 → d = 0)
  | .ffmaF32 _ _ d _ _ w => (w = 1 → d = 0)
  | .ffmaBf16x2 _ _ d _ _ w => (w = 1 → d = 0)
  | .ffmaF16x2 _ _ d _ _ w => (w = 1 → d = 0)
  | .fminF32 _ _ d _ _ w => (w = 1 → d = 0)
  | .fminBf16x2 _ _ d _ _ w => (w = 1 → d = 0)
  | .fminF16x2 _ _ d _ _ w => (w = 1 → d = 0)
  | .fmaxF32 _ _ d _ _ w => (w = 1 → d = 0)
  | .fmaxBf16x2 _ _ d _ _ w => (w = 1 → d = 0)
  | .fmaxF16x2 _ _ d _ _ w => (w = 1 → d = 0)
  | .fnegF32 _ _ d _ w => (w = 1 → d = 0)
  | .fnegX2 _ _ d _ w => (w = 1 → d = 0)
  | .fabsF32 _ _ d _ w => (w = 1 → d = 0)
  | .fabsX2 _ _ d _ w => (w = 1 → d = 0)
  | .qtsh _ _ d _ _ w => (w = 1 → d = 0)
  | .lxAt _ _ d _ _ w => (w = 1 → d = 0)
  | .lxBelow _ _ d _ _ w => (w = 1 → d = 0)
  | .lxAbove _ _ d _ _ w => (w = 1 → d = 0)
  | .lxMirror _ _ d _ _ w => (w = 1 → d = 0)
  | .sisect _ _ _ _ _ => True
  | .sunion _ _ _ _ _ => True
  | .sbind _ _ _ _ _ => True
  | .iaddi _ _ _ a _ => a ≠ 80
  | .movi _ _ _ _ => True
  | .imuli _ _ _ _ _ => True
  | .andi _ _ _ _ _ => True
  | .ori _ _ _ _ _ => True
  | .xori _ _ _ _ _ => True
  | .shfiShl _ _ _ _ _ => True
  | .shfiShr _ _ _ _ _ => True
  | .shfiSar _ _ _ _ _ => True
  | .shfiRot _ _ _ _ _ => True
  | .cmpi _ _ k _ _ _ => k ≤ 9
  | .cmpiPair _ _ k p _ _ => k ≤ 9 ∧ (p = 1 ∨ p = 3 ∨ p = 5)
  | .faddiF32 _ _ _ _ _ => True
  | .faddiBf16x2 _ _ _ _ _ => True
  | .faddiF16x2 _ _ _ _ _ => True
  | .fmuliF32 _ _ _ _ _ => True
  | .fmuliBf16x2 _ _ _ _ _ => True
  | .fmuliF16x2 _ _ _ _ _ => True
  | .ldl32 _ _ _ _ => True
  | .ldl64 _ _ _ _ => True
  | .brl _ _ => True
  | .calll _ _ => True
  | .fcvt _ _ _ _ k r => k ≤ 15 ∧ r ≤ 4 ∧ ((k = 2 ∨ k = 3 ∨ k = 6 ∨ k = 7 ∨ k = 9) → r = 0)
  | .frcp _ _ _ _ t => t ≠ 3
  | .frsq _ _ _ _ t => t ≠ 3
  | .fsqrt _ _ _ _ t => t ≠ 3
  | .fexp2 _ _ _ _ t => t ≠ 3
  | .flog2 _ _ _ _ t => t ≠ 3
  | .fsin _ _ _ _ t => t ≠ 3
  | .fcos _ _ _ _ t => t ≠ 3
  | .ftanh _ _ _ _ t => t ≠ 3
  | .lany _ _ _ _ => True
  | .lall _ _ _ _ => True
  | .lmask _ _ _ _ => True
  | .lsum _ _ _ _ => True
  | .lminS32 _ _ _ _ => True
  | .lminN32 _ _ _ _ => True
  | .lmaxS32 _ _ _ _ => True
  | .lmaxN32 _ _ _ _ => True
  | .cdet _ _ _ _ => True
  | .lfirst _ _ _ => True
  | .atom _ _ _ _ _ w n => n ≤ 11 ∧ (w = 1 → n ≠ 10 ∧ n ≠ 11)
  | .red _ _ _ _ _ w n => n ≤ 11 ∧ (w = 1 → n ≠ 10 ∧ n ≠ 11) ∧ n ≠ 8 ∧ n ≠ 9
  | .nop _ _ => True
  | .seal _ _ _ => True
  | .batchBytes _ _ _ _ => True
  | .ctr _ _ _ _ => True
  | .tick _ _ _ => True
  | .mtileAlloc _ _ _ _ => True
  | .mprog _ _ _ _ => True
  | .callx _ _ _ => True
  | .speek _ _ _ _ => True
  | .scrd _ _ _ _ => True
  | .spos _ _ _ _ => True
  | .sin _ _ _ _ => True
  | .sdone _ _ _ _ => True
  | .sysrd _ _ _ _ => True
  | .ldS8 _ _ _ _ _ => True
  | .ldN8 _ _ _ _ _ => True
  | .ldS16 _ _ _ _ _ => True
  | .ldN16 _ _ _ _ _ => True
  | .ldB32 _ _ _ _ _ => True
  | .ldB64 _ _ _ _ _ => True
  | .ldB128 _ _ _ _ _ => True
  | .stB8 _ _ _ _ _ => True
  | .stB16 _ _ _ _ _ => True
  | .stB32 _ _ _ _ _ => True
  | .stB64 _ _ _ _ _ => True
  | .stB128 _ _ _ _ _ => True
  | .ldcS8 _ _ _ _ => True
  | .ldcN8 _ _ _ _ => True
  | .ldcS16 _ _ _ _ => True
  | .ldcN16 _ _ _ _ => True
  | .ldcB32 _ _ _ _ => True
  | .ldcB64 _ _ _ _ => True
  | .ldcB128 _ _ _ _ => True
  | .ldAcqB32 _ _ _ _ _ => True
  | .ldAcqB64 _ _ _ _ _ => True
  | .stRelB32 _ _ _ _ _ => True
  | .stRelB64 _ _ _ _ _ => True
  | .br _ _ => True
  | .call _ _ => True
  | .ret _ _ => True
  | .jmpx _ _ => True
  | .ipf _ _ _ _ => True
  | .trap _ => True
  | .tretRedo _ _ _ => True
  | .tretSkip _ _ _ => True
  | .brk _ => True
  | .bar _ => True
  | .barc _ => True
  | .barx _ => True
  | .waitBatch _ _ => True
  | .yield _ => True
  | .fwd _ _ _ => True
  | .fwdAck _ _ _ => True
  | .enq _ _ _ _ => True
  | .exit _ => True
  | .launch _ _ _ => True
  | .signal _ _ _ _ => True
  | .cpT _ _ _ _ => True
  | .cpG _ _ _ _ => True
  | .cpS _ _ _ _ => True
  | .cpL _ _ _ => True
  | .cpPf _ _ _ _ => True
  | .cpRed _ _ _ => True
  | .mtask _ _ _ _ => True
  | .mtaskSb _ _ _ _ => True
  | .mtileFree _ _ _ => True
  | .mtileLd _ _ _ _ => True
  | .mtileSt _ _ _ _ => True
  | .mtileZero _ _ _ _ => True
  | .mtileCvt _ _ _ _ => True
  | .mfence _ _ _ => True
  | .sfree _ _ _ => True
  | .sskip _ _ _ _ => True
  | .sskipn _ _ _ _ => True
  | .fence _ _ => True
  | .pfd _ _ _ _ => True
  | .claim _ _ _ _ => True
  | .syswr _ _ a b => b ≠ 81 ∧ a ≠ 81
  | .modeRequest _ _ _ b => b = 81
  | .ctrzero _ _ a b => b ≠ 81 ∧ a = 81
  | .segld _ _ _ _ => True
  | .icinv _ _ _ _ => True
  | .tlbinv _ _ _ _ => True
  | .ctxtag _ _ _ => True
  | .halt _ _ => True
  | .modPub _ _ _ _ => True
  | .modRet _ _ _ _ => True
  | .poolx _ _ _ _ => True
  | .pqSet _ _ _ _ => True
  | .runIssue _ => False
  | .codeLineFill _ => False
  | .loadDataReturn _ _ => False
  | .tlbMissWalk _ _ _ => False
  | .storeBufferDrain _ _ => False
  | .peerAck _ _ _ => False
  | .releaseAck _ _ _ => False
  | .binReadyByAge _ _ _ _ _ => False
  | .drain _ => False
  | .compactorMove _ => False
  | .poolSlotFreed _ _ => False
  | .barrierArrival _ _ => False
  | .ldcLoad _ _ => False
  | .threadExit _ _ => False
  | .copyStart _ => False
  | .copyComplete _ => False
  | .taskDispatch _ => False
  | .taskStep _ => False
  | .tileOpComplete _ => False
  | .tileRangeRelease _ _ => False
  | .pageMove _ _ => False
  | .pageMoveComplete _ _ => False
  | .forwardRequest _ _ => False
  | .forwardNack _ _ => False
  | .forwardRetry _ _ => False
  | .poolExhausted _ _ => False
  | .forwardGrant _ _ => False
  | .recordAccept _ _ => False
  | .fwdAckAdd _ _ => False
  | .faultQueuePost _ => False
  | .faultQueueHeadRead _ => False
  | .kick _ _ _ _ => False
  | .queueAgeingWake _ _ => False
  | .cmdNop _ _ => False
  | .cmdLaunch _ _ => False
  | .cmdSignal _ _ => False
  | .cmdWait _ _ => False
  | .cmdBarrierJob _ _ => False
  | .admission _ => False
  | .admissionRetry _ => False
  | .admissionAgeingLock _ => False
  | .launchComplete _ => False
  | .preempt _ => False
  | .stopWalkReach _ => False
  | .preemptDeadline _ => False
  | .resume _ => False
  | .remove _ => False
  | .removalUnitReset _ => False
  | .moverec _ _ _ _ => False
  | .movegang _ _ _ _ _ _ _ => False
  | .mapq _ _ _ _ _ => False
  | .unmapq _ _ _ => False
  | .setage _ _ => False
  | .setmode _ => False
  | .clkcut => False
  | .debugAttach _ => False
  | .debugDetach _ => False
  | .releaseContinue _ _ _ _ => False
  | .releaseDeliver _ _ _ _ => False
  | .disposeRetry _ _ _ _ => False
  | .disposeKill _ _ _ _ => False
  | .createctx _ _ _ _ _ => False
  | .setfq _ _ _ _ => False
  | .debugQuery _ _ => False
  | .freeze _ => False
  | .tapReadout _ => False
  | .packageReset _ => False
  | .thermalTrip _ => False
  | .clockChangeDone => False
  | .mgmtReadStatus _ _ => False
  | .mgmtSetPlimit _ _ => False
  | .mgmtFreeze _ => False
  | .mgmtThaw _ => False
  | .mgmtReadout _ _ => False
  | .mgmtPackageReset _ _ => False
  | .getVersion => False
  | .getCapabilities => False
  | .negotiateAlgorithms => False
  | .getDigests => False
  | .getCertificate _ => False
  | .challenge _ => False
  | .getMeasurements _ => False
  | .feltPacketReceive _ _ => False
  | .heldPacketDeliver _ => False
  | .flitRetransmit _ _ => False
  | .linkFailed _ _ => False
  | .clockBeacon _ => False
  | .vAck _ => False
  | .beaconTimeout _ _ => False
  | .dieRemove _ => False
  | .networkSplit => False
  | .renharPacketReceive _ _ => False
  | .circuitRestored _ _ => False
  | .peerLost _ _ => False
  | .rdmaWrite _ _ _ _ => False
  | .rdmaRead _ _ _ _ => False
  | .rdmaSend _ _ => False
  | .rdmaAtomic _ => False
  | .cnpReceive _ => False
  | .ecnPacket _ => False
  | .rateRestore _ => False
  | .connectionError _ => False
  | .coreClockCycle => False
  | .icinvComplete _ _ => False
  | .tlbinvComplete _ _ => False
  | .queueRestart _ _ => False
  | .circuitReconfiguration _ _ => False
  | .connectionRequest _ _ _ => False
  | .priorityFlowControlFrame _ _ => False

/-- The check that the decoder makes. -/
def Instr.wf : Instr → Bool
  | .iadd _ _ d _ _ w => decide ((w = 1 → d = 0))
  | .isub _ _ d _ _ w => decide ((w = 1 → d = 0))
  | .imul _ _ d _ _ w => decide ((w = 1 → d = 0))
  | .imulhS32 _ _ d _ _ w => decide ((w = 1 → d = 0))
  | .imulhN32 _ _ d _ _ w => decide ((w = 1 → d = 0))
  | .imad _ _ d _ _ w => decide ((w = 1 → d = 0))
  | .iadd64 _ _ d _ _ w => decide ((w = 1 → d = 0))
  | .isub64 _ _ d _ _ w => decide ((w = 1 → d = 0))
  | .and _ _ d _ _ w => decide ((w = 1 → d = 0))
  | .or _ _ d _ _ w => decide ((w = 1 → d = 0))
  | .xor _ _ d _ _ w => decide ((w = 1 → d = 0))
  | .andn _ _ d _ _ w => decide ((w = 1 → d = 0))
  | .shl _ _ d _ _ w => decide ((w = 1 → d = 0))
  | .shr _ _ d _ _ w => decide ((w = 1 → d = 0))
  | .sar _ _ d _ _ w => decide ((w = 1 → d = 0))
  | .rot _ _ d _ _ w => decide ((w = 1 → d = 0))
  | .iminS32 _ _ d _ _ w => decide ((w = 1 → d = 0))
  | .iminN32 _ _ d _ _ w => decide ((w = 1 → d = 0))
  | .imaxS32 _ _ d _ _ w => decide ((w = 1 → d = 0))
  | .imaxN32 _ _ d _ _ w => decide ((w = 1 → d = 0))
  | .iabs _ _ d _ w => decide ((w = 1 → d = 0))
  | .iaddsS32 _ _ d _ _ w => decide ((w = 1 → d = 0))
  | .iaddsN32 _ _ d _ _ w => decide ((w = 1 → d = 0))
  | .isubsS32 _ _ d _ _ w => decide ((w = 1 → d = 0))
  | .isubsN32 _ _ d _ _ w => decide ((w = 1 → d = 0))
  | .idivS32 _ _ d _ _ w => decide ((w = 1 → d = 0))
  | .idivN32 _ _ d _ _ w => decide ((w = 1 → d = 0))
  | .iremS32 _ _ d _ _ w => decide ((w = 1 → d = 0))
  | .iremN32 _ _ d _ _ w => decide ((w = 1 → d = 0))
  | .popc _ _ d _ w => decide ((w = 1 → d = 0))
  | .clz _ _ d _ w => decide ((w = 1 → d = 0))
  | .ctz _ _ d _ w => decide ((w = 1 → d = 0))
  | .brev _ _ d _ w => decide ((w = 1 → d = 0))
  | .bfeS32 _ _ d _ _ w => decide ((w = 1 → d = 0))
  | .bfeN32 _ _ d _ _ w => decide ((w = 1 → d = 0))
  | .bfi _ _ d _ _ w => decide ((w = 1 → d = 0))
  | .bmsk _ _ d _ _ w => decide ((w = 1 → d = 0))
  | .sel _ _ d _ _ w => decide ((w = 1 → d = 0))
  | .kmov _ _ _ _ => true
  | .cmp _ _ k _ _ _ _ => decide (k ≤ 9)
  | .cmpPair _ _ k p _ _ w => decide (k ≤ 9 ∧ (w = 1 ∨ (p = 1 ∨ p = 3 ∨ p = 5)))
  | .fcmp _ _ k _ _ _ _ => decide (k ≤ 7)
  | .fcmpPair _ _ k p _ _ w => decide (k ≤ 7 ∧ (w = 1 ∨ (p = 1 ∨ p = 3 ∨ p = 5)))
  | .pand _ _ d _ _ w => decide ((w = 1 → d = 0))
  | .por _ _ d _ _ w => decide ((w = 1 → d = 0))
  | .pxor _ _ d _ _ w => decide ((w = 1 → d = 0))
  | .pnot _ _ d _ w => decide ((w = 1 → d = 0))
  | .pget _ _ d w => decide ((w = 1 → d = 0))
  | .pset _ _ _ _ _ => true
  | .faddF32 _ _ d _ _ w => decide ((w = 1 → d = 0))
  | .faddBf16x2 _ _ d _ _ w => decide ((w = 1 → d = 0))
  | .faddF16x2 _ _ d _ _ w => decide ((w = 1 → d = 0))
  | .fsubF32 _ _ d _ _ w => decide ((w = 1 → d = 0))
  | .fsubBf16x2 _ _ d _ _ w => decide ((w = 1 → d = 0))
  | .fsubF16x2 _ _ d _ _ w => decide ((w = 1 → d = 0))
  | .fmulF32 _ _ d _ _ w => decide ((w = 1 → d = 0))
  | .fmulBf16x2 _ _ d _ _ w => decide ((w = 1 → d = 0))
  | .fmulF16x2 _ _ d _ _ w => decide ((w = 1 → d = 0))
  | .ffmaF32 _ _ d _ _ w => decide ((w = 1 → d = 0))
  | .ffmaBf16x2 _ _ d _ _ w => decide ((w = 1 → d = 0))
  | .ffmaF16x2 _ _ d _ _ w => decide ((w = 1 → d = 0))
  | .fminF32 _ _ d _ _ w => decide ((w = 1 → d = 0))
  | .fminBf16x2 _ _ d _ _ w => decide ((w = 1 → d = 0))
  | .fminF16x2 _ _ d _ _ w => decide ((w = 1 → d = 0))
  | .fmaxF32 _ _ d _ _ w => decide ((w = 1 → d = 0))
  | .fmaxBf16x2 _ _ d _ _ w => decide ((w = 1 → d = 0))
  | .fmaxF16x2 _ _ d _ _ w => decide ((w = 1 → d = 0))
  | .fnegF32 _ _ d _ w => decide ((w = 1 → d = 0))
  | .fnegX2 _ _ d _ w => decide ((w = 1 → d = 0))
  | .fabsF32 _ _ d _ w => decide ((w = 1 → d = 0))
  | .fabsX2 _ _ d _ w => decide ((w = 1 → d = 0))
  | .qtsh _ _ d _ _ w => decide ((w = 1 → d = 0))
  | .lxAt _ _ d _ _ w => decide ((w = 1 → d = 0))
  | .lxBelow _ _ d _ _ w => decide ((w = 1 → d = 0))
  | .lxAbove _ _ d _ _ w => decide ((w = 1 → d = 0))
  | .lxMirror _ _ d _ _ w => decide ((w = 1 → d = 0))
  | .sisect _ _ _ _ _ => true
  | .sunion _ _ _ _ _ => true
  | .sbind _ _ _ _ _ => true
  | .iaddi _ _ _ a _ => decide (a ≠ 80)
  | .movi _ _ _ _ => true
  | .imuli _ _ _ _ _ => true
  | .andi _ _ _ _ _ => true
  | .ori _ _ _ _ _ => true
  | .xori _ _ _ _ _ => true
  | .shfiShl _ _ _ _ _ => true
  | .shfiShr _ _ _ _ _ => true
  | .shfiSar _ _ _ _ _ => true
  | .shfiRot _ _ _ _ _ => true
  | .cmpi _ _ k _ _ _ => decide (k ≤ 9)
  | .cmpiPair _ _ k p _ _ => decide (k ≤ 9 ∧ (p = 1 ∨ p = 3 ∨ p = 5))
  | .faddiF32 _ _ _ _ _ => true
  | .faddiBf16x2 _ _ _ _ _ => true
  | .faddiF16x2 _ _ _ _ _ => true
  | .fmuliF32 _ _ _ _ _ => true
  | .fmuliBf16x2 _ _ _ _ _ => true
  | .fmuliF16x2 _ _ _ _ _ => true
  | .ldl32 _ _ _ _ => true
  | .ldl64 _ _ _ _ => true
  | .brl _ _ => true
  | .calll _ _ => true
  | .fcvt _ _ _ _ k r => decide (k ≤ 15 ∧ r ≤ 4 ∧ ((k = 2 ∨ k = 3 ∨ k = 6 ∨ k = 7 ∨ k = 9) → r = 0))
  | .frcp _ _ _ _ t => decide (t ≠ 3)
  | .frsq _ _ _ _ t => decide (t ≠ 3)
  | .fsqrt _ _ _ _ t => decide (t ≠ 3)
  | .fexp2 _ _ _ _ t => decide (t ≠ 3)
  | .flog2 _ _ _ _ t => decide (t ≠ 3)
  | .fsin _ _ _ _ t => decide (t ≠ 3)
  | .fcos _ _ _ _ t => decide (t ≠ 3)
  | .ftanh _ _ _ _ t => decide (t ≠ 3)
  | .lany _ _ _ _ => true
  | .lall _ _ _ _ => true
  | .lmask _ _ _ _ => true
  | .lsum _ _ _ _ => true
  | .lminS32 _ _ _ _ => true
  | .lminN32 _ _ _ _ => true
  | .lmaxS32 _ _ _ _ => true
  | .lmaxN32 _ _ _ _ => true
  | .cdet _ _ _ _ => true
  | .lfirst _ _ _ => true
  | .atom _ _ _ _ _ w n => decide (n ≤ 11 ∧ (w = 1 → n ≠ 10 ∧ n ≠ 11))
  | .red _ _ _ _ _ w n => decide (n ≤ 11 ∧ (w = 1 → n ≠ 10 ∧ n ≠ 11) ∧ n ≠ 8 ∧ n ≠ 9)
  | .nop _ _ => true
  | .seal _ _ _ => true
  | .batchBytes _ _ _ _ => true
  | .ctr _ _ _ _ => true
  | .tick _ _ _ => true
  | .mtileAlloc _ _ _ _ => true
  | .mprog _ _ _ _ => true
  | .callx _ _ _ => true
  | .speek _ _ _ _ => true
  | .scrd _ _ _ _ => true
  | .spos _ _ _ _ => true
  | .sin _ _ _ _ => true
  | .sdone _ _ _ _ => true
  | .sysrd _ _ _ _ => true
  | .ldS8 _ _ _ _ _ => true
  | .ldN8 _ _ _ _ _ => true
  | .ldS16 _ _ _ _ _ => true
  | .ldN16 _ _ _ _ _ => true
  | .ldB32 _ _ _ _ _ => true
  | .ldB64 _ _ _ _ _ => true
  | .ldB128 _ _ _ _ _ => true
  | .stB8 _ _ _ _ _ => true
  | .stB16 _ _ _ _ _ => true
  | .stB32 _ _ _ _ _ => true
  | .stB64 _ _ _ _ _ => true
  | .stB128 _ _ _ _ _ => true
  | .ldcS8 _ _ _ _ => true
  | .ldcN8 _ _ _ _ => true
  | .ldcS16 _ _ _ _ => true
  | .ldcN16 _ _ _ _ => true
  | .ldcB32 _ _ _ _ => true
  | .ldcB64 _ _ _ _ => true
  | .ldcB128 _ _ _ _ => true
  | .ldAcqB32 _ _ _ _ _ => true
  | .ldAcqB64 _ _ _ _ _ => true
  | .stRelB32 _ _ _ _ _ => true
  | .stRelB64 _ _ _ _ _ => true
  | .br _ _ => true
  | .call _ _ => true
  | .ret _ _ => true
  | .jmpx _ _ => true
  | .ipf _ _ _ _ => true
  | .trap _ => true
  | .tretRedo _ _ _ => true
  | .tretSkip _ _ _ => true
  | .brk _ => true
  | .bar _ => true
  | .barc _ => true
  | .barx _ => true
  | .waitBatch _ _ => true
  | .yield _ => true
  | .fwd _ _ _ => true
  | .fwdAck _ _ _ => true
  | .enq _ _ _ _ => true
  | .exit _ => true
  | .launch _ _ _ => true
  | .signal _ _ _ _ => true
  | .cpT _ _ _ _ => true
  | .cpG _ _ _ _ => true
  | .cpS _ _ _ _ => true
  | .cpL _ _ _ => true
  | .cpPf _ _ _ _ => true
  | .cpRed _ _ _ => true
  | .mtask _ _ _ _ => true
  | .mtaskSb _ _ _ _ => true
  | .mtileFree _ _ _ => true
  | .mtileLd _ _ _ _ => true
  | .mtileSt _ _ _ _ => true
  | .mtileZero _ _ _ _ => true
  | .mtileCvt _ _ _ _ => true
  | .mfence _ _ _ => true
  | .sfree _ _ _ => true
  | .sskip _ _ _ _ => true
  | .sskipn _ _ _ _ => true
  | .fence _ _ => true
  | .pfd _ _ _ _ => true
  | .claim _ _ _ _ => true
  | .syswr _ _ a b => decide (b ≠ 81 ∧ a ≠ 81)
  | .modeRequest _ _ _ b => decide (b = 81)
  | .ctrzero _ _ a b => decide (b ≠ 81 ∧ a = 81)
  | .segld _ _ _ _ => true
  | .icinv _ _ _ _ => true
  | .tlbinv _ _ _ _ => true
  | .ctxtag _ _ _ => true
  | .halt _ _ => true
  | .modPub _ _ _ _ => true
  | .modRet _ _ _ _ => true
  | .poolx _ _ _ _ => true
  | .pqSet _ _ _ _ => true
  | .runIssue _ => false
  | .codeLineFill _ => false
  | .loadDataReturn _ _ => false
  | .tlbMissWalk _ _ _ => false
  | .storeBufferDrain _ _ => false
  | .peerAck _ _ _ => false
  | .releaseAck _ _ _ => false
  | .binReadyByAge _ _ _ _ _ => false
  | .drain _ => false
  | .compactorMove _ => false
  | .poolSlotFreed _ _ => false
  | .barrierArrival _ _ => false
  | .ldcLoad _ _ => false
  | .threadExit _ _ => false
  | .copyStart _ => false
  | .copyComplete _ => false
  | .taskDispatch _ => false
  | .taskStep _ => false
  | .tileOpComplete _ => false
  | .tileRangeRelease _ _ => false
  | .pageMove _ _ => false
  | .pageMoveComplete _ _ => false
  | .forwardRequest _ _ => false
  | .forwardNack _ _ => false
  | .forwardRetry _ _ => false
  | .poolExhausted _ _ => false
  | .forwardGrant _ _ => false
  | .recordAccept _ _ => false
  | .fwdAckAdd _ _ => false
  | .faultQueuePost _ => false
  | .faultQueueHeadRead _ => false
  | .kick _ _ _ _ => false
  | .queueAgeingWake _ _ => false
  | .cmdNop _ _ => false
  | .cmdLaunch _ _ => false
  | .cmdSignal _ _ => false
  | .cmdWait _ _ => false
  | .cmdBarrierJob _ _ => false
  | .admission _ => false
  | .admissionRetry _ => false
  | .admissionAgeingLock _ => false
  | .launchComplete _ => false
  | .preempt _ => false
  | .stopWalkReach _ => false
  | .preemptDeadline _ => false
  | .resume _ => false
  | .remove _ => false
  | .removalUnitReset _ => false
  | .moverec _ _ _ _ => false
  | .movegang _ _ _ _ _ _ _ => false
  | .mapq _ _ _ _ _ => false
  | .unmapq _ _ _ => false
  | .setage _ _ => false
  | .setmode _ => false
  | .clkcut => false
  | .debugAttach _ => false
  | .debugDetach _ => false
  | .releaseContinue _ _ _ _ => false
  | .releaseDeliver _ _ _ _ => false
  | .disposeRetry _ _ _ _ => false
  | .disposeKill _ _ _ _ => false
  | .createctx _ _ _ _ _ => false
  | .setfq _ _ _ _ => false
  | .debugQuery _ _ => false
  | .freeze _ => false
  | .tapReadout _ => false
  | .packageReset _ => false
  | .thermalTrip _ => false
  | .clockChangeDone => false
  | .mgmtReadStatus _ _ => false
  | .mgmtSetPlimit _ _ => false
  | .mgmtFreeze _ => false
  | .mgmtThaw _ => false
  | .mgmtReadout _ _ => false
  | .mgmtPackageReset _ _ => false
  | .getVersion => false
  | .getCapabilities => false
  | .negotiateAlgorithms => false
  | .getDigests => false
  | .getCertificate _ => false
  | .challenge _ => false
  | .getMeasurements _ => false
  | .feltPacketReceive _ _ => false
  | .heldPacketDeliver _ => false
  | .flitRetransmit _ _ => false
  | .linkFailed _ _ => false
  | .clockBeacon _ => false
  | .vAck _ => false
  | .beaconTimeout _ _ => false
  | .dieRemove _ => false
  | .networkSplit => false
  | .renharPacketReceive _ _ => false
  | .circuitRestored _ _ => false
  | .peerLost _ _ => false
  | .rdmaWrite _ _ _ _ => false
  | .rdmaRead _ _ _ _ => false
  | .rdmaSend _ _ => false
  | .rdmaAtomic _ => false
  | .cnpReceive _ => false
  | .ecnPacket _ => false
  | .rateRestore _ => false
  | .connectionError _ => false
  | .coreClockCycle => false
  | .icinvComplete _ _ => false
  | .tlbinvComplete _ _ => false
  | .queueRestart _ _ => false
  | .circuitReconfiguration _ _ => false
  | .connectionRequest _ _ _ => false
  | .priorityFlowControlFrame _ _ => false

end Sys2Proof
end

