-- ==== Sys2Proof/Decode.lean ====
section
/-! DEFINITION. The decoder of instruction words, total on any 32 bits, and after it the encoder, both written from
the encoding tables of 06 (Tables 6-2 to 6-13) and of the family chapters. -/

namespace Sys2Proof

/-- Why a word is no instruction: what Table 6-16 finds before it looks at operand codes. `operand` is check 5 for
the operand fields whose legal values are few (the k register of `kmov`, the blocks of copies, tasks and tile
moves); every such word is of pipe class X. -/
inductive Illegal where
  | literal | instruction | operand | chain
  deriving DecidableEq, Repr

/-- Field [lo + n - 1 : lo] of a word. -/
def fld (w : Word) (lo n : Nat) : BitVec n := BitVec.ofNat n (w.toNat / 2 ^ lo)

/-- Field [lo + n - 1 : lo] of a word as a number. -/
def fldn (w : Word) (lo n : Nat) : Nat := w.toNat / 2 ^ lo % 2 ^ n

/-- Takes a candidate only if it is well-formed (Table 6-16, check 2). -/
def checked (i : Instr) : Except Illegal Instr := if i.wf then .ok i else .error .instruction

/-- Takes a candidate only if the fields named are zero (R124). -/
def unusedZero (z : Nat) (i : Instr) : Except Illegal Instr := if z = 0 then checked i else .error .instruction

/-- The word of an ending instruction, whose chain bit must be clear (R121). -/
def ending (w : Word) (z : Nat) (i : Instr) : Except Illegal Instr :=
  if z = 0 then (if fldn w 31 1 = 0 then checked i else .error .chain) else .error .instruction

/-- OP 0x26, `kmov` (R152): B and W zero (check 2); then the destination a k register (check 5). -/
def decode26 (w : Word) : Except Illegal Instr :=
  if fldn w 0 8 = 0 then (if fldn w 20 2 = 3 then checked (.kmov (fld w 31 1) (fld w 22 2) (fld w 15 5) (fld w 8 7)) else .error .operand) else .error .instruction

/-- OP 0x60: `movi` is `iaddi` with the operand `zero` (R149). -/
def decode60 (w : Word) : Except Illegal Instr :=
  if fldn w 8 7 = 80 then checked (.movi (fld w 31 1) (fld w 22 2) (fld w 15 7) (fld w 0 8)) else checked (.iaddi (fld w 31 1) (fld w 22 2) (fld w 15 7) (fld w 8 7) (fld w 0 8))

/-- OP 0x65, `shfi`: the operation in IMM8 [7:5] (R132). -/
def decode65 (w : Word) : Except Illegal Instr :=
  match fldn w 5 3 with
  | 0 => checked (.shfiShl (fld w 31 1) (fld w 22 2) (fld w 15 7) (fld w 8 7) (fld w 0 5))
  | 1 => checked (.shfiShr (fld w 31 1) (fld w 22 2) (fld w 15 7) (fld w 8 7) (fld w 0 5))
  | 2 => checked (.shfiSar (fld w 31 1) (fld w 22 2) (fld w 15 7) (fld w 8 7) (fld w 0 5))
  | 3 => checked (.shfiRot (fld w 31 1) (fld w 22 2) (fld w 15 7) (fld w 8 7) (fld w 0 5))
  | _ => .error .instruction

/-- OP 0x6E, `ldl`: A tells the width (Table 6-7). -/
def decode6E (w : Word) : Except Illegal Instr :=
  match fldn w 8 7 with
  | 0 => checked (.ldl32 (fld w 31 1) (fld w 22 2) (fld w 15 7) (fld w 0 8))
  | 1 => checked (.ldl64 (fld w 31 1) (fld w 22 2) (fld w 15 7) (fld w 0 8))
  | _ => .error .instruction

/-- OP 0x6F: `brl` and `calll`, told by D (Table 6-7). -/
def decode6F (w : Word) : Except Illegal Instr :=
  match fldn w 15 7 with
  | 0 => ending w (fldn w 8 7) (.brl (fld w 22 2) (fld w 0 8))
  | 1 => ending w (fldn w 8 7) (.calll (fld w 22 2) (fld w 0 8))
  | _ => .error .instruction

/-- OP 0x71: special functions and lane operations by FN8 (Table 6-10). -/
def decode71 (w : Word) : Except Illegal Instr :=
  match fldn w 5 3 with
  | 0 =>
    match fldn w 0 3 with
    | 0 => checked (.frcp (fld w 31 1) (fld w 22 2) (fld w 15 7) (fld w 8 7) (fld w 3 2))
    | 1 => checked (.frsq (fld w 31 1) (fld w 22 2) (fld w 15 7) (fld w 8 7) (fld w 3 2))
    | 2 => checked (.fsqrt (fld w 31 1) (fld w 22 2) (fld w 15 7) (fld w 8 7) (fld w 3 2))
    | 3 => checked (.fexp2 (fld w 31 1) (fld w 22 2) (fld w 15 7) (fld w 8 7) (fld w 3 2))
    | 4 => checked (.flog2 (fld w 31 1) (fld w 22 2) (fld w 15 7) (fld w 8 7) (fld w 3 2))
    | 5 => checked (.fsin (fld w 31 1) (fld w 22 2) (fld w 15 7) (fld w 8 7) (fld w 3 2))
    | 6 => checked (.fcos (fld w 31 1) (fld w 22 2) (fld w 15 7) (fld w 8 7) (fld w 3 2))
    | _ => checked (.ftanh (fld w 31 1) (fld w 22 2) (fld w 15 7) (fld w 8 7) (fld w 3 2))
  | 1 =>
    match fldn w 0 5 with
    | 0 => unusedZero (fldn w 11 4 + fldn w 18 4) (.lany (fld w 31 1) (fld w 22 2) (fld w 15 3) (fld w 8 3))
    | 1 => unusedZero (fldn w 11 4 + fldn w 18 4) (.lall (fld w 31 1) (fld w 22 2) (fld w 15 3) (fld w 8 3))
    | 2 => unusedZero (fldn w 11 4) (.lmask (fld w 31 1) (fld w 22 2) (fld w 15 7) (fld w 8 3))
    | 3 => checked (.lsum (fld w 31 1) (fld w 22 2) (fld w 15 7) (fld w 8 7))
    | 4 => checked (.lminS32 (fld w 31 1) (fld w 22 2) (fld w 15 7) (fld w 8 7))
    | 5 => checked (.lminN32 (fld w 31 1) (fld w 22 2) (fld w 15 7) (fld w 8 7))
    | 6 => checked (.lmaxS32 (fld w 31 1) (fld w 22 2) (fld w 15 7) (fld w 8 7))
    | 7 => checked (.lmaxN32 (fld w 31 1) (fld w 22 2) (fld w 15 7) (fld w 8 7))
    | 8 => checked (.cdet (fld w 31 1) (fld w 22 2) (fld w 15 7) (fld w 8 7))
    | 9 => unusedZero (fldn w 8 7 + fldn w 18 4) (.lfirst (fld w 31 1) (fld w 22 2) (fld w 15 3))
    | _ => .error .instruction
  | _ => .error .instruction

/-- OP 0x72: atomics and reductions by RET and ORD (Table 6-12). -/
def decode72 (w : Word) : Except Illegal Instr :=
  if fldn w 7 1 = 1 then checked (.atom (fld w 31 1) (fld w 22 2) (fld w 15 7) (fld w 8 7) (fld w 5 2) (fld w 4 1) (fld w 0 4))
  else if fldn w 5 1 = 0 then checked (.red (fld w 31 1) (fld w 22 2) (fld w 15 7) (fld w 8 7) (fld w 6 1) (fld w 4 1) (fld w 0 4)) else .error .instruction

/-- OP 0x73: the X-form words of pipe X by FN8 (Table 6-10). -/
def decode73 (w : Word) : Except Illegal Instr :=
  match fldn w 0 8 with
  | 0 => unusedZero (fldn w 8 14) (.nop (fld w 31 1) (fld w 22 2))
  | 1 => unusedZero (fldn w 8 7) (.seal (fld w 31 1) (fld w 22 2) (fld w 15 7))
  | 2 => checked (.batchBytes (fld w 31 1) (fld w 22 2) (fld w 15 7) (fld w 8 7))
  | 3 => checked (.ctr (fld w 31 1) (fld w 22 2) (fld w 15 7) (fld w 8 7))
  | 4 => unusedZero (fldn w 8 7) (.tick (fld w 31 1) (fld w 22 2) (fld w 15 7))
  | 5 => checked (.mtileAlloc (fld w 31 1) (fld w 22 2) (fld w 15 7) (fld w 8 7))
  | 6 => checked (.mprog (fld w 31 1) (fld w 22 2) (fld w 15 7) (fld w 8 7))
  | 7 => ending w (0) (.callx (fld w 22 2) (fld w 15 7) (fld w 8 7))
  | 8 => checked (.speek (fld w 31 1) (fld w 22 2) (fld w 15 7) (fld w 8 7))
  | 9 => checked (.scrd (fld w 31 1) (fld w 22 2) (fld w 15 7) (fld w 8 7))
  | 10 => checked (.spos (fld w 31 1) (fld w 22 2) (fld w 15 7) (fld w 8 7))
  | 11 => checked (.sin (fld w 31 1) (fld w 22 2) (fld w 15 7) (fld w 8 7))
  | 12 => unusedZero (fldn w 18 4) (.sdone (fld w 31 1) (fld w 22 2) (fld w 15 3) (fld w 8 7))
  | 64 => checked (.sysrd (fld w 31 1) (fld w 22 2) (fld w 15 7) (fld w 8 7))
  | _ => .error .instruction

/-- OP 0x74: the M form by SZ (Table 6-4). -/
def decode74 (w : Word) : Except Illegal Instr :=
  match fldn w 5 3 with
  | 0 => checked (.ldS8 (fld w 31 1) (fld w 22 2) (fld w 15 7) (fld w 8 7) (fld w 0 5))
  | 1 => checked (.ldN8 (fld w 31 1) (fld w 22 2) (fld w 15 7) (fld w 8 7) (fld w 0 5))
  | 2 => checked (.ldS16 (fld w 31 1) (fld w 22 2) (fld w 15 7) (fld w 8 7) (fld w 0 5))
  | 3 => checked (.ldN16 (fld w 31 1) (fld w 22 2) (fld w 15 7) (fld w 8 7) (fld w 0 5))
  | 4 => checked (.ldB32 (fld w 31 1) (fld w 22 2) (fld w 15 7) (fld w 8 7) (fld w 0 5))
  | 5 => checked (.ldB64 (fld w 31 1) (fld w 22 2) (fld w 15 7) (fld w 8 7) (fld w 0 5))
  | 6 => checked (.ldB128 (fld w 31 1) (fld w 22 2) (fld w 15 7) (fld w 8 7) (fld w 0 5))
  | _ => .error .instruction

/-- OP 0x75: the M form by SZ (Table 6-4). -/
def decode75 (w : Word) : Except Illegal Instr :=
  match fldn w 5 3 with
  | 1 => checked (.stB8 (fld w 31 1) (fld w 22 2) (fld w 15 7) (fld w 8 7) (fld w 0 5))
  | 3 => checked (.stB16 (fld w 31 1) (fld w 22 2) (fld w 15 7) (fld w 8 7) (fld w 0 5))
  | 4 => checked (.stB32 (fld w 31 1) (fld w 22 2) (fld w 15 7) (fld w 8 7) (fld w 0 5))
  | 5 => checked (.stB64 (fld w 31 1) (fld w 22 2) (fld w 15 7) (fld w 8 7) (fld w 0 5))
  | 6 => checked (.stB128 (fld w 31 1) (fld w 22 2) (fld w 15 7) (fld w 8 7) (fld w 0 5))
  | _ => .error .instruction

/-- OP 0x76: the M form by SZ (Table 6-4). -/
def decode76 (w : Word) : Except Illegal Instr :=
  match fldn w 5 3 with
  | 0 => ending w 0 (.ldcS8 (fld w 22 2) (fld w 15 7) (fld w 8 7) (fld w 0 5))
  | 1 => ending w 0 (.ldcN8 (fld w 22 2) (fld w 15 7) (fld w 8 7) (fld w 0 5))
  | 2 => ending w 0 (.ldcS16 (fld w 22 2) (fld w 15 7) (fld w 8 7) (fld w 0 5))
  | 3 => ending w 0 (.ldcN16 (fld w 22 2) (fld w 15 7) (fld w 8 7) (fld w 0 5))
  | 4 => ending w 0 (.ldcB32 (fld w 22 2) (fld w 15 7) (fld w 8 7) (fld w 0 5))
  | 5 => ending w 0 (.ldcB64 (fld w 22 2) (fld w 15 7) (fld w 8 7) (fld w 0 5))
  | 6 => ending w 0 (.ldcB128 (fld w 22 2) (fld w 15 7) (fld w 8 7) (fld w 0 5))
  | _ => .error .instruction

/-- OP 0x77: the M form by SZ (Table 6-4). -/
def decode77 (w : Word) : Except Illegal Instr :=
  match fldn w 5 3 with
  | 0 => checked (.ldAcqB32 (fld w 31 1) (fld w 22 2) (fld w 15 7) (fld w 8 7) (fld w 0 5))
  | 1 => checked (.ldAcqB64 (fld w 31 1) (fld w 22 2) (fld w 15 7) (fld w 8 7) (fld w 0 5))
  | 2 => checked (.stRelB32 (fld w 31 1) (fld w 22 2) (fld w 15 7) (fld w 8 7) (fld w 0 5))
  | 3 => checked (.stRelB64 (fld w 31 1) (fld w 22 2) (fld w 15 7) (fld w 8 7) (fld w 0 5))
  | _ => .error .instruction

/-- OP 0x78: the B form (R130). -/
def decode78 (w : Word) : Except Illegal Instr := ending w 0 (.br (fld w 22 2) (fld w 0 22))

/-- OP 0x79: the B form (R130). -/
def decode79 (w : Word) : Except Illegal Instr := ending w 0 (.call (fld w 22 2) (fld w 0 22))

/-- OP 0x7A: the S form by FN8 (Table 6-13). -/
def decode7A (w : Word) : Except Illegal Instr :=
  match fldn w 14 8 with
  | 0 => ending w (fldn w 0 7) (.ret (fld w 22 2) (fld w 7 7))
  | 1 => ending w (fldn w 0 7) (.jmpx (fld w 22 2) (fld w 7 7))
  | 2 => checked (.ipf (fld w 31 1) (fld w 22 2) (fld w 7 7) (fld w 0 7))
  | 3 => ending w (fldn w 0 7 + fldn w 7 7) (.trap (fld w 22 2))
  | 4 => ending w (0) (.tretRedo (fld w 22 2) (fld w 7 7) (fld w 0 7))
  | 5 => ending w (0) (.tretSkip (fld w 22 2) (fld w 7 7) (fld w 0 7))
  | 6 => ending w (fldn w 0 7 + fldn w 7 7) (.brk (fld w 22 2))
  | 8 => ending w (fldn w 0 7 + fldn w 7 7) (.bar (fld w 22 2))
  | 9 => ending w (fldn w 0 7 + fldn w 7 7) (.barc (fld w 22 2))
  | 10 => ending w (fldn w 0 7 + fldn w 7 7) (.barx (fld w 22 2))
  | 11 => ending w (fldn w 7 7) (.waitBatch (fld w 22 2) (fld w 0 7))
  | 12 => ending w (fldn w 0 7 + fldn w 7 7) (.yield (fld w 22 2))
  | 13 => ending w (0) (.fwd (fld w 22 2) (fld w 7 7) (fld w 0 7))
  | 14 => ending w (0) (.fwdAck (fld w 22 2) (fld w 7 7) (fld w 0 7))
  | 15 => checked (.enq (fld w 31 1) (fld w 22 2) (fld w 7 7) (fld w 0 7))
  | 16 => ending w (fldn w 0 7 + fldn w 7 7) (.exit (fld w 22 2))
  | 17 => unusedZero (fldn w 0 7) (.launch (fld w 31 1) (fld w 22 2) (fld w 7 7))
  | 18 => checked (.signal (fld w 31 1) (fld w 22 2) (fld w 7 7) (fld w 0 7))
  | _ => .error .instruction

/-- OP 0x7B: the S form by FN8 (Table 6-13). Field B of `cp.l` and `cp.red` is unused, and must be zero (log 69). -/
def decode7B (w : Word) : Except Illegal Instr :=
  match fldn w 14 8 with
  | 0 => if fldn w 7 3 + fldn w 13 1 + fldn w 0 1 + fldn w 6 1 = 0 then checked (.cpT (fld w 31 1) (fld w 22 2) (fld w 10 3) (fld w 1 5)) else .error .operand
  | 1 => if fldn w 7 3 + fldn w 13 1 = 0 then checked (.cpG (fld w 31 1) (fld w 22 2) (fld w 10 3) (fld w 0 7)) else .error .operand
  | 2 => if fldn w 7 3 + fldn w 13 1 = 0 then checked (.cpS (fld w 31 1) (fld w 22 2) (fld w 10 3) (fld w 0 7)) else .error .operand
  | 3 => if fldn w 0 7 = 0 then (if fldn w 7 3 + fldn w 13 1 = 0 then checked (.cpL (fld w 31 1) (fld w 22 2) (fld w 10 3)) else .error .operand) else .error .instruction
  | 4 => checked (.cpPf (fld w 31 1) (fld w 22 2) (fld w 7 7) (fld w 0 7))
  | 5 => if fldn w 0 7 = 0 then (if fldn w 7 3 + fldn w 13 1 = 0 then checked (.cpRed (fld w 31 1) (fld w 22 2) (fld w 10 3)) else .error .operand) else .error .instruction
  | 16 => if fldn w 0 4 + fldn w 6 1 = 0 then checked (.mtask (fld w 31 1) (fld w 22 2) (fld w 7 7) (fld w 4 2)) else .error .operand
  | 17 => if fldn w 0 4 + fldn w 6 1 = 0 then checked (.mtaskSb (fld w 31 1) (fld w 22 2) (fld w 7 7) (fld w 4 2)) else .error .operand
  | 18 => unusedZero (fldn w 0 7) (.mtileFree (fld w 31 1) (fld w 22 2) (fld w 7 7))
  | 19 => if fldn w 0 3 + fldn w 6 1 = 0 then checked (.mtileLd (fld w 31 1) (fld w 22 2) (fld w 7 7) (fld w 3 3)) else .error .operand
  | 20 => if fldn w 0 3 + fldn w 6 1 = 0 then checked (.mtileSt (fld w 31 1) (fld w 22 2) (fld w 7 7) (fld w 3 3)) else .error .operand
  | 21 => if fldn w 0 3 + fldn w 6 1 = 0 then checked (.mtileZero (fld w 31 1) (fld w 22 2) (fld w 7 7) (fld w 3 3)) else .error .operand
  | 22 => if fldn w 0 3 + fldn w 6 1 = 0 then checked (.mtileCvt (fld w 31 1) (fld w 22 2) (fld w 7 7) (fld w 3 3)) else .error .operand
  | 23 => unusedZero (fldn w 0 7) (.mfence (fld w 31 1) (fld w 22 2) (fld w 7 7))
  | 32 => unusedZero (fldn w 0 7) (.sfree (fld w 31 1) (fld w 22 2) (fld w 7 7))
  | 33 => checked (.sskip (fld w 31 1) (fld w 22 2) (fld w 7 7) (fld w 0 7))
  | 34 => checked (.sskipn (fld w 31 1) (fld w 22 2) (fld w 7 7) (fld w 0 7))
  | _ => .error .instruction

/-- OP 0x7C: the S form by FN8 (Table 6-13). -/
def decode7C (w : Word) : Except Illegal Instr :=
  match fldn w 14 8 with
  | 0 => unusedZero (fldn w 0 7 + fldn w 7 7) (.fence (fld w 31 1) (fld w 22 2))
  | 1 => checked (.pfd (fld w 31 1) (fld w 22 2) (fld w 7 7) (fld w 0 7))
  | 2 => checked (.claim (fld w 31 1) (fld w 22 2) (fld w 7 7) (fld w 0 7))
  | _ => .error .instruction

/-- OP 0x7D: the S form by FN8 (Table 6-13). -/
def decode7D (w : Word) : Except Illegal Instr :=
  match fldn w 14 8 with
  | 0 => if fldn w 0 7 = 81 then checked (.modeRequest (fld w 31 1) (fld w 22 2) (fld w 7 7) (fld w 0 7)) else if fldn w 7 7 = 81 then checked (.ctrzero (fld w 31 1) (fld w 22 2) (fld w 7 7) (fld w 0 7)) else checked (.syswr (fld w 31 1) (fld w 22 2) (fld w 7 7) (fld w 0 7))
  | 1 => checked (.segld (fld w 31 1) (fld w 22 2) (fld w 7 7) (fld w 0 7))
  | 2 => checked (.icinv (fld w 31 1) (fld w 22 2) (fld w 7 7) (fld w 0 7))
  | 3 => checked (.tlbinv (fld w 31 1) (fld w 22 2) (fld w 7 7) (fld w 0 7))
  | 4 => unusedZero (fldn w 0 7) (.ctxtag (fld w 31 1) (fld w 22 2) (fld w 7 7))
  | 5 => unusedZero (fldn w 0 7 + fldn w 7 7) (.halt (fld w 31 1) (fld w 22 2))
  | 6 => checked (.modPub (fld w 31 1) (fld w 22 2) (fld w 7 7) (fld w 0 7))
  | 7 => checked (.modRet (fld w 31 1) (fld w 22 2) (fld w 7 7) (fld w 0 7))
  | 8 => checked (.poolx (fld w 31 1) (fld w 22 2) (fld w 7 7) (fld w 0 7))
  | 9 => checked (.pqSet (fld w 31 1) (fld w 22 2) (fld w 7 7) (fld w 0 7))
  | _ => .error .instruction

/-- The instruction of a word, by its major opcode (Tables 6-8, 6-9, 6-10, 6-13). -/
def decodeWord (w : Word) : Except Illegal Instr :=
  match fldn w 24 7 with
  | 0 => checked (.iadd (fld w 31 1) (fld w 22 2) (fld w 15 7) (fld w 8 7) (fld w 1 7) (fld w 0 1))
  | 1 => checked (.isub (fld w 31 1) (fld w 22 2) (fld w 15 7) (fld w 8 7) (fld w 1 7) (fld w 0 1))
  | 2 => checked (.imul (fld w 31 1) (fld w 22 2) (fld w 15 7) (fld w 8 7) (fld w 1 7) (fld w 0 1))
  | 3 => checked (.imulhS32 (fld w 31 1) (fld w 22 2) (fld w 15 7) (fld w 8 7) (fld w 1 7) (fld w 0 1))
  | 4 => checked (.imulhN32 (fld w 31 1) (fld w 22 2) (fld w 15 7) (fld w 8 7) (fld w 1 7) (fld w 0 1))
  | 5 => checked (.imad (fld w 31 1) (fld w 22 2) (fld w 15 7) (fld w 8 7) (fld w 1 7) (fld w 0 1))
  | 6 => checked (.iadd64 (fld w 31 1) (fld w 22 2) (fld w 15 7) (fld w 8 7) (fld w 1 7) (fld w 0 1))
  | 7 => checked (.isub64 (fld w 31 1) (fld w 22 2) (fld w 15 7) (fld w 8 7) (fld w 1 7) (fld w 0 1))
  | 8 => checked (.and (fld w 31 1) (fld w 22 2) (fld w 15 7) (fld w 8 7) (fld w 1 7) (fld w 0 1))
  | 9 => checked (.or (fld w 31 1) (fld w 22 2) (fld w 15 7) (fld w 8 7) (fld w 1 7) (fld w 0 1))
  | 10 => checked (.xor (fld w 31 1) (fld w 22 2) (fld w 15 7) (fld w 8 7) (fld w 1 7) (fld w 0 1))
  | 11 => checked (.andn (fld w 31 1) (fld w 22 2) (fld w 15 7) (fld w 8 7) (fld w 1 7) (fld w 0 1))
  | 12 => checked (.shl (fld w 31 1) (fld w 22 2) (fld w 15 7) (fld w 8 7) (fld w 1 7) (fld w 0 1))
  | 13 => checked (.shr (fld w 31 1) (fld w 22 2) (fld w 15 7) (fld w 8 7) (fld w 1 7) (fld w 0 1))
  | 14 => checked (.sar (fld w 31 1) (fld w 22 2) (fld w 15 7) (fld w 8 7) (fld w 1 7) (fld w 0 1))
  | 15 => checked (.rot (fld w 31 1) (fld w 22 2) (fld w 15 7) (fld w 8 7) (fld w 1 7) (fld w 0 1))
  | 16 => checked (.iminS32 (fld w 31 1) (fld w 22 2) (fld w 15 7) (fld w 8 7) (fld w 1 7) (fld w 0 1))
  | 17 => checked (.iminN32 (fld w 31 1) (fld w 22 2) (fld w 15 7) (fld w 8 7) (fld w 1 7) (fld w 0 1))
  | 18 => checked (.imaxS32 (fld w 31 1) (fld w 22 2) (fld w 15 7) (fld w 8 7) (fld w 1 7) (fld w 0 1))
  | 19 => checked (.imaxN32 (fld w 31 1) (fld w 22 2) (fld w 15 7) (fld w 8 7) (fld w 1 7) (fld w 0 1))
  | 20 => unusedZero (fldn w 1 7) (.iabs (fld w 31 1) (fld w 22 2) (fld w 15 7) (fld w 8 7) (fld w 0 1))
  | 21 => checked (.iaddsS32 (fld w 31 1) (fld w 22 2) (fld w 15 7) (fld w 8 7) (fld w 1 7) (fld w 0 1))
  | 22 => checked (.iaddsN32 (fld w 31 1) (fld w 22 2) (fld w 15 7) (fld w 8 7) (fld w 1 7) (fld w 0 1))
  | 23 => checked (.isubsS32 (fld w 31 1) (fld w 22 2) (fld w 15 7) (fld w 8 7) (fld w 1 7) (fld w 0 1))
  | 24 => checked (.isubsN32 (fld w 31 1) (fld w 22 2) (fld w 15 7) (fld w 8 7) (fld w 1 7) (fld w 0 1))
  | 25 => checked (.idivS32 (fld w 31 1) (fld w 22 2) (fld w 15 7) (fld w 8 7) (fld w 1 7) (fld w 0 1))
  | 26 => checked (.idivN32 (fld w 31 1) (fld w 22 2) (fld w 15 7) (fld w 8 7) (fld w 1 7) (fld w 0 1))
  | 27 => checked (.iremS32 (fld w 31 1) (fld w 22 2) (fld w 15 7) (fld w 8 7) (fld w 1 7) (fld w 0 1))
  | 28 => checked (.iremN32 (fld w 31 1) (fld w 22 2) (fld w 15 7) (fld w 8 7) (fld w 1 7) (fld w 0 1))
  | 29 => unusedZero (fldn w 1 7) (.popc (fld w 31 1) (fld w 22 2) (fld w 15 7) (fld w 8 7) (fld w 0 1))
  | 30 => unusedZero (fldn w 1 7) (.clz (fld w 31 1) (fld w 22 2) (fld w 15 7) (fld w 8 7) (fld w 0 1))
  | 31 => unusedZero (fldn w 1 7) (.ctz (fld w 31 1) (fld w 22 2) (fld w 15 7) (fld w 8 7) (fld w 0 1))
  | 32 => unusedZero (fldn w 1 7) (.brev (fld w 31 1) (fld w 22 2) (fld w 15 7) (fld w 8 7) (fld w 0 1))
  | 33 => checked (.bfeS32 (fld w 31 1) (fld w 22 2) (fld w 15 7) (fld w 8 7) (fld w 1 7) (fld w 0 1))
  | 34 => checked (.bfeN32 (fld w 31 1) (fld w 22 2) (fld w 15 7) (fld w 8 7) (fld w 1 7) (fld w 0 1))
  | 35 => checked (.bfi (fld w 31 1) (fld w 22 2) (fld w 15 7) (fld w 8 7) (fld w 1 7) (fld w 0 1))
  | 36 => checked (.bmsk (fld w 31 1) (fld w 22 2) (fld w 15 7) (fld w 8 7) (fld w 1 7) (fld w 0 1))
  | 37 => checked (.sel (fld w 31 1) (fld w 22 2) (fld w 15 7) (fld w 8 7) (fld w 1 7) (fld w 0 1))
  | 38 => decode26 w
  | 39 => checked (.cmp (fld w 31 1) (fld w 22 2) (fld w 18 4) (fld w 15 3) (fld w 8 7) (fld w 1 7) (fld w 0 1))
  | 40 => checked (.cmpPair (fld w 31 1) (fld w 22 2) (fld w 18 4) (fld w 15 3) (fld w 8 7) (fld w 1 7) (fld w 0 1))
  | 41 => checked (.fcmp (fld w 31 1) (fld w 22 2) (fld w 18 4) (fld w 15 3) (fld w 8 7) (fld w 1 7) (fld w 0 1))
  | 42 => checked (.fcmpPair (fld w 31 1) (fld w 22 2) (fld w 18 4) (fld w 15 3) (fld w 8 7) (fld w 1 7) (fld w 0 1))
  | 43 => unusedZero (fldn w 4 4 + fldn w 11 4 + fldn w 18 4) (.pand (fld w 31 1) (fld w 22 2) (fld w 15 3) (fld w 8 3) (fld w 1 3) (fld w 0 1))
  | 44 => unusedZero (fldn w 4 4 + fldn w 11 4 + fldn w 18 4) (.por (fld w 31 1) (fld w 22 2) (fld w 15 3) (fld w 8 3) (fld w 1 3) (fld w 0 1))
  | 45 => unusedZero (fldn w 4 4 + fldn w 11 4 + fldn w 18 4) (.pxor (fld w 31 1) (fld w 22 2) (fld w 15 3) (fld w 8 3) (fld w 1 3) (fld w 0 1))
  | 46 => unusedZero (fldn w 1 7 + fldn w 11 4 + fldn w 18 4) (.pnot (fld w 31 1) (fld w 22 2) (fld w 15 3) (fld w 8 3) (fld w 0 1))
  | 47 => unusedZero (fldn w 1 14) (.pget (fld w 31 1) (fld w 22 2) (fld w 15 7) (fld w 0 1))
  | 48 => unusedZero (fldn w 15 7) (.pset (fld w 31 1) (fld w 22 2) (fld w 8 7) (fld w 1 7) (fld w 0 1))
  | 49 => checked (.faddF32 (fld w 31 1) (fld w 22 2) (fld w 15 7) (fld w 8 7) (fld w 1 7) (fld w 0 1))
  | 50 => checked (.faddBf16x2 (fld w 31 1) (fld w 22 2) (fld w 15 7) (fld w 8 7) (fld w 1 7) (fld w 0 1))
  | 51 => checked (.faddF16x2 (fld w 31 1) (fld w 22 2) (fld w 15 7) (fld w 8 7) (fld w 1 7) (fld w 0 1))
  | 52 => checked (.fsubF32 (fld w 31 1) (fld w 22 2) (fld w 15 7) (fld w 8 7) (fld w 1 7) (fld w 0 1))
  | 53 => checked (.fsubBf16x2 (fld w 31 1) (fld w 22 2) (fld w 15 7) (fld w 8 7) (fld w 1 7) (fld w 0 1))
  | 54 => checked (.fsubF16x2 (fld w 31 1) (fld w 22 2) (fld w 15 7) (fld w 8 7) (fld w 1 7) (fld w 0 1))
  | 55 => checked (.fmulF32 (fld w 31 1) (fld w 22 2) (fld w 15 7) (fld w 8 7) (fld w 1 7) (fld w 0 1))
  | 56 => checked (.fmulBf16x2 (fld w 31 1) (fld w 22 2) (fld w 15 7) (fld w 8 7) (fld w 1 7) (fld w 0 1))
  | 57 => checked (.fmulF16x2 (fld w 31 1) (fld w 22 2) (fld w 15 7) (fld w 8 7) (fld w 1 7) (fld w 0 1))
  | 58 => checked (.ffmaF32 (fld w 31 1) (fld w 22 2) (fld w 15 7) (fld w 8 7) (fld w 1 7) (fld w 0 1))
  | 59 => checked (.ffmaBf16x2 (fld w 31 1) (fld w 22 2) (fld w 15 7) (fld w 8 7) (fld w 1 7) (fld w 0 1))
  | 60 => checked (.ffmaF16x2 (fld w 31 1) (fld w 22 2) (fld w 15 7) (fld w 8 7) (fld w 1 7) (fld w 0 1))
  | 61 => checked (.fminF32 (fld w 31 1) (fld w 22 2) (fld w 15 7) (fld w 8 7) (fld w 1 7) (fld w 0 1))
  | 62 => checked (.fminBf16x2 (fld w 31 1) (fld w 22 2) (fld w 15 7) (fld w 8 7) (fld w 1 7) (fld w 0 1))
  | 63 => checked (.fminF16x2 (fld w 31 1) (fld w 22 2) (fld w 15 7) (fld w 8 7) (fld w 1 7) (fld w 0 1))
  | 64 => checked (.fmaxF32 (fld w 31 1) (fld w 22 2) (fld w 15 7) (fld w 8 7) (fld w 1 7) (fld w 0 1))
  | 65 => checked (.fmaxBf16x2 (fld w 31 1) (fld w 22 2) (fld w 15 7) (fld w 8 7) (fld w 1 7) (fld w 0 1))
  | 66 => checked (.fmaxF16x2 (fld w 31 1) (fld w 22 2) (fld w 15 7) (fld w 8 7) (fld w 1 7) (fld w 0 1))
  | 67 => unusedZero (fldn w 1 7) (.fnegF32 (fld w 31 1) (fld w 22 2) (fld w 15 7) (fld w 8 7) (fld w 0 1))
  | 68 => unusedZero (fldn w 1 7) (.fnegX2 (fld w 31 1) (fld w 22 2) (fld w 15 7) (fld w 8 7) (fld w 0 1))
  | 69 => unusedZero (fldn w 1 7) (.fabsF32 (fld w 31 1) (fld w 22 2) (fld w 15 7) (fld w 8 7) (fld w 0 1))
  | 70 => unusedZero (fldn w 1 7) (.fabsX2 (fld w 31 1) (fld w 22 2) (fld w 15 7) (fld w 8 7) (fld w 0 1))
  | 71 => checked (.qtsh (fld w 31 1) (fld w 22 2) (fld w 15 7) (fld w 8 7) (fld w 1 7) (fld w 0 1))
  | 72 => checked (.lxAt (fld w 31 1) (fld w 22 2) (fld w 15 7) (fld w 8 7) (fld w 1 7) (fld w 0 1))
  | 73 => checked (.lxBelow (fld w 31 1) (fld w 22 2) (fld w 15 7) (fld w 8 7) (fld w 1 7) (fld w 0 1))
  | 74 => checked (.lxAbove (fld w 31 1) (fld w 22 2) (fld w 15 7) (fld w 8 7) (fld w 1 7) (fld w 0 1))
  | 75 => checked (.lxMirror (fld w 31 1) (fld w 22 2) (fld w 15 7) (fld w 8 7) (fld w 1 7) (fld w 0 1))
  | 76 => unusedZero (fldn w 0 1) (.sisect (fld w 31 1) (fld w 22 2) (fld w 15 7) (fld w 8 7) (fld w 1 7))
  | 77 => unusedZero (fldn w 0 1) (.sunion (fld w 31 1) (fld w 22 2) (fld w 15 7) (fld w 8 7) (fld w 1 7))
  | 78 => unusedZero (fldn w 0 1) (.sbind (fld w 31 1) (fld w 22 2) (fld w 15 7) (fld w 8 7) (fld w 1 7))
  | 96 => decode60 w
  | 97 => checked (.imuli (fld w 31 1) (fld w 22 2) (fld w 15 7) (fld w 8 7) (fld w 0 8))
  | 98 => checked (.andi (fld w 31 1) (fld w 22 2) (fld w 15 7) (fld w 8 7) (fld w 0 8))
  | 99 => checked (.ori (fld w 31 1) (fld w 22 2) (fld w 15 7) (fld w 8 7) (fld w 0 8))
  | 100 => checked (.xori (fld w 31 1) (fld w 22 2) (fld w 15 7) (fld w 8 7) (fld w 0 8))
  | 101 => decode65 w
  | 102 => checked (.cmpi (fld w 31 1) (fld w 22 2) (fld w 18 4) (fld w 15 3) (fld w 8 7) (fld w 0 8))
  | 103 => checked (.cmpiPair (fld w 31 1) (fld w 22 2) (fld w 18 4) (fld w 15 3) (fld w 8 7) (fld w 0 8))
  | 104 => checked (.faddiF32 (fld w 31 1) (fld w 22 2) (fld w 15 7) (fld w 8 7) (fld w 0 8))
  | 105 => checked (.faddiBf16x2 (fld w 31 1) (fld w 22 2) (fld w 15 7) (fld w 8 7) (fld w 0 8))
  | 106 => checked (.faddiF16x2 (fld w 31 1) (fld w 22 2) (fld w 15 7) (fld w 8 7) (fld w 0 8))
  | 107 => checked (.fmuliF32 (fld w 31 1) (fld w 22 2) (fld w 15 7) (fld w 8 7) (fld w 0 8))
  | 108 => checked (.fmuliBf16x2 (fld w 31 1) (fld w 22 2) (fld w 15 7) (fld w 8 7) (fld w 0 8))
  | 109 => checked (.fmuliF16x2 (fld w 31 1) (fld w 22 2) (fld w 15 7) (fld w 8 7) (fld w 0 8))
  | 110 => decode6E w
  | 111 => decode6F w
  | 112 => checked (.fcvt (fld w 31 1) (fld w 22 2) (fld w 15 7) (fld w 8 7) (fld w 3 5) (fld w 0 3))
  | 113 => decode71 w
  | 114 => decode72 w
  | 115 => decode73 w
  | 116 => decode74 w
  | 117 => decode75 w
  | 118 => decode76 w
  | 119 => decode77 w
  | 120 => decode78 w
  | 121 => decode79 w
  | 122 => decode7A w
  | 123 => decode7B w
  | 124 => decode7C w
  | 125 => decode7D w
  | 127 => .error .literal
  | _ => .error .instruction

/-- The bits of a word, as a number: its fixed bits and its fields in their places. An event has no word. -/
def encodeNat : Instr → Nat
  | .iadd c g d a b w => c.toNat * 2147483648 + g.toNat * 4194304 + d.toNat * 32768 + a.toNat * 256 + b.toNat * 2 + w.toNat
  | .isub c g d a b w => 16777216 + c.toNat * 2147483648 + g.toNat * 4194304 + d.toNat * 32768 + a.toNat * 256 + b.toNat * 2 + w.toNat
  | .imul c g d a b w => 33554432 + c.toNat * 2147483648 + g.toNat * 4194304 + d.toNat * 32768 + a.toNat * 256 + b.toNat * 2 + w.toNat
  | .imulhS32 c g d a b w => 50331648 + c.toNat * 2147483648 + g.toNat * 4194304 + d.toNat * 32768 + a.toNat * 256 + b.toNat * 2 + w.toNat
  | .imulhN32 c g d a b w => 67108864 + c.toNat * 2147483648 + g.toNat * 4194304 + d.toNat * 32768 + a.toNat * 256 + b.toNat * 2 + w.toNat
  | .imad c g d a b w => 83886080 + c.toNat * 2147483648 + g.toNat * 4194304 + d.toNat * 32768 + a.toNat * 256 + b.toNat * 2 + w.toNat
  | .iadd64 c g d a b w => 100663296 + c.toNat * 2147483648 + g.toNat * 4194304 + d.toNat * 32768 + a.toNat * 256 + b.toNat * 2 + w.toNat
  | .isub64 c g d a b w => 117440512 + c.toNat * 2147483648 + g.toNat * 4194304 + d.toNat * 32768 + a.toNat * 256 + b.toNat * 2 + w.toNat
  | .and c g d a b w => 134217728 + c.toNat * 2147483648 + g.toNat * 4194304 + d.toNat * 32768 + a.toNat * 256 + b.toNat * 2 + w.toNat
  | .or c g d a b w => 150994944 + c.toNat * 2147483648 + g.toNat * 4194304 + d.toNat * 32768 + a.toNat * 256 + b.toNat * 2 + w.toNat
  | .xor c g d a b w => 167772160 + c.toNat * 2147483648 + g.toNat * 4194304 + d.toNat * 32768 + a.toNat * 256 + b.toNat * 2 + w.toNat
  | .andn c g d a b w => 184549376 + c.toNat * 2147483648 + g.toNat * 4194304 + d.toNat * 32768 + a.toNat * 256 + b.toNat * 2 + w.toNat
  | .shl c g d a b w => 201326592 + c.toNat * 2147483648 + g.toNat * 4194304 + d.toNat * 32768 + a.toNat * 256 + b.toNat * 2 + w.toNat
  | .shr c g d a b w => 218103808 + c.toNat * 2147483648 + g.toNat * 4194304 + d.toNat * 32768 + a.toNat * 256 + b.toNat * 2 + w.toNat
  | .sar c g d a b w => 234881024 + c.toNat * 2147483648 + g.toNat * 4194304 + d.toNat * 32768 + a.toNat * 256 + b.toNat * 2 + w.toNat
  | .rot c g d a b w => 251658240 + c.toNat * 2147483648 + g.toNat * 4194304 + d.toNat * 32768 + a.toNat * 256 + b.toNat * 2 + w.toNat
  | .iminS32 c g d a b w => 268435456 + c.toNat * 2147483648 + g.toNat * 4194304 + d.toNat * 32768 + a.toNat * 256 + b.toNat * 2 + w.toNat
  | .iminN32 c g d a b w => 285212672 + c.toNat * 2147483648 + g.toNat * 4194304 + d.toNat * 32768 + a.toNat * 256 + b.toNat * 2 + w.toNat
  | .imaxS32 c g d a b w => 301989888 + c.toNat * 2147483648 + g.toNat * 4194304 + d.toNat * 32768 + a.toNat * 256 + b.toNat * 2 + w.toNat
  | .imaxN32 c g d a b w => 318767104 + c.toNat * 2147483648 + g.toNat * 4194304 + d.toNat * 32768 + a.toNat * 256 + b.toNat * 2 + w.toNat
  | .iabs c g d a w => 335544320 + c.toNat * 2147483648 + g.toNat * 4194304 + d.toNat * 32768 + a.toNat * 256 + w.toNat
  | .iaddsS32 c g d a b w => 352321536 + c.toNat * 2147483648 + g.toNat * 4194304 + d.toNat * 32768 + a.toNat * 256 + b.toNat * 2 + w.toNat
  | .iaddsN32 c g d a b w => 369098752 + c.toNat * 2147483648 + g.toNat * 4194304 + d.toNat * 32768 + a.toNat * 256 + b.toNat * 2 + w.toNat
  | .isubsS32 c g d a b w => 385875968 + c.toNat * 2147483648 + g.toNat * 4194304 + d.toNat * 32768 + a.toNat * 256 + b.toNat * 2 + w.toNat
  | .isubsN32 c g d a b w => 402653184 + c.toNat * 2147483648 + g.toNat * 4194304 + d.toNat * 32768 + a.toNat * 256 + b.toNat * 2 + w.toNat
  | .idivS32 c g d a b w => 419430400 + c.toNat * 2147483648 + g.toNat * 4194304 + d.toNat * 32768 + a.toNat * 256 + b.toNat * 2 + w.toNat
  | .idivN32 c g d a b w => 436207616 + c.toNat * 2147483648 + g.toNat * 4194304 + d.toNat * 32768 + a.toNat * 256 + b.toNat * 2 + w.toNat
  | .iremS32 c g d a b w => 452984832 + c.toNat * 2147483648 + g.toNat * 4194304 + d.toNat * 32768 + a.toNat * 256 + b.toNat * 2 + w.toNat
  | .iremN32 c g d a b w => 469762048 + c.toNat * 2147483648 + g.toNat * 4194304 + d.toNat * 32768 + a.toNat * 256 + b.toNat * 2 + w.toNat
  | .popc c g d a w => 486539264 + c.toNat * 2147483648 + g.toNat * 4194304 + d.toNat * 32768 + a.toNat * 256 + w.toNat
  | .clz c g d a w => 503316480 + c.toNat * 2147483648 + g.toNat * 4194304 + d.toNat * 32768 + a.toNat * 256 + w.toNat
  | .ctz c g d a w => 520093696 + c.toNat * 2147483648 + g.toNat * 4194304 + d.toNat * 32768 + a.toNat * 256 + w.toNat
  | .brev c g d a w => 536870912 + c.toNat * 2147483648 + g.toNat * 4194304 + d.toNat * 32768 + a.toNat * 256 + w.toNat
  | .bfeS32 c g d a b w => 553648128 + c.toNat * 2147483648 + g.toNat * 4194304 + d.toNat * 32768 + a.toNat * 256 + b.toNat * 2 + w.toNat
  | .bfeN32 c g d a b w => 570425344 + c.toNat * 2147483648 + g.toNat * 4194304 + d.toNat * 32768 + a.toNat * 256 + b.toNat * 2 + w.toNat
  | .bfi c g d a b w => 587202560 + c.toNat * 2147483648 + g.toNat * 4194304 + d.toNat * 32768 + a.toNat * 256 + b.toNat * 2 + w.toNat
  | .bmsk c g d a b w => 603979776 + c.toNat * 2147483648 + g.toNat * 4194304 + d.toNat * 32768 + a.toNat * 256 + b.toNat * 2 + w.toNat
  | .sel c s d a b w => 620756992 + c.toNat * 2147483648 + s.toNat * 4194304 + d.toNat * 32768 + a.toNat * 256 + b.toNat * 2 + w.toNat
  | .kmov c g d a => 640679936 + c.toNat * 2147483648 + g.toNat * 4194304 + d.toNat * 32768 + a.toNat * 256
  | .cmp c g k p a b w => 654311424 + c.toNat * 2147483648 + g.toNat * 4194304 + k.toNat * 262144 + p.toNat * 32768 + a.toNat * 256 + b.toNat * 2 + w.toNat
  | .cmpPair c g k p a b w => 671088640 + c.toNat * 2147483648 + g.toNat * 4194304 + k.toNat * 262144 + p.toNat * 32768 + a.toNat * 256 + b.toNat * 2 + w.toNat
  | .fcmp c g k p a b w => 687865856 + c.toNat * 2147483648 + g.toNat * 4194304 + k.toNat * 262144 + p.toNat * 32768 + a.toNat * 256 + b.toNat * 2 + w.toNat
  | .fcmpPair c g k p a b w => 704643072 + c.toNat * 2147483648 + g.toNat * 4194304 + k.toNat * 262144 + p.toNat * 32768 + a.toNat * 256 + b.toNat * 2 + w.toNat
  | .pand c g d a b w => 721420288 + c.toNat * 2147483648 + g.toNat * 4194304 + d.toNat * 32768 + a.toNat * 256 + b.toNat * 2 + w.toNat
  | .por c g d a b w => 738197504 + c.toNat * 2147483648 + g.toNat * 4194304 + d.toNat * 32768 + a.toNat * 256 + b.toNat * 2 + w.toNat
  | .pxor c g d a b w => 754974720 + c.toNat * 2147483648 + g.toNat * 4194304 + d.toNat * 32768 + a.toNat * 256 + b.toNat * 2 + w.toNat
  | .pnot c g d a w => 771751936 + c.toNat * 2147483648 + g.toNat * 4194304 + d.toNat * 32768 + a.toNat * 256 + w.toNat
  | .pget c g d w => 788529152 + c.toNat * 2147483648 + g.toNat * 4194304 + d.toNat * 32768 + w.toNat
  | .pset c g a b w => 805306368 + c.toNat * 2147483648 + g.toNat * 4194304 + a.toNat * 256 + b.toNat * 2 + w.toNat
  | .faddF32 c g d a b w => 822083584 + c.toNat * 2147483648 + g.toNat * 4194304 + d.toNat * 32768 + a.toNat * 256 + b.toNat * 2 + w.toNat
  | .faddBf16x2 c g d a b w => 838860800 + c.toNat * 2147483648 + g.toNat * 4194304 + d.toNat * 32768 + a.toNat * 256 + b.toNat * 2 + w.toNat
  | .faddF16x2 c g d a b w => 855638016 + c.toNat * 2147483648 + g.toNat * 4194304 + d.toNat * 32768 + a.toNat * 256 + b.toNat * 2 + w.toNat
  | .fsubF32 c g d a b w => 872415232 + c.toNat * 2147483648 + g.toNat * 4194304 + d.toNat * 32768 + a.toNat * 256 + b.toNat * 2 + w.toNat
  | .fsubBf16x2 c g d a b w => 889192448 + c.toNat * 2147483648 + g.toNat * 4194304 + d.toNat * 32768 + a.toNat * 256 + b.toNat * 2 + w.toNat
  | .fsubF16x2 c g d a b w => 905969664 + c.toNat * 2147483648 + g.toNat * 4194304 + d.toNat * 32768 + a.toNat * 256 + b.toNat * 2 + w.toNat
  | .fmulF32 c g d a b w => 922746880 + c.toNat * 2147483648 + g.toNat * 4194304 + d.toNat * 32768 + a.toNat * 256 + b.toNat * 2 + w.toNat
  | .fmulBf16x2 c g d a b w => 939524096 + c.toNat * 2147483648 + g.toNat * 4194304 + d.toNat * 32768 + a.toNat * 256 + b.toNat * 2 + w.toNat
  | .fmulF16x2 c g d a b w => 956301312 + c.toNat * 2147483648 + g.toNat * 4194304 + d.toNat * 32768 + a.toNat * 256 + b.toNat * 2 + w.toNat
  | .ffmaF32 c g d a b w => 973078528 + c.toNat * 2147483648 + g.toNat * 4194304 + d.toNat * 32768 + a.toNat * 256 + b.toNat * 2 + w.toNat
  | .ffmaBf16x2 c g d a b w => 989855744 + c.toNat * 2147483648 + g.toNat * 4194304 + d.toNat * 32768 + a.toNat * 256 + b.toNat * 2 + w.toNat
  | .ffmaF16x2 c g d a b w => 1006632960 + c.toNat * 2147483648 + g.toNat * 4194304 + d.toNat * 32768 + a.toNat * 256 + b.toNat * 2 + w.toNat
  | .fminF32 c g d a b w => 1023410176 + c.toNat * 2147483648 + g.toNat * 4194304 + d.toNat * 32768 + a.toNat * 256 + b.toNat * 2 + w.toNat
  | .fminBf16x2 c g d a b w => 1040187392 + c.toNat * 2147483648 + g.toNat * 4194304 + d.toNat * 32768 + a.toNat * 256 + b.toNat * 2 + w.toNat
  | .fminF16x2 c g d a b w => 1056964608 + c.toNat * 2147483648 + g.toNat * 4194304 + d.toNat * 32768 + a.toNat * 256 + b.toNat * 2 + w.toNat
  | .fmaxF32 c g d a b w => 1073741824 + c.toNat * 2147483648 + g.toNat * 4194304 + d.toNat * 32768 + a.toNat * 256 + b.toNat * 2 + w.toNat
  | .fmaxBf16x2 c g d a b w => 1090519040 + c.toNat * 2147483648 + g.toNat * 4194304 + d.toNat * 32768 + a.toNat * 256 + b.toNat * 2 + w.toNat
  | .fmaxF16x2 c g d a b w => 1107296256 + c.toNat * 2147483648 + g.toNat * 4194304 + d.toNat * 32768 + a.toNat * 256 + b.toNat * 2 + w.toNat
  | .fnegF32 c g d a w => 1124073472 + c.toNat * 2147483648 + g.toNat * 4194304 + d.toNat * 32768 + a.toNat * 256 + w.toNat
  | .fnegX2 c g d a w => 1140850688 + c.toNat * 2147483648 + g.toNat * 4194304 + d.toNat * 32768 + a.toNat * 256 + w.toNat
  | .fabsF32 c g d a w => 1157627904 + c.toNat * 2147483648 + g.toNat * 4194304 + d.toNat * 32768 + a.toNat * 256 + w.toNat
  | .fabsX2 c g d a w => 1174405120 + c.toNat * 2147483648 + g.toNat * 4194304 + d.toNat * 32768 + a.toNat * 256 + w.toNat
  | .qtsh c g d a b w => 1191182336 + c.toNat * 2147483648 + g.toNat * 4194304 + d.toNat * 32768 + a.toNat * 256 + b.toNat * 2 + w.toNat
  | .lxAt c g d a b w => 1207959552 + c.toNat * 2147483648 + g.toNat * 4194304 + d.toNat * 32768 + a.toNat * 256 + b.toNat * 2 + w.toNat
  | .lxBelow c g d a b w => 1224736768 + c.toNat * 2147483648 + g.toNat * 4194304 + d.toNat * 32768 + a.toNat * 256 + b.toNat * 2 + w.toNat
  | .lxAbove c g d a b w => 1241513984 + c.toNat * 2147483648 + g.toNat * 4194304 + d.toNat * 32768 + a.toNat * 256 + b.toNat * 2 + w.toNat
  | .lxMirror c g d a b w => 1258291200 + c.toNat * 2147483648 + g.toNat * 4194304 + d.toNat * 32768 + a.toNat * 256 + b.toNat * 2 + w.toNat
  | .sisect c g d a b => 1275068416 + c.toNat * 2147483648 + g.toNat * 4194304 + d.toNat * 32768 + a.toNat * 256 + b.toNat * 2
  | .sunion c g d a b => 1291845632 + c.toNat * 2147483648 + g.toNat * 4194304 + d.toNat * 32768 + a.toNat * 256 + b.toNat * 2
  | .sbind c g d a b => 1308622848 + c.toNat * 2147483648 + g.toNat * 4194304 + d.toNat * 32768 + a.toNat * 256 + b.toNat * 2
  | .iaddi c g d a i => 1610612736 + c.toNat * 2147483648 + g.toNat * 4194304 + d.toNat * 32768 + a.toNat * 256 + i.toNat
  | .movi c g d i => 1610633216 + c.toNat * 2147483648 + g.toNat * 4194304 + d.toNat * 32768 + i.toNat
  | .imuli c g d a i => 1627389952 + c.toNat * 2147483648 + g.toNat * 4194304 + d.toNat * 32768 + a.toNat * 256 + i.toNat
  | .andi c g d a i => 1644167168 + c.toNat * 2147483648 + g.toNat * 4194304 + d.toNat * 32768 + a.toNat * 256 + i.toNat
  | .ori c g d a i => 1660944384 + c.toNat * 2147483648 + g.toNat * 4194304 + d.toNat * 32768 + a.toNat * 256 + i.toNat
  | .xori c g d a i => 1677721600 + c.toNat * 2147483648 + g.toNat * 4194304 + d.toNat * 32768 + a.toNat * 256 + i.toNat
  | .shfiShl c g d a n => 1694498816 + c.toNat * 2147483648 + g.toNat * 4194304 + d.toNat * 32768 + a.toNat * 256 + n.toNat
  | .shfiShr c g d a n => 1694498848 + c.toNat * 2147483648 + g.toNat * 4194304 + d.toNat * 32768 + a.toNat * 256 + n.toNat
  | .shfiSar c g d a n => 1694498880 + c.toNat * 2147483648 + g.toNat * 4194304 + d.toNat * 32768 + a.toNat * 256 + n.toNat
  | .shfiRot c g d a n => 1694498912 + c.toNat * 2147483648 + g.toNat * 4194304 + d.toNat * 32768 + a.toNat * 256 + n.toNat
  | .cmpi c g k p a i => 1711276032 + c.toNat * 2147483648 + g.toNat * 4194304 + k.toNat * 262144 + p.toNat * 32768 + a.toNat * 256 + i.toNat
  | .cmpiPair c g k p a i => 1728053248 + c.toNat * 2147483648 + g.toNat * 4194304 + k.toNat * 262144 + p.toNat * 32768 + a.toNat * 256 + i.toNat
  | .faddiF32 c g d a i => 1744830464 + c.toNat * 2147483648 + g.toNat * 4194304 + d.toNat * 32768 + a.toNat * 256 + i.toNat
  | .faddiBf16x2 c g d a i => 1761607680 + c.toNat * 2147483648 + g.toNat * 4194304 + d.toNat * 32768 + a.toNat * 256 + i.toNat
  | .faddiF16x2 c g d a i => 1778384896 + c.toNat * 2147483648 + g.toNat * 4194304 + d.toNat * 32768 + a.toNat * 256 + i.toNat
  | .fmuliF32 c g d a i => 1795162112 + c.toNat * 2147483648 + g.toNat * 4194304 + d.toNat * 32768 + a.toNat * 256 + i.toNat
  | .fmuliBf16x2 c g d a i => 1811939328 + c.toNat * 2147483648 + g.toNat * 4194304 + d.toNat * 32768 + a.toNat * 256 + i.toNat
  | .fmuliF16x2 c g d a i => 1828716544 + c.toNat * 2147483648 + g.toNat * 4194304 + d.toNat * 32768 + a.toNat * 256 + i.toNat
  | .ldl32 c g d i => 1845493760 + c.toNat * 2147483648 + g.toNat * 4194304 + d.toNat * 32768 + i.toNat
  | .ldl64 c g d i => 1845494016 + c.toNat * 2147483648 + g.toNat * 4194304 + d.toNat * 32768 + i.toNat
  | .brl g i => 1862270976 + g.toNat * 4194304 + i.toNat
  | .calll g i => 1862303744 + g.toNat * 4194304 + i.toNat
  | .fcvt c g d a k r => 1879048192 + c.toNat * 2147483648 + g.toNat * 4194304 + d.toNat * 32768 + a.toNat * 256 + k.toNat * 8 + r.toNat
  | .frcp c g d a t => 1895825408 + c.toNat * 2147483648 + g.toNat * 4194304 + d.toNat * 32768 + a.toNat * 256 + t.toNat * 8
  | .frsq c g d a t => 1895825409 + c.toNat * 2147483648 + g.toNat * 4194304 + d.toNat * 32768 + a.toNat * 256 + t.toNat * 8
  | .fsqrt c g d a t => 1895825410 + c.toNat * 2147483648 + g.toNat * 4194304 + d.toNat * 32768 + a.toNat * 256 + t.toNat * 8
  | .fexp2 c g d a t => 1895825411 + c.toNat * 2147483648 + g.toNat * 4194304 + d.toNat * 32768 + a.toNat * 256 + t.toNat * 8
  | .flog2 c g d a t => 1895825412 + c.toNat * 2147483648 + g.toNat * 4194304 + d.toNat * 32768 + a.toNat * 256 + t.toNat * 8
  | .fsin c g d a t => 1895825413 + c.toNat * 2147483648 + g.toNat * 4194304 + d.toNat * 32768 + a.toNat * 256 + t.toNat * 8
  | .fcos c g d a t => 1895825414 + c.toNat * 2147483648 + g.toNat * 4194304 + d.toNat * 32768 + a.toNat * 256 + t.toNat * 8
  | .ftanh c g d a t => 1895825415 + c.toNat * 2147483648 + g.toNat * 4194304 + d.toNat * 32768 + a.toNat * 256 + t.toNat * 8
  | .lany c g p q => 1895825440 + c.toNat * 2147483648 + g.toNat * 4194304 + p.toNat * 32768 + q.toNat * 256
  | .lall c g p q => 1895825441 + c.toNat * 2147483648 + g.toNat * 4194304 + p.toNat * 32768 + q.toNat * 256
  | .lmask c g d q => 1895825442 + c.toNat * 2147483648 + g.toNat * 4194304 + d.toNat * 32768 + q.toNat * 256
  | .lsum c g d a => 1895825443 + c.toNat * 2147483648 + g.toNat * 4194304 + d.toNat * 32768 + a.toNat * 256
  | .lminS32 c g d a => 1895825444 + c.toNat * 2147483648 + g.toNat * 4194304 + d.toNat * 32768 + a.toNat * 256
  | .lminN32 c g d a => 1895825445 + c.toNat * 2147483648 + g.toNat * 4194304 + d.toNat * 32768 + a.toNat * 256
  | .lmaxS32 c g d a => 1895825446 + c.toNat * 2147483648 + g.toNat * 4194304 + d.toNat * 32768 + a.toNat * 256
  | .lmaxN32 c g d a => 1895825447 + c.toNat * 2147483648 + g.toNat * 4194304 + d.toNat * 32768 + a.toNat * 256
  | .cdet c g d a => 1895825448 + c.toNat * 2147483648 + g.toNat * 4194304 + d.toNat * 32768 + a.toNat * 256
  | .lfirst c g p => 1895825449 + c.toNat * 2147483648 + g.toNat * 4194304 + p.toNat * 32768
  | .atom c g d a o w n => 1912602752 + c.toNat * 2147483648 + g.toNat * 4194304 + d.toNat * 32768 + a.toNat * 256 + o.toNat * 32 + w.toNat * 16 + n.toNat
  | .red c g d a o w n => 1912602624 + c.toNat * 2147483648 + g.toNat * 4194304 + d.toNat * 32768 + a.toNat * 256 + o.toNat * 64 + w.toNat * 16 + n.toNat
  | .nop c g => 1929379840 + c.toNat * 2147483648 + g.toNat * 4194304
  | .seal c g d => 1929379841 + c.toNat * 2147483648 + g.toNat * 4194304 + d.toNat * 32768
  | .batchBytes c g d a => 1929379842 + c.toNat * 2147483648 + g.toNat * 4194304 + d.toNat * 32768 + a.toNat * 256
  | .ctr c g d a => 1929379843 + c.toNat * 2147483648 + g.toNat * 4194304 + d.toNat * 32768 + a.toNat * 256
  | .tick c g d => 1929379844 + c.toNat * 2147483648 + g.toNat * 4194304 + d.toNat * 32768
  | .mtileAlloc c g d a => 1929379845 + c.toNat * 2147483648 + g.toNat * 4194304 + d.toNat * 32768 + a.toNat * 256
  | .mprog c g d a => 1929379846 + c.toNat * 2147483648 + g.toNat * 4194304 + d.toNat * 32768 + a.toNat * 256
  | .callx g d a => 1929379847 + g.toNat * 4194304 + d.toNat * 32768 + a.toNat * 256
  | .speek c g d a => 1929379848 + c.toNat * 2147483648 + g.toNat * 4194304 + d.toNat * 32768 + a.toNat * 256
  | .scrd c g d a => 1929379849 + c.toNat * 2147483648 + g.toNat * 4194304 + d.toNat * 32768 + a.toNat * 256
  | .spos c g d a => 1929379850 + c.toNat * 2147483648 + g.toNat * 4194304 + d.toNat * 32768 + a.toNat * 256
  | .sin c g d a => 1929379851 + c.toNat * 2147483648 + g.toNat * 4194304 + d.toNat * 32768 + a.toNat * 256
  | .sdone c g p a => 1929379852 + c.toNat * 2147483648 + g.toNat * 4194304 + p.toNat * 32768 + a.toNat * 256
  | .sysrd c g d a => 1929379904 + c.toNat * 2147483648 + g.toNat * 4194304 + d.toNat * 32768 + a.toNat * 256
  | .ldS8 c g d a o => 1946157056 + c.toNat * 2147483648 + g.toNat * 4194304 + d.toNat * 32768 + a.toNat * 256 + o.toNat
  | .ldN8 c g d a o => 1946157088 + c.toNat * 2147483648 + g.toNat * 4194304 + d.toNat * 32768 + a.toNat * 256 + o.toNat
  | .ldS16 c g d a o => 1946157120 + c.toNat * 2147483648 + g.toNat * 4194304 + d.toNat * 32768 + a.toNat * 256 + o.toNat
  | .ldN16 c g d a o => 1946157152 + c.toNat * 2147483648 + g.toNat * 4194304 + d.toNat * 32768 + a.toNat * 256 + o.toNat
  | .ldB32 c g d a o => 1946157184 + c.toNat * 2147483648 + g.toNat * 4194304 + d.toNat * 32768 + a.toNat * 256 + o.toNat
  | .ldB64 c g d a o => 1946157216 + c.toNat * 2147483648 + g.toNat * 4194304 + d.toNat * 32768 + a.toNat * 256 + o.toNat
  | .ldB128 c g d a o => 1946157248 + c.toNat * 2147483648 + g.toNat * 4194304 + d.toNat * 32768 + a.toNat * 256 + o.toNat
  | .stB8 c g d a o => 1962934304 + c.toNat * 2147483648 + g.toNat * 4194304 + d.toNat * 32768 + a.toNat * 256 + o.toNat
  | .stB16 c g d a o => 1962934368 + c.toNat * 2147483648 + g.toNat * 4194304 + d.toNat * 32768 + a.toNat * 256 + o.toNat
  | .stB32 c g d a o => 1962934400 + c.toNat * 2147483648 + g.toNat * 4194304 + d.toNat * 32768 + a.toNat * 256 + o.toNat
  | .stB64 c g d a o => 1962934432 + c.toNat * 2147483648 + g.toNat * 4194304 + d.toNat * 32768 + a.toNat * 256 + o.toNat
  | .stB128 c g d a o => 1962934464 + c.toNat * 2147483648 + g.toNat * 4194304 + d.toNat * 32768 + a.toNat * 256 + o.toNat
  | .ldcS8 g d a o => 1979711488 + g.toNat * 4194304 + d.toNat * 32768 + a.toNat * 256 + o.toNat
  | .ldcN8 g d a o => 1979711520 + g.toNat * 4194304 + d.toNat * 32768 + a.toNat * 256 + o.toNat
  | .ldcS16 g d a o => 1979711552 + g.toNat * 4194304 + d.toNat * 32768 + a.toNat * 256 + o.toNat
  | .ldcN16 g d a o => 1979711584 + g.toNat * 4194304 + d.toNat * 32768 + a.toNat * 256 + o.toNat
  | .ldcB32 g d a o => 1979711616 + g.toNat * 4194304 + d.toNat * 32768 + a.toNat * 256 + o.toNat
  | .ldcB64 g d a o => 1979711648 + g.toNat * 4194304 + d.toNat * 32768 + a.toNat * 256 + o.toNat
  | .ldcB128 g d a o => 1979711680 + g.toNat * 4194304 + d.toNat * 32768 + a.toNat * 256 + o.toNat
  | .ldAcqB32 c g d a o => 1996488704 + c.toNat * 2147483648 + g.toNat * 4194304 + d.toNat * 32768 + a.toNat * 256 + o.toNat
  | .ldAcqB64 c g d a o => 1996488736 + c.toNat * 2147483648 + g.toNat * 4194304 + d.toNat * 32768 + a.toNat * 256 + o.toNat
  | .stRelB32 c g d a o => 1996488768 + c.toNat * 2147483648 + g.toNat * 4194304 + d.toNat * 32768 + a.toNat * 256 + o.toNat
  | .stRelB64 c g d a o => 1996488800 + c.toNat * 2147483648 + g.toNat * 4194304 + d.toNat * 32768 + a.toNat * 256 + o.toNat
  | .br g x => 2013265920 + g.toNat * 4194304 + x.toNat
  | .call g x => 2030043136 + g.toNat * 4194304 + x.toNat
  | .ret g a => 2046820352 + g.toNat * 4194304 + a.toNat * 128
  | .jmpx g a => 2046836736 + g.toNat * 4194304 + a.toNat * 128
  | .ipf c g a b => 2046853120 + c.toNat * 2147483648 + g.toNat * 4194304 + a.toNat * 128 + b.toNat
  | .trap g => 2046869504 + g.toNat * 4194304
  | .tretRedo g a b => 2046885888 + g.toNat * 4194304 + a.toNat * 128 + b.toNat
  | .tretSkip g a b => 2046902272 + g.toNat * 4194304 + a.toNat * 128 + b.toNat
  | .brk g => 2046918656 + g.toNat * 4194304
  | .bar g => 2046951424 + g.toNat * 4194304
  | .barc g => 2046967808 + g.toNat * 4194304
  | .barx g => 2046984192 + g.toNat * 4194304
  | .waitBatch g n => 2047000576 + g.toNat * 4194304 + n.toNat
  | .yield g => 2047016960 + g.toNat * 4194304
  | .fwd g a b => 2047033344 + g.toNat * 4194304 + a.toNat * 128 + b.toNat
  | .fwdAck g a b => 2047049728 + g.toNat * 4194304 + a.toNat * 128 + b.toNat
  | .enq c g a b => 2047066112 + c.toNat * 2147483648 + g.toNat * 4194304 + a.toNat * 128 + b.toNat
  | .exit g => 2047082496 + g.toNat * 4194304
  | .launch c g a => 2047098880 + c.toNat * 2147483648 + g.toNat * 4194304 + a.toNat * 128
  | .signal c g a b => 2047115264 + c.toNat * 2147483648 + g.toNat * 4194304 + a.toNat * 128 + b.toNat
  | .cpT c g n m => 2063597568 + c.toNat * 2147483648 + g.toNat * 4194304 + n.toNat * 1024 + m.toNat * 2
  | .cpG c g n b => 2063613952 + c.toNat * 2147483648 + g.toNat * 4194304 + n.toNat * 1024 + b.toNat
  | .cpS c g n b => 2063630336 + c.toNat * 2147483648 + g.toNat * 4194304 + n.toNat * 1024 + b.toNat
  | .cpL c g n => 2063646720 + c.toNat * 2147483648 + g.toNat * 4194304 + n.toNat * 1024
  | .cpPf c g a b => 2063663104 + c.toNat * 2147483648 + g.toNat * 4194304 + a.toNat * 128 + b.toNat
  | .cpRed c g n => 2063679488 + c.toNat * 2147483648 + g.toNat * 4194304 + n.toNat * 1024
  | .mtask c g a n => 2063859712 + c.toNat * 2147483648 + g.toNat * 4194304 + a.toNat * 128 + n.toNat * 16
  | .mtaskSb c g a n => 2063876096 + c.toNat * 2147483648 + g.toNat * 4194304 + a.toNat * 128 + n.toNat * 16
  | .mtileFree c g a => 2063892480 + c.toNat * 2147483648 + g.toNat * 4194304 + a.toNat * 128
  | .mtileLd c g a n => 2063908864 + c.toNat * 2147483648 + g.toNat * 4194304 + a.toNat * 128 + n.toNat * 8
  | .mtileSt c g a n => 2063925248 + c.toNat * 2147483648 + g.toNat * 4194304 + a.toNat * 128 + n.toNat * 8
  | .mtileZero c g a n => 2063941632 + c.toNat * 2147483648 + g.toNat * 4194304 + a.toNat * 128 + n.toNat * 8
  | .mtileCvt c g a n => 2063958016 + c.toNat * 2147483648 + g.toNat * 4194304 + a.toNat * 128 + n.toNat * 8
  | .mfence c g a => 2063974400 + c.toNat * 2147483648 + g.toNat * 4194304 + a.toNat * 128
  | .sfree c g a => 2064121856 + c.toNat * 2147483648 + g.toNat * 4194304 + a.toNat * 128
  | .sskip c g a b => 2064138240 + c.toNat * 2147483648 + g.toNat * 4194304 + a.toNat * 128 + b.toNat
  | .sskipn c g a b => 2064154624 + c.toNat * 2147483648 + g.toNat * 4194304 + a.toNat * 128 + b.toNat
  | .fence c g => 2080374784 + c.toNat * 2147483648 + g.toNat * 4194304
  | .pfd c g a b => 2080391168 + c.toNat * 2147483648 + g.toNat * 4194304 + a.toNat * 128 + b.toNat
  | .claim c g a b => 2080407552 + c.toNat * 2147483648 + g.toNat * 4194304 + a.toNat * 128 + b.toNat
  | .syswr c g a b => 2097152000 + c.toNat * 2147483648 + g.toNat * 4194304 + a.toNat * 128 + b.toNat
  | .modeRequest c g a b => 2097152000 + c.toNat * 2147483648 + g.toNat * 4194304 + a.toNat * 128 + b.toNat
  | .ctrzero c g a b => 2097152000 + c.toNat * 2147483648 + g.toNat * 4194304 + a.toNat * 128 + b.toNat
  | .segld c g a b => 2097168384 + c.toNat * 2147483648 + g.toNat * 4194304 + a.toNat * 128 + b.toNat
  | .icinv c g a b => 2097184768 + c.toNat * 2147483648 + g.toNat * 4194304 + a.toNat * 128 + b.toNat
  | .tlbinv c g a b => 2097201152 + c.toNat * 2147483648 + g.toNat * 4194304 + a.toNat * 128 + b.toNat
  | .ctxtag c g a => 2097217536 + c.toNat * 2147483648 + g.toNat * 4194304 + a.toNat * 128
  | .halt c g => 2097233920 + c.toNat * 2147483648 + g.toNat * 4194304
  | .modPub c g a b => 2097250304 + c.toNat * 2147483648 + g.toNat * 4194304 + a.toNat * 128 + b.toNat
  | .modRet c g a b => 2097266688 + c.toNat * 2147483648 + g.toNat * 4194304 + a.toNat * 128 + b.toNat
  | .poolx c g a b => 2097283072 + c.toNat * 2147483648 + g.toNat * 4194304 + a.toNat * 128 + b.toNat
  | .pqSet c g a b => 2097299456 + c.toNat * 2147483648 + g.toNat * 4194304 + a.toNat * 128 + b.toNat
  | .runIssue _ => 0
  | .codeLineFill _ => 0
  | .loadDataReturn _ _ => 0
  | .tlbMissWalk _ _ _ => 0
  | .storeBufferDrain _ _ => 0
  | .peerAck _ _ _ => 0
  | .releaseAck _ _ _ => 0
  | .binReadyByAge _ _ _ _ _ => 0
  | .drain _ => 0
  | .compactorMove _ => 0
  | .poolSlotFreed _ _ => 0
  | .barrierArrival _ _ => 0
  | .ldcLoad _ _ => 0
  | .threadExit _ _ => 0
  | .copyStart _ => 0
  | .copyComplete _ => 0
  | .taskDispatch _ => 0
  | .taskStep _ => 0
  | .tileOpComplete _ => 0
  | .tileRangeRelease _ _ => 0
  | .pageMove _ _ => 0
  | .pageMoveComplete _ _ => 0
  | .forwardRequest _ _ => 0
  | .forwardNack _ _ => 0
  | .forwardRetry _ _ => 0
  | .poolExhausted _ _ => 0
  | .forwardGrant _ _ => 0
  | .recordAccept _ _ => 0
  | .fwdAckAdd _ _ => 0
  | .faultQueuePost _ => 0
  | .faultQueueHeadRead _ => 0
  | .kick _ _ _ _ => 0
  | .queueAgeingWake _ _ => 0
  | .cmdNop _ _ => 0
  | .cmdLaunch _ _ => 0
  | .cmdSignal _ _ => 0
  | .cmdWait _ _ => 0
  | .cmdBarrierJob _ _ => 0
  | .admission _ => 0
  | .admissionRetry _ => 0
  | .admissionAgeingLock _ => 0
  | .launchComplete _ => 0
  | .preempt _ => 0
  | .stopWalkReach _ => 0
  | .preemptDeadline _ => 0
  | .resume _ => 0
  | .remove _ => 0
  | .removalUnitReset _ => 0
  | .moverec _ _ _ _ => 0
  | .movegang _ _ _ _ _ _ _ => 0
  | .mapq _ _ _ _ _ => 0
  | .unmapq _ _ _ => 0
  | .setage _ _ => 0
  | .setmode _ => 0
  | .clkcut => 0
  | .debugAttach _ => 0
  | .debugDetach _ => 0
  | .releaseContinue _ _ _ _ => 0
  | .releaseDeliver _ _ _ _ => 0
  | .disposeRetry _ _ _ _ => 0
  | .disposeKill _ _ _ _ => 0
  | .createctx _ _ _ _ _ => 0
  | .setfq _ _ _ _ => 0
  | .debugQuery _ _ => 0
  | .freeze _ => 0
  | .tapReadout _ => 0
  | .packageReset _ => 0
  | .thermalTrip _ => 0
  | .clockChangeDone => 0
  | .mgmtReadStatus _ _ => 0
  | .mgmtSetPlimit _ _ => 0
  | .mgmtFreeze _ => 0
  | .mgmtThaw _ => 0
  | .mgmtReadout _ _ => 0
  | .mgmtPackageReset _ _ => 0
  | .getVersion => 0
  | .getCapabilities => 0
  | .negotiateAlgorithms => 0
  | .getDigests => 0
  | .getCertificate _ => 0
  | .challenge _ => 0
  | .getMeasurements _ => 0
  | .feltPacketReceive _ _ => 0
  | .heldPacketDeliver _ => 0
  | .flitRetransmit _ _ => 0
  | .linkFailed _ _ => 0
  | .clockBeacon _ => 0
  | .vAck _ => 0
  | .beaconTimeout _ _ => 0
  | .dieRemove _ => 0
  | .networkSplit => 0
  | .renharPacketReceive _ _ => 0
  | .circuitRestored _ _ => 0
  | .peerLost _ _ => 0
  | .rdmaWrite _ _ _ _ => 0
  | .rdmaRead _ _ _ _ => 0
  | .rdmaSend _ _ => 0
  | .rdmaAtomic _ => 0
  | .cnpReceive _ => 0
  | .ecnPacket _ => 0
  | .rateRestore _ => 0
  | .connectionError _ => 0
  | .coreClockCycle => 0
  | .icinvComplete _ _ => 0
  | .tlbinvComplete _ _ => 0
  | .queueRestart _ _ => 0
  | .circuitReconfiguration _ _ => 0
  | .connectionRequest _ _ _ => 0
  | .priorityFlowControlFrame _ _ => 0

/-- The word of a well-formed instruction. -/
def encode (i : Instr) : Word := BitVec.ofNat 32 (encodeNat i)

/-- The little-endian word of four bytes (00 R2). -/
def wordOfBytes (b0 b1 b2 b3 : Byte) : Word :=
  BitVec.ofNat 32 (b0.toNat + b1.toNat * 256 + b2.toNat * 65536 + b3.toNat * 16777216)

/-- The little-endian bytes of a number (00 R2). -/
def bytesOfNat (v : Nat) : Nat → List Byte
  | 0 => []
  | n + 1 => BitVec.ofNat 8 v :: bytesOfNat (v / 256) n

/-- The little-endian number of a list of bytes. -/
def natOfBytes : List Byte → Nat
  | [] => 0
  | b :: bs => b.toNat + 256 * natOfBytes bs

/-- The instruction in the four bytes at the head of a list. -/
def decodeBytes : List Byte → Except Illegal Instr
  | b0 :: b1 :: b2 :: b3 :: _ => decodeWord (wordOfBytes b0 b1 b2 b3)
  | _ => .error .instruction

/-- The decoder on the bits of an instruction as the opcode table numbers them. -/
def decodeTableWord (nbits w : Nat) : Option Instr :=
  match decodeBytes (bytesOfNat (w % 2 ^ nbits) 4) with
  | .ok i => some i
  | .error _ => none

end Sys2Proof
end

