-- ==== Sys2Proof/Config.lean ====
section
/-! DEFINITION. What an implementation fixes: the figures of the package (00 Table 0-2), and the values the spec
leaves open. A free value is an opaque constant: nothing in Lean can compute it. -/

namespace Sys2Proof.Config

/-- Cores of the package (00 Table 0-2). -/
abbrev cores : Nat := 192

/-- Cores of one C-die. -/
abbrev coresPerDie : Nat := 24

/-- Bytes of HBM4 (21 Table 21-2: physical addresses below 2^39). -/
abbrev hbmBytes : Nat := 2 ^ 39

/-- Bytes of gang-local memory a core may reserve (01 Table 1-2). -/
abbrev coreLocal : Nat := 1280 * 1024

/-- Threads of a core that may hold a window (01 Table 1-2). -/
abbrev coreWindows : Nat := 2048

/-- Copies in flight on a core (01 Table 1-2). -/
abbrev coreCopies : Nat := 64

/-- Operations the tile scheduler of a core holds (10 R211). -/
abbrev schedulerOps : Nat := 128

/-- Bytes of a core's default record pool (02 R21). -/
abbrev poolBytes : Nat := 16 * 1024 * 1024

/-- The stepping of IDENT (19 Table 19-2): later steppings are higher; the spec does not say which this is. -/
opaque stepping : BitVec 8

/-- The n-th back-off draw, before it is reduced to its bound (20 R320, 22 R349: drawn uniformly). -/
opaque freeDraw : Nat → Nat

/-- The n-th reading whose value the spec does not give: temperatures, rail currents, stored bits and check bits of
a read-out, bodies of attestation messages (22 R356, 24 R381, R385). -/
opaque freeReading : Nat → BitVec 64

/-- The virtual channel of a Felt packet (23 Table 23-2), by whether it is of the publication class: the spec numbers none. -/
opaque feltChannel : Bool → Nat

/-- Fuse and mode state, or partition descriptors, as the bytes that are measured (24 R381): the spec does not give their
layout. -/
opaque stateBytes : List Nat → List (BitVec 8)

/-- The measurements of the images from which the package of State.reset has been brought up, by index (24 R380). -/
opaque imageDigest : Nat → BitVec 256

/-- The bytes of a management request that its signature covers (24 R385): operation, operands and sequence number, in a layout
that the spec does not give. -/
opaque requestBytes : List Nat → List (BitVec 8)

end Sys2Proof.Config
end

