-- ==== Sys2Proof/Machine/State.lean ====
section
/-! DEFINITION. The state of the package: threads with their continuation records, gangs, launches, contexts, queues,
partitions, cores, engines, memory, fabrics, host port and security root, as plain data. Tables that the spec makes
of fixed size are lists of the rows that differ from their reset value. -/

namespace Sys2Proof.Machine

open Sys2Proof (Byte Word DWord Instr)

/-- Why the model stops. -/
inductive Fault where
  /-- The package is frozen and the step would need its clocks: raised by `step` with no agenda entry left that a
  freeze admits (22 R356: no state changes during a freeze). Safe: the hardware stands still. -/
  | frozen
  /-- Bring-up stopped at a failed verification (24 R379): raised by `step`; only the management port answers.
  Safe: the hardware runs nothing. -/
  | bringUpFailed
  deriving DecidableEq, Repr

/-- Why the model gives an instruction no meaning. -/
inductive Refusal where
  /-- The instruction of this mnemonic has no meaning yet: raised by the arms of `exec`. Safe: nothing is claimed. -/
  | notModelled (mnemonic : String)
  deriving DecidableEq, Repr

/-- The trap codes (21 Table 21-4). -/
inductive Trap where
  | illegalInstruction | illegalOperand | illegalChain | illegalLiteral | privileged | formatDivergence
  | misaligned | segmentLimit | privateForeign | peerInvalid | peerUnreachable | malformedCoord
  | staleHandle | poolExhausted | moduleRetired | breakpoint | userTrap
  deriving DecidableEq, Repr

/-- A pipe's latch of one thread while live (02 R37): its value, and the threads of the issue group that wrote it. -/
structure Latch where
  val : Word
  group : List Nat
  deriving DecidableEq, Repr

/-- The role of a bound stream (12 R246, Table 12-4). -/
inductive Role where
  | level | append | intersection | union | slave
  deriving DecidableEq, Repr

/-- A stream table entry as read (12 Table 12-2). -/
structure Entry where
  kind : Nat := 0
  valf : Bool := false
  nochk : Bool := false
  ext : Nat := 0
  a0 : DWord := 0
  a1 : DWord := 0
  val : DWord := 0
  counts : List Nat := []
  strides : List Int := []
  deriving DecidableEq, Repr

/-- The state of a bound stream (12 Table 12-3), with the Carder's copy of its entry (R248: none after a segment end)
and the kind it was bound under, 255 where a record from a peer does not tell. -/
structure Stream where
  snum : Nat
  entry : DWord := 0
  pos : Nat := 0
  fin : Nat := 0
  start : Nat := 0
  crd : Word := 0
  parent : Nat := 0
  role : Role := .level
  started : Bool := false
  valid : Bool := false
  done : Bool := false
  /-- Derived: source a. Slave: its derived stream. -/
  linkA : Nat := 0
  /-- Derived: source b. Slave: its side, 0 a or 1 b. -/
  linkB : Nat := 0
  kind : Nat := 0
  copy : Option Entry := none
  deriving DecidableEq, Repr

/-- One posted store (02 Table 2-6), with the location its address was translated to at issue (05 R112). -/
structure SbEntry where
  data : DWord
  vaddr : Nat
  peer : Nat := 0
  peerf : Bool := false
  /-- SIZE: 0 to 3 for 1, 2, 4 and 8 bytes. -/
  size : Nat
  loc : Nat
  tag : Nat := 0
  /-- The physical address behind a host window; 0 elsewhere. -/
  wpa : Nat := 0
  /-- An RDMA WRITE has been sent for it (23 R377). -/
  sent : Bool := false
  /-- Its drain has met an error, and RETRY is awaited (21 R336). -/
  failed : Bool := false
  deriving DecidableEq, Repr

/-- A sealed batch not yet reported complete (11 R237 to R239). -/
structure Batch where
  num : Nat
  ops : List Nat
  bytes : Nat
  deriving DecidableEq, Repr

/-- The open batch: whether it holds any operation, which are unfinished, its pending bytes (11 R237, R239). -/
structure OpenBatch where
  issued : Bool := false
  ops : List Nat := []
  bytes : Nat := 0
  deriving DecidableEq, Repr

/-- Load data on its way (09 R180): the registers and values it will write, and the value for L2. -/
structure PendingLoad where
  writes : List (Nat × Word)
  latch : Option Latch
  /-- Where in this package's memory it reads: location and bytes; none where its data are at hand. -/
  loc : Option (Nat × Nat) := none
  /-- The result of a release atomic, which acknowledges it (05 R118). -/
  acks : Bool := false
  deriving DecidableEq, Repr

/-- The three barriers (09 R195). -/
inductive BarKind where
  | gang | cluster | launch
  deriving DecidableEq, Repr

/-- A deferred `ldc` load (09 R185): what to read and where in the record it goes. -/
structure DeferredLoad where
  /-- Location and size of the access. -/
  loc : Nat
  size : Nat
  signed : Bool
  dest : Nat
  va : Nat
  peerf : Bool
  peer : Nat := 0
  /-- The physical address behind a host window; 0 elsewhere. -/
  wpa : Nat := 0
  /-- Its request has left for a peer, or for the host. -/
  sent : Bool := false
  /-- The context tag in effect. -/
  tag : Nat := 0
  deriving DecidableEq, Repr

/-- A load or a returning atomic of a lane that a peer or the host answers: the location, the physical address behind a
host window, what goes to a peer, and whether the answer is an acquire's. -/
structure RemoteRead where
  peer : Option Nat
  va : Nat
  loc : Nat
  size : Nat
  wpa : Nat := 0
  kind : RenharKind
  acquire : Bool := false
  /-- The lanes of its run, in whose order the atomics on one word are performed (09 R188). -/
  lanes : List Nat := []
  /-- The Carder asks, and the thread waits for its stream (12 R251). -/
  stream : Bool := false
  deriving DecidableEq, Repr

/-- What has become of it: the lane waits in issue until it is answered, since its home may still fault it (21 R331, 23
R378). `result` is the old value of an atomic that its home has performed. -/
inductive RemoteLoad where
  | wanted (r : RemoteRead)
  | sent (r : RemoteRead) (result : Option Nat)
  deriving DecidableEq, Repr

/-- Where a thread is: in a window, or where its record lies and what it waits for (02 Table 2-3). -/
inductive Place where
  | window
  | binned (cycle : Nat)
  | barrier (kind : BarKind) (counted : Bool)
  | batchWait (n : Nat)
  | ldcWait
  | forward
  | copySlot
  | storeSlot
  /-- In the fault bin of its core: the fault word, and the peer where its PEERF is set. -/
  | faultBin (word : DWord) (peer : Nat)
  /-- Its pool is full: it keeps its window and then completes this end (02 R21). -/
  | stalled (next : Place)
  /-- Its awaited event has fired while its context stops or is stopped (22 R341). -/
  | unbinned
  | held
  | exiting
  | exited
  deriving DecidableEq, Repr

/-- A parked record that a fault has taken to its fault bin: where it waits for, and what of its FLAGS and TFWORD the fault
word replaces there (21 R326, log 39). -/
structure ParkedRecord where
  place : Place
  forced : Bool := false
  trapRec : Bool := false
  latchesSaved : Bool := false
  tfword : DWord := 0
  deriving DecidableEq, Repr

/-- The phase of a forward (22 R348, R349). -/
inductive FwdPhase where
  /-- Batches and, for a peer, stores are not yet complete; or the request is not yet made. -/
  | ready
  /-- The request has reached the destination. -/
  | requested
  /-- Refused; the retry is due at the cycle named. -/
  | backoff (due : Nat)
  /-- Granted: the pool slot and the tile ranges are taken at the destination, and the record is on its way. -/
  | transit
  deriving DecidableEq, Repr

/-- A forward in progress. -/
structure Forward where
  phase : FwdPhase := .ready
  /-- Destination core; 255 lets the destination choose. -/
  dest : Nat
  peerf : Bool := false
  peer : Nat := 0
  plaunch : Nat := 0
  /-- Gang-local offset of the `fwd.ack` word. -/
  ack : Option Nat := none
  /-- The packet of the forward. -/
  packet : Nat := 0
  refusals : Nat := 0
  /-- Moved by Milliner (R347): where the record lay. -/
  byMove : Bool := false
  /-- The move takes the record out of the save area (25 R387). -/
  fromSave : Bool := false
  from_ : Option Place := none
  source : Nat := 0
  /-- The ranges reserved at the destination. -/
  ranges : List Nat := []
  deriving DecidableEq, Repr

/-- What a thread waits for in issue, by the counter that counts it (13 Table 13-1). -/
inductive WaitKind where
  | data | sync | stream | queue
  deriving DecidableEq, Repr

/-- A privileged instruction waiting in issue (19 R288). -/
inductive SysWait where
  | none
  /-- Waiting for every die to acknowledge a discard of code lines (19 R295, R298). -/
  | discard
  /-- Waiting for every user of translations that are invalidated: context tag, address, count of pages (19 R296). -/
  | invalidation (tag va pages : Nat)
  /-- A MODE write waiting for its clock (19 R292). -/
  | clock
  /-- Acknowledged: the instruction takes effect when its run issues again. -/
  | complete
  /-- The clock asked for, or a slower one, is in force (24 R383). -/
  | clockDone
  deriving DecidableEq, Repr

/-- What a thread's words of the run in progress read: the values before the run (02 R35). -/
structure Before where
  regs : List Word
  pred : BitVec 8
  fpsm : BitVec 8
  la : Option Latch
  lb : Option Latch
  lm : Option Latch
  ls : Option Latch
  sysstat : DWord
  deriving DecidableEq, Repr

/-- A stream instruction of the run, which acts after the run's advances, in word order (12 R253). -/
inductive StreamAct where
  | bind (s : Nat) (entry : DWord) (parent : Word)
  | derive (s a b : Nat) (isUnion : Bool)
  | free (s : Nat)
  | skip (s : Nat) (v : Word)
  | skipN (s : Nat) (n : Word)
  | append (s : Nat) (v : Word)
  deriving DecidableEq, Repr

/-- How a word ends a lane's part of a run (02 Table 2-3). -/
inductive LaneEnd where
  | trap (t : Trap)
  /-- MALFORMED_COORD, with the stream at the offending element (12 R250). -/
  | coordTrap (x : Stream)
  /-- A trap of `check_peer`, with the peer and its STATE for the system log (21 R331). -/
  | peerTrap (t : Trap) (peer state : Nat)
  /-- A replayable fault, with its fault word (21 R326) and, for a peer's page, the peer. -/
  | fault (word : DWord) (peer : Nat)
  | copySlot
  | storeSlot
  | wait (k : WaitKind)
  /-- A privileged instruction waits for acknowledgements. -/
  | sysWait (w : SysWait)
  /-- A MODE write waits for its clock, its DRAIN made (19 R292). -/
  | modeWait (drain clk : BitVec 2)
  /-- A command goes to a peer's queue, and the lane waits in issue for the answer (09 R200). -/
  | enqueue (peer idx : Nat) (command : List Byte)
  /-- A read goes to a peer or to the host, and the lane waits in issue for the answer. -/
  | remote (r : RemoteRead)
  deriving DecidableEq, Repr

/-- An `enq` to a peer's queue that waits in issue for its answer (09 R200): the command to be sent, or what has become
of it. -/
inductive RemoteEnq where
  | wanted (peer idx : Nat) (command : List Byte)
  | sent
  | accepted
  /-- The ring is full. -/
  | full
  /-- No such queue, or none that the command may go to. -/
  | refused
  deriving DecidableEq, Repr

/-- What takes effect after the run (19 R291, R293, R294). -/
inductive AfterRun where
  | segment (launch gang core : Nat) (detached : Bool) (i : Nat) (base limit : BitVec 48) (pshift : BitVec 5)
  | counterEnable (tag : Nat) (on : Bool)
  | zeroCounters (core : Nat)
  | effectiveTag (launch thread tag : Nat)
  deriving DecidableEq, Repr

/-- What becomes of a lane after a run that has its effect: it goes on, it transfers, or its segment ends. A trap is no
such end: it is a `LaneEnd`, and its run has no effect in the lane (02 R39). -/
inductive Next where
  | fall
  | jump (packet pos : Nat)
  /-- A voluntary end: where it waits, its resume packet and its carry mask. -/
  | segment (place : Place) (packet : Nat) (carry : DWord)
  | exit
  /-- `tret`: the segment ends without a record (07 R160). -/
  | handlerReturn (packet pos : Nat)
  deriving DecidableEq, Repr

/-- A thread of an admitted gang: the state it runs with, and, out of its window, its continuation record (02 R22). -/
structure Thread where
  launch : Nat
  gang : Nat
  thread : Nat
  core : Nat
  place : Place := .window
  saved : Bool := false
  /-- In a detached gang where it is (02 R42). -/
  detachedHere : Bool := false
  /-- Window size in registers; the registers themselves, as many. -/
  window : Nat := 0
  regs : List Word := []
  carry : DWord := 0
  packet : Nat := 0
  pos : Nat := 0
  pred : BitVec 8 := 1
  fpsm : BitVec 8 := 0
  la : Option Latch := none
  lb : Option Latch := none
  lm : Option Latch := none
  ls : Option Latch := none
  streams : List Stream := []
  sbuf : List SbEntry := []
  peerAck : Nat := 0
  bsealed : BitVec 16 := 0
  boldest : BitVec 16 := 1
  batches : List Batch := []
  openBatch : OpenBatch := {}
  handle0 : Word := 0
  handle1 : Word := 0
  /-- FLAGS (02 Table 2-5). -/
  forced : Bool := false
  trapRec : Bool := false
  latchesSaved : Bool := false
  detached : Bool := false
  tfword : DWord := 0
  trapWord : DWord := 0
  /-- Effective context tag (19 R294). -/
  efftag : Nat := 0
  sysstat : DWord := 0
  loads : List PendingLoad := []
  /-- It has issued a run of its packet and the packet's next run is to follow (02 R35). -/
  inPacket : Bool := false
  /-- Threads of its last issue group, and how often it was passed over since (02 R36). -/
  lastGroup : List Nat := []
  passed : Nat := 0
  barN : Nat := 0
  barcN : Nat := 0
  barxN : Nat := 0
  relUnack : Nat := 0
  ownUnack : Nat := 0
  dieUnack : Nat := 0
  sysWait : SysWait := .none
  /-- The lanes of the group that waits with it (19 R288). -/
  sysMates : List Nat := []
  waiting : Option WaitKind := none
  fwd : Option Forward := none
  /-- Offsets of `fwd.ack` words to which 1 is still to be added (09 R199). -/
  fwdAcks : List Nat := []
  ldc : Option DeferredLoad := none
  /-- A parked record in the fault bin (21 R336). -/
  parked : Option ParkedRecord := none
  /-- The position of the store, reduction, signal or release of the run in which it waits that has been made, and is not
  made again (05 R113). -/
  posted : Option Nat := none
  /-- The result of that word, where it is an atomic: it is written with the run. -/
  kept : Option PendingLoad := none
  remoteEnq : Option RemoteEnq := none
  remoteLoad : Option RemoteLoad := none
  /-- What peers and the host have answered to the reads of the run in which it waits: a read, and the old value that its
  answer brought. -/
  answers : List (RemoteRead × Nat) := []
  /-- The run in progress. -/
  before : Option Before := none
  readS : List (Nat × Word) := []
  /-- What reads, and what queries, of streams met before the run's words act: stream and end. -/
  readErr : List (Nat × LaneEnd) := []
  lookErr : List (Nat × LaneEnd) := []
  /-- Streams that the run's reads have advanced, sources of derived ones among them. -/
  advanced : List Nat := []
  /-- Values that the run's `speek` words look at, by stream, as a read before the run would give them (12 R259). -/
  peeked : List (Nat × Word) := []
  /-- Streams as the run's queries see them: as they were before the run, materialised. -/
  looked : List (Nat × Stream) := []
  acts : List (Nat × StreamAct) := []
  /-- FPSM flags the run's words set, and whether one of them clears those from before (08 R163). -/
  flagsSet : BitVec 8 := 0
  flagsClear : Bool := false
  next : Next := .fall
  laneEnd : Option (LaneEnd × Nat) := none
  /-- What the run in progress asks of a peer or the host, unless a later word ends it: the read, the word's position. -/
  ask : Option (RemoteRead × Nat) := none
  /-- The run waits at a later word, and of it the lane makes only the store or reduction at this position. -/
  posting : Option (Nat × LaneEnd × Nat) := none
  deriving DecidableEq, Repr

/-- A segment descriptor (04 Table 4-2). -/
structure Seg where
  base : BitVec 48 := 0
  limit : BitVec 48 := 0
  pshift : BitVec 5 := 0
  deriving DecidableEq, Repr

/-- A gang where it is resident, or a detached gang's copy (02 R15, R42). -/
structure Gang where
  launch : Nat
  gang : Nat
  core : Nat
  detached : Bool := false
  kregs : List Word := []
  segs : List Seg := []
  resident : Nat := 0
  lastIssue : Nat := 0
  saved : Bool := false
  /-- A place that a reservation holds on a core, not yet taken (20 R320). -/
  reserved : Bool := false
  deriving DecidableEq, Repr

/-- STATE of a launch (20 Table 20-2), the ones a live launch has. -/
inductive LState where
  | accepted | running | complete
  deriving DecidableEq, Repr

/-- A unit of a launch, by its lowest gang, whose attempts at admission have failed (20 R320): how many, and the cycle
in which the next is due. -/
structure UnitTry where
  gang : Nat
  fails : Nat
  due : Option Nat := none
  deriving DecidableEq, Repr

/-- A launch (20 Table 20-1, R306, R312, R317 to R320; 22 R341). -/
structure Launch where
  handle : Nat
  ctx : Nat
  fdie : Nat := 0
  queue : Option (Nat × Nat) := none
  job : Nat := 0
  index : Nat := 0
  deps : List Nat := []
  parent : Option Nat := none
  recordVA : Nat := 0
  entry : Nat := 0
  ngang : Nat := 1
  gsize : Nat := 1
  clsize : Nat := 1
  kernel : Bool := false
  cohort : Bool := false
  detach : Bool := false
  local_ : Nat := 0
  rclass : Nat := 0
  prio : Nat := 0
  fpmode : Nat := 0
  stoseed : BitVec 64 := 0
  donesig : Nat := 0
  seginit : List Seg := []
  kinit : List Word := []
  hint : Nat := 0
  hintlen : Nat := 0
  trappkt : Nat := 0
  state : LState := .accepted
  eligible : Option Nat := none
  admitted : List Nat := []
  exitedCount : Nat := 0
  /-- Effective priority 15 since this cycle (20 R318). -/
  top : Option Nat := none
  locked : Bool := false
  /-- Units whose attempts have failed. -/
  tries : List UnitTry := []
  preq : Bool := false
  reached : Bool := false
  stopped : Bool := false
  deadline : Option Nat := none
  deriving DecidableEq, Repr

/-- What a reservation is for: the admission of a unit, its return from the save area, or its move (22 R346, R350). -/
inductive PlanKind where
  | newUnit | restore | move
  deriving DecidableEq, Repr

/-- The two-phase reservation of a unit (20 R320): its gangs with their cores, the cores still to reserve and those held. -/
structure AdmitPlan where
  /-- The distributor that makes it; 10 for Milliner. -/
  fdie : Nat
  kind : PlanKind := .newUnit
  launch : Nat
  gangs : List (Nat × Nat)
  todo : List Nat
  held : List Nat := []
  deriving DecidableEq, Repr

/-- An entry of a context's module table (19 R297). -/
inductive ModState where
  | live | retired
  deriving DecidableEq, Repr

structure Module where
  num : Nat
  state : ModState
  start : Nat
  length : Nat
  deriving DecidableEq, Repr

/-- What a context is doing (21 R333, 22 R341, R351). -/
inductive CtxRun where
  | running
  | stopping
  | stopped
  | held
  /-- Being removed, with this many units of Table 22-1 reset. -/
  | removing (units : Nat)
  deriving DecidableEq, Repr

/-- A context (21 R321, 19 R294, R297, 22 R342). -/
structure Context where
  tag : Nat
  partition : Nat := 0
  tbase : Nat := 0
  savebase : Nat := 0
  savelen : Nat := 0
  ctren : Bool := false
  pqdl : Nat := 200000
  modules : List Module := []
  run : CtxRun := .running
  debug : Bool := false
  /-- The fault reported to Milliner: word, launch, thread (21 R333). -/
  report : Option (DWord × Nat × Nat) := none
  deriving DecidableEq, Repr

/-- A user queue with its control block (20 Table 20-3). -/
structure Queue where
  part : Nat
  idx : Nat
  fdie : Nat := 0
  ring : Nat := 0
  logn : Nat := 4
  qprio : Nat := 0
  devprod : Bool := false
  privq : Bool := false
  qstate : Nat := 0
  ctx : Nat := 0
  head : Nat := 0
  tail : Nat := 0
  headwb : Nat := 0
  slot : Option Nat := none
  mappedAt : Nat := 0
  pendingSince : Option Nat := none
  /-- Effective priority at the last ageing wake. -/
  agedTo : Nat := 0
  /-- Kicks received while unmapped, in their order. -/
  kicked : List Nat := []
  /-- The command at HEAD, as it was read when the queue reached it (20 R311). -/
  fetched : Option (List Byte) := none
  waitInProgress : Bool := false
  /-- A WAIT that an addition has made worth reading again (20 R313), and the location it reads. -/
  waitArmed : Bool := true
  waitLoc : Nat := 0
  job : Nat := 0
  jobLaunches : Nat := 0
  /-- Where its control block lies, once Milliner has given one. -/
  qcbAt : Option Nat := none
  deriving DecidableEq, Repr

/-- An entry of a partition's peer map (21 R331), which lies in memory at PEERMAP. -/
structure PeerEntry where
  state : Nat := 0
  reconf : Bool := false
  rctx : Nat := 0
  deriving DecidableEq, Repr

/-- A tenant partition (21 Table 21-6). -/
structure Partition where
  num : Nat
  cores : List Nat := []
  slots : List Nat := []
  hbm : List (Nat × Nat) := []
  hostwin : List Nat := []
  peermap : Nat := 0
  age : Nat := 20
  deriving DecidableEq, Repr

/-- A translation a core's TLB holds (21 R325). -/
structure TlbEntry where
  tag : Nat
  base : Nat
  size : Nat
  pa : Nat
  w : Bool
  x : Bool
  peer : Bool
  level : Nat
  deriving DecidableEq, Repr

/-- A non-leaf entry a die's walk cache holds. -/
structure WalkEntry where
  tag : Nat
  level : Nat
  base : Nat
  table : Nat
  deriving DecidableEq, Repr

/-- A block of a core's record pool that is taken (02 R21): in region 0, the default one, or an extension. -/
structure PoolBlock where
  region : Nat
  off : Nat
  size : Nat
  launch : Nat
  gang : Nat
  /-- None: the gang's reservation. Some: the record of this thread. -/
  thread : Option Nat := none
  deriving DecidableEq, Repr

/-- A record-pool extension (19 R300): its number, its 64 KiB frames (none where it has given one back), its length, the
context that made it. -/
structure PoolExt where
  region : Nat
  frames : List (Option Nat)
  length : Nat
  ctx : Nat
  withdrawn : Bool := false
  deriving DecidableEq, Repr

/-- A bin's marks (02 R26, R28). -/
structure BinMark where
  launch : Nat
  gang : Nat
  packet : Nat
  pos : Nat
  ready : Bool := false
  deferredSince : Option Nat := none
  deriving DecidableEq, Repr

/-- A line of a core's L1 data cache (04 R87): its location div 128, its bytes, the cycle in which it was filled. -/
structure DataLine where
  line : Nat
  bytes : List Byte
  since : Nat
  deriving DecidableEq, Repr

/-- A copy in a die's L2 of a line homed on another die or in a peer package (04 R94): bit i of `valid` says that its
i-th byte is held, bit i of `owned` that the die owns that byte. -/
structure DieLine where
  die : Nat
  line : Nat
  bytes : List Byte
  valid : BitVec 128 := 0
  owned : BitVec 128 := 0
  since : Nat
  deriving DecidableEq, Repr

/-- What the home slice of a line records (04 R94): dies and packages that hold copies, the die and the package that
last registered ownership in it. -/
structure DirEntry where
  line : Nat
  dies : List Nat := []
  packages : List Nat := []
  /-- How those packages name the line: package, context tag, line of the address. -/
  names : List (Nat × Nat × Nat) := []
  owner : Option Nat := none
  ownerPackage : Option Nat := none
  deriving DecidableEq, Repr

/-- A run or step that has met a residue mismatch and is performed again (21 R337): its unit, its launch and thread or
its operation, the code address or step number. -/
structure Retry where
  unit : Nat
  owner : Nat
  item : Nat
  place : Nat
  deriving DecidableEq, Repr

/-- A core, as far as it differs from its state after reset. -/
structure Core where
  core : Nat
  cycles : BitVec 64 := 0
  inService : Bool := true
  issued : Bool := false
  /-- The Teasel has drained a bin in this cycle (02 R28). -/
  drained : Bool := false
  counters : List (Nat × BitVec 64) := []
  /-- CTRZERO has been written in this cycle: counting starts with the next one (19 R291). -/
  zeroed : Bool := false
  gen : Nat := 0
  exts : List PoolExt := []
  pool : List PoolBlock := []
  bins : List BinMark := []
  tlb : List TlbEntry := []
  /-- I-L1: physical line numbers with the 128 bytes of each. -/
  icache : List (Nat × List Byte) := []
  fills : List Nat := []
  /-- The L1 data cache, oldest line first. -/
  dcache : List DataLine := []
  /-- Residue mismatches that hardware errors will cause: unit (0 to 3 the engines, 4 the pipes) and how many, one
  after another (21 R337). Nothing in the package puts one here. -/
  errors : List (Nat × Nat) := []
  /-- Runs and steps under way that have met one. -/
  retried : List Retry := []
  /-- Engines out of service. -/
  enginesOff : List Nat := []
  deriving DecidableEq, Repr

/-- The copy instructions (11 R226). -/
inductive CopyKind where
  | tensor | gather | scatter | linear | reduce
  deriving DecidableEq, Repr

/-- Latency classes (11 R240). -/
inductive CopyClass where
  | host | peer | otherDie | localHbm
  deriving DecidableEq, Repr

/-- A tensor layout record as read at issue (11 Table 11-2). -/
structure Layout where
  rank : Nat := 0
  es : Nat := 1
  swz : Nat := 0
  nosent : Bool := false
  fill : DWord := 0
  extents : List Nat := []
  strides : List Int := []
  box : List Nat := []
  deriving DecidableEq, Repr

inductive CopyState where
  | waiting
  | parked (word : DWord) (peer : Nat)
  | moved
  deriving DecidableEq, Repr

/-- A copy in flight (11 R226 to R242). -/
structure Copy where
  id : Nat
  core : Nat
  launch : Nat
  gang : Nat
  thread : Nat
  kind : CopyKind
  cls : CopyClass
  layout : Layout := {}
  src : DWord := 0
  dst : DWord := 0
  index : DWord := 0
  toTensor : Bool := false
  origin : List Int := []
  count : Nat := 0
  len : Nat := 0
  rtype : Nat := 0
  nominal : Nat := 0
  /-- Segment registers and effective tag of the issuing thread at issue (11 R226, 19 R294). -/
  segs : List Seg := []
  tag : Nat := 0
  detachedHere : Bool := false
  state : CopyState := .waiting
  /-- It has left its class's queue (11 R240). -/
  started : Bool := false
  /-- Pieces performed: words, box points or rows, then mask words; for `cp.red` the destination words done. -/
  progress : Nat := 0
  /-- Index words read so far (11 R234: each is read once). -/
  indices : List Word := []
  /-- A forced save has parked it (22 R345). -/
  setAside : Bool := false
  /-- The lines that its last read and its last write touched. -/
  readLine : Option Nat := none
  writeLine : Option Nat := none
  /-- Writes that a peer has not acknowledged (05 R118). -/
  unacked : Nat := 0
  /-- The line, by a location in it, that a peer has been asked for. -/
  asked : Option Nat := none
  deriving DecidableEq, Repr

inductive TileKind where
  | task | sparseTask | load | store | zero | convert | fence
  deriving DecidableEq, Repr

inductive TileState where
  | queued
  | dispatched
  | suspended (word : DWord)
  | complete
  deriving DecidableEq, Repr

/-- A tile operation (10 R209 to R223). -/
structure TileOp where
  id : Nat
  core : Nat
  launch : Nat
  gang : Nat
  thread : Nat
  /-- The tile range it acts on. -/
  range : Nat
  kind : TileKind
  fmt : Word := 0
  pa : DWord := 0
  pb : DWord := 0
  shape : Word := 0
  sa : Word := 0
  sb : Word := 0
  psa : DWord := 0
  psb : DWord := 0
  pm : DWord := 0
  bdep : Option Nat := none
  ctl : Word := 0
  segs : List Seg := []
  tag : Nat := 0
  state : TileState := .queued
  step : Nat := 0
  progress : Nat := 0
  /-- The row mask as the task has read it, once (10 R216). -/
  rows : Option (List Word) := none
  /-- Its place in the order of dispatch. -/
  order : Nat := 0
  setAside : Bool := false
  /-- The line that its last access touched. -/
  lastLine : Option Nat := none
  deriving DecidableEq, Repr

/-- A tile range held by a handle, or being freed (10 R203, R204). -/
structure TileRange where
  /-- MODEL'S OWN: a number of its own, since a generation may come again (10 R206). -/
  id : Nat := 0
  core : Nat
  engine : Nat
  base : Nat
  count : Nat
  gen : Nat
  launch : Nat
  thread : Nat
  /-- The slot of the thread that holds its handle, until it is freed. -/
  slot : Nat := 0
  bound : Bool := false
  freeing : Bool := false
  /-- Reserved at the destination of a forward. -/
  incoming : Bool := false
  /-- In the save area. -/
  saved : Bool := false
  /-- The contents while they are in the save area or on their way (22 R346, R348): offset within the range, and word. -/
  image : List (Nat × Word) := []
  deriving DecidableEq, Repr

/-- A page being moved by `claim` (09 R192): context, 64 KiB page number, target die; when moving, the frame it goes to
and the frame it lies on. -/
structure PageMove where
  tag : Nat
  page : Nat
  die : Nat
  moving : Option (Nat × Nat) := none
  deriving DecidableEq, Repr

/-- A pending fault of a page on a core (21 R327). -/
structure PendingFault where
  fdie : Nat
  word : DWord
  launch : Nat
  tag : Nat
  peer : Nat
  core : Nat
  posted : Bool := false
  deriving DecidableEq, Repr

/-- The fault queue of an F-die (21 R328). -/
structure FaultQueue where
  fdie : Nat
  log : Nat
  base : Nat
  headPA : Nat
  tail : Nat := 0
  headSeen : Nat := 0
  deriving DecidableEq, Repr

/-- A line in the system log (20 R305, 21 R331). -/
inductive LogLine where
  | peerTrap (peer state : Nat)
  | statusFault (word : DWord) (launch : Nat)
  | queueStop (part idx qstate : Nat) (word : DWord)
  | contextFault (tag launch thread : Nat) (word : DWord)
  | moveRefused (launch thread : Nat)
  | dieLost (die : Nat)
  | unreported (die : Nat)
  deriving DecidableEq, Repr

/-- What a Felt packet does at its destination when it is delivered (23 R361, R362). -/
inductive FeltBody where
  /-- Requests and responses, copy traffic: nothing that is not done with the packet's own round trip; how many lines of
  data it carries. -/
  | message (lines : Nat)
  /-- A write at its home: a plain store with its registration of ownership, or a release store. -/
  | write (loc n v : Nat)
  /-- A reduction at its home: operation, compare value, data. -/
  | modify (loc n op cmp v : Nat)
  /-- A signal's addition, in the space of a context (09 R200). -/
  | signal (tag loc v : Nat)
  /-- The record of a thread that is forwarded or moved. -/
  | record (launch thread : Nat)
  /-- A command on its way to the F-die of its queue. -/
  | enqueue (part idx : Nat) (command : List Byte)
  /-- A request for a peer package, on its way to the F-die: of which partition, thread and core, its peer and address. -/
  | renhar (part launch thread core peer va : Nat) (kind : RenharKind)
  deriving DecidableEq, Repr

/-- A page of a peer that has failed at its home for reads, or for writes and atomics (21 R331): as which partition
numbers the peer, its 64 KiB page, fault kind and level. -/
structure PeerFault where
  part : Nat
  peer : Nat
  page : Nat
  read : Bool
  kind : Nat
  level : Nat
  deriving DecidableEq, Repr

/-- A Felt packet that is sent and not delivered (23 R361, R362). -/
structure FeltPacket where
  src : Nat
  dst : Nat
  clkgen : Nat
  stamped : Bool
  stamp : List Nat
  trailer : Option (List (List Nat))
  tag : Nat
  /-- It waits in the hold buffer of its destination. -/
  arrived : Bool := false
  /-- Its credit is one of its source's own 16 (23 R363); else a shared one. -/
  reserved : Bool := true
  /-- It is performed together with the packet before it: a reduction of the next lane of one word (09 R188). -/
  joined : Bool := false
  body : FeltBody := .message 0
  /-- The thread that sent it, and the acknowledgement of the home that this thread awaits (05 Table 5-3). -/
  sender : Option (Nat × Nat) := none
  acks : Option AckKind := none
  deriving DecidableEq, Repr

/-- The clock of one die (23 R360, R363, R364). -/
structure DieClock where
  die : Nat
  matrix : List (List Nat)
  v : List Nat
  clkgen : Nat := 1
  /-- The V vectors it has been told of, by destination: packets of its own the destination has delivered. -/
  acked : List Nat := []
  /-- The cycle of the last beacon received from each die. -/
  beacons : List Nat := []
  deriving DecidableEq, Repr

/-- An acknowledgement that a home owes to a thread for what has been delivered to it (05 Table 5-3), on its way from the
home's die. -/
structure OwedAck where
  die : Nat
  launch : Nat
  thread : Nat
  kind : AckKind
  tag : Nat := 0
  deriving DecidableEq, Repr

/-- The Felt. -/
structure Felt where
  clocks : List DieClock := []
  live : List Nat := []
  failed : List (Nat × Nat) := []
  /-- Failed retransmissions in a row of a link. -/
  retries : List (Nat × Nat × Nat) := []
  packets : List FeltPacket := []
  owed : List OwedAck := []
  cutWanted : Bool := false
  deriving DecidableEq, Repr

/-- A way to a peer: the source F-die, and the peer as a partition numbers it (21 R331, 23 R372). -/
structure PeerPath where
  fdie : Nat
  part : Nat
  peer : Nat
  deriving DecidableEq, Repr

/-- A page of a peer that lies where another does: the pages of its spaces map as its own tables say, which this package
does not hold (05 R96, log 6). `place` is the number of the page's place in the model's numbering of peers' memory. -/
structure PeerPage where
  part : Nat
  peer : Nat
  rctx : Nat
  page : Nat
  place : Nat
  deriving DecidableEq, Repr

/-- A packet sent on Renhar, or held at its F-die. -/
structure RenharOut where
  fdie : Nat := 0
  part : Nat
  launch : Nat := 0
  thread : Nat := 0
  packet : RenharPacket
  held : Bool := false
  /-- A prefetch's: the core that the line is for, whether its L1 takes it, and the line's location. -/
  fill : Option (Nat × Bool × Nat) := none
  deriving DecidableEq, Repr

structure Renhar where
  /-- Entropy offsets (23 R372). -/
  offsets : List (PeerPath × Nat) := []
  /-- Lines with unacknowledged requests: line, entropy, how many. -/
  lines : List (PeerPath × Nat × Nat × Nat) := []
  out : List RenharOut := []
  sequence : Nat := 0
  /-- Packets that the F-dies' routers pass on to other packages: F-die and packet (23 R369). -/
  router : List (Nat × RenharPacket) := []
  /-- Pieces of peers' records of which others are still to come (23 R370). -/
  pieces : List RenharPacket := []
  /-- Peers' requests that wait for a line's owner: owner and request (23 R373). -/
  waiting : List (Nat × RenharPacket) := []
  /-- Packets for this package that wait at an F-die until the Felt can take what they need, in the order of arrival. -/
  inbound : List (Nat × RenharPacket) := []
  deriving DecidableEq, Repr

/-- A RoCE connection (23 R375). -/
structure Connection where
  num : Nat
  mtu : Nat := 4096
  error : Bool := false
  /-- Injection rate in units of 1/2^20 of line rate, the time of its last cut, the time since the last CNP. -/
  rate : Nat := 1048576
  lastCut : Option Nat := none
  lastCnp : Option Nat := none
  deriving DecidableEq, Repr

/-- A registered memory region (23 R376): a range of a context's space, or a queue's kick page. -/
structure Region where
  rkey : Nat
  ctx : Nat
  va : Nat
  length : Nat
  kick : Option (Nat × Nat) := none
  deriving DecidableEq, Repr

/-- A bound host window (23 R377). -/
structure HostWindow where
  win : Nat
  conn : Nat
  remote : Nat
  rkey : Nat
  length : Nat
  deriving DecidableEq, Repr

/-- What the host port sends (23 R375, R376). -/
inductive PortReply where
  | ack (conn : Nat)
  | remoteAccessNak (conn : Nat)
  | invalidRequestNak (conn : Nat)
  | data (conn : Nat) (bytes : List Byte)
  | cnp (conn : Nat)
  | accepted (conn : Nat)
  | refused (conn : Nat)
  | toMilliner (conn : Nat) (bytes : List Byte)
  /-- RDMA requests of accesses through host windows (23 R377). -/
  | readRequest (conn rkey addr length : Nat)
  | writeRequest (conn rkey addr : Nat) (bytes : List Byte)
  deriving DecidableEq, Repr

/-- An RDMA request that has come in (23 R376). -/
inductive PortRequest where
  | write (rkey va : Nat) (data : List Byte)
  | read (rkey va length : Nat)
  | send (data : List Byte)
  | atomic
  deriving DecidableEq, Repr

structure HostPort where
  connections : List Connection := []
  regions : List Region := []
  windows : List HostWindow := []
  roceprio : Nat := 0
  paused : Bool := false
  replies : List PortReply := []
  /-- Requests that wait at the port, by connection, in packet-sequence order. -/
  inbound : List (Nat × PortRequest) := []
  /-- What is to be sent when RoCE is no longer paused. -/
  queued : List PortReply := []
  deriving DecidableEq, Repr

/-- Why the verification of an image failed (24 R379). -/
inductive BootFailure where
  | key | signature | version
  deriving DecidableEq, Repr

/-- Bring-up (24 R379, R380): the step reached, the step that failed and why, the measurements. -/
structure Boot where
  step : Nat := 6
  failed : Option Nat := none
  failure : BootFailure := .signature
  log : List (Nat × BitVec 256) := []
  /-- The fused minimum security version, and the fused digest of the public key. -/
  minVersion : Nat := 0
  keyDigest : BitVec 256 := 0
  deriving DecidableEq, Repr

/-- The hash and the asymmetric algorithm that the SPDM responder offers (24 R381). -/
inductive SpdmAlgorithm where
  | sha256 | slhDsaSha2_192s
  deriving DecidableEq, Repr

/-- What an SPDM responder may support (24 R381). -/
inductive SpdmFeature where
  | certificates | challenge | measurements | keyExchange | pskExchange | secureSessions | mutualAuthentication | setCertificate
  deriving DecidableEq, Repr

/-- What the management port answers (24 R381, R385). -/
inductive MgmtReply where
  | version (major minor : Nat) | capabilities (supported refused : List SpdmFeature) | algorithms (hash extAsym : SpdmAlgorithm)
  | digests (d : BitVec 64) | certificate (slot : Nat) (d : BitVec 64)
  | challenge (nonce : Nat) (d : BitVec 64)
  | measurement (index : Nat) (value : BitVec 256)
  | counters (die : Nat) (count : Nat)
  | reading (item : Nat) (d : BitVec 64)
  | limit (watts : Nat) (accepted : Bool)
  | bits (address : Nat) (stored check : BitVec 64)
  | bootFailure (step : Nat) (why : BootFailure)
  | error
  deriving DecidableEq, Repr

/-- The security root and the management port. -/
structure Security where
  /-- The owner key that management requests are signed with. -/
  ownerKey : List Byte := List.replicate 48 0
  lastSequence : Nat := 0
  spdmVersioned : Bool := false
  spdmCapable : Bool := false
  spdmNegotiated : Bool := false
  replies : List MgmtReply := []
  corrected : List (Nat × Nat) := []
  deriving DecidableEq, Repr

/-- The modes (19 Table 19-3). -/
structure Mode where
  clk : BitVec 2 := 2
  poolsh : BitVec 2 := 1
  causal : Bool := true
  drain : BitVec 2 := 1
  deriving DecidableEq, Repr

/-- The issue group in progress (02 R35, R36). -/
structure Issue where
  core : Nat
  launch : Nat
  gang : Nat
  /-- THREADs of the group, ascending: lane i is the i-th of those that are not away. -/
  lanes : List Nat
  packet : Nat
  pos : Nat
  /-- The word is the second of class A/B of its run, and so runs on pipe B (01 R9). -/
  second : Bool := false
  /-- The word is one of a run of several, whose end is taken when all have issued. -/
  chained : Bool := false
  /-- Lanes that wait in issue, and so are not of the group (02 R36, 08 R176). -/
  away : List Nat := []
  /-- k0 to k31 before the run (06 R123). -/
  kbefore : Option (List Word) := none
  /-- The core's counters before the run (13 R267). -/
  cbefore : Option (List (Nat × BitVec 64)) := none
  /-- The group's gang is a detached gang of this core (02 R42). -/
  detachedGang : Bool := false
  /-- Threads of the gang that were ready and are not in the group (02 R36). -/
  others : List Nat := []
  /-- What takes effect after the run. -/
  after : List AfterRun := []
  /-- The words of the run, with their positions. -/
  words : List (Nat × Instr) := []
  /-- Where a lane goes on that its words do not move: the next run, or the packet after a descriptor (02 R19). -/
  fall : Nat × Nat := (0, 0)
  /-- MASKLO and MASKHI of the descriptor after the run's ending word (02 Table 2-2). -/
  mask : DWord := 0
  deriving DecidableEq, Repr

/-- A breakpoint query's answer (22 R354). -/
structure DebugView where
  launch : Nat
  thread : Nat
  record : List Byte
  bsealed : BitVec 16
  boldest : BitVec 16
  pending : List (Nat × Nat)
  openBytes : Nat
  copies : List (CopyKind × Nat × Bool)
  handles : List (Nat × Word × Nat)
  tiles : List (Nat × Option (List Word))
  queues : List (Nat × Nat × Nat)
  deriving DecidableEq, Repr

/-- An error that the hardware has met and not yet acted on (21 R335, R336): a corrected one of a die; an uncorrectable one in
a line of a core's L1 or I-L1, of a group's I-L2, of a die's copies or code lines, which is fetched again; in a line of
data; in what is a context's own; in a die's control state. -/
inductive HardError where
  | corrected (die : Nat)
  | dataLine (core line : Nat)
  | codeLine (core line : Nat)
  | groupLine (group line : Nat)
  | cleanLine (die line : Nat)
  | data (line : Nat)
  | window (launch thread : Nat)
  | gangLocal (launch gang : Nat)
  | tiles (range : Nat)
  | queueBlock (part idx : Nat)
  | contextState (tag : Nat)
  | die (die : Nat)
  deriving DecidableEq, Repr

/-- The command ring of an F-die (24 R384): 256 slots of 32 bytes, those that hold a descriptor; the next slot to execute, and
the first that Milliner has not written. -/
structure CommandRing where
  fdie : Nat
  slots : List (Nat × List Byte) := []
  next : Nat := 0
  fin : Nat := 0
  /-- Slots whose REMOVE has overtaken the commands before it (24 R384). -/
  early : List Nat := []
  deriving DecidableEq, Repr

/-- The package. -/
structure State where
  /-- MODEL'S OWN: the events that move next, first first; then the fixed scheduler chooses. -/
  agenda : List Instr := []
  /-- MODEL'S OWN: the counter of free values. -/
  fresh : Nat := 0
  issue : Option Issue := none
  threads : List Thread := []
  gangs : List Gang := []
  launches : List Launch := []
  /-- Reservations under way, by work distributor. -/
  plans : List AdmitPlan := []
  contexts : List Context := []
  queues : List Queue := []
  /-- Queues of removed contexts, whose kicks are ignored until they are mapped anew (22 R352). -/
  deadQueues : List (Nat × Nat) := []
  partitions : List Partition := []
  ownPeer : Nat := 0
  cores : List Core := []
  /-- I-L2 lines by core group (die number × 4 + group), and L2 code lines by die. -/
  icache2 : List (Nat × Nat × List Byte) := []
  icache3 : List (Nat × Nat × List Byte) := []
  walkCache : List (Nat × WalkEntry) := []
  /-- Copies that the dies' L2 hold of lines homed elsewhere, oldest first, and the home directories. -/
  l2data : List DieLine := []
  directory : List DirEntry := []
  copies : List Copy := []
  tileOps : List TileOp := []
  tileRanges : List TileRange := []
  /-- Tile words that are not zero: key ((core × 4 + engine) × 64 + tile) × 1024 + row × 32 + column. -/
  tiles : List (Nat × Word) := []
  /-- The cycle of each engine's last step (24 R382): engine number core × 4 + e. -/
  engineLast : List (Nat × Nat) := []
  /-- Starts of the cycle per die, and engines waiting for a start with the cycle each began to wait. -/
  starts : List (Nat × Nat) := []
  startWaits : List (Nat × Nat) := []
  moves : List PageMove := []
  /-- Frames that page moves put pages on: old frame number to new, in 64 KiB units. -/
  rehomed : List (Nat × Nat) := []
  faults : List PendingFault := []
  faultQueues : List FaultQueue := []
  log : List LogLine := []
  mem : List Host.Cell := []
  /-- Lines of 128 bytes with an uncorrectable error, by location div 128. -/
  badLines : List Nat := []
  /-- Words of such lines that have been written since, by the line (21 R336). -/
  rewritten : List (Nat × BitVec 32) := []
  peerFaults : List PeerFault := []
  /-- Pages of peers that share their place with another; nothing in the package puts one here. -/
  peerPages : List PeerPage := []
  /-- Errors to be acted on; nothing in the package puts one here. -/
  hardErrors : List HardError := []
  mode : Mode := {}
  plimit : Nat := 2000
  /-- The clock that a mode request waits for. -/
  clockWanted : Option (BitVec 2) := none
  /-- The power that a thermal trip allowed while that request waits (24 R383). -/
  tripLimit : Option Nat := none
  timeBase : BitVec 64 := 0
  frozen : Bool := false
  freezePin : Bool := false
  felt : Felt := {}
  renhar : Renhar := {}
  port : HostPort := {}
  boot : Boot := {}
  security : Security := {}
  nextHandle : Nat := 1
  nextOp : Nat := 1
  nextRegion : Nat := 1
  /-- Status that the last command descriptor returned, and the rings of the F-dies (24 R384). -/
  cmdStatus : Nat := 0
  rings : List CommandRing := []
  /-- Wakes of a control core (20 R315), by F-die. -/
  wakes : List Nat := []
  views : List DebugView := []
  deriving DecidableEq, Repr

/-- The clock of a die after package reset (23 R360): all counters zero, CLKGEN 1. -/
def DieClock.reset (d : Nat) : DieClock :=
  { die := d, matrix := List.replicate 10 (List.replicate 10 0), v := List.replicate 10 0, clkgen := 1,
    acked := List.replicate 10 0, beacons := List.replicate 10 0 }

/-- The Felt after package reset: ten live dies, no packet. -/
def Felt.reset : Felt :=
  { clocks := [0, 1, 2, 3, 4, 5, 6, 7, 8, 9].map DieClock.reset, live := [0, 1, 2, 3, 4, 5, 6, 7, 8, 9] }

/-- The one partition after reset, owning everything (DESIGN CHOICE, log 11). -/
def Partition.whole : Partition :=
  { num := 0, cores := List.range 192, slots := List.range 32, hbm := [(0, 512)], hostwin := List.range 256 }

/-- The package right after reset: the modes of Table 0-4, PLIMIT 2,000 W, every counter zero, no context, no
queue, memory with nothing written. -/
def State.reset : State :=
  { partitions := [Partition.whole], felt := Felt.reset }

end Sys2Proof.Machine
end

