-- ==== Sys2Proof/Machine/Cells.lean ====
section
/-! DEFINITION. Sparse tables in one canonical form (keys strictly rising, no entry equal to zero), and memory on
top of them: bytes at locations, little-endian. -/

namespace Sys2Proof.Machine

open Sys2Proof (Byte Word DWord)

/-- The entry at a key; an unlisted key holds zero. -/
def cellGet {n : Nat} : List (Nat × BitVec n) → Nat → BitVec n
  | [], _ => 0
  | (k, v) :: m, a => if a < k then 0 else if a = k then v else cellGet m a

/-- The table with one entry in front, or without it where it is zero. -/
def cellCons {n : Nat} (a : Nat) (x : BitVec n) (m : List (Nat × BitVec n)) : List (Nat × BitVec n) :=
  if x = 0 then m else (a, x) :: m

/-- The table with the entry at a key replaced. -/
def cellSet {n : Nat} : List (Nat × BitVec n) → Nat → BitVec n → List (Nat × BitVec n)
  | [], a, x => cellCons a x []
  | (k, v) :: m, a, x =>
    if a < k then cellCons a x ((k, v) :: m)
    else if a = k then cellCons a x m
    else (k, v) :: cellSet m a x

/-- The table without the keys from lo up to hi. -/
def cellClear {n : Nat} (m : List (Nat × BitVec n)) (lo hi : Nat) : List (Nat × BitVec n) :=
  m.filter fun c => !(decide (lo ≤ c.1) && decide (c.1 < hi))

/-- The canonical form: keys above `lo` and strictly rising, no entry zero. -/
def cellsFrom {n : Nat} : Nat → List (Nat × BitVec n) → Bool
  | _, [] => true
  | lo, (k, v) :: m => decide (lo ≤ k) && decide (v ≠ 0) && cellsFrom (k + 1) m

/-- Memory is in canonical form. -/
def Memory.wf (m : List Host.Cell) : Bool := cellsFrom 0 m

/-- What a byte that nothing has written reads as (log 4). -/
def unwritten : Byte := 0

/-- The byte at a location. -/
def readByte (m : List Host.Cell) (a : Nat) : Byte := cellGet m a

/-- `n` bytes from a location, lowest first. -/
def readBytes (m : List Host.Cell) (a : Nat) : Nat → List Byte
  | 0 => []
  | n + 1 => readByte m a :: readBytes m (a + 1) n

/-- Bytes written from a location, lowest first. -/
def writeBytes (m : List Host.Cell) (a : Nat) : List Byte → List Host.Cell
  | [] => m
  | b :: bs => writeBytes (cellSet m a b) (a + 1) bs

/-- `n` bytes from a location as a number (little-endian, 00 R2). -/
def readNat (m : List Host.Cell) (a n : Nat) : Nat := natOfBytes (readBytes m a n)

/-- A number written as `n` bytes from a location. -/
def writeNat (m : List Host.Cell) (a n v : Nat) : List Host.Cell := writeBytes m a (bytesOfNat v n)

/-- Insertion of an element into a list ordered by a key. -/
def insertBy {α : Type} (f : α → Nat) (x : α) : List α → List α
  | [] => [x]
  | y :: ys => if f x < f y then x :: y :: ys else y :: insertBy f x ys

/-- A list put in rising order of a key, equal keys in their order. -/
def sortBy {α : Type} (f : α → Nat) (l : List α) : List α := l.foldl (fun acc x => insertBy f x acc) []

/-- The element of least key, the first of equals. -/
def minBy {α : Type} (f : α → Nat) : List α → Option α
  | [] => none
  | x :: xs =>
    match minBy f xs with
    | none => some x
    | some y => if f y < f x then some y else some x

/-- Sign extension of an n-bit number to an integer. -/
def sextInt (n v : Nat) : Int := if v % 2 ^ n < 2 ^ (n - 1) then (v % 2 ^ n : Nat) else ((v % 2 ^ n : Nat) : Int) - (2 ^ n : Nat)

/-- An integer reduced modulo 2^n. -/
def wrapInt (n : Nat) (v : Int) : Nat := (v % ((2 ^ n : Nat) : Int)).toNat

end Sys2Proof.Machine
end

