-- ==== Sys2Proof/Machine/Info.lean ====
section
/-! DEFINITION. What the issue of a word needs to know of it before it acts: its pipe class (01 R9, 06 Tables 6-8 to
6-13), its guard and chain bits (06 Table 6-1), whether it ends the run of its packet (R121, R19), whether it is
privileged (R286), and the kind of each of its operand positions (06 R131, Table 6-14). -/

namespace Sys2Proof.Machine

open Sys2Proof (Instr)

/-- Pipe classes (01 R9). -/
inductive Pipe where
  | ab | m | s | x
  deriving DecidableEq, Repr

/-- Ending words (06 R121): control transfers, and segment ends with or without a descriptor after them (02 R19). -/
inductive Ending where
  | none
  | control
  | segment (descriptor : Bool)
  deriving DecidableEq, Repr

/-- An operand position (06 Table 6-5): sources and destinations by width, streams, predicate and k destinations,
register blocks (first register and length), and the coordinate block of `cp.t`. -/
inductive Operand where
  | s32 (code : BitVec 7)
  | s64 (code : BitVec 7)
  | s128 (code : BitVec 7)
  | d32 (code : BitVec 7)
  /-- A window register, and no append stream. -/
  | r32 (code : BitVec 7)
  | d64 (code : BitVec 7)
  | d128 (code : BitVec 7)
  | strm (code : BitVec 7)
  | pdst (p : BitVec 3)
  | kdst (k : BitVec 5)
  | block (first count : Nat)
  | coord (first : Nat)
  deriving DecidableEq, Repr

/-- What a word is. -/
structure Info where
  pipe : Pipe := .ab
  chain : BitVec 1 := 0
  guard : BitVec 2 := 0
  ends : Ending := .none
  privileged : Bool := false
  operands : List Operand := []
  deriving DecidableEq, Repr

/-- A destination that a word with W = 1 does not have (06 R125). -/
def unlessLatch (w : BitVec 1) (o : Operand) : List Operand := if w = 1 then [] else [o]

/-- The operands of an atomic (09 R186): for `cas` twice the width. -/
def atomOperands (d a : BitVec 7) (w : BitVec 1) (n : BitVec 4) : List Operand :=
  if n = 9 then (if w = 1 then [.s64 a, .s128 d, .d128 d] else [.s64 a, .s64 d, .d64 d])
  else if w = 1 then [.s64 a, .s64 d, .d64 d] else [.s64 a, .s32 d, .r32 d]

/-- The issue facts of each word. -/
def instrInfo : Instr → Info
  | .iadd c g d a b w => { pipe := .ab, chain := c, guard := g, operands := [.s32 a, .s32 b] ++ unlessLatch w (.d32 d) }
  | .isub c g d a b w => { pipe := .ab, chain := c, guard := g, operands := [.s32 a, .s32 b] ++ unlessLatch w (.d32 d) }
  | .imul c g d a b w => { pipe := .ab, chain := c, guard := g, operands := [.s32 a, .s32 b] ++ unlessLatch w (.d32 d) }
  | .imulhS32 c g d a b w => { pipe := .ab, chain := c, guard := g, operands := [.s32 a, .s32 b] ++ unlessLatch w (.d32 d) }
  | .imulhN32 c g d a b w => { pipe := .ab, chain := c, guard := g, operands := [.s32 a, .s32 b] ++ unlessLatch w (.d32 d) }
  | .imad c g d a b w => { pipe := .ab, chain := c, guard := g, operands := [.s32 a, .s32 b, .s32 d] ++ unlessLatch w (.d32 d) }
  | .iadd64 c g d a b w => { pipe := .ab, chain := c, guard := g, operands := [.s64 a, .s64 b] ++ unlessLatch w (.d64 d) }
  | .isub64 c g d a b w => { pipe := .ab, chain := c, guard := g, operands := [.s64 a, .s64 b] ++ unlessLatch w (.d64 d) }
  | .and c g d a b w => { pipe := .ab, chain := c, guard := g, operands := [.s32 a, .s32 b] ++ unlessLatch w (.d32 d) }
  | .or c g d a b w => { pipe := .ab, chain := c, guard := g, operands := [.s32 a, .s32 b] ++ unlessLatch w (.d32 d) }
  | .xor c g d a b w => { pipe := .ab, chain := c, guard := g, operands := [.s32 a, .s32 b] ++ unlessLatch w (.d32 d) }
  | .andn c g d a b w => { pipe := .ab, chain := c, guard := g, operands := [.s32 a, .s32 b] ++ unlessLatch w (.d32 d) }
  | .shl c g d a b w => { pipe := .ab, chain := c, guard := g, operands := [.s32 a, .s32 b] ++ unlessLatch w (.d32 d) }
  | .shr c g d a b w => { pipe := .ab, chain := c, guard := g, operands := [.s32 a, .s32 b] ++ unlessLatch w (.d32 d) }
  | .sar c g d a b w => { pipe := .ab, chain := c, guard := g, operands := [.s32 a, .s32 b] ++ unlessLatch w (.d32 d) }
  | .rot c g d a b w => { pipe := .ab, chain := c, guard := g, operands := [.s32 a, .s32 b] ++ unlessLatch w (.d32 d) }
  | .iminS32 c g d a b w => { pipe := .ab, chain := c, guard := g, operands := [.s32 a, .s32 b] ++ unlessLatch w (.d32 d) }
  | .iminN32 c g d a b w => { pipe := .ab, chain := c, guard := g, operands := [.s32 a, .s32 b] ++ unlessLatch w (.d32 d) }
  | .imaxS32 c g d a b w => { pipe := .ab, chain := c, guard := g, operands := [.s32 a, .s32 b] ++ unlessLatch w (.d32 d) }
  | .imaxN32 c g d a b w => { pipe := .ab, chain := c, guard := g, operands := [.s32 a, .s32 b] ++ unlessLatch w (.d32 d) }
  | .iabs c g d a w => { pipe := .ab, chain := c, guard := g, operands := [.s32 a] ++ unlessLatch w (.d32 d) }
  | .iaddsS32 c g d a b w => { pipe := .ab, chain := c, guard := g, operands := [.s32 a, .s32 b] ++ unlessLatch w (.d32 d) }
  | .iaddsN32 c g d a b w => { pipe := .ab, chain := c, guard := g, operands := [.s32 a, .s32 b] ++ unlessLatch w (.d32 d) }
  | .isubsS32 c g d a b w => { pipe := .ab, chain := c, guard := g, operands := [.s32 a, .s32 b] ++ unlessLatch w (.d32 d) }
  | .isubsN32 c g d a b w => { pipe := .ab, chain := c, guard := g, operands := [.s32 a, .s32 b] ++ unlessLatch w (.d32 d) }
  | .idivS32 c g d a b w => { pipe := .ab, chain := c, guard := g, operands := [.s32 a, .s32 b] ++ unlessLatch w (.d32 d) }
  | .idivN32 c g d a b w => { pipe := .ab, chain := c, guard := g, operands := [.s32 a, .s32 b] ++ unlessLatch w (.d32 d) }
  | .iremS32 c g d a b w => { pipe := .ab, chain := c, guard := g, operands := [.s32 a, .s32 b] ++ unlessLatch w (.d32 d) }
  | .iremN32 c g d a b w => { pipe := .ab, chain := c, guard := g, operands := [.s32 a, .s32 b] ++ unlessLatch w (.d32 d) }
  | .popc c g d a w => { pipe := .ab, chain := c, guard := g, operands := [.s32 a] ++ unlessLatch w (.d32 d) }
  | .clz c g d a w => { pipe := .ab, chain := c, guard := g, operands := [.s32 a] ++ unlessLatch w (.d32 d) }
  | .ctz c g d a w => { pipe := .ab, chain := c, guard := g, operands := [.s32 a] ++ unlessLatch w (.d32 d) }
  | .brev c g d a w => { pipe := .ab, chain := c, guard := g, operands := [.s32 a] ++ unlessLatch w (.d32 d) }
  | .bfeS32 c g d a b w => { pipe := .ab, chain := c, guard := g, operands := [.s32 a, .s32 b] ++ unlessLatch w (.d32 d) }
  | .bfeN32 c g d a b w => { pipe := .ab, chain := c, guard := g, operands := [.s32 a, .s32 b] ++ unlessLatch w (.d32 d) }
  | .bfi c g d a b w => { pipe := .ab, chain := c, guard := g, operands := [.s32 a, .s32 b, .s32 d] ++ unlessLatch w (.d32 d) }
  | .bmsk c g d a b w => { pipe := .ab, chain := c, guard := g, operands := [.s32 a, .s32 b] ++ unlessLatch w (.d32 d) }
  | .sel c _ d a b w => { pipe := .ab, chain := c, operands := [.s32 a, .s32 b] ++ unlessLatch w (.d32 d) }
  | .kmov c g d a => { pipe := .x, chain := c, guard := g, operands := [.kdst d, .s32 a] }
  | .cmp c g _ p a b w => { pipe := .ab, chain := c, guard := g, operands := [.s32 a, .s32 b] ++ unlessLatch w (.pdst p) }
  | .cmpPair c g _ _ a b _ => { pipe := .ab, chain := c, guard := g, operands := [.s32 a, .s32 b] }
  | .fcmp c g _ p a b w => { pipe := .ab, chain := c, guard := g, operands := [.s32 a, .s32 b] ++ unlessLatch w (.pdst p) }
  | .fcmpPair c g _ _ a b _ => { pipe := .ab, chain := c, guard := g, operands := [.s32 a, .s32 b] }
  | .pand c g d _ _ w => { pipe := .ab, chain := c, guard := g, operands := unlessLatch w (.pdst d) }
  | .por c g d _ _ w => { pipe := .ab, chain := c, guard := g, operands := unlessLatch w (.pdst d) }
  | .pxor c g d _ _ w => { pipe := .ab, chain := c, guard := g, operands := unlessLatch w (.pdst d) }
  | .pnot c g d _ w => { pipe := .ab, chain := c, guard := g, operands := unlessLatch w (.pdst d) }
  | .pget c g d w => { pipe := .ab, chain := c, guard := g, operands := unlessLatch w (.d32 d) }
  | .pset c g a b _ => { pipe := .ab, chain := c, guard := g, operands := [.s32 a, .s32 b] }
  | .faddF32 c g d a b w => { pipe := .ab, chain := c, guard := g, operands := [.s32 a, .s32 b] ++ unlessLatch w (.d32 d) }
  | .faddBf16x2 c g d a b w => { pipe := .ab, chain := c, guard := g, operands := [.s32 a, .s32 b] ++ unlessLatch w (.d32 d) }
  | .faddF16x2 c g d a b w => { pipe := .ab, chain := c, guard := g, operands := [.s32 a, .s32 b] ++ unlessLatch w (.d32 d) }
  | .fsubF32 c g d a b w => { pipe := .ab, chain := c, guard := g, operands := [.s32 a, .s32 b] ++ unlessLatch w (.d32 d) }
  | .fsubBf16x2 c g d a b w => { pipe := .ab, chain := c, guard := g, operands := [.s32 a, .s32 b] ++ unlessLatch w (.d32 d) }
  | .fsubF16x2 c g d a b w => { pipe := .ab, chain := c, guard := g, operands := [.s32 a, .s32 b] ++ unlessLatch w (.d32 d) }
  | .fmulF32 c g d a b w => { pipe := .ab, chain := c, guard := g, operands := [.s32 a, .s32 b] ++ unlessLatch w (.d32 d) }
  | .fmulBf16x2 c g d a b w => { pipe := .ab, chain := c, guard := g, operands := [.s32 a, .s32 b] ++ unlessLatch w (.d32 d) }
  | .fmulF16x2 c g d a b w => { pipe := .ab, chain := c, guard := g, operands := [.s32 a, .s32 b] ++ unlessLatch w (.d32 d) }
  | .ffmaF32 c g d a b w => { pipe := .ab, chain := c, guard := g, operands := [.s32 a, .s32 b, .s32 d] ++ unlessLatch w (.d32 d) }
  | .ffmaBf16x2 c g d a b w => { pipe := .ab, chain := c, guard := g, operands := [.s32 a, .s32 b, .s32 d] ++ unlessLatch w (.d32 d) }
  | .ffmaF16x2 c g d a b w => { pipe := .ab, chain := c, guard := g, operands := [.s32 a, .s32 b, .s32 d] ++ unlessLatch w (.d32 d) }
  | .fminF32 c g d a b w => { pipe := .ab, chain := c, guard := g, operands := [.s32 a, .s32 b] ++ unlessLatch w (.d32 d) }
  | .fminBf16x2 c g d a b w => { pipe := .ab, chain := c, guard := g, operands := [.s32 a, .s32 b] ++ unlessLatch w (.d32 d) }
  | .fminF16x2 c g d a b w => { pipe := .ab, chain := c, guard := g, operands := [.s32 a, .s32 b] ++ unlessLatch w (.d32 d) }
  | .fmaxF32 c g d a b w => { pipe := .ab, chain := c, guard := g, operands := [.s32 a, .s32 b] ++ unlessLatch w (.d32 d) }
  | .fmaxBf16x2 c g d a b w => { pipe := .ab, chain := c, guard := g, operands := [.s32 a, .s32 b] ++ unlessLatch w (.d32 d) }
  | .fmaxF16x2 c g d a b w => { pipe := .ab, chain := c, guard := g, operands := [.s32 a, .s32 b] ++ unlessLatch w (.d32 d) }
  | .fnegF32 c g d a w => { pipe := .ab, chain := c, guard := g, operands := [.s32 a] ++ unlessLatch w (.d32 d) }
  | .fnegX2 c g d a w => { pipe := .ab, chain := c, guard := g, operands := [.s32 a] ++ unlessLatch w (.d32 d) }
  | .fabsF32 c g d a w => { pipe := .ab, chain := c, guard := g, operands := [.s32 a] ++ unlessLatch w (.d32 d) }
  | .fabsX2 c g d a w => { pipe := .ab, chain := c, guard := g, operands := [.s32 a] ++ unlessLatch w (.d32 d) }
  | .qtsh c g d a b w => { pipe := .ab, chain := c, guard := g, operands := [.s32 a, .s32 b] ++ unlessLatch w (.d32 d) }
  | .lxAt c g d a b w => { pipe := .s, chain := c, guard := g, operands := [.s32 a, .s32 b] ++ unlessLatch w (.d32 d) }
  | .lxBelow c g d a b w => { pipe := .s, chain := c, guard := g, operands := [.s32 a, .s32 b] ++ unlessLatch w (.d32 d) }
  | .lxAbove c g d a b w => { pipe := .s, chain := c, guard := g, operands := [.s32 a, .s32 b] ++ unlessLatch w (.d32 d) }
  | .lxMirror c g d a b w => { pipe := .s, chain := c, guard := g, operands := [.s32 a, .s32 b] ++ unlessLatch w (.d32 d) }
  | .sisect c g d a b => { pipe := .x, chain := c, guard := g, operands := [.strm d, .strm a, .strm b] }
  | .sunion c g d a b => { pipe := .x, chain := c, guard := g, operands := [.strm d, .strm a, .strm b] }
  | .sbind c g d a b => { pipe := .x, chain := c, guard := g, operands := [.strm d, .s64 a, .s32 b] }
  | .iaddi c g d a _ => { pipe := .ab, chain := c, guard := g, operands := [.s32 a, .d32 d] }
  | .movi c g d _ => { pipe := .ab, chain := c, guard := g, operands := [.d32 d] }
  | .imuli c g d a _ => { pipe := .ab, chain := c, guard := g, operands := [.s32 a, .d32 d] }
  | .andi c g d a _ => { pipe := .ab, chain := c, guard := g, operands := [.s32 a, .d32 d] }
  | .ori c g d a _ => { pipe := .ab, chain := c, guard := g, operands := [.s32 a, .d32 d] }
  | .xori c g d a _ => { pipe := .ab, chain := c, guard := g, operands := [.s32 a, .d32 d] }
  | .shfiShl c g d a _ => { pipe := .ab, chain := c, guard := g, operands := [.s32 a, .d32 d] }
  | .shfiShr c g d a _ => { pipe := .ab, chain := c, guard := g, operands := [.s32 a, .d32 d] }
  | .shfiSar c g d a _ => { pipe := .ab, chain := c, guard := g, operands := [.s32 a, .d32 d] }
  | .shfiRot c g d a _ => { pipe := .ab, chain := c, guard := g, operands := [.s32 a, .d32 d] }
  | .cmpi c g _ p a _ => { pipe := .ab, chain := c, guard := g, operands := [.s32 a, .pdst p] }
  | .cmpiPair c g _ _ a _ => { pipe := .ab, chain := c, guard := g, operands := [.s32 a] }
  | .faddiF32 c g d a _ => { pipe := .ab, chain := c, guard := g, operands := [.s32 a, .d32 d] }
  | .faddiBf16x2 c g d a _ => { pipe := .ab, chain := c, guard := g, operands := [.s32 a, .d32 d] }
  | .faddiF16x2 c g d a _ => { pipe := .ab, chain := c, guard := g, operands := [.s32 a, .d32 d] }
  | .fmuliF32 c g d a _ => { pipe := .ab, chain := c, guard := g, operands := [.s32 a, .d32 d] }
  | .fmuliBf16x2 c g d a _ => { pipe := .ab, chain := c, guard := g, operands := [.s32 a, .d32 d] }
  | .fmuliF16x2 c g d a _ => { pipe := .ab, chain := c, guard := g, operands := [.s32 a, .d32 d] }
  | .ldl32 c g d _ => { pipe := .x, chain := c, guard := g, operands := [.d32 d] }
  | .ldl64 c g d _ => { pipe := .x, chain := c, guard := g, operands := [.d64 d] }
  | .brl g _ => { pipe := .x, guard := g, ends := .control }
  | .calll g _ => { pipe := .x, guard := g, ends := .control, operands := [.d64 62] }
  | .fcvt c g d a _ _ => { pipe := .ab, chain := c, guard := g, operands := [.s32 a, .d32 d] }
  | .frcp c g d a _ => { pipe := .s, chain := c, guard := g, operands := [.s32 a, .d32 d] }
  | .frsq c g d a _ => { pipe := .s, chain := c, guard := g, operands := [.s32 a, .d32 d] }
  | .fsqrt c g d a _ => { pipe := .s, chain := c, guard := g, operands := [.s32 a, .d32 d] }
  | .fexp2 c g d a _ => { pipe := .s, chain := c, guard := g, operands := [.s32 a, .d32 d] }
  | .flog2 c g d a _ => { pipe := .s, chain := c, guard := g, operands := [.s32 a, .d32 d] }
  | .fsin c g d a _ => { pipe := .s, chain := c, guard := g, operands := [.s32 a, .d32 d] }
  | .fcos c g d a _ => { pipe := .s, chain := c, guard := g, operands := [.s32 a, .d32 d] }
  | .ftanh c g d a _ => { pipe := .s, chain := c, guard := g, operands := [.s32 a, .d32 d] }
  | .lany c g p _ => { pipe := .s, chain := c, guard := g, operands := [.pdst p] }
  | .lall c g p _ => { pipe := .s, chain := c, guard := g, operands := [.pdst p] }
  | .lmask c g d _ => { pipe := .s, chain := c, guard := g, operands := [.d32 d] }
  | .lsum c g d a => { pipe := .s, chain := c, guard := g, operands := [.s32 a, .d32 d] }
  | .lminS32 c g d a => { pipe := .s, chain := c, guard := g, operands := [.s32 a, .d32 d] }
  | .lminN32 c g d a => { pipe := .s, chain := c, guard := g, operands := [.s32 a, .d32 d] }
  | .lmaxS32 c g d a => { pipe := .s, chain := c, guard := g, operands := [.s32 a, .d32 d] }
  | .lmaxN32 c g d a => { pipe := .s, chain := c, guard := g, operands := [.s32 a, .d32 d] }
  | .cdet c g d a => { pipe := .s, chain := c, guard := g, operands := [.d64 d, .s32 a] }
  | .lfirst c g p => { pipe := .s, chain := c, guard := g, operands := [.pdst p] }
  | .atom c g d a _ w n => { pipe := .m, chain := c, guard := g, operands := atomOperands d a w n }
  | .red c g d a _ w _ => { pipe := .m, chain := c, guard := g, operands := (if w = 1 then [.s64 a, .s64 d] else [.s64 a, .s32 d]) }
  | .nop c g => { pipe := .x, chain := c, guard := g }
  | .seal c g d => { pipe := .x, chain := c, guard := g, operands := [.d32 d] }
  | .batchBytes c g d a => { pipe := .x, chain := c, guard := g, operands := [.d64 d, .s32 a] }
  | .ctr c g d a => { pipe := .x, chain := c, guard := g, operands := [.d64 d, .s32 a] }
  | .tick c g d => { pipe := .x, chain := c, guard := g, operands := [.d64 d] }
  | .mtileAlloc c g d a => { pipe := .x, chain := c, guard := g, operands := [.s32 a, .d32 d] }
  | .mprog c g d a => { pipe := .x, chain := c, guard := g, operands := [.s32 a, .d32 d] }
  | .callx g d a => { pipe := .x, guard := g, ends := .control, operands := [.d64 d, .s64 a] }
  | .speek c g d a => { pipe := .x, chain := c, guard := g, operands := [.d32 d, .strm a] }
  | .scrd c g d a => { pipe := .x, chain := c, guard := g, operands := [.d32 d, .strm a] }
  | .spos c g d a => { pipe := .x, chain := c, guard := g, operands := [.d32 d, .strm a] }
  | .sin c g d a => { pipe := .x, chain := c, guard := g, operands := [.d32 d, .strm a] }
  | .sdone c g p a => { pipe := .x, chain := c, guard := g, operands := [.pdst p, .strm a] }
  | .sysrd c g d a => { pipe := .x, chain := c, guard := g, privileged := true, operands := [.d64 d, .s32 a] }
  | .ldS8 c g d a _ => { pipe := .m, chain := c, guard := g, operands := [.s64 a, .d32 d] }
  | .ldN8 c g d a _ => { pipe := .m, chain := c, guard := g, operands := [.s64 a, .d32 d] }
  | .ldS16 c g d a _ => { pipe := .m, chain := c, guard := g, operands := [.s64 a, .d32 d] }
  | .ldN16 c g d a _ => { pipe := .m, chain := c, guard := g, operands := [.s64 a, .d32 d] }
  | .ldB32 c g d a _ => { pipe := .m, chain := c, guard := g, operands := [.s64 a, .d32 d] }
  | .ldB64 c g d a _ => { pipe := .m, chain := c, guard := g, operands := [.s64 a, .d64 d] }
  | .ldB128 c g d a _ => { pipe := .m, chain := c, guard := g, operands := [.s64 a, .d128 d] }
  | .stB8 c g d a _ => { pipe := .m, chain := c, guard := g, operands := [.s64 a, .s32 d] }
  | .stB16 c g d a _ => { pipe := .m, chain := c, guard := g, operands := [.s64 a, .s32 d] }
  | .stB32 c g d a _ => { pipe := .m, chain := c, guard := g, operands := [.s64 a, .s32 d] }
  | .stB64 c g d a _ => { pipe := .m, chain := c, guard := g, operands := [.s64 a, .s64 d] }
  | .stB128 c g d a _ => { pipe := .m, chain := c, guard := g, operands := [.s64 a, .s128 d] }
  | .ldcS8 g d a _ => { pipe := .m, guard := g, ends := .segment true, operands := [.s64 a, .d32 d] }
  | .ldcN8 g d a _ => { pipe := .m, guard := g, ends := .segment true, operands := [.s64 a, .d32 d] }
  | .ldcS16 g d a _ => { pipe := .m, guard := g, ends := .segment true, operands := [.s64 a, .d32 d] }
  | .ldcN16 g d a _ => { pipe := .m, guard := g, ends := .segment true, operands := [.s64 a, .d32 d] }
  | .ldcB32 g d a _ => { pipe := .m, guard := g, ends := .segment true, operands := [.s64 a, .d32 d] }
  | .ldcB64 g d a _ => { pipe := .m, guard := g, ends := .segment true, operands := [.s64 a, .d64 d] }
  | .ldcB128 g d a _ => { pipe := .m, guard := g, ends := .segment true, operands := [.s64 a, .d128 d] }
  | .ldAcqB32 c g d a _ => { pipe := .m, chain := c, guard := g, operands := [.s64 a, .d32 d] }
  | .ldAcqB64 c g d a _ => { pipe := .m, chain := c, guard := g, operands := [.s64 a, .d64 d] }
  | .stRelB32 c g d a _ => { pipe := .m, chain := c, guard := g, operands := [.s64 a, .s32 d] }
  | .stRelB64 c g d a _ => { pipe := .m, chain := c, guard := g, operands := [.s64 a, .s64 d] }
  | .br g _ => { pipe := .x, guard := g, ends := .control }
  | .call g _ => { pipe := .x, guard := g, ends := .control, operands := [.d64 62] }
  | .ret g a => { pipe := .x, guard := g, ends := .control, operands := [.s64 a] }
  | .jmpx g a => { pipe := .x, guard := g, ends := .control, operands := [.s64 a] }
  | .ipf c g a b => { pipe := .x, chain := c, guard := g, operands := [.s64 a, .s32 b] }
  | .trap g => { pipe := .x, guard := g, ends := .segment false }
  | .tretRedo g a b => { pipe := .x, guard := g, ends := .control, operands := [.s32 a, .s32 b] }
  | .tretSkip g a b => { pipe := .x, guard := g, ends := .control, operands := [.s32 a, .s32 b] }
  | .brk g => { pipe := .x, guard := g, ends := .control }
  | .bar g => { pipe := .x, guard := g, ends := .segment true }
  | .barc g => { pipe := .x, guard := g, ends := .segment true }
  | .barx g => { pipe := .x, guard := g, ends := .segment true }
  | .waitBatch g _ => { pipe := .x, guard := g, ends := .segment true }
  | .yield g => { pipe := .x, guard := g, ends := .segment true }
  | .fwd g a b => { pipe := .x, guard := g, ends := .segment (b == 80), operands := [.s64 a, .s32 b] }
  | .fwdAck g a b => { pipe := .x, guard := g, ends := .segment true, operands := [.s64 a, .s32 b] }
  | .enq c g a b => { pipe := .x, chain := c, guard := g, operands := [.s64 a, .s32 b] }
  | .exit g => { pipe := .x, guard := g, ends := .segment false }
  | .launch c g a => { pipe := .x, chain := c, guard := g, operands := [.s64 a] }
  | .signal c g a b => { pipe := .x, chain := c, guard := g, operands := [.s64 a, .s32 b] }
  | .cpT c g n m => { pipe := .x, chain := c, guard := g, operands := [.block (8 * n.toNat) 8, .coord (2 * m.toNat)] }
  | .cpG c g n b => { pipe := .x, chain := c, guard := g, operands := [.block (8 * n.toNat) 8, .s64 b] }
  | .cpS c g n b => { pipe := .x, chain := c, guard := g, operands := [.block (8 * n.toNat) 8, .s64 b] }
  | .cpL c g n => { pipe := .x, chain := c, guard := g, operands := [.block (8 * n.toNat) 8] }
  | .cpPf c g a b => { pipe := .x, chain := c, guard := g, operands := [.s64 a, .s32 b] }
  | .cpRed c g n => { pipe := .x, chain := c, guard := g, operands := [.block (8 * n.toNat) 8] }
  | .mtask c g a n => { pipe := .x, chain := c, guard := g, operands := [.s32 a, .block (16 * n.toNat) 16] }
  | .mtaskSb c g a n => { pipe := .x, chain := c, guard := g, operands := [.s32 a, .block (16 * n.toNat) 16] }
  | .mtileFree c g a => { pipe := .x, chain := c, guard := g, operands := [.s32 a] }
  | .mtileLd c g a n => { pipe := .x, chain := c, guard := g, operands := [.s32 a, .block (8 * n.toNat) 8] }
  | .mtileSt c g a n => { pipe := .x, chain := c, guard := g, operands := [.s32 a, .block (8 * n.toNat) 8] }
  | .mtileZero c g a n => { pipe := .x, chain := c, guard := g, operands := [.s32 a, .block (8 * n.toNat) 8] }
  | .mtileCvt c g a n => { pipe := .x, chain := c, guard := g, operands := [.s32 a, .block (8 * n.toNat) 8] }
  | .mfence c g a => { pipe := .x, chain := c, guard := g, operands := [.s32 a] }
  | .sfree c g a => { pipe := .x, chain := c, guard := g, operands := [.strm a] }
  | .sskip c g a b => { pipe := .x, chain := c, guard := g, operands := [.strm a, .s32 b] }
  | .sskipn c g a b => { pipe := .x, chain := c, guard := g, operands := [.strm a, .s32 b] }
  | .fence c g => { pipe := .m, chain := c, guard := g }
  | .pfd c g a b => { pipe := .m, chain := c, guard := g, operands := [.s64 a, .s32 b] }
  | .claim c g a b => { pipe := .m, chain := c, guard := g, operands := [.s64 a, .s32 b] }
  | .syswr c g a b => { pipe := .x, chain := c, guard := g, privileged := true, operands := [.s64 a, .s32 b] }
  | .modeRequest c g a b => { pipe := .x, chain := c, guard := g, privileged := true, operands := [.s64 a, .s32 b] }
  | .ctrzero c g a b => { pipe := .x, chain := c, guard := g, privileged := true, operands := [.s64 a, .s32 b] }
  | .segld c g a b => { pipe := .x, chain := c, guard := g, privileged := true, operands := [.s64 a, .s32 b] }
  | .icinv c g a b => { pipe := .x, chain := c, guard := g, privileged := true, operands := [.s64 a, .s32 b] }
  | .tlbinv c g a b => { pipe := .x, chain := c, guard := g, privileged := true, operands := [.s64 a, .s32 b] }
  | .ctxtag c g a => { pipe := .x, chain := c, guard := g, privileged := true, operands := [.s32 a] }
  | .halt c g => { pipe := .x, chain := c, guard := g, privileged := true }
  | .modPub c g a b => { pipe := .x, chain := c, guard := g, privileged := true, operands := [.s64 a, .s32 b] }
  | .modRet c g a b => { pipe := .x, chain := c, guard := g, privileged := true, operands := [.s32 a, .s32 b] }
  | .poolx c g a b => { pipe := .x, chain := c, guard := g, privileged := true, operands := [.s64 a, .s32 b] }
  | .pqSet c g a b => { pipe := .x, chain := c, guard := g, privileged := true, operands := [.s32 a, .s32 b] }
  | .runIssue _ => {}
  | .codeLineFill _ => {}
  | .loadDataReturn _ _ => {}
  | .tlbMissWalk _ _ _ => {}
  | .storeBufferDrain _ _ => {}
  | .peerAck _ _ _ => {}
  | .releaseAck _ _ _ => {}
  | .binReadyByAge _ _ _ _ _ => {}
  | .drain _ => {}
  | .compactorMove _ => {}
  | .poolSlotFreed _ _ => {}
  | .barrierArrival _ _ => {}
  | .ldcLoad _ _ => {}
  | .threadExit _ _ => {}
  | .copyStart _ => {}
  | .copyComplete _ => {}
  | .taskDispatch _ => {}
  | .taskStep _ => {}
  | .tileOpComplete _ => {}
  | .tileRangeRelease _ _ => {}
  | .pageMove _ _ => {}
  | .pageMoveComplete _ _ => {}
  | .forwardRequest _ _ => {}
  | .forwardNack _ _ => {}
  | .forwardRetry _ _ => {}
  | .poolExhausted _ _ => {}
  | .forwardGrant _ _ => {}
  | .recordAccept _ _ => {}
  | .fwdAckAdd _ _ => {}
  | .faultQueuePost _ => {}
  | .faultQueueHeadRead _ => {}
  | .kick _ _ _ _ => {}
  | .queueAgeingWake _ _ => {}
  | .cmdNop _ _ => {}
  | .cmdLaunch _ _ => {}
  | .cmdSignal _ _ => {}
  | .cmdWait _ _ => {}
  | .cmdBarrierJob _ _ => {}
  | .admission _ => {}
  | .admissionRetry _ => {}
  | .admissionAgeingLock _ => {}
  | .launchComplete _ => {}
  | .preempt _ => {}
  | .stopWalkReach _ => {}
  | .preemptDeadline _ => {}
  | .resume _ => {}
  | .remove _ => {}
  | .removalUnitReset _ => {}
  | .moverec _ _ _ _ => {}
  | .movegang _ _ _ _ _ _ _ => {}
  | .mapq _ _ _ _ _ => {}
  | .unmapq _ _ _ => {}
  | .setage _ _ => {}
  | .setmode _ => {}
  | .clkcut => {}
  | .debugAttach _ => {}
  | .debugDetach _ => {}
  | .releaseContinue _ _ _ _ => {}
  | .releaseDeliver _ _ _ _ => {}
  | .disposeRetry _ _ _ _ => {}
  | .disposeKill _ _ _ _ => {}
  | .createctx _ _ _ _ _ => {}
  | .setfq _ _ _ _ => {}
  | .debugQuery _ _ => {}
  | .freeze _ => {}
  | .tapReadout _ => {}
  | .packageReset _ => {}
  | .thermalTrip _ => {}
  | .clockChangeDone => {}
  | .mgmtReadStatus _ _ => {}
  | .mgmtSetPlimit _ _ => {}
  | .mgmtFreeze _ => {}
  | .mgmtThaw _ => {}
  | .mgmtReadout _ _ => {}
  | .mgmtPackageReset _ _ => {}
  | .getVersion => {}
  | .getCapabilities => {}
  | .negotiateAlgorithms => {}
  | .getDigests => {}
  | .getCertificate _ => {}
  | .challenge _ => {}
  | .getMeasurements _ => {}
  | .feltPacketReceive _ _ => {}
  | .heldPacketDeliver _ => {}
  | .flitRetransmit _ _ => {}
  | .linkFailed _ _ => {}
  | .clockBeacon _ => {}
  | .vAck _ => {}
  | .beaconTimeout _ _ => {}
  | .dieRemove _ => {}
  | .networkSplit => {}
  | .renharPacketReceive _ _ => {}
  | .circuitRestored _ _ => {}
  | .peerLost _ _ => {}
  | .rdmaWrite _ _ _ _ => {}
  | .rdmaRead _ _ _ _ => {}
  | .rdmaSend _ _ => {}
  | .rdmaAtomic _ => {}
  | .cnpReceive _ => {}
  | .ecnPacket _ => {}
  | .rateRestore _ => {}
  | .connectionError _ => {}
  | .coreClockCycle => {}
  | .icinvComplete _ _ => {}
  | .tlbinvComplete _ _ => {}
  | .queueRestart _ _ => {}
  | .circuitReconfiguration _ _ => {}
  | .connectionRequest _ _ _ => {}
  | .priorityFlowControlFrame _ _ => {}

end Sys2Proof.Machine
end

