-- ==== Sys2Proof/Machine/Ops.lean ====
section
/-! DEFINITION. The named operations over the state: rows of its tables, registers and latches, the record pool, the
ends of a segment (voluntary, trap, fault), binning, and the frame in which a word acts on the lanes of its group. -/

namespace Sys2Proof.Machine

open Sys2Proof (Byte Word DWord Instr)

/-! ### Rows -/

/-- The current core cycle (13 R269). -/
def now (s : State) : Nat := s.timeBase.toNat

def isThread (l t : Nat) (x : Thread) : Bool := decide (x.launch = l) && decide (x.thread = t)

def threadAt (s : State) (l t : Nat) : Option Thread := s.threads.find? (isThread l t)

/-- The state with one thread's row replaced. -/
def putThread (s : State) (t : Thread) : State :=
  { s with threads := s.threads.map fun x => if isThread t.launch t.thread x then t else x }

def mapThread (s : State) (l t : Nat) (f : Thread → Thread) : State :=
  { s with threads := s.threads.map fun x => if isThread l t x then f x else x }

/-- The gang row a thread runs under: its detached gang's copy on its core, or its gang's own (02 R42). -/
def isGangOf (t : Thread) (x : Gang) : Bool :=
  decide (x.launch = t.launch) && decide (x.gang = t.gang) && (x.detached == t.detachedHere)
    && (!t.detachedHere || decide (x.core = t.core)) && !x.reserved

def noGang : Gang := { launch := 0, gang := 0, core := 0 }

def gangOf (s : State) (t : Thread) : Gang := (s.gangs.find? (isGangOf t)).getD noGang

def mapGangOf (s : State) (t : Thread) (f : Gang → Gang) : State :=
  { s with gangs := s.gangs.map fun x => if isGangOf t x then f x else x }

def launchAt (s : State) (l : Nat) : Option Launch := s.launches.find? fun x => decide (x.handle = l)

def noLaunch : Launch := { handle := 0, ctx := 0 }

def launchOf (s : State) (l : Nat) : Launch := (launchAt s l).getD noLaunch

def mapLaunch (s : State) (l : Nat) (f : Launch → Launch) : State :=
  { s with launches := s.launches.map fun x => if x.handle = l then f x else x }

def ctxAt (s : State) (tag : Nat) : Option Context := s.contexts.find? fun x => decide (x.tag = tag)

def noCtx : Context := { tag := 0 }

def ctxOf (s : State) (tag : Nat) : Context := (ctxAt s tag).getD noCtx

def mapCtx (s : State) (tag : Nat) (f : Context → Context) : State :=
  { s with contexts := s.contexts.map fun x => if x.tag = tag then f x else x }

/-- The context of a launch. -/
def ctxOfLaunch (s : State) (l : Nat) : Context := ctxOf s (launchOf s l).ctx

def partOf (s : State) (n : Nat) : Option Partition := s.partitions.find? fun x => decide (x.num = n)

def noPart : Partition := { num := 0 }

/-- A core's row; a core without one is as after reset. -/
def coreOf (s : State) (c : Nat) : Core := (s.cores.find? fun x => decide (x.core = c)).getD { core := c }

def putCore (s : State) (r : Core) : State :=
  if s.cores.any (fun x => decide (x.core = r.core)) then
    { s with cores := s.cores.map fun x => if x.core = r.core then r else x }
  else { s with cores := insertBy Core.core r s.cores }

def mapCore (s : State) (c : Nat) (f : Core → Core) : State := putCore s (f (coreOf s c))

/-- Adds to a counter of a core (13 R264); nothing is counted in the rest of a cycle that zeroed them (19 R291). -/
def bumpCounter (sel n : Nat) (r : Core) : Core :=
  if r.zeroed then r
  else if r.counters.any (fun x => decide (x.1 = sel)) then
    { r with counters := r.counters.map fun x => if x.1 = sel then (sel, x.2 + BitVec.ofNat 64 n) else x }
  else { r with counters := (sel, BitVec.ofNat 64 n) :: r.counters }

def count (c sel n : Nat) (s : State) : State := if n = 0 then s else mapCore s c (bumpCounter sel n)

def readCounter (r : Core) (sel : Nat) : BitVec 64 := ((r.counters.find? fun x => decide (x.1 = sel)).map (·.2)).getD 0

/-- The queue of a partition with an index. -/
def queueAt (s : State) (part idx : Nat) : Option Queue :=
  s.queues.find? fun x => decide (x.part = part) && decide (x.idx = idx)

def mapQueue (s : State) (part idx : Nat) (f : Queue → Queue) : State :=
  { s with queues := s.queues.map fun x => if x.part = part ∧ x.idx = idx then f x else x }

/-! ### Dies and packets -/

/-- Die index of a core (01 R7). -/
def dieOfCore (c : Nat) : Nat := c / 24 + 1

/-- Home die index of an HBM location (04 R92). -/
def homeDie (pa : Nat) : Nat := pa / 2 ^ 36 % 8 + 1

/-- Home slice of an HBM location on its die (04 R92). -/
def homeSlice (pa : Nat) : Nat :=
  Nat.xor (Nat.xor (pa / 2 ^ 7 % 16) (pa / 2 ^ 11 % 16)) (Nat.xor (pa / 2 ^ 15 % 16) (pa / 2 ^ 19 % 16))

/-- Code-space byte address of a packet (01 R11). -/
def packetAddr (p : Nat) : Nat := p / 10 * 128 + p % 10 * 12

/-- The packet that begins at a byte address, if one does (04 R84). -/
def packetOfAddr (c : Nat) : Option Nat :=
  if c % 128 < 120 ∧ c % 128 % 12 = 0 then some (c / 128 * 10 + c % 128 / 12) else none

/-- The packet at which the resume descriptor of an ending word in packet P begins (02 R19). -/
def descPacket (p : Nat) : Nat := if (p + 1) % 10 = 9 then p + 2 else p + 1

/-- The packet after that descriptor. -/
def resumePacket (p : Nat) : Nat := descPacket p + 2

/-- The tag-5 pointer of a packet (07 R154). -/
def codePointer (p : Nat) : DWord := BitVec.ofNat 64 (0x5000000000000000 + packetAddr p)

/-! ### Registers, predicates, latches -/

/-- A register of the window; at or above it, zero (02 R32). -/
def regGet (regs : List Word) (i : Nat) : Word := regs.getD i 0

/-- A register written; at or above the window, discarded (02 R32). -/
def regSet (regs : List Word) (i : Nat) (v : Word) : List Word := regs.set i v

/-- Registers, predicates and FPSM as the words of the run read them (02 R35). -/
def oldRegs (t : Thread) : List Word := (t.before.map Before.regs).getD t.regs

def oldPred (t : Thread) : BitVec 8 := (t.before.map Before.pred).getD t.pred

def oldFpsm (t : Thread) : BitVec 8 := (t.before.map Before.fpsm).getD t.fpsm

/-- p(i), with p0 = 1 (06 R128). -/
def predBit (pred : BitVec 8) (i : Nat) : Bool := i == 0 || pred.getLsbD i

/-- p(i) written; p0 is not. -/
def predSet (pred : BitVec 8) (i : Nat) (v : Bool) : BitVec 8 :=
  if i = 0 then pred
  else if v then pred ||| BitVec.ofNat 8 (2 ^ i) else pred &&& ~~~ (BitVec.ofNat 8 (2 ^ i))

def oldLatch (t : Thread) (i : Nat) : Option Latch :=
  match t.before with
  | some b => match i with | 0 => b.la | 1 => b.lb | 2 => b.lm | _ => b.ls
  | none => match i with | 0 => t.la | 1 => t.lb | 2 => t.lm | _ => t.ls

/-- The pipes that have a latch, with the latch of a word of the class in its run (01 R9, 02 R37). -/
def latchOf (iss : Issue) : Pipe → Option Nat
  | .ab => some (if iss.second then 1 else 0)
  | .m => some 2
  | .s => some 3
  | .x => none

/-- The threads that the run issues to (02 R36): a lane that waits in issue is not ready. -/
def groupLanes (iss : Issue) : List Nat := iss.lanes.filter fun l => !iss.away.contains l

/-- A latch written. -/
def setLatch (iss : Issue) (p : Pipe) (v : Word) (t : Thread) : Thread :=
  match latchOf iss p with
  | some 0 => { t with la := some ⟨v, groupLanes iss⟩ }
  | some 1 => { t with lb := some ⟨v, groupLanes iss⟩ }
  | some 2 => { t with lm := some ⟨v, groupLanes iss⟩ }
  | some _ => { t with ls := some ⟨v, groupLanes iss⟩ }
  | none => t

/-- Every latch dead (02 R37). -/
def killLatches (t : Thread) : Thread := { t with la := none, lb := none, lm := none, ls := none }

/-- A 64-bit value written to a pair, or a 128-bit value to a quad, lowest register first. -/
def setRegs (t : Thread) (i : Nat) : List Word → Thread
  | [] => t
  | v :: vs => setRegs { t with regs := regSet t.regs i v } (i + 1) vs

/-- The words of a number, lowest first. -/
def wordsOf (v : Nat) : Nat → List Word
  | 0 => []
  | n + 1 => BitVec.ofNat 32 v :: wordsOf (v / 2 ^ 32) n

/-- The number of a list of words. -/
def natOfWords : List Word → Nat
  | [] => 0
  | v :: vs => v.toNat + 2 ^ 32 * natOfWords vs

/-- Outstanding load data written into the window (09 R180). -/
def returnLoad (t : Thread) (p : PendingLoad) : Thread :=
  let t1 := { t with regs := p.writes.foldl (fun r w => regSet r w.1 w.2) t.regs }
  match p.latch with
  | some l => { t1 with lm := some l }
  | none => t1

def flushLoads (t : Thread) : Thread := { t.loads.foldl returnLoad t with loads := [] }

/-! ### Lanes -/

/-- The number of a thread's lane in its group (02 R29). -/
def laneNo (iss : Issue) (t : Thread) : Nat := (groupLanes iss).findIdx (fun x => x == t.thread)

/-- The thread is in the group. -/
def inGroup (iss : Issue) (t : Thread) : Bool := decide (t.launch = iss.launch) && (groupLanes iss).contains t.thread

/-- Guarded on (06 R122). -/
def guardOn (g : BitVec 2) (t : Thread) : Bool := predBit (oldPred t) g.toNat

/-- The lane is active in a word: in the group and guarded on. -/
def isActive (iss : Issue) (g : BitVec 2) (t : Thread) : Bool := inGroup iss t && guardOn g t

/-- The lane takes the word's effect: active, and its run is not void. -/
def isLive (iss : Issue) (g : BitVec 2) (t : Thread) : Bool := isActive iss g t && t.laneEnd.isNone

/-- The active threads of a word, in lane order. -/
def activeThreads (s : State) (iss : Issue) (g : BitVec 2) : List Thread :=
  (groupLanes iss).filterMap fun l => (threadAt s iss.launch l).filter (guardOn g)

def endLane (iss : Issue) (t : Thread) (e : LaneEnd) : Thread := { t with laneEnd := some (e, iss.pos) }

/-- What a word does to one thread that it alone concerns. -/
def laneStep (iss : Issue) (g : BitVec 2) (f : Thread → Except LaneEnd Thread) (t : Thread) : Thread :=
  if isLive iss g t then
    match f t with
    | .ok t' => t'
    | .error e => endLane iss t e
  else t

/-- A word that acts in each lane on that lane's thread alone. -/
def mapLanes (g : BitVec 2) (f : State → Issue → Thread → Except LaneEnd Thread) (s : State) : State :=
  match s.issue with
  | none => s
  | some iss => { s with threads := s.threads.map (laneStep iss g (f s iss)) }

/-- What a word does for one lane, in a state that lower lanes have changed. -/
def laneFold (iss : Issue) (g : BitVec 2) (f : State → Issue → Thread → Except LaneEnd State) (s : State) (l : Nat) :
    State :=
  match threadAt s iss.launch l with
  | none => s
  | some t =>
    if isLive iss g t then
      match f s iss t with
      | .ok s' => s'
      | .error e => putThread s (endLane iss t e)
    else s

/-- A word whose lanes act one after another in lane order. -/
def foldLanes (g : BitVec 2) (f : State → Issue → Thread → Except LaneEnd State) (s : State) : State :=
  match s.issue with
  | none => s
  | some iss => iss.lanes.foldl (laneFold iss g f) s

/-- The elected lane: the lowest that is active (10 R207, 19 R288). -/
def electedLane (s : State) (iss : Issue) (g : BitVec 2) : Option Thread := (activeThreads s iss g).head?

/-- A word that acts once, for the elected lane. -/
def electLane (g : BitVec 2) (f : State → Issue → Thread → Except LaneEnd State) (s : State) : State :=
  match s.issue with
  | none => s
  | some iss =>
    match electedLane s iss g with
    | none => s
    | some t => laneFold iss g f s t.thread

/-- The whole group waits in issue (10 R211, 19 R288). -/
def waitGroup (k : WaitKind) (s : State) : State :=
  match s.issue with
  | none => s
  | some iss =>
    { s with threads := s.threads.map fun t =>
        if inGroup iss t && t.laneEnd.isNone then endLane iss t (.wait k) else t }

/-! ### The record pool (02 R21, R22) -/

/-- A thread that holds a window. -/
def holdsWindow (t : Thread) : Bool :=
  match t.place with
  | .window => true
  | .stalled _ => true
  | _ => false

/-- Number of set bits of a mask below 64. -/
def popMask (m : DWord) : Nat := (List.range 64).foldl (fun n i => if m.getLsbD i then n + 1 else n) 0

/-- Length of a record (02 R22). -/
def recordLength (t : Thread) : Nat :=
  0x40 + 4 * popMask t.carry + 48 * t.streams.length + 16 * t.sbuf.length + (if t.latchesSaved then 16 else 0)

/-- Slot class of a length, in bytes (02 R22). -/
def classOf (n : Nat) : Nat := if n ≤ 128 then 128 else if n ≤ 256 then 256 else if n ≤ 512 then 512 else 1024

/-- Bytes of a reserved class code (20 Table 20-1 RCLASS). -/
def classBytes (c : Nat) : Nat := 128 * 2 ^ c

/-- The regions of a core's pool: number and length. -/
def poolRegions (r : Core) : List (Nat × Nat) :=
  (0, Config.poolBytes) :: (r.exts.filter (fun e => !e.withdrawn)).map fun e => (e.region, e.length)

def roundUp (n c : Nat) : Nat := (n + c - 1) / c * c

/-- Aligned blocks of `c` bytes between two offsets. -/
def blocksBetween (c lo hi : Nat) : Nat := hi / c - roundUp lo c / c

/-- Free blocks of class `c` in a region whose taken blocks are listed in rising order. -/
def freeIn (c : Nat) : Nat → Nat → List PoolBlock → Nat
  | lo, len, [] => blocksBetween c lo len
  | lo, len, b :: bs => blocksBetween c lo b.off + freeIn c (b.off + b.size) len bs

def blocksOf (r : Core) (region : Nat) : List PoolBlock := r.pool.filter fun b => decide (b.region = region)

/-- The number of free slots of class `c` (02 R21). -/
def freeSlots (r : Core) (c : Nat) : Nat :=
  (poolRegions r).foldl (fun n g => n + freeIn c 0 g.2 (blocksOf r g.1)) 0

/-- The lowest free blocks of class `c` in a region, as many as `n` allows: where and how many in a row. -/
def takeIn (c : Nat) : Nat → Nat → Nat → List PoolBlock → List (Nat × Nat)
  | n, lo, len, [] =>
    let k := min n (blocksBetween c lo len)
    if k = 0 then [] else [(roundUp lo c, k * c)]
  | n, lo, len, b :: bs =>
    let k := min n (blocksBetween c lo b.off)
    if k = 0 then takeIn c n (b.off + b.size) len bs
    else (roundUp lo c, k * c) :: takeIn c (n - k) (b.off + b.size) len bs

/-- Key that orders the taken blocks of a pool. -/
def blockKey (b : PoolBlock) : Nat := b.region * 2 ^ 40 + b.off

/-- `n` slots of class `c` taken for a gang, or one for a record, region by region. -/
def takeSlots (c : Nat) (l g : Nat) (t : Option Nat) : Nat → List (Nat × Nat) → Core → Core
  | _, [], r => r
  | n, (reg, len) :: rs, r =>
    let got := takeIn c n 0 len (blocksOf r reg)
    let add (p : List PoolBlock) (x : Nat × Nat) :=
      insertBy blockKey { region := reg, off := x.1, size := x.2, launch := l, gang := g, thread := t } p
    takeSlots c l g t (n - got.foldl (fun m x => m + x.2 / c) 0) rs { r with pool := got.foldl add r.pool }

/-- The slot of a thread's record given back, on whatever core holds it. -/
def freeRecordSlot (s : State) (l t : Nat) : State :=
  { s with cores := s.cores.map fun r =>
      { r with pool := r.pool.filter fun b => !(decide (b.launch = l) && decide (b.thread = some t)) } }

/-- The record of a thread of a resident gang fits its reservation (02 R21). -/
def fitsReservation (s : State) (t : Thread) : Bool :=
  !t.detachedHere && decide (classOf (recordLength t) ≤ classBytes (launchOf s t.launch).rclass)

/-! ### Modules, contexts, binning -/

/-- The code byte address a thread or record stands at. -/
def codeAddr (t : Thread) : Nat := packetAddr t.packet + 4 * t.pos

def inModule (m : Module) (c : Nat) : Bool := decide (m.start ≤ c) && decide (c < m.start + m.length)

/-- Code at this address lies in a RETIRED module and in no LIVE one (19 R297). -/
def isRetired (x : Context) (c : Nat) : Bool :=
  x.modules.any (fun m => m.state == .retired && inModule m c)
    && !(x.modules.any fun m => m.state == .live && inModule m c)

/-- The code of a trap (21 Table 21-4). -/
def trapCode : Trap → Nat
  | .illegalInstruction => 0x01 | .illegalOperand => 0x02 | .illegalChain => 0x03 | .illegalLiteral => 0x04
  | .privileged => 0x05 | .formatDivergence => 0x06 | .misaligned => 0x07 | .segmentLimit => 0x08
  | .privateForeign => 0x09 | .peerInvalid => 0x0A | .peerUnreachable => 0x0B | .malformedCoord => 0x0C
  | .staleHandle => 0x0D | .poolExhausted => 0x0E | .moduleRetired => 0x0F | .breakpoint => 0x10 | .userTrap => 0x11

/-- The trap word (02 R25). -/
def trapWordOf (t : Trap) (packet pos : Nat) : DWord :=
  BitVec.ofNat 64 (trapCode t + pos % 4 * 256 + packet % 2 ^ 48 * 65536)

/-- A context fault (21 R333): the context is held and the fault reported; of a context that is held already, the first. -/
def contextFault (s : State) (tag l t : Nat) (w : DWord) : State :=
  let s1 := mapCtx s tag fun x =>
    match x.run with
    | .removing _ => x
    | .held => { x with report := some (x.report.getD (w, l, t)) }
    | _ => { x with run := .held, report := some (w, l, t) }
  { s1 with log := s1.log ++ [.contextFault tag l t w] }

/-- The whole window carried (02 Table 2-3). -/
def wholeWindow (n : Nat) : DWord := BitVec.ofNat 64 (2 ^ n - 1)

/-- Registers that a mask carries; the others of a record read zero (02 R33). -/
def carried (m : DWord) (regs : List Word) : List Word :=
  (regs.zip (List.range regs.length)).map fun x => if m.getLsbD x.2 then x.1 else 0

/-- The Carder's entry copy given up; the kind it told stands (12 R248). -/
def forgetCopy (x : Stream) : Stream := { x with kind := (x.copy.map Entry.kind).getD x.kind, copy := none }

/-- The thread out of its window, its record formed: outstanding data written, only the carried registers kept, the
Carder's entry copies given up (09 R180, 12 R248), SYSSTAT and the trap word zero (19 R289, 07 R159). -/
def formRecord (t : Thread) (m : DWord) : Thread :=
  let t1 := flushLoads t
  { t1 with carry := m, regs := carried m t1.regs, sysstat := 0, trapWord := 0, passed := 0, waiting := none,
            sysWait := .none, sysMates := [], inPacket := false, streams := t1.streams.map forgetCopy }

/-- Counts one record written (13 Table 13-1 RECWR). -/
def recordWritten (s : State) (c : Nat) : State := count c 0x0202 1 s

/-- A trap converts a record in place: handler entry, trap word, FLAGS.TRAP (02 R39, 21 R334). -/
def trapRecord (t : Thread) (handler : Nat) (w : DWord) (tag : Nat) : Thread :=
  killLatches { t with packet := handler, pos := 0, posted := none, kept := none, answers := [], readS := [], peeked := [],
                       looked := [], readErr := [], lookErr := [], trapRec := true, forced := false, latchesSaved := false,
                       tfword := w, efftag := tag }

/-- The record binned now under its own key, or kept unbinned while its context stops (02 R26, 22 R341). A record
whose resume point lies in a retired module becomes a MODULE_RETIRED trap record (21 R334). -/
def binRecord (s : State) (t : Thread) : State :=
  let x := ctxOfLaunch s t.launch
  let lr := launchOf s t.launch
  if isRetired x (codeAddr t) && !t.trapRec then
    let w := trapWordOf .moduleRetired t.packet 0
    if lr.trappkt = 0 || isRetired x (packetAddr lr.trappkt) then
      contextFault (putThread s { t with place := .unbinned, tfword := w }) x.tag t.launch t.thread w
    else
      putThread s { trapRecord t lr.trappkt w x.tag with
        place := if x.run = .running then .binned (now s) else .unbinned }
  else if isRetired x (codeAddr t) then
    contextFault (putThread s { t with place := .unbinned }) x.tag t.launch t.thread t.tfword
  else putThread s { t with place := if x.run = .running then .binned (now s) else .unbinned }

/-- The 64 KiB page of a fault word, the home's and the own space apart (21 R327). -/
def faultPage (w : DWord) : Nat := w.toNat / 2 ^ 32 * 2 + w.toNat / 256 % 2

/-- Two items of a launch on a core lie under one entry. -/
def sameFault (launch core : Nat) (w : DWord) (f : PendingFault) : Bool :=
  decide (f.launch = launch) && decide (f.core = core) && decide (faultPage f.word = faultPage w)

/-- An item enters its fault bin: the first for its page has an entry to post, a later one joins it (21 R327). -/
def enterFault (s : State) (launch core : Nat) (w : DWord) (peer : Nat) : State :=
  if s.faults.any (sameFault launch core w) then s
  else
    let lr := launchOf s launch
    { s with faults := s.faults ++ [{ fdie := lr.fdie, word := w, launch := launch, tag := lr.ctx, peer := peer, core := core }] }

/-- A record put into the fault bin of its core. -/
def putFaultBin (s : State) (t : Thread) (w : DWord) (peer : Nat) : State :=
  enterFault (putThread s { t with place := .faultBin w peer }) t.launch t.core w peer

/-- A record put where it waits: binned at once, or at its place. -/
def settleAt (s : State) (t : Thread) : Place → State
  | .binned _ => binRecord s t
  | .faultBin w n => putFaultBin s t w n
  | p => putThread s { t with place := p }

/-- A slot for a record on a core (02 R21): in the gang's reservation, or an unreserved slot of its class; none where
there is neither. -/
def takeSlotOn (s : State) (t : Thread) (core : Nat) : Option State :=
  if fitsReservation s t then some s
  else
    let c := classOf (recordLength t)
    let r := coreOf s core
    if freeSlots r c = 0 then none
    else some (putCore s (takeSlots c t.launch t.gang (some t.thread) 1 (poolRegions r) r))

/-- A record written into its slot, and counted (02 R21, 13 R267); without a slot the thread keeps its window and
stalls. -/
def placeRecord (s : State) (t : Thread) (p : Place) : State :=
  match takeSlotOn s t t.core with
  | some s1 => settleAt (recordWritten s1 t.core) t p
  | none => putThread s { t with place := .stalled p }

/-- A voluntary segment end (02 Table 2-3, 09 R194). -/
def voluntaryEnd (s : State) (t : Thread) (p : Place) (packet : Nat) (m : DWord) : State :=
  let t1 := killLatches (formRecord t m)
  let t2 := { t1 with packet := packet, pos := 0, forced := false, trapRec := false, latchesSaved := false,
                      tfword := 0, efftag := (launchOf s t.launch).ctx }
  placeRecord s t2 p

/-- An involuntary segment end: the record resumes at the run, with its latches (02 Table 2-3). -/
def involuntaryEnd (s : State) (t : Thread) (p : Place) (w : DWord) : State :=
  let t1 := formRecord t (wholeWindow t.window)
  let t2 := { t1 with forced := false, trapRec := false, latchesSaved := true, tfword := w }
  placeRecord s t2 p

/-- A precise trap is taken (02 R39): the trap record at the handler entry, binned at once; without a handler, or with
a retired one, a context fault (21 R333); held under a debugger's breakpoint (22 R353). -/
def takeTrap (s : State) (t : Thread) (k : Trap) (packet pos : Nat) : State :=
  let lr := launchOf s t.launch
  let x := ctxOf s lr.ctx
  let w := trapWordOf k packet pos
  let t1 := formRecord t (wholeWindow t.window)
  let t2 := { trapRecord t1 lr.trappkt w lr.ctx with remoteEnq := none, remoteLoad := none }
  if k = .breakpoint && x.debug then placeRecord s t2 .held
  else if lr.trappkt = 0 || isRetired x (packetAddr lr.trappkt) then
    contextFault (placeRecord s t2 .unbinned) lr.ctx t.launch t.thread w
  else placeRecord s t2 (.binned 0)

/-- A return from a handler (07 R160): the segment ends without a record; latches die, the window and its registers
stay, the trap word reads zero. -/
def handlerReturn (s : State) (t : Thread) (packet pos : Nat) : State :=
  let t1 := killLatches (flushLoads t)
  putThread s { t1 with packet := packet, pos := pos, trapWord := 0, sysstat := 0,
                        inPacket := false, streams := t1.streams.map forgetCopy }

/-- Finished batches at the head reported in order; BOLDEST follows (11 R238). -/
def reportBatches : List Batch → BitVec 16 → List Batch × BitVec 16
  | [], n => ([], n)
  | b :: bs, n => if b.ops = [] then reportBatches bs (n + 1) else (b :: bs, n)

def advanceBatches (t : Thread) : Thread :=
  let r := reportBatches t.batches t.boldest
  { t with batches := r.1, boldest := r.2 }

/-- The open batch sealed (11 R237); it is reported at once where it and every earlier one are finished. -/
def sealBatch (t : Thread) : Thread :=
  advanceBatches
    { t with bsealed := t.bsealed + 1,
             batches := t.batches ++ [{ num := (t.bsealed + 1).toNat, ops := t.openBatch.ops, bytes := t.openBatch.bytes }],
             openBatch := {} }

/-- Sealed only where it holds an operation (02 R41, 09 R198). -/
def sealIfUsed (t : Thread) : Thread := if t.openBatch.issued then sealBatch t else t

/-- The exit of a thread begins (09 R198): window, streams and latches are freed at once; the open batch is sealed if
it holds anything. -/
def beginExit (s : State) (t : Thread) (f : Thread → Thread) : State :=
  let t1 := killLatches (flushLoads t)
  putThread s (f { t1 with place := .exiting, streams := [], window := 0, regs := [], carry := 0, sysstat := 0,
                           trapWord := 0, waiting := none })

/-- Sealed batches not yet reported (09 R196). -/
def unfinished (t : Thread) : Nat := (t.bsealed + 1 - t.boldest).toNat

/-- Where a thread waits: also while it stalls on its way there (02 R21), while an error has taken its record to the fault
bin (21 R336), or while Milliner moves it (22 R347). -/
def awaits (t : Thread) : Place :=
  match t.place with
  | .stalled (.faultBin w n) => (t.parked.map ParkedRecord.place).getD (.faultBin w n)
  | .stalled p => p
  | .faultBin w n => (t.parked.map ParkedRecord.place).getD (.faultBin w n)
  | .forward =>
    match t.fwd.bind Forward.from_ with
    | some (.faultBin w n) => (t.parked.map ParkedRecord.place).getD (.faultBin w n)
    | some p => p
    | none => .forward
  | p => p

/-- The event that a record awaits has come (02 R20, R26): it is binned, at once or when it has its slot, leaves the
fault bin or ends its move. -/
def eventCame (s : State) (t : Thread) : State :=
  match t.place with
  | .stalled (.faultBin _ _) => putThread s { t with parked := t.parked.map fun r => { r with place := .unbinned } }
  | .stalled _ => putThread s { t with place := .stalled (.binned 0) }
  | .faultBin _ _ => putThread s { t with parked := t.parked.map fun r => { r with place := .unbinned } }
  | .forward =>
    match t.fwd.bind Forward.from_ with
    | some (.faultBin _ _) => putThread s { t with parked := t.parked.map fun r => { r with place := .unbinned } }
    | _ => putThread s { t with fwd := t.fwd.map fun f => { f with from_ := some .unbinned } }
  | _ => binRecord s t

/-- Room for the latches that a fault record holds and a parked one may not: its slot, or one of the larger class in its
place, if one is free (02 R21, R22). -/
def latchRoom (s : State) (t : Thread) : Option State :=
  let u := { t with latchesSaved := true }
  if classOf (recordLength u) = classOf (recordLength t) then some s
  else takeSlotOn (freeRecordSlot s t.launch t.thread) u t.core

/-- A parked record put into the fault bin of its core by a fault that is not at its own run: its flags and TFWORD are a
fault record's there (21 R326), and come back with RETRY. Where no slot holds its latches, which are dead, it has none. -/
def parkFault (s : State) (t : Thread) (p : Place) (w : DWord) (peer : Nat) : State :=
  let r : ParkedRecord := { place := p, forced := t.forced, trapRec := t.trapRec, latchesSaved := t.latchesSaved, tfword := t.tfword }
  let u := { t with parked := some r, forced := false, trapRec := false, tfword := w }
  match latchRoom s u with
  | some s1 => putFaultBin s1 { u with latchesSaved := true } w peer
  | none => putFaultBin s u w peer

/-- A batch wait that is over bins its record. -/
def wakeBatch (s : State) (t : Thread) : State :=
  match awaits t with
  | .batchWait n => if unfinished t ≤ n then eventCame s t else putThread s t
  | _ => putThread s t

/-! ### The end of a run -/

/-- FPSM after a run: the clear acts first, and the flags the run's words set stand (08 R163). -/
def fpsmAfter (t : Thread) : BitVec 8 := (if t.flagsClear then t.fpsm &&& 0xE0 else t.fpsm) ||| t.flagsSet

/-- A lane that waits in issue. -/
def isWaitEnd (t : Thread) : Bool :=
  match t.laneEnd with
  | some (.wait _, _) => true
  | some (.enqueue _ _ _, _) => true
  | some (.remote _, _) => true
  | _ => false

/-- A lane that comes to its run again: not one that goes on, or takes a trap. -/
def comesAgain (t : Thread) : Bool :=
  match t.laneEnd with
  | none => false
  | some (.trap _, _) => false
  | some (.coordTrap _, _) => false
  | some (.peerTrap _ _ _, _) => false
  | some _ => true

/-- The run's bookkeeping of a thread cleared, its flags made. A lane that comes to its run again keeps what was answered to
it, and with a word of the run made already what the run has read before it (02 R35). -/
def clearRun (t : Thread) : Thread :=
  let again := comesAgain t
  let reads := again && t.posted.isSome
  { t with posted := if again then t.posted else none, kept := if again then t.kept else none,
           answers := if again then t.answers else [], fpsm := fpsmAfter t, before := none,
           readS := if reads then t.readS else [], peeked := if reads then t.peeked else [],
           looked := if reads then t.looked else [], readErr := if reads then t.readErr else [],
           lookErr := if reads then t.lookErr else [], advanced := [], acts := [], flagsSet := 0, flagsClear := false,
           next := .fall, laneEnd := none, ask := none, posting := none, sysWait := .none, sysMates := [] }

/-- Translations of a context that cover a byte of a range gone from every TLB and walk cache; `n` of 0 pages is all. -/
def invalidate (tag va n : Nat) (s : State) : State :=
  let hit := fun (base size : Nat) => decide (n = 0) || (decide (base < va + n * 65536) && decide (va < base + size))
  { s with cores := s.cores.map fun r =>
             { r with tlb := r.tlb.filter fun e => !(decide (e.tag = tag) && hit e.base e.size) },
           walkCache := s.walkCache.filter fun e =>
             !(decide (e.2.tag = tag) && hit e.2.base (2 ^ (48 - 8 * e.2.level))) }

/-- What a privileged wait begins with: translations to be invalidated are gone, and their users are waited for (19
R296). -/
def startWait : SysWait → State → State
  | .invalidation tag va n, s => invalidate tag va n s
  | _, s => s

/-- One lane at the end of the run: its trap, fault or wait, or where it goes on. -/
def settleLane (iss : Issue) (s : State) (l : Nat) : State :=
  match threadAt s iss.launch l with
  | none => s
  | some t0 =>
    let t := clearRun t0
    match t0.laneEnd with
    | some (.trap k, pos) => takeTrap s t k iss.packet pos
    | some (.coordTrap x, pos) =>
      takeTrap s { t with streams := t.streams.map fun y => if y.snum = x.snum then x else y } .malformedCoord iss.packet pos
    | some (.peerTrap k n st, pos) => takeTrap { s with log := s.log ++ [.peerTrap n st] } t k iss.packet pos
    | some (.fault w n, _) => involuntaryEnd s t (.faultBin w n) w
    | some (.copySlot, _) => involuntaryEnd s t .copySlot 0
    | some (.storeSlot, _) => involuntaryEnd s t .storeSlot 0
    | some (.wait k, _) => putThread s { t with waiting := some k }
    | some (.enqueue p i c, _) => putThread s { t with waiting := some .queue, remoteEnq := some (.wanted p i c) }
    | some (.remote r, _) =>
      putThread s { t with waiting := some (if r.stream then .stream else .data), remoteLoad := some (.wanted r) }
    | some (.sysWait w, _) => putThread (startWait w s) { t with waiting := some .sync, sysWait := w, sysMates := iss.lanes }
    | some (.modeWait d c, _) =>
      putThread { s with mode := { s.mode with drain := d }, clockWanted := some c }
        { t with waiting := some .sync, sysWait := .clock, sysMates := iss.lanes }
    | none =>
      match t0.next with
      | .fall => putThread s { t with packet := iss.fall.1, pos := iss.fall.2 }
      | .jump p q => putThread s { t with packet := p, pos := q }
      | .segment pl p m => voluntaryEnd s t pl p m
      | .exit => beginExit s t sealIfUsed
      | .handlerReturn p q => handlerReturn s t p q

/-- One effect that the run left for its end. An effective tag goes with a window that stands. -/
def applyAfter (s : State) : AfterRun → State
  | .segment l g c d i base limit pshift =>
    { s with gangs := s.gangs.map fun x =>
        if x.launch = l ∧ x.gang = g ∧ x.core = c ∧ x.detached = d then
          { x with segs := x.segs.set i { base := base, limit := limit, pshift := pshift } } else x }
  | .counterEnable tag on => mapCtx s tag fun x => { x with ctren := on }
  | .zeroCounters c => mapCore s c fun r => { r with counters := [], zeroed := true }
  | .effectiveTag l n tag => mapThread s l n fun t => if t.place = .window then { t with efftag := tag } else t

/-- The run is over: every lane of the group settled, in lane order, and then what was left for the end. -/
def settle (s : State) : State :=
  match s.issue with
  | none => s
  | some iss => iss.after.foldl applyAfter { iss.lanes.foldl (settleLane iss) s with issue := none }

/-- The lanes of the group whose run has been ended by a word. -/
def endedLanes (s : State) (iss : Issue) : List Thread :=
  s.threads.filter fun t => inGroup iss t && t.laneEnd.isSome

/-- The end of a lane whose run has no effect. A stream stands at its offending element (12 R250), unless the run advanced
it on the way there: a lane whose run traps advances nothing (12 R253; log 80). -/
def keptEnd (e : Thread) : Option (LaneEnd × Nat) :=
  match e.laneEnd with
  | some (.coordTrap x, pos) => some (if e.advanced.contains x.snum then .trap .malformedCoord else .coordTrap x, pos)
  | end_ => end_

/-- The words that send or post what later words of their run may have to wait for: stores, release stores and atomics,
reductions, signals, commands. -/
def isPosting : Instr → Bool
  | .stB8 _ _ _ _ _ | .stB16 _ _ _ _ _ | .stB32 _ _ _ _ _ | .stB64 _ _ _ _ _ | .stB128 _ _ _ _ _ => true
  | .stRelB32 _ _ _ _ _ | .stRelB64 _ _ _ _ _ => true
  | .red _ _ _ _ _ _ _ => true
  | .atom _ _ _ _ o _ _ => decide (2 ≤ o.toNat)
  | .signal _ _ _ _ => true
  | .enq _ _ _ _ => true
  | _ => false

/-- The position of such a word before another position of the run, on which a lane is guarded on. -/
def postingWord (iss : Issue) (t : Thread) (pos : Nat) : Option Nat :=
  (iss.words.find? fun w => decide (w.1 < pos) && isPosting w.2 && guardOn (instrInfo w.2).guard t).map (·.1)

/-- The lane waits at a word of its run, which has read all that it reads of streams: not at what its stream effects do. -/
def waitsAtWord (e : Thread) (k : LaneEnd) (pos : Nat) : Bool :=
  (match k with | .wait _ => true | _ => false) && e.acts.all (fun a => !decide (a.1 = pos))
    && (e.readErr ++ e.lookErr).all fun x => match x.2 with | .wait _ => false | .remote _ => false | _ => true

/-- A lane before its run, with what ended the run for it. Where it waits, a store, reduction, release, signal or command in
front of the word that waits is still made, once: that word comes after it in program order, and may wait for it (05 R98,
R113). What the run has read of streams before stands then (02 R35); in every other case elements that it has materialised are
taken back (DESIGN CHOICE, log 104; 12 R249 lets them stay). -/
def voidLane (iss : Issue) (x e : Thread) : Thread :=
  match e.laneEnd with
  | some (k, pos) =>
    match postingWord iss x pos with
    | some p =>
      if waitsAtWord e k pos && x.posted.isNone then
        { x with posting := some (p, k, pos), streams := e.streams, readS := e.readS, peeked := e.peeked, looked := e.looked,
                 readErr := e.readErr, lookErr := e.lookErr }
      else { x with laneEnd := keptEnd e }
    | none => { x with laneEnd := keptEnd e }
  | none => x

/-- A lane that has made only such a word waits: where that word could be performed, it is not made again. -/
def closePosting (t : Thread) : Thread :=
  match t.posting, t.laneEnd with
  | some (p, k, pos), none => { t with laneEnd := some (k, pos), posted := some p }
  | _, _ => t

/-- A lane whose run takes effect but for the answer of a peer or the host waits for that answer. -/
def closeAsk (t : Thread) : Thread :=
  match t.ask, t.laneEnd with
  | some (r, pos), none => { t with laneEnd := some (.remote r, pos) }
  | _, _ => t

/-- The state before the run, with the lanes that a word ended marked: the run has no effect for them (02 R39). Those that
wait in issue are out of the group, which numbers its lanes without them (02 R29, R36). -/
def voidLanes (s : State) (ended : List Thread) : State :=
  { s with
    threads := s.threads.map fun x =>
      match ended.find? (isThread x.launch x.thread), s.issue with
      | some e, some iss => voidLane iss x e
      | _, _ => x,
    issue := s.issue.map fun iss => { iss with away := iss.away ++ (ended.filter isWaitEnd).map Thread.thread } }

end Sys2Proof.Machine
end

