-- ==== Sys2Proof/Machine/Access.lean ====
section
/-! DEFINITION. How an access is decoded, checked and translated: the procedure of 04 R76 with Table 4-3, the page-table
walk of 21 R322, the physical rules of R323, and the reading of memory in front of which a thread's posted stores
stand (05 R110). -/

namespace Sys2Proof.Machine

open Sys2Proof (Byte Word DWord Instr)

/-! ### Pointers and segments -/

/-- The access classes of 04 Table 4-3. -/
inductive AccessClass where
  | load | store | sync | ldc | copySource | copyDest | tileOperand | streamEntry
  deriving DecidableEq, Repr

/-- 04 Table 4-3: which pointer tags a class may use. -/
def permitted (k : AccessClass) (tag : Nat) : Bool :=
  match tag with
  | 0 => true
  | 1 => !(k == .tileOperand || k == .streamEntry)
  | 2 => true
  | 3 => !(k == .tileOperand || k == .streamEntry)
  | 4 => !(k == .tileOperand || k == .streamEntry)
  | 5 => k == .load || k == .ldc || k == .copySource
  | 6 => k == .load || k == .store
  | _ => false

/-- A segment register of a list, by its index (19 R290). -/
def segAt (segs : List Seg) (i : Nat) : Seg := segs.getD i {}

/-- The 128 bits of a descriptor (04 Table 4-2), as a number. -/
def segBits (g : Seg) : Nat := g.base.toNat + g.limit.toNat * 2 ^ 64 + g.pshift.toNat * 2 ^ 112

/-- Where a checked pointer leads. -/
inductive Target where
  /-- A virtual address of this package; `code` for code space. -/
  | virt (va : Nat) (code : Bool)
  | peer (n va : Nat)
  /-- A location of gang-local memory; `other` when it lies on the other die of the cluster. -/
  | cell (loc : Nat) (other : Bool)
  /-- Byte offset into the thread's own window. -/
  | window (off : Nat)
  deriving DecidableEq, Repr

/-- Location of a byte of gang-local memory. -/
def gangLoc (launch gang off : Nat) : Nat := 2 ^ 80 + (launch * 2 ^ 22 + gang) * 2 ^ 20 + off

/-- The place of a peer's page: its own, unless it is known to share another's. Peer numbers are a partition's own (21
R331), and the peer map gives the context there in whose space the page lies. -/
def peerPlace (s : State) (part n rctx page : Nat) : Nat :=
  match s.peerPages.find? fun x => decide (x.part = part ∧ x.peer = n ∧ x.rctx = rctx ∧ x.page = page) with
  | some x => x.place
  | none => ((part * 4096 + n) * 4096 + rctx) * 2 ^ 32 + page

/-- Location of a byte of a peer's global space (05 R96, log 6). -/
def peerLoc (s : State) (part n rctx va : Nat) : Nat :=
  2 ^ 128 + peerPlace s part n rctx (va / 65536) * 65536 + va % 65536

/-- A location in a peer's memory. -/
def isPeerLoc (loc : Nat) : Bool := decide (2 ^ 128 ≤ loc)

/-- Location of a byte of the host's memory, by its address there (23 R377): windows bound to overlapping ranges meet in
it (log 7). -/
def hostLoc (addr : Nat) : Nat := 2 ^ 100 + addr

/-- A location in the host's memory, which is reached through the host windows. -/
def isHostLoc (loc : Nat) : Bool := decide (2 ^ 100 ≤ loc) && decide (loc < 2 ^ 101)

/-- The host window bound to a physical address (23 R377). -/
def windowAt (s : State) (pa : Nat) : Option HostWindow :=
  s.port.windows.find? fun h => decide (2 ^ 40 ≤ pa) && decide (h.win = (pa - 2 ^ 40) / 2 ^ 32) && decide ((pa - 2 ^ 40) % 2 ^ 32 < h.length)

/-- The location of a physical address: behind a host window, the host's. -/
def windowLoc (s : State) (pa : Nat) : Nat :=
  match windowAt s pa with
  | some h => hostLoc (h.remote + (pa - 2 ^ 40) % 2 ^ 32)
  | none => pa

/-- A physical address behind a host window that is bound no more (23 R378); 0 lies behind none. -/
def windowLost (s : State) (wpa : Nat) : Bool := decide (wpa ≠ 0) && (windowAt s wpa).isNone

/-- An entry of the peer map of a partition (21 R331). -/
def peerEntry (s : State) (part : Nat) (n : Nat) : PeerEntry :=
  let v := readNat s.mem (((partOf s part).getD noPart).peermap + 8 * n) 8
  { state := v % 4, reconf := decide (v / 4 % 2 = 1), rctx := v / 2 ^ 16 % 4096 }

/-- `check_peer` of R76 (21 R331). -/
def checkPeer (s : State) (part n : Nat) : Except LaneEnd Unit :=
  let e := peerEntry s part n
  if e.state ≠ 3 then .error (.peerTrap .peerInvalid n e.state)
  else if e.reconf then .error (.peerTrap .peerUnreachable n e.state)
  else .ok ()

/-- What the check of an access needs of the thread and gang that make it. -/
structure Accessor where
  launch : Nat
  gang : Nat
  thread : Nat
  core : Nat
  window : Nat
  clsize : Nat
  part : Nat
  segs : List Seg
  deriving DecidableEq, Repr

def accessorOf (s : State) (t : Thread) : Accessor :=
  let lr := launchOf s t.launch
  { launch := t.launch, gang := t.gang, thread := t.thread, core := t.core, window := t.window, clsize := lr.clsize,
    part := (ctxOf s lr.ctx).partition, segs := (gangOf s t).segs }

/-- The core that holds a gang. -/
def coreOfGang (s : State) (l g : Nat) : Nat :=
  ((s.gangs.find? fun x => decide (x.launch = l) && decide (x.gang = g) && !x.detached && !x.reserved).map Gang.core).getD 0

/-- The pointer's own fields: tag and body, with the own peer number turned into the global space (R76, R78). -/
def pointerFields (s : State) (p : DWord) : Nat × Nat :=
  let tag := p.toNat / 2 ^ 60
  let v := p.toNat % 2 ^ 60
  if tag = 1 ∧ v / 2 ^ 48 = s.ownPeer then (0, v % 2 ^ 48) else (tag, v)

/-- The window test of R76 (`ok`). -/
def insideWindow (x : Accessor) (tag v size : Nat) : Bool :=
  match tag with
  | 0 =>
    let g := segAt x.segs 0
    decide (v / 2 ^ 48 = 0) && decide (g.base.toNat ≤ v % 2 ^ 48) && decide (v % 2 ^ 48 + size ≤ g.base.toNat + g.limit.toNat)
  | 1 =>
    let g := segAt x.segs 1
    decide (g.base.toNat ≤ v % 2 ^ 48) && decide (v % 2 ^ 48 + size ≤ g.base.toNat + g.limit.toNat)
  | 2 => decide (v + size ≤ (segAt x.segs 2).limit.toNat)
  | 3 =>
    let h0 := (x.clsize + 1) / 2
    let cnt := if v / 2 ^ 20 % 2 = 0 then h0 else x.clsize - h0
    decide (v / 2 ^ 21 = 0) && decide (v % 2 ^ 20 + size ≤ cnt * (segAt x.segs 2).limit.toNat)
  | 4 =>
    let g := segAt x.segs 4
    decide (v % 2 ^ 28 + size ≤ 2 ^ g.pshift.toNat)
      && decide (x.thread * 2 ^ g.pshift.toNat + v % 2 ^ 28 + size ≤ g.limit.toNat)
  | 5 => decide (v + size ≤ (segAt x.segs 5).limit.toNat)
  | 6 => decide (v + size ≤ 4 * x.window)
  | _ => false

/-- The place a checked body names (R77 to R86). A private or code address past the top of the space wraps (log 60). -/
def placeOf (s : State) (x : Accessor) (tag v : Nat) : Target :=
  match tag with
  | 0 => .virt (v % 2 ^ 48) false
  | 1 => .peer (v / 2 ^ 48) (v % 2 ^ 48)
  | 2 => .cell (gangLoc x.launch x.gang v) false
  | 3 =>
    let h0 := (x.clsize + 1) / 2
    let lim := (segAt x.segs 2).limit.toNat
    let c := (if v / 2 ^ 20 % 2 = 0 then 0 else h0) + v % 2 ^ 20 / lim
    let g := x.gang - x.gang % x.clsize + c
    .cell (gangLoc x.launch g (v % 2 ^ 20 % lim)) (dieOfCore (coreOfGang s x.launch g) != dieOfCore x.core)
  | 4 =>
    let g := segAt x.segs 4
    .virt ((g.base.toNat + x.thread * 2 ^ g.pshift.toNat + v % 2 ^ 28) % 2 ^ 48) false
  | 5 => .virt (((segAt x.segs 5).base.toNat + v) % 2 ^ 48) true
  | _ => .window v

/-- The procedure of R76 up to its translation step. -/
def decodePointer (s : State) (x : Accessor) (k : AccessClass) (p : DWord) (size align : Nat) : Except LaneEnd Target :=
  if !permitted k (p.toNat / 2 ^ 60) then .error (.trap .segmentLimit)
  else
    let f := pointerFields s p
    match (if f.1 = 1 then checkPeer s x.part (f.2 / 2 ^ 48) else .ok ()) with
    | .error e => .error e
    | .ok () =>
      if f.1 = 4 ∧ f.2 / 2 ^ 28 ≠ x.thread then .error (.trap .privateForeign)
      else if !insideWindow x f.1 f.2 size then .error (.trap .segmentLimit)
      else if f.2 % align ≠ 0 then .error (.trap .misaligned)
      else .ok (placeOf s x f.1 f.2)

/-! ### Translation -/

/-- Kinds of access in a walk and in a fault word (21 R322, Table 21-3). -/
inductive Acc where
  | read | write | fetch | modify
  deriving DecidableEq, Repr

def accCode : Acc → Nat
  | .read => 0 | .write => 1 | .fetch => 2 | .modify => 3

/-- What an access is for, as 21 Table 21-2 tells classes apart. -/
inductive Use where
  | plain | atomic | fetch | table | copy | copyReduce | tile
  deriving DecidableEq, Repr

/-- The fault word (21 Table 21-3). -/
def faultWord (kind : Nat) (a : Acc) (src : Nat) (peerf : Bool) (level va : Nat) : DWord :=
  BitVec.ofNat 64 (kind + accCode a * 16 + src * 64 + (if peerf then 256 else 0) + level * 512 + va * 65536)

/-- A physical address lies in the partition's HBM (21 R339, ranges in units of 1 GiB). -/
def inPartitionHbm (p : Partition) (pa : Nat) : Bool :=
  p.hbm.any fun r => decide (r.1 * 2 ^ 30 ≤ pa) && decide (pa < (r.1 + r.2) * 2 ^ 30)

/-- A frame held as record-pool backing (19 R300). -/
def isPoolFrame (s : State) (pa : Nat) : Bool :=
  s.cores.any fun r => r.exts.any fun e => e.frames.contains (some (pa / 65536))

/-- A byte of a live context's save area (22 R342). -/
def isSaveArea (s : State) (pa : Nat) : Bool :=
  s.contexts.any fun x => decide (x.savebase ≤ pa) && decide (pa < x.savebase + x.savelen)

/-- 21 R323: the partition may use this physical address in this way. -/
def physicalOk (s : State) (part : Nat) (u : Use) (pa : Nat) : Bool :=
  let p := (partOf s part).getD noPart
  if pa < 2 ^ 39 then inPartitionHbm p pa && !isPoolFrame s pa && !isSaveArea s pa
  else if 2 ^ 40 ≤ pa ∧ pa < 2 ^ 41 then
    (u == .plain || u == .copy) && p.hostwin.contains ((pa - 2 ^ 40) / 2 ^ 32) && (windowAt s pa).isSome
  else false

/-- A line with an uncorrectable error (21 R336). -/
def isBad (s : State) (loc : Nat) : Bool := s.badLines.contains (loc / 128)

/-- A page-table entry is malformed at its level (21 R322). -/
def badEntry (e lvl : Nat) : Bool :=
  let leaf := e / 2 % 2 = 1
  let size := 2 ^ (48 - 8 * lvl)
  decide (e / 2 ^ 5 % 2 ^ 6 ≠ 0) || decide (e / 2 ^ 48 ≠ 0) || (decide (lvl = 1) && decide leaf)
    || (decide (lvl = 4) && !decide leaf) || (decide leaf && decide (e / 2 ^ 11 % 2 ^ 37 * 2 ^ 11 % size ≠ 0))

/-- The walk (21 R322): a translation, or the fault kind and level. -/
def walkFrom (s : State) (x : Context) (va : Nat) : List Nat → Nat → Except (Nat × Nat) TlbEntry
  | [], _ => .error (1, 3)
  | lvl :: lvls, table =>
    let at_ := table + 8 * (va / 2 ^ (48 - 8 * lvl) % 256)
    let e := readNat s.mem at_ 8
    if isBad s at_ then .error (7, 0)
    else if e % 2 = 0 then .error (1, lvl - 1)
    else if badEntry e lvl then .error (5, lvl - 1)
    else
      let addr := e / 2 ^ 11 % 2 ^ 37 * 2 ^ 11
      if e / 2 % 2 = 1 then
        let size := 2 ^ (48 - 8 * lvl)
        .ok { tag := x.tag, base := va / size * size, size := size, pa := addr, w := decide (e / 4 % 2 = 1),
              x := decide (e / 8 % 2 = 1), peer := decide (e / 16 % 2 = 1), level := lvl - 1 }
      else if !(decide (addr < 2 ^ 39) && physicalOk s x.partition .table addr) then .error (5, lvl - 1)
      else walkFrom s x va lvls addr

def walk (s : State) (x : Context) (va : Nat) : Except (Nat × Nat) TlbEntry :=
  if physicalOk s x.partition .table x.tbase && decide (x.tbase < 2 ^ 39) then walkFrom s x va [1, 2, 3, 4] x.tbase
  else .error (5, 0)

/-- A translation the core's TLB holds (21 R325); without one, the page tables'. -/
def lookup (s : State) (core : Nat) (x : Context) (va : Nat) : Except (Nat × Nat) TlbEntry :=
  match (coreOf s core).tlb.find? fun e => decide (e.tag = x.tag) && decide (e.base ≤ va) && decide (va < e.base + e.size) with
  | some e => .ok e
  | none => walk s x va

/-- The tests of a leaf and of its physical address, with the location it names (21 R322, R323). -/
def leafCheck (s : State) (part : Nat) (e : TlbEntry) (va : Nat) (a : Acc) (u : Use) (code peer : Bool) :
    Except (Nat × Nat) Nat :=
  let pa := e.pa + (va - e.base)
  if (a == .write || a == .modify) && !e.w then .error (2, e.level)
  else if (a == .fetch || code) && !e.x then .error (3, e.level)
  else if peer && !e.peer then .error (4, e.level)
  else if !physicalOk s part u pa then .error (6, e.level)
  else .ok (windowLoc s pa)

/-- A virtual address of a context translated for an access of a core, or a fault word with this source. The space of a
context that is gone has no mapping (log 76). -/
def translate (s : State) (core tag va : Nat) (a : Acc) (u : Use) (code : Bool) (src : Nat) : Except DWord Nat :=
  match ctxAt s tag with
  | none => .error (faultWord 1 a src false 0 va)
  | some x =>
    match lookup s core x va with
    | .error (k, lv) => .error (faultWord k a src false lv va)
    | .ok e =>
      match leafCheck s x.partition e va a u code false with
      | .error (k, lv) => .error (faultWord k a src false lv va)
      | .ok pa => .ok pa

/-- Two kinds of access that a page's fault at its home meets alike: reads, or writes and atomics. -/
def sameAcc (a b : Acc) : Bool := (a == .read) == (b == .read)

/-- A peer's page fails at its home for this kind of access (21 R331). -/
def peerTranslate (s : State) (part n va : Nat) (a : Acc) (src : Nat) : Except DWord Nat :=
  match s.peerFaults.find? fun f => decide (f.part = part) && decide (f.peer = n) && decide (f.page = va / 65536)
      && sameAcc (if f.read then .read else .write) a with
  | some f => .error (faultWord f.kind a src true f.level va)
  | none => .ok (peerLoc s part n (peerEntry s part n).rctx va)

/-- The location of a target, for a context tag and a core; windows have none. -/
def locateFor (s : State) (core tag own : Nat) (g : Target) (a : Acc) (u : Use) (src : Nat) : Except DWord Nat :=
  match g with
  | .virt va code => translate s core (if code then own else tag) va a u code src
  | .peer n va => peerTranslate s (ctxOf s own).partition n va a src
  | .cell loc _ => .ok loc
  | .window off => .ok off

/-- The physical address that a target names behind a host window (23 R377); 0 where it names none. -/
def hostPa (s : State) (core tag : Nat) (g : Target) : Nat :=
  match g with
  | .virt va _ =>
    match lookup s core (ctxOf s tag) va with
    | .ok e => if 2 ^ 40 ≤ e.pa + (va - e.base) then e.pa + (va - e.base) else 0
    | .error _ => 0
  | _ => 0

/-- The virtual address a fault word of this target names. -/
def targetVa : Target → Nat
  | .virt va _ => va
  | .peer _ va => va
  | .cell loc _ => loc % 2 ^ 20
  | .window off => off

/-- The peer that a fault of this target names (21 R327). -/
def targetPeer : Target → Nat
  | .peer n _ => n
  | _ => 0

def targetPeerf : Target → Bool
  | .peer _ _ => true
  | _ => false

/-- The frame of a location is being moved by `claim`; accesses that meet it, under whatever address, wait (09 R192). -/
def isMoving (s : State) (loc : Nat) : Bool := s.moves.any fun m => m.moving.any fun f => decide (f.2 = loc / 65536)

/-- A location behind a host window while the port may not send (23 R375). -/
def windowPaused (s : State) (loc : Nat) : Bool := s.port.paused && isHostLoc loc

/-! ### The data caches -/

/-- The line of a core's L1 data cache, if it holds it (04 R87). -/
def coreLine (s : State) (core line : Nat) : Option DataLine :=
  (coreOf s core).dcache.find? fun l => decide (l.line = line)

/-- A die's copy of a line homed elsewhere, if it holds one (04 R94). -/
def dieLine (s : State) (die line : Nat) : Option DieLine :=
  s.l2data.find? fun l => decide (l.die = die) && decide (l.line = line)

/-- A die's copy holds a byte. -/
def holdsByte (s : State) (die loc : Nat) : Bool :=
  match dieLine s die (loc / 128) with
  | some l => l.valid.getLsbD (loc % 128)
  | none => false

/-- A die owns a byte. -/
def ownsByte (s : State) (die loc : Nat) : Bool :=
  match dieLine s die (loc / 128) with
  | some l => l.owned.getLsbD (loc % 128)
  | none => false

/-- A test holds of each of `n` bytes. -/
def eachByte (f : Nat → Bool) (loc n : Nat) : Bool := (List.range n).all fun i => f (loc + i)

/-- A byte of a die's copy of its line. -/
def copyByte (s : State) (die loc : Nat) : Byte :=
  match dieLine s die (loc / 128) with
  | some l => l.bytes.getD (loc % 128) 0
  | none => 0

/-- A byte as a die's L2 gives it: of its copy, else of the home. -/
def dieByte (s : State) (die loc : Nat) : Byte := if holdsByte s die loc then copyByte s die loc else readByte s.mem loc

/-- A byte as a plain load on a core finds it: in the L1, else in the die's L2 (04 R87, R94). -/
def coreByte (s : State) (core loc : Nat) : Byte :=
  match coreLine s core (loc / 128) with
  | some l => l.bytes.getD (loc % 128) 0
  | none => dieByte s (dieOfCore core) loc

/-- A byte at its home, or in a copy that the die owns (05 R113: what an acquire reads). -/
def homeByte (s : State) (die loc : Nat) : Byte := if ownsByte s die loc then copyByte s die loc else readByte s.mem loc

/-- The bytes of a load are in the core's L1 or in its die's copies. -/
def isHeld (s : State) (core loc n : Nat) : Bool :=
  (coreLine s core (loc / 128)).isSome || eachByte (holdsByte s (dieOfCore core)) loc n

/-- A read of `n` bytes would meet an uncorrectable error: it goes past the copies that hold the line (21 R336). -/
def readsBad (s : State) (core : Nat) (u : Use) (loc n : Nat) : Bool :=
  isBad s loc && (u == .atomic || !isHeld s core loc n)

/-- The location of a thread's access (09 R180): a replayable fault ends its segment. An access under the tag of a
context that is gone raises SEGMENT_LIMIT (19 R294); a read of an uncorrectable line faults with KIND 7 (21 R336); one that
meets a page on the move waits (09 R192). An access to the own window waits for outstanding load data, which may be its own
register's (09 R180). -/
def locate (s : State) (t : Thread) (g : Target) (n : Nat) (a : Acc) (u : Use) : Except LaneEnd Nat :=
  let own := (launchOf s t.launch).ctx
  match g with
  | .virt _ false => if (ctxAt s t.efftag).isNone then .error (.trap .segmentLimit) else go own
  | .window off => if t.loads.isEmpty then .ok off else .error (.wait .data)
  | .cell loc _ => .ok loc
  | _ => go own
where
  go (own : Nat) : Except LaneEnd Nat :=
    match locateFor s t.core t.efftag own g a u 0 with
    | .error w => .error (.fault w (targetPeer g))
    | .ok loc =>
      if isMoving s loc || (windowPaused s loc && !(a == .write)) then .error (.wait .data)
      else if readsBad s t.core u loc n && !(a == .write) then .error (.fault (faultWord 7 a 0 (targetPeerf g) 0 (targetVa g)) (targetPeer g))
      else .ok loc

/-- A lane's checked and translated access (R76). -/
def access (s : State) (t : Thread) (k : AccessClass) (p : DWord) (size : Nat) (a : Acc) (u : Use) :
    Except LaneEnd (Target × Nat) :=
  match decodePointer s (accessorOf s t) k p size size with
  | .error e => .error e
  | .ok g =>
    match locate s t g size a u with
    | .error e => .error e
    | .ok loc => .ok (g, loc)

/-! ### Reading in front of the caches -/

/-- The byte of a location that a thread's youngest covering entry holds, else what stands behind (05 R110). -/
def seenByte (f : Nat → Byte) (sb : List SbEntry) (a : Nat) : Byte :=
  sb.foldl (fun b e => if e.loc ≤ a ∧ a < e.loc + 2 ^ e.size then BitVec.ofNat 8 (e.data.toNat / 256 ^ (a - e.loc)) else b)
    (f a)

def seenBytes (f : Nat → Byte) (sb : List SbEntry) (a : Nat) : Nat → List Byte
  | 0 => []
  | n + 1 => seenByte f sb a :: seenBytes f sb (a + 1) n

/-- The number of `n` bytes as a plain load of the thread sees them. -/
def seenNat (s : State) (t : Thread) (a n : Nat) : Nat := natOfBytes (seenBytes (coreByte s t.core) t.sbuf a n)

/-- The number of `n` bytes as an acquire of the thread sees them. -/
def acquiredNat (s : State) (t : Thread) (a n : Nat) : Nat :=
  natOfBytes (seenBytes (homeByte s (dieOfCore t.core)) t.sbuf a n)

/-- The bytes of a window (04 R86), from an offset. -/
def windowNat (regs : List Word) (off n : Nat) : Nat :=
  natOfWords ((List.range ((n + 3) / 4)).map fun i => regGet regs (off / 4 + i)) / 2 ^ (8 * (off % 4)) % 2 ^ (8 * n)

/-- The bytes of a window written. -/
def windowSet (regs : List Word) (off n v : Nat) : List Word :=
  if n < 4 then
    let old := (regGet regs (off / 4)).toNat
    let sh := 2 ^ (8 * (off % 4))
    regSet regs (off / 4) (BitVec.ofNat 32 (old - old / sh % 2 ^ (8 * n) * sh + v % 2 ^ (8 * n) * sh))
  else (List.range (n / 4)).foldl (fun r i => regSet r (off / 4 + i) (BitVec.ofNat 32 (v / 2 ^ (32 * i)))) regs

/-- The value a plain load of `n` bytes returns, unextended. -/
def loadValue (s : State) (t : Thread) (g : Target) (loc n : Nat) : Nat :=
  match g with
  | .window off => windowNat (oldRegs t) off n
  | _ => seenNat s t loc n

/-- The value an acquire load returns (09 R184). -/
def acquireValue (s : State) (t : Thread) (g : Target) (loc n : Nat) : Nat :=
  match g with
  | .window off => windowNat (oldRegs t) off n
  | _ => acquiredNat s t loc n

/-! ### Code -/

/-- What a fetch of a code line gives. -/
inductive Fetch where
  | line (bytes : List Byte)
  | miss (line : Nat)
  | fault (word : DWord)
  | retired
  | outside
  /-- A literal block of the line has a padding word that is not zero. -/
  | padding
  deriving DecidableEq, Repr

/-- Core group of a core (01 R7): die number × 4 + group. -/
def groupOfCore (c : Nat) : Nat := dieOfCore c * 4 + c % 24 / 6

/-- A code line that one of the caches on a core's path holds (01 R12). -/
def cachedLine (s : State) (core line : Nat) : Bool :=
  (s.icache2.any fun l => decide (l.1 = groupOfCore core) && decide (l.2.1 = line))
    || s.icache3.any fun l => decide (l.1 = dieOfCore core) && decide (l.2.1 = line)

/-- The 32-bit word at a byte offset of a line. -/
def lineWord (l : List Byte) (off : Nat) : Word :=
  wordOfBytes (l.getD off 0) (l.getD (off + 1) 0) (l.getD (off + 2) 0) (l.getD (off + 3) 0)

/-- The literal blocks of a line: first packet, packets, literal words (04 R85). A block that runs past the line's end
is cut there. -/
def blocksFrom (l : List Byte) : Nat → Nat → List (Nat × Nat × Nat)
  | 0, _ => []
  | fuel + 1, i =>
    if 10 ≤ i then []
    else
      let w := lineWord l (12 * i)
      if fldn w 24 7 = 127 then
        let n := min (fldn w 0 22) (3 * (10 - i) - 1)
        let len := (n + 3) / 3
        (i, len, n) :: blocksFrom l fuel (i + len)
      else blocksFrom l fuel (i + 1)

def literalBlocks (l : List Byte) : List (Nat × Nat × Nat) := blocksFrom l 10 0

/-- Packet i of the line is covered by a literal block. -/
def isLiteral (l : List Byte) (i : Nat) : Bool :=
  (literalBlocks l).any fun b => decide (b.1 ≤ i) && decide (i < b.1 + b.2.1)

/-- Word w of packet i is a literal word of a block: the block's number among the line's blocks (06 R133). -/
def literalWord (l : List Byte) (i w : Nat) : Option Nat :=
  ((literalBlocks l).find? fun b =>
    decide (b.1 ≤ i) && decide (i < b.1 + b.2.1) && decide (0 < 3 * (i - b.1) + w) && decide (3 * (i - b.1) + w ≤ b.2.2)).map (·.1)

/-- A word after the last literal word of a block, up to the end of its last packet, that is not zero (04 R85). -/
def paddingBad (l : List Byte) : Bool :=
  (literalBlocks l).any fun b => (List.range (3 * b.2.1)).any fun i =>
    decide (b.2.2 < i) && lineWord l (12 * b.1 + 4 * i) != 0

/-- The bytes of a physical code line below the I-L1: the group's I-L2, the die's L2, then memory (01 R12). -/
def lineBelow (s : State) (core line : Nat) : List Byte :=
  match s.icache2.find? fun l => decide (l.1 = groupOfCore core) && decide (l.2.1 = line) with
  | some l => l.2.2
  | none =>
    match s.icache3.find? fun l => decide (l.1 = dieOfCore core) && decide (l.2.1 = line) with
    | some l => l.2.2
    | none => readBytes s.mem (line * 128) 128

/-- The physical line that holds the code at a virtual address: in the I-L1, or, where `deep` says so, at any level below
it. An uncorrectable error is met by a fetch that reaches HBM (01 R12). -/
def physicalLine (deep : Bool) (s : State) (core tag va : Nat) : Fetch :=
  match translate s core tag va .fetch .fetch false 0 with
  | .error w => .fault w
  | .ok pa =>
    match (coreOf s core).icache.find? fun l => decide (l.1 = pa / 128) with
    | some l => .line l.2
    | none =>
      if isBad s pa && !cachedLine s core (pa / 128) then .fault (faultWord 7 .fetch 0 false 0 va)
      else if deep then .line (lineBelow s core (pa / 128))
      else .miss (pa / 128)

/-- The code line that begins at a virtual address: where SEG_CODE.BASE is no multiple of 128, of the ends of two physical
lines (04 R84). -/
def lineAt (deep : Bool) (s : State) (core tag va : Nat) : Fetch :=
  let o := va % 128
  if o = 0 then physicalLine deep s core tag va
  else
    match physicalLine deep s core tag (va - o) with
    | .line a =>
      match physicalLine deep s core tag ((va - o + 128) % 2 ^ 48) with
      | .line b => .line (a.drop o ++ b.take o)
      | x => x
    | x => x

/-- The line of a thread's code at a byte address. -/
def codeLineAt (deep : Bool) (s : State) (t : Thread) (c : Nat) : Fetch :=
  lineAt deep s t.core (launchOf s t.launch).ctx (((segAt (gangOf s t).segs 5).base.toNat + c / 128 * 128) % 2 ^ 48)

/-- The line as a fetch takes it: a literal block with a padding word that is not zero breaks an obligation (log 62). -/
def threadLine (deep : Bool) (s : State) (t : Thread) (c : Nat) : Fetch :=
  match codeLineAt deep s t c with
  | .line l => if paddingBad l then .padding else .line l
  | x => x

/-- The code line at a byte address inside the code segment, in no retired module. -/
def lineFor (deep : Bool) (s : State) (t : Thread) (c : Nat) : Fetch :=
  if (segAt (gangOf s t).segs 5).limit.toNat ≤ c then .outside
  else if isRetired (ctxOfLaunch s t.launch) c then .retired
  else threadLine deep s t c

/-- The code line at a byte address, as the core's I-L1 holds it (01 R12). -/
def fetchLine (s : State) (t : Thread) (c : Nat) : Fetch := lineFor false s t c

/-- The code line at a byte address, wherever a fetch would find it. -/
def seenLine (s : State) (t : Thread) (c : Nat) : Fetch := lineFor true s t c

end Sys2Proof.Machine
end

