-- ==== Sys2Proof/Machine/Caches.lean ====
section
/-! DEFINITION. The data caches (04 R87, R92 to R94; 05 R111, R113, R114): the L1 of each core, the copies that a die's
L2 holds of lines homed elsewhere, the home directories, and the writes that are performed at a home. Memory holds what
the homes hold. -/

namespace Sys2Proof.Machine

open Sys2Proof (Byte Word DWord Instr)

/-! ### Homes -/

/-- The home die of an HBM location, after the moves that `claim` has made (04 R92, 09 R192). -/
def homeOf (s : State) (loc : Nat) : Nat :=
  match s.rehomed.find? fun r => decide (r.1 = loc / 65536) with
  | some r => homeDie (r.2 * 65536)
  | none => homeDie loc

/-- A location that a die's L2 holds only as a copy: homed on another die, or in a peer package. -/
def homedAway (s : State) (die loc : Nat) : Bool :=
  isPeerLoc loc || (decide (loc < 2 ^ 39) && decide (homeOf s loc ≠ die))

/-- Locations whose lines the data caches hold: no gang-local memory, no host window (04 R87, 21 Table 21-2). -/
def cacheable (loc : Nat) : Bool := isPeerLoc loc || decide (loc < 2 ^ 39)

/-! ### Sizes (04 R87, R93) -/

/-- Bytes of a core's cell store that windows and gang-local memories hold: not of a record, nor of a saved gang. -/
def cellStoreUsed (s : State) (core : Nat) : Nat :=
  (s.threads.filter fun t => decide (t.core = core) && holdsWindow t).foldl (fun n t => n + 4 * t.window) 0
    + (s.gangs.filter fun g => decide (g.core = core) && !g.detached && !g.saved).foldl (fun n g => n + (segAt g.segs 2).limit.toNat) 0

/-- The SRAM of the package that holds what the model keeps (04 R87, R93, R95): a core's cell store, and a die's L2. No other
is bonded to the dies, and none has physical addresses of its own. -/
def cellStoreBytes : Nat := 2 * 1024 * 1024

def dieL2Bytes : Nat := 64 * 1024 * 1024

/-- Lines of a core's L1 data cache: the rest of its cell store. -/
def coreLines (s : State) (core : Nat) : Nat := (cellStoreBytes - cellStoreUsed s core) / 128

/-- Bytes of a die's L2 reserved for records (19 Table 19-3). -/
def poolShare (s : State) : Nat := match s.mode.poolsh.toNat with | 0 => 0 | 1 => 8 * 1024 * 1024 | _ => 16 * 1024 * 1024

/-- Code lines that a die's L2 holds at most (01 R12). -/
def codeLineLimit : Nat := 16 * 1024 * 1024 / 128

/-- Data lines that a die's L2 holds at most: what records and code leave. -/
def dieLines (s : State) (die : Nat) : Nat :=
  (dieL2Bytes - poolShare s) / 128 - (s.icache3.filter fun l => decide (l.1 = die)).length

/-- The last `n` elements of a list: the oldest give way. -/
def youngest {α : Type} (n : Nat) (l : List α) : List α := l.drop (l.length - n)

/-- A die's copies cut to the room they have. -/
def fitDie (s : State) (die : Nat) : State :=
  let mine := s.l2data.filter fun l => decide (l.die = die)
  if mine.length ≤ dieLines s die then s
  else { s with l2data := (s.l2data.filter fun l => decide (l.die ≠ die)) ++ youngest (dieLines s die) mine }

/-- A core's L1 cut to what its windows and gang-local memories leave of the cell store (01 R10). -/
def fitCore (s : State) (core : Nat) : State :=
  let ls := (coreOf s core).dcache
  if ls.length ≤ coreLines s core then s else mapCore s core fun r => { r with dcache := youngest (coreLines s core) r.dcache }

/-! ### Words and bytes of a line -/

/-- The bytes of a line that an access of `n` bytes touches. -/
def byteMask (loc n : Nat) : BitVec 128 := BitVec.ofNat 128 ((2 ^ n - 1) * 2 ^ (loc % 128))

/-- The words of a line that an access of `n` bytes touches. -/
def wordMask (loc n : Nat) : BitVec 32 :=
  BitVec.ofNat 32 ((2 ^ ((loc % 128 + n - 1) / 4 - loc % 128 / 4 + 1) - 1) * 2 ^ (loc % 128 / 4))

/-- The bytes of a line with a number written at a location. -/
def patchLine (l : List Byte) (loc n v : Nat) : List Byte :=
  ((List.range n).zip (bytesOfNat v n)).foldl (fun x b => x.set (loc % 128 + b.1) b.2) l

def isCopy (die line : Nat) (l : DieLine) : Bool := decide (l.die = die) && decide (l.line = line)

/-- A die's copy replaced, or entered as its youngest. -/
def putCopy (s : State) (l : DieLine) : State :=
  if s.l2data.any (isCopy l.die l.line) then { s with l2data := s.l2data.map fun x => if isCopy l.die l.line x then l else x }
  else fitDie { s with l2data := s.l2data ++ [l] } l.die

/-! ### The home directory (04 R94) -/

def dirEntry (s : State) (line : Nat) : DirEntry := (s.directory.find? fun e => decide (e.line = line)).getD { line := line }

def putDir (s : State) (e : DirEntry) : State :=
  { s with directory :=
      if s.directory.any (fun x => decide (x.line = e.line)) then s.directory.map fun x => if x.line = e.line then e else x
      else s.directory ++ [e] }

/-- The home records that a die holds a copy. -/
def noteHolder (s : State) (die line : Nat) : State :=
  let e := dirEntry s line
  if e.dies.contains die then s else putDir s { e with dies := e.dies ++ [die] }

/-- The home records that a peer package holds a copy, and under what name. -/
def notePackage (s : State) (peer rctx va line : Nat) : State :=
  let e := dirEntry s line
  let name := (peer, rctx, va / 128)
  putDir s { e with packages := if e.packages.contains peer then e.packages else e.packages ++ [peer],
                    names := if e.names.contains name then e.names else e.names ++ [name] }

/-- The home records that a die owns words of the line. -/
def noteOwner (s : State) (die line : Nat) : State :=
  let e := dirEntry s line
  putDir s { e with dies := if e.dies.contains die then e.dies else e.dies ++ [die], owner := some die, ownerPackage := none }

/-! ### Fills -/

/-- A line read into a die's L2: bytes that its copy does not hold come from the home. A line homed on the die is no
copy, and one with an uncorrectable error is not cached (21 R336). -/
def fillDie (s : State) (die loc : Nat) : State :=
  if homedAway s die loc && !(isBad s loc && !eachByte (holdsByte s die) (loc / 128 * 128) 128) then
    let line := loc / 128
    let old := dieLine s die line
    let l : DieLine := { die := die, line := line, bytes := (List.range 128).map fun i => dieByte s die (line * 128 + i),
                         valid := BitVec.allOnes 128, owned := (old.map DieLine.owned).getD 0,
                         since := (old.map DieLine.since).getD (now s) }
    noteHolder (putCopy s l) die line
  else s

/-- A line read into a core's L1, through its die's L2. -/
def fillCore (s : State) (core line : Nat) : State :=
  if (coreLine s core line).isSome || !cacheable (line * 128) || readsBad s core .plain (line * 128) 128 then s
  else
    let s1 := fillDie s (dieOfCore core) (line * 128)
    let bytes := (List.range 128).map fun i => dieByte s1 (dieOfCore core) (line * 128 + i)
    mapCore s1 core fun r =>
      { r with dcache := youngest (coreLines s core) (r.dcache ++ [{ line := line, bytes := bytes, since := now s }]) }

/-! ### Invalidation (05 R113, R114) -/

/-- A core's L1 without one line. -/
def dropLine1 (s : State) (core line : Nat) : State :=
  if (coreLine s core line).isSome then mapCore s core fun r => { r with dcache := r.dcache.filter fun l => decide (l.line ≠ line) }
  else s

/-- A copy with only the bytes that its die owns; none where it owns none. -/
def ownedPart (l : DieLine) : Option DieLine := if l.owned = 0 then none else some { l with valid := l.owned }

/-- An acquire's self-invalidation: every L1 line of the core, and every byte of the die's copies that the die does not
own. -/
def selfInvalidate (s : State) (core : Nat) : State :=
  let s1 := if (coreOf s core).dcache.isEmpty then s else mapCore s core fun r => { r with dcache := [] }
  { s1 with l2data := s1.l2data.filterMap fun l => if l.die = dieOfCore core then ownedPart l else some l }

/-- Dies but one own bytes of a location no longer: a newer write to them has been sent to their home (log 5). -/
def disownOthers (s : State) (die loc n : Nat) : State :=
  { s with l2data := s.l2data.map fun l =>
      if l.line = loc / 128 ∧ l.die ≠ die then { l with owned := l.owned &&& ~~~(byteMask loc n) } else l }

/-- Bytes that a core's access has taken at their home, gone from its L1 and from its die's copy. -/
def dropWords (s : State) (core loc n : Nat) : State :=
  let s1 := dropLine1 s core (loc / 128)
  { s1 with l2data := s1.l2data.map fun l =>
      if isCopy (dieOfCore core) (loc / 128) l then
        { l with valid := l.valid &&& ~~~(byteMask loc n), owned := l.owned &&& ~~~(byteMask loc n) }
      else l }

/-! ### Writes at a home -/

/-- The 4-byte words of a line that a write of `n` bytes covers wholly. -/
def wholeWords (loc n : Nat) : BitVec 32 := if n < 4 then 0 else wordMask loc (n / 4 * 4)

/-- A line with an uncorrectable error is good again when each of its words has been written (21 R336). -/
def rewrite (s : State) (loc n : Nat) : State :=
  if isBad s loc then
    let line := loc / 128
    let m := ((s.rewritten.find? fun x => decide (x.1 = line)).map (·.2)).getD 0 ||| wholeWords loc n
    let rest := s.rewritten.filter fun x => decide (x.1 ≠ line)
    if m = BitVec.allOnes 32 then { s with badLines := s.badLines.filter fun l => decide (l ≠ line), rewritten := rest }
    else { s with rewritten := rest ++ [(line, m)] }
  else s

/-- A number written at its home by a die (10 for what comes from outside): bytes that other dies owned are theirs no
longer. -/
def homePut (s : State) (die loc n v : Nat) : State :=
  let s1 := disownOthers s die loc n
  { rewrite s1 loc n with mem := writeNat s1.mem loc n v }

/-- Bytes from outside written at their homes, in pieces that lie in one line each: the bytes up to the next line, and
then the rest. -/
def homePutBytes (s : State) (die : Nat) : Nat → Nat → List Byte → State
  | _, _, [] => s
  | 0, _, _ => s
  | fuel + 1, loc, b =>
    let n := 128 - loc % 128
    homePutBytes (homePut s die loc (min n b.length) (natOfBytes (b.take n))) die fuel (loc + n) (b.drop n)

/-- A plain store merged into the die's copy of a line homed elsewhere (05 R111), whose bytes it then owns, and no other die
does; data for a peer is written through. -/
def mergeStore (s : State) (core loc n v : Nat) : State :=
  let die := dieOfCore core
  let line := loc / 128
  let m := byteMask loc n
  let s1 := disownOthers (dropLine1 s core line) die loc n
  if isPeerLoc loc then dropWords s core loc n
  else if homedAway s die loc then
    match dieLine s die line with
    | some l => putCopy s1 { l with bytes := patchLine l.bytes loc n v, valid := l.valid ||| m, owned := l.owned ||| m }
    | none => putCopy s1 { die := die, line := line, bytes := patchLine (List.replicate 128 0) loc n v, valid := m,
                           owned := m, since := now s }
  else s1

/-! ### Ageing -/

/-- Cycles after which a line that no one owns is read again (log 70). -/
def lineLife : Nat := 1024

/-- A core's L1 after a cycle: lines that have had their time are gone, and the rest fits its part of the cell store. -/
def ageLines (s : State) (core : Nat) (ls : List DataLine) : List DataLine :=
  youngest (coreLines s core) (ls.filter fun l => decide (now s - l.since < lineLife))

/-- A die's copies after a cycle. -/
def ageCopies (s : State) : List DieLine :=
  s.l2data.filterMap fun l => if now s - l.since < lineLife then some l else (ownedPart l).map fun x => { x with since := now s }

end Sys2Proof.Machine
end

