-- ==== Sys2Proof/Machine/Publish.lean ====
section
/-! DEFINITION. Packets that a core's accesses put on the Felt (23 R360 to R364) and on Renhar (R370, R372), and the
conditions of 05 Table 5-3 for releases, acquires and fences. -/

namespace Sys2Proof.Machine

open Sys2Proof (Byte Word DWord Instr)

/-! ### Links and routes (23 R358, R359) -/

/-- The 14 links of 23 Table 23-1. -/
def feltLinks : List (Nat × Nat) :=
  [(0, 1), (0, 5), (1, 2), (2, 3), (3, 4), (5, 6), (6, 7), (7, 8), (1, 5), (2, 6), (3, 7), (4, 8), (4, 9), (8, 9)]

/-- The two ends of a link, the lower first. -/
def linkEnds (a b : Nat) : Nat × Nat := (min a b, max a b)

/-- A link that works. -/
def linkUp (s : State) (l : Nat × Nat) : Bool := feltLinks.contains l && !s.felt.failed.contains l

/-- The live dies next to a die over surviving links. -/
def feltNeighbours (s : State) (d : Nat) : List Nat :=
  (List.range 10).filter fun k => linkUp s (linkEnds d k) && s.felt.live.contains k

/-- Routes one link longer, to dies not yet reached: each with its dies, the last first. -/
def extendRoutes (s : State) (rs : List (List Nat)) : List (List Nat) :=
  rs.foldl (fun acc r =>
    (feltNeighbours s (r.headD 0)).foldl (fun acc1 k => if acc1.any (fun q => q.head? == some k) then acc1 else acc1 ++ [k :: r]) acc) rs

/-- Shortest routes from a die to every die that it reaches. -/
def routesFrom (s : State) (src : Nat) : List (List Nat) := (List.range 9).foldl (fun rs _ => extendRoutes s rs) [[src]]

/-- The route of a packet, the last die first; none where no surviving route reaches its destination. Which of equal
paths it takes changes only timing. -/
def feltRoute (s : State) (src dst : Nat) : Option (List Nat) := (routesFrom s src).find? fun r => r.head? == some dst

/-- The links of a route. -/
def routeLinks : List Nat → List (Nat × Nat)
  | a :: b :: r => linkEnds a b :: routeLinks (b :: r)
  | _ => []

/-- A surviving route leads from one die to another. With every link and every die there is one. -/
def routed (s : State) (src dst : Nat) : Bool :=
  (s.felt.failed.isEmpty && decide (s.felt.live.length = 10)) || (feltRoute s src dst).isSome

/-! ### Vector clocks (23 R360 to R362) -/

/-- The clock of a die. -/
def clockOf (s : State) (d : Nat) : DieClock :=
  (s.felt.clocks.find? fun c => decide (c.die = d)).getD (DieClock.reset d)

def putClock (s : State) (c : DieClock) : State :=
  { s with felt := { s.felt with clocks := s.felt.clocks.map fun x => if x.die = c.die then c else x } }

def isLiveDie (s : State) (d : Nat) : Bool := s.felt.live.contains d

/-- Entry (k, j) of a matrix. -/
def matrixAt (m : List (List Nat)) (k j : Nat) : Nat := (m.getD k []).getD j 0

/-- The matrix with 1 added to entry (k, j), modulo 2^12. -/
def matrixBump (m : List (List Nat)) (k j : Nat) : List (List Nat) :=
  m.set k ((m.getD k []).set j ((matrixAt m k j + 1) % 4096))

/-- Column j of a matrix, which is a stamp (23 R361). -/
def column (m : List (List Nat)) (j : Nat) : List Nat := m.map fun r => r.getD j 0

/-- a ≥ b between counters (23 R360). -/
def atLeast (a b : Nat) : Bool := decide ((a + 4096 - b % 4096) % 4096 < 2048)

/-- The later of two counts. -/
def laterCount (old new : Nat) : Nat := if atLeast new old then new else old

/-- Packets of one source to one destination, in FIFO order. -/
def feltQueue (s : State) (src dst : Nat) : List FeltPacket :=
  s.felt.packets.filter fun p => decide (p.src = src) && decide (p.dst = dst)

/-- A packet that is first in FIFO order may be delivered: at once without a stamp (23 R365), else when all that it
depends on has been (R362). The entries of removed dies are ignored, the source's own among them. -/
def deliverable (s : State) (p : FeltPacket) : Bool :=
  let v := (clockOf s p.dst).v
  !p.stamped
    || ((!s.felt.live.contains p.src || decide ((v.getD p.src 0 + 1) % 4096 = p.stamp.getD p.src 0))
      && s.felt.live.all fun k => decide (k = p.src) || decide (k = p.dst) || atLeast (v.getD k 0) (p.stamp.getD k 0))

/-- A column merged into a matrix, entry by entry, for the live dies. -/
def mergeColumn (live : List Nat) (m : List (List Nat)) (j : Nat) (c : List Nat) : List (List Nat) :=
  (List.range 10).map fun k =>
    let row := m.getD k []
    if live.contains k then row.set j (laterCount (row.getD j 0) (c.getD k 0)) else row

/-- A whole matrix merged. -/
def mergeMatrix (live : List Nat) (m n : List (List Nat)) : List (List Nat) :=
  (List.range 10).map fun k => (List.range 10).map fun l =>
    if live.contains k && live.contains l then laterCount (matrixAt m k l) (matrixAt n k l) else matrixAt m k l

/-- The clock of a die after it has delivered a packet. -/
def clockAfter (live : List Nat) (c : DieClock) (p : FeltPacket) : DieClock :=
  if p.stamped then
    let m := mergeColumn live c.matrix p.dst p.stamp
    { c with v := c.v.set p.src ((c.v.getD p.src 0 + 1) % 4096),
             matrix := match p.trailer with | some n => mergeMatrix live m n | none => m }
  else c

/-! ### Sending (23 R361, R363, R364) -/

/-- Packets from one die to another that are sent and not delivered, on credits of the source's own or shared ones. -/
def creditsUsed (s : State) (src dst : Nat) (own : Bool) : Nat := ((feltQueue s src dst).filter fun p => p.reserved == own).length

/-- Shared hold-buffer entries of a destination in use (23 R363). -/
def sharedUse (s : State) (dst : Nat) : Nat :=
  (s.felt.packets.filter fun p => decide (p.dst = dst) && !p.reserved).length

/-- A packet may be sent: unless it is stamped and a clock cut is wanted, and with a credit and room in the window of 2,048
(23 R363, R364, R367). -/
def feltReady (s : State) (src dst : Nat) : Bool :=
  !(isLiveDie s dst) || decide (src = dst)
    || (!(s.felt.cutWanted && s.mode.causal) && (decide (creditsUsed s src dst true < 16) || decide (sharedUse s dst < 112))
      && decide ((matrixAt (clockOf s src).matrix src dst + 4096 - (clockOf s src).acked.getD dst 0) % 4096 < 2048))

/-- A packet sent from one die to another (23 R361): stamped under causal delivery, with the whole matrix where it is
of the publication class. Within a die there is none, and to a removed die it is dropped. -/
def feltPost (s : State) (src dst : Nat) (publication : Bool) (tag : Nat) (body : FeltBody) (sender : Option (Nat × Nat))
    (acks : Option AckKind) : State :=
  if src = dst || !(isLiveDie s dst) then s
  else
    let c := clockOf s src
    let m := if s.mode.causal then matrixBump c.matrix src dst else c.matrix
    let p : FeltPacket :=
      { src := src, dst := dst, clkgen := c.clkgen, stamped := s.mode.causal,
        stamp := if s.mode.causal then column m dst else [],
        trailer := if s.mode.causal && publication then some m else none, tag := tag,
        reserved := decide (creditsUsed s src dst true < 16), body := body, sender := sender, acks := acks }
    let s1 := putClock s { c with matrix := m }
    { s1 with felt := { s1.felt with packets := s1.felt.packets ++ [p] } }

/-- A packet that a thread sends: a write, an atomic, its record. -/
def threadPost (s : State) (t : Thread) (dst : Nat) (publication : Bool) (body : FeltBody) (acks : Option AckKind) : State :=
  feltPost s (dieOfCore t.core) dst publication t.efftag body (some (t.launch, t.thread)) acks

/-! ### Round trips -/

/-- The next packet of a source taken out of the Felt and counted as delivered. -/
def deliver (s : State) (p : FeltPacket) : State :=
  let s1 := putClock s (clockAfter s.felt.live (clockOf s p.dst) p)
  { s1 with felt := { s1.felt with packets := s1.felt.packets.erase p,
                                   retries := s1.felt.retries.filter fun x =>
                                     !(routeLinks ((feltRoute s p.src p.dst).getD [])).contains (x.1, x.2.1) } }

/-- A message of so many lines sent and delivered at once, which carries no more than its stamp and trailer do: none where
it could not be delivered before other packets, or has no room (log 71). -/
def messageOf (lines : Nat) (s : State) (src dst : Nat) (publication : Bool) (tag : Nat) : Option State :=
  if src = dst || !(isLiveDie s dst) || !(isLiveDie s src) then some s
  else if !(feltQueue s src dst).isEmpty || !feltReady s src dst || !routed s src dst then none
  else
    let s1 := feltPost s src dst publication tag (.message lines) none none
    match (feltQueue s1 src dst).getLast? with
    | none => none
    | some p => if deliverable s1 p then some (deliver s1 p) else none

/-- A message without data. -/
def message (s : State) (src dst : Nat) (publication : Bool) (tag : Nat) : Option State := messageOf 0 s src dst publication tag

/-- A request to another die and its response with a line, where both can be delivered (23 R361): of the publication class
each as asked. -/
def roundTrip (s : State) (src dst : Nat) (request response : Bool) (tag : Nat) : Option State :=
  (message s src dst request tag).bind fun s1 => messageOf 1 s1 dst src response tag

/-- A request and its response could be delivered now. -/
def reach (s : State) (src dst tag : Nat) : Bool := decide (src = dst) || (roundTrip s src dst false false tag).isSome

/-- What dies know of packets sent passed from some dies to others, by messages of the publication class: the causality
that a barrier, a launch, a fence or the end of a launch carries across dies (05 R99, R100, R117; log 91). None while one
of them cannot be delivered. With causal delivery Off the waits of Table 5-3 give it. -/
def tell (s : State) (tag : Nat) (froms tos : List Nat) : Option State :=
  if !s.mode.causal then some s
  else (froms.flatMap fun d => tos.map fun e => (d, e)).foldlM (fun y p => message y p.1 p.2 true tag) s

/-! ### Homes -/

/-- The die that holds a gang-local location. -/
def cellDie (s : State) (loc : Nat) : Nat :=
  let g := (loc - 2 ^ 80) / 2 ^ 20
  dieOfCore (coreOfGang s (g / 2 ^ 22) (g % 2 ^ 22))

/-- The F-die through which a launch reaches peers: its own, or the other where that is lost (log 71). -/
def fdieOf (s : State) (l : Nat) : Nat :=
  let d := (launchOf s l).fdie
  if isLiveDie s d then d else 9 - d

/-- The die at which an access of a launch on a core to a target is performed: a peer's at the F-die that leads to it, a
host window's at F0. -/
def accessDie (s : State) (launch core : Nat) (g : Target) (loc : Nat) : Nat :=
  match g with
  | .virt _ _ => if loc < 2 ^ 39 then homeOf s loc else 0
  | .peer _ _ => fdieOf s launch
  | .cell l _ => cellDie s l
  | .window _ => dieOfCore core

def targetDie (s : State) (t : Thread) (g : Target) (loc : Nat) : Nat := accessDie s t.launch t.core g loc

/-- A plain load of `n` bytes finds its words on its own die, or can fetch them: its request and response can be
delivered. -/
def canFetch (s : State) (t : Thread) (g : Target) (loc n : Nat) : Bool :=
  match g with
  | .window _ => true
  | _ => isHeld s t.core loc n || reach s (dieOfCore t.core) (targetDie s t g loc) t.efftag

/-! ### Renhar -/

/-- The partition of a thread's context. -/
def partOfThread (s : State) (t : Thread) : Nat := (ctxOfLaunch s t.launch).partition

/-- The way of a launch's requests to a peer. -/
def pathOf (s : State) (part launch peer : Nat) : PeerPath := { fdie := fdieOf s launch, part := part, peer := peer }

/-- The offset that a source F-die keeps for a destination peer (23 R372). -/
def entropyOffset (s : State) (w : PeerPath) : Nat := ((s.renhar.offsets.find? fun x => decide (x.1 = w)).map (·.2)).getD 0

/-- The line's entry among those with unacknowledged requests: line, entropy, count. -/
def lineEntry (s : State) (w : PeerPath) (line : Nat) : Option (PeerPath × Nat × Nat × Nat) :=
  s.renhar.lines.find? fun x => decide (x.1 = w) && decide (x.2.1 = line)

/-- The entropy of a request of a core to a peer's line (23 R372): that of the line's first unacknowledged request. -/
def requestEntropy (s : State) (w : PeerPath) (va core : Nat) : Nat :=
  match lineEntry s w (va / 128) with
  | some x => x.2.2.1
  | none => (Nat.xor (va / 128 % 256) (core % 256) + entropyOffset s w) % 256

/-- A packet for a peer as the F-die of its source forms it. -/
def renharPacket (s : State) (part peer entropy : Nat) (k : RenharKind) : RenharPacket :=
  { source := s.ownPeer, destination := peer, rctx := (peerEntry s part peer).rctx, entropy := entropy,
    sequence := s.renhar.sequence, kind := k }

/-- A packet sent at an F-die, or held there while the circuits are down (23 R374). -/
def renharOut (s : State) (w : PeerPath) (launch thread entropy : Nat) (k : RenharKind) (fill : Option (Nat × Bool × Nat)) : State :=
  { s with renhar := { s.renhar with
      sequence := s.renhar.sequence + 1,
      out := s.renhar.out ++ [{ fdie := w.fdie, part := w.part, launch := launch, thread := thread,
                                packet := renharPacket s w.part w.peer entropy k,
                                held := (peerEntry s w.part w.peer).reconf, fill := fill }] } }

/-- One more request to a line that is unacknowledged. -/
def addLine (s : State) (w : PeerPath) (line entropy : Nat) : List (PeerPath × Nat × Nat × Nat) :=
  match lineEntry s w line with
  | some _ => s.renhar.lines.map fun x => if x.1 = w ∧ x.2.1 = line then (x.1, x.2.1, x.2.2.1, x.2.2.2 + 1) else x
  | none => s.renhar.lines ++ [(w, line, entropy, 1)]

/-- A request to a peer's line put on Renhar at the F-die of a way, with the line's entropy (23 R372): for a thread, for a copy,
whose launch counts as 0, or for a prefetch, which names the core that the line is for. -/
def renharAsk (s : State) (w : PeerPath) (launch thread core va : Nat) (k : RenharKind) (fill : Option (Nat × Bool × Nat)) : State :=
  let e := requestEntropy s w va core
  let s1 := renharOut s w launch thread e k fill
  { s1 with renhar := { s1.renhar with lines := addLine s w (va / 128) e } }

/-- A request of a thread to a peer's line put on Renhar at its F-die. -/
def renharSend (s : State) (part launch thread core peer va : Nat) (k : RenharKind) : State :=
  renharAsk s (pathOf s part launch peer) launch thread core va k none

/-- A packet of the remote-enqueue channel (23 Table 23-4), which names no line. -/
def isEnqueueKind : RenharKind → Bool
  | .enqueue _ _ _ _ => true
  | .record _ _ _ _ _ _ => true
  | _ => false

/-- A request put on Renhar at an F-die. -/
def renharPut (s : State) (part launch thread core peer va : Nat) (k : RenharKind) : State :=
  if isEnqueueKind k then
    let w := pathOf s part launch peer
    renharOut s w launch thread ((core % 256 + entropyOffset s w) % 256) k none
  else renharSend s part launch thread core peer va k

/-- A request of a thread to a peer, over the Felt to the F-die. -/
def peerSend (s : State) (t : Thread) (publication : Bool) (peer va : Nat) (k : RenharKind) : State :=
  threadPost s t (fdieOf s t.launch) publication (.renhar (partOfThread s t) t.launch t.thread t.core peer va k) none

/-! ### Requests to peers (23 R370, R372) -/

/-- One acknowledged request leaves the books of Renhar: its line's count falls (23 R372). -/
def dropLine (w : PeerPath) (line : Nat) (ls : List (PeerPath × Nat × Nat × Nat)) : List (PeerPath × Nat × Nat × Nat) :=
  (ls.map fun x => if x.1 = w ∧ x.2.1 = line then (x.1, x.2.1, x.2.2.1, x.2.2.2 - 1) else x).filter fun x => decide (0 < x.2.2.2)

/-- The way that a packet has gone. -/
def wayOf (o : RenharOut) : PeerPath := { fdie := o.fdie, part := o.part, peer := o.packet.destination }

/-- The line of a request packet. -/
def requestLine : RenharKind → Option Nat
  | .postedWrite va _ => some (va / 128)
  | .releaseWrite va _ => some (va / 128)
  | .atomic va _ _ _ _ _ => some (va / 128)
  | .signal va _ => some (va / 128)
  | .read va _ => some (va / 128)
  | .acquire va _ => some (va / 128)
  | .own va => some (va / 128)
  | .translate va _ _ => some (va / 128)
  | _ => none

/-- A request that a peer answers with an acknowledgement. -/
def isPostedKind : RenharKind → Bool
  | .atomic _ _ _ returning _ _ => !returning
  | .read _ _ => false
  | .acquire _ _ => false
  | .translate _ _ _ => false
  | k => (requestLine k).isSome

/-- A request that its result answers: a read, a translation, or a returning atomic. -/
def isAsking : RenharKind → Bool
  | .translate _ _ _ => true
  | .atomic _ _ _ returning _ _ => returning
  | .read _ _ => true
  | .acquire _ _ => true
  | _ => false

/-- A request of a thread that its response answers. -/
def isRead (launch thread : Nat) (o : RenharOut) : Bool :=
  decide (o.launch = launch) && decide (o.thread = thread) && isAsking o.packet.kind

/-- A request that has been answered leaves the books of Renhar. -/
def dropRequest (s : State) (o : RenharOut) : State :=
  { s with renhar := { s.renhar with
      out := s.renhar.out.erase o,
      lines := dropLine (wayOf o) ((requestLine o.packet.kind).getD 0) s.renhar.lines } }

/-- A request of a thread to a peer that is still on its way to the F-die. -/
def requestUnderway (s : State) (launch thread : Nat) : Bool :=
  s.felt.packets.any fun p => match p.body with
    | .renhar _ l t _ _ _ k => decide (l = launch) && decide (t = thread) && (requestLine k).isSome
    | _ => false

/-! ### The host port -/

/-- What the host port sends: held while RoCE is paused on its priority (23 R375). -/
def sendPort (s : State) (r : PortReply) : State :=
  if s.port.paused then { s with port := { s.port with queued := s.port.queued ++ [r] } }
  else { s with port := { s.port with replies := s.port.replies ++ [r] } }

/-- A read of the host's memory through the window of a physical address, an RDMA READ (23 R377). -/
def portRead (s : State) (wpa n : Nat) : State :=
  match windowAt s wpa with
  | none => s
  | some h => sendPort s (.readRequest h.conn h.rkey (h.remote + (wpa - 2 ^ 40) % 2 ^ 32) n)

/-- A write of it, an RDMA WRITE. -/
def portWrite (s : State) (wpa n v : Nat) : State :=
  match windowAt s wpa with
  | none => s
  | some h => sendPort s (.writeRequest h.conn h.rkey (h.remote + (wpa - 2 ^ 40) % 2 ^ 32) (bytesOfNat v n))

/-! ### Plain loads -/

/-- Two requests ask for the same. -/
def sameRead (r q : RemoteRead) : Bool := decide (r.peer = q.peer ∧ r.kind = q.kind ∧ r.acquire = q.acquire)

/-- The old value that the answer to a read of the run in which the thread waits has brought. -/
def answerTo (t : Thread) (r : RemoteRead) : Option Nat := (t.answers.find? fun x => sameRead x.1 r).map (·.2)

/-- The answer to a lane's read; without one the lane asks for it, or waits for what it has asked for, in issue. -/
def remoteAnswer (t : Thread) (r : RemoteRead) : Except LaneEnd Nat :=
  match answerTo t r with
  | some old => .ok old
  | none => .error (if t.remoteLoad.isSome then .wait .data else .remote r)

/-- What a lane asks a peer or the host for at a location; none within the package. -/
def remoteRead (s : State) (t : Thread) (g : Target) (loc n : Nat) (kind : Nat → RenharKind) (acquire : Bool) : Option RemoteRead :=
  match g with
  | .peer p va => some { peer := some p, va := va, loc := loc, size := n, kind := kind va, acquire := acquire }
  | .virt va _ =>
    if isHostLoc loc then
      some { peer := none, va := va, loc := loc, size := n, wpa := hostPa s t.core t.efftag g, kind := kind va, acquire := acquire }
    else none
  | _ => none

/-- What a thread asks for that needs the data of a plain load now: of a peer, of the host, or of another die. -/
def dataRead (s : State) (t : Thread) (g : Target) (loc n : Nat) : Option RemoteRead :=
  match remoteRead s t g loc n (fun va => .read va n) false with
  | some r => some r
  | none =>
    match g with
    | .window _ => none
    | _ =>
      if targetDie s t g loc = dieOfCore t.core then none
      else some { peer := none, va := targetVa g, loc := loc, size := n, kind := .read (targetVa g) n }

/-- The bytes of a plain load are at hand: in the caches of its path, at their home on its own die, or come from elsewhere in
answer to a request (04 R94, 23 R361, R377). -/
def atHand (s : State) (t : Thread) (g : Target) (loc n : Nat) : Except LaneEnd Unit :=
  if isHeld s t.core loc n then .ok ()
  else
    match dataRead s t g loc n with
    | none => .ok ()
    | some r => (remoteAnswer t r).map fun _ => ()

/-- The access of a plain load (R76): checked, translated, and its bytes at hand. -/
def loadAccess (s : State) (t : Thread) (k : AccessClass) (p : DWord) (n : Nat) : Except LaneEnd (Target × Nat) :=
  match access s t k p n .read .plain with
  | .error e => .error e
  | .ok (g, loc) => (atHand s t g loc n).map fun _ => (g, loc)

/-- The access of a store, a reduction or a signal, or of a continuation load (09 R180, 05 R112): checked and translated, for a
peer by its home, which is asked (log 97). -/
def homeAccess (s : State) (t : Thread) (k : AccessClass) (p : DWord) (size : Nat) (a : Acc) (u : Use) :
    Except LaneEnd (Target × Nat) :=
  match access s t k p size a u with
  | .error e => .error e
  | .ok (g, loc) =>
    match g with
    | .peer n va =>
      (remoteAnswer t { peer := some n, va := va, loc := loc, size := size, kind := .translate va (accCode a) (u == .atomic) }).map
        fun _ => (g, loc)
    | _ => .ok (g, loc)

/-- A load of `n` bytes by the thread as one access: checks, translation, value. -/
def threadLoad (s : State) (t : Thread) (k : AccessClass) (p : DWord) (n : Nat) : Except LaneEnd Nat :=
  match loadAccess s t k p n with
  | .error e => .error e
  | .ok (g, loc) => .ok (loadValue s t g loc n)

/-- A word-by-word load of a longer range, checked as one access of its length and alignment (11 R230, 09 R200). -/
def loadPieces (s : State) (t : Thread) (p : DWord) : Nat → Nat → Except LaneEnd (List Byte)
  | _, 0 => .ok []
  | i, n + 1 =>
    let f := pointerFields s (p + BitVec.ofNat 64 (64 * i))
    let g := placeOf s (accessorOf s t) f.1 f.2
    match locate s t g 64 .read .plain with
    | .error e => .error e
    | .ok loc =>
      match atHand s t g loc 64 with
      | .error e => .error e
      | .ok () =>
        match loadPieces s t p (i + 1) n with
        | .error e => .error e
        | .ok rest => .ok (seenBytes (coreByte s t.core) t.sbuf loc 64 ++ rest)

/-- A load of 64 × n bytes at a 64-byte aligned pointer. -/
def threadLoadBlock (s : State) (t : Thread) (k : AccessClass) (p : DWord) (n : Nat) : Except LaneEnd (List Byte) :=
  match decodePointer s (accessorOf s t) k p (64 * n) 64 with
  | .error e => .error e
  | .ok _ => loadPieces s t p 0 n

/-! ### Releases and acquires (05 Table 5-3) -/

/-- The conditions of a release. -/
def releaseReady (s : State) (t : Thread) : Bool :=
  t.sbuf.isEmpty && decide (t.peerAck = 0)
    && (s.mode.causal || (decide (t.ownUnack = 0) && decide (t.dieUnack = 0) && decide (t.relUnack = 0)))

/-- The wait of an acquire (05 R113). -/
def acquireReady (t : Thread) : Bool := decide (t.relUnack = 0)

/-- The waits of a fence. -/
def fenceReady (s : State) (t : Thread) : Bool :=
  releaseReady s t && acquireReady t && decide (t.ownUnack = 0) && decide (t.dieUnack = 0)

/-- Peer stores of a thread that are posted and not drained. -/
def pendingPeer (t : Thread) : Nat := (t.sbuf.filter fun e => e.peerf).length

/-- A peer request may be counted in PEERACK (05 R111). -/
def peerRoom (t : Thread) (n : Nat) : Bool := decide (t.peerAck + pendingPeer t + n ≤ 65535)

end Sys2Proof.Machine
end

