-- ==== Sys2Proof/Machine/Operands.lean ====
section
/-! DEFINITION. Operand forms: sources and destinations by width (06 Table 6-5, 6-6), streams read and written as
operands (12 R245 to R254), and the posting of a store (05 R110). -/

namespace Sys2Proof.Machine

open Sys2Proof (Byte Word DWord Instr)

/-! ### Streams of a thread -/

def streamAt (t : Thread) (n : Nat) : Option Stream := t.streams.find? fun x => decide (x.snum = n)

/-- A stream's state replaced, or bound anew. -/
def putStream (t : Thread) (x : Stream) : Thread :=
  { t with streams := insertBy Stream.snum x (t.streams.filter fun y => !decide (y.snum = x.snum)) }

def dropStream (t : Thread) (n : Nat) : Thread := { t with streams := t.streams.filter fun y => !decide (y.snum = n) }

/-- An affine entry's dimensions: the leading nonzero counts (12 R245). -/
def dimsOf (counts : List Nat) : Nat := (counts.takeWhile fun c => !decide (c = 0)).length

def productOf (l : List Nat) : Nat := l.foldl (· * ·) 1

/-- The number of positions of an affine entry. -/
def affineN (e : Entry) : Nat := productOf (e.counts.take (dimsOf e.counts))

/-- The fields of 64 entry bytes (12 Table 12-2). -/
def parseEntry (b : List Byte) : Entry :=
  let w := fun o n => natOfBytes ((b.drop o).take n)
  let k := w 0 1
  { kind := k, valf := decide (w 1 1 % 2 = 1), nochk := decide (w 1 1 / 2 % 2 = 1), ext := w 4 4,
    a0 := BitVec.ofNat 64 (w 8 8), a1 := BitVec.ofNat 64 (w 16 8), val := BitVec.ofNat 64 (w 24 8),
    counts := if k = 4 then [w 16 4, w 20 4, w 24 4, w 28 4] else [],
    strides := if k = 4 then [sextInt 64 (w 32 8), sextInt 64 (w 40 8), sextInt 64 (w 48 8), sextInt 64 (w 56 8)] else [] }

/-- The checks of 12 R256, step 3, with the flag rules of R244 and the affine rules of R245. An append entry may have a capacity
of 0 (log 86). -/
def entryOk (b : List Byte) : Bool :=
  let w := fun o n => natOfBytes ((b.drop o).take n)
  let e := parseEntry b
  let zeroFrom := fun o n => decide (w o n = 0)
  let aligned := fun (p : DWord) => decide (p.toNat % 4 = 0)
  let head := decide (w 1 1 / 4 = 0) && zeroFrom 2 2
  head && match e.kind with
  | 0 => !e.nochk && decide (1 ≤ e.ext) && zeroFrom 8 8 && zeroFrom 16 8 && (if e.valf then aligned e.val else zeroFrom 24 8)
      && zeroFrom 32 32
  | 1 => decide (1 ≤ e.ext) && aligned e.a0 && aligned e.a1 && (if e.valf then aligned e.val else zeroFrom 24 8)
      && zeroFrom 32 32
  | 2 => !e.nochk && decide (1 ≤ e.ext) && aligned e.a0 && zeroFrom 16 8
      && (if e.valf then aligned e.val else zeroFrom 24 8) && zeroFrom 32 32
  | 3 => decide (1 ≤ e.ext) && aligned e.a0 && zeroFrom 16 8 && (if e.valf then aligned e.val else zeroFrom 24 8)
      && zeroFrom 32 32
  | 4 =>
    let d := dimsOf e.counts
    !e.nochk && !e.valf && decide (e.ext = 0) && aligned e.a0 && decide (1 ≤ d)
      && (e.counts.drop d).all (· == 0) && (e.strides.drop d).all (· == 0) && decide (affineN e ≤ 2 ^ 32 - 1)
  | 5 => !e.nochk && !e.valf && aligned e.a0 && zeroFrom 16 8 && zeroFrom 24 8 && zeroFrom 32 32
  | _ => false

/-- While the Carder waits for data, the thread waits for its stream (12 R251). -/
def streamWait : LaneEnd → LaneEnd
  | .wait .data => .wait .stream
  | .remote r => .remote { r with stream := true }
  | e => e

/-- The entry at a pointer, read as one load by the thread and checked (12 R256, R248). -/
def readEntry (s : State) (t : Thread) (p : DWord) : Except LaneEnd Entry :=
  match threadLoadBlock s t .streamEntry p 1 with
  | .error e => .error (streamWait e)
  | .ok b => if entryOk b then .ok (parseEntry b) else .error (.trap .illegalOperand)

/-- The state that a peer's record brings of a stream, which does not tell its kind, may be that of a stream of this kind:
by its role, by STARTED, and by the bounds that R256 gives (12 Table 12-3). -/
def couldBe (x : Stream) (k : Nat) : Bool :=
  match k with
  | 5 => x.role == .append
  | 1 => x.role != .append
  | 3 => x.role != .append && x.started && decide (x.start = x.parent) && decide (x.fin = x.parent + 1)
  | 4 => x.role != .append && x.started && decide (x.start = x.parent)
  | _ => x.role != .append && x.started && decide (x.start < x.fin) && decide (x.start = x.parent * (x.fin - x.start))

/-- An entry read again is of the kind that the stream was bound under (12 R248). -/
def sameKind (x : Stream) (e : Entry) : Bool := if x.kind = 255 then couldBe x e.kind else decide (e.kind = x.kind)

/-- The entry of a stream: the Carder's copy, or read again (12 R248). That the Carder keeps its copy to the segment's end, as
it may, is the model's choice (DESIGN CHOICE, log 103). -/
def streamEntry (s : State) (t : Thread) (x : Stream) : Except LaneEnd Entry :=
  match x.copy with
  | some e => .ok e
  | none =>
    match readEntry s t x.entry with
    | .error e => .error e
    | .ok e => if sameKind x e then .ok e else .error (.trap .illegalOperand)

/-- A 4-byte word the Carder reads for the thread (12 R251, R262). -/
def carderWord (s : State) (t : Thread) (p : DWord) : Except LaneEnd Nat :=
  match threadLoad s t .streamEntry p 4 with
  | .error e => .error (streamWait e)
  | .ok v => .ok v

/-- A pointer advanced by a byte offset, modulo 2^64 (04 R74). -/
def plusBytes (p : DWord) (n : Nat) : DWord := p + BitVec.ofNat 64 n

/-- The byte offset of an affine position (12 R245). -/
def affineOffset : List Nat → List Int → Nat → Int
  | c :: cs, d :: ds, q => ((q % c : Nat) : Int) * d + affineOffset cs ds (q / c)
  | _, _, _ => 0

/-- The value of the element at a position (12 R245). -/
def elementValue (s : State) (t : Thread) (e : Entry) (q : Nat) : Except LaneEnd Word :=
  if e.kind = 4 then
    let d := dimsOf e.counts
    match carderWord s t (BitVec.ofNat 64 (wrapInt 64 (e.a0.toNat + affineOffset (e.counts.take d) (e.strides.take d) q))) with
    | .error x => .error x
    | .ok v => .ok (BitVec.ofNat 32 v)
  else if e.valf then
    match carderWord s t (plusBytes e.val (4 * q)) with
    | .error x => .error x
    | .ok v => .ok (BitVec.ofNat 32 v)
  else .ok (BitVec.ofNat 32 q)

/-- Words of a bitmap per parent. -/
def bitmapWords (e : Entry) : Nat := (e.ext + 31) / 32

/-- The first position from `pos` whose bit is 1, at most `n` further (12 R249). -/
def scanBitmap (s : State) (t : Thread) (e : Entry) (parent : Nat) : Nat → Nat → Except LaneEnd Nat
  | 0, pos => .ok pos
  | n + 1, pos =>
    let c := pos - parent * e.ext
    match carderWord s t (plusBytes e.a0 (4 * (parent * bitmapWords e + c / 32))) with
    | .error x => .error x
    | .ok w => if w / 2 ^ (c % 32) % 2 = 1 then .ok pos else scanBitmap s t e parent n (pos + 1)

/-- The coordinate of a position, with the checks of 12 R250. -/
def coordinate (s : State) (t : Thread) (x : Stream) (e : Entry) : Except LaneEnd Nat :=
  match e.kind with
  | 1 =>
    match carderWord s t (plusBytes e.a1 (4 * x.pos)) with
    | .error y => .error y
    | .ok c =>
      if e.nochk then .ok c
      else if x.start < x.pos then
        match carderWord s t (plusBytes e.a1 (4 * (x.pos - 1))) with
        | .error y => .error y
        | .ok c0 => if c ≤ c0 ∨ e.ext ≤ c then .error (.trap .malformedCoord) else .ok c
      else if e.ext ≤ c then .error (.trap .malformedCoord) else .ok c
  | 3 =>
    match carderWord s t (plusBytes e.a0 (4 * x.parent)) with
    | .error y => .error y
    | .ok c => if !e.nochk && decide (e.ext ≤ c) then .error (.trap .malformedCoord) else .ok c
  | 4 => .ok x.pos
  | _ => .ok (x.pos - x.parent * e.ext)

/-- The fibre of a kind-1 stream started (12 R249). -/
def startFibre (s : State) (t : Thread) (x : Stream) (e : Entry) : Except LaneEnd Stream :=
  if x.started then .ok x
  else
    match carderWord s t (plusBytes e.a0 (4 * x.parent)) with
    | .error y => .error y
    | .ok lo =>
      match carderWord s t (plusBytes e.a0 (4 * x.parent + 4)) with
      | .error y => .error y
      | .ok hi =>
        if hi < lo ∧ e.nochk = false then .error (.trap .malformedCoord)
        else .ok { x with start := lo, pos := lo, fin := if hi < lo then lo else hi, started := true }

/-- A malformed coordinate is met at the element where the stream stands, not materialised (12 R250). -/
def coordEnd (x : Stream) : LaneEnd → LaneEnd
  | .trap .malformedCoord => .coordTrap { x with valid := false, crd := 0, done := false, copy := none }
  | e => e

/-- The current element of a level stream or slave materialised (12 R249). -/
def materialiseLevel (s : State) (t : Thread) (x : Stream) : Except LaneEnd Stream :=
  if x.valid then .ok x
  else
    match streamEntry s t x with
    | .error y => .error y
    | .ok e =>
      match startFibre s t { x with copy := some e } e with
      | .error y => .error (coordEnd x y)
      | .ok x1 =>
        match (if e.kind = 2 then scanBitmap s t e x1.parent (x1.fin - x1.pos) x1.pos else .ok x1.pos) with
        | .error y => .error y
        | .ok pos =>
          let x2 := { x1 with pos := pos }
          if x2.fin ≤ pos then .ok { x2 with done := true, crd := 0xFFFFFFFF, valid := true }
          else
            match coordinate s t x2 e with
            | .error y => .error (coordEnd x2 y)
            | .ok c => .ok { x2 with crd := BitVec.ofNat 32 c, done := false, valid := true }

/-- The least position above `pos` whose coordinate reaches `v`, looking at most `n` further (12 R258). Every coordinate passed
over is read in its turn, and of coordinates that do not increase the first that reaches `v` is taken, where R258 allows any
position between (DESIGN CHOICE, log 102). -/
def gallop (s : State) (t : Thread) (e : Entry) (v : Nat) : Nat → Nat → Except LaneEnd Nat
  | 0, pos => .ok pos
  | n + 1, pos =>
    match carderWord s t (plusBytes e.a1 (4 * pos)) with
    | .error y => .error y
    | .ok c => if v ≤ c then .ok pos else gallop s t e v n (pos + 1)

/-- Where a skip to coordinate `v` lands, by kind (12 R258). -/
def skipTarget (s : State) (t : Thread) (x : Stream) (e : Entry) (v : Nat) : Except LaneEnd Nat :=
  match e.kind with
  | 1 => gallop s t e v (x.fin - (x.pos + 1)) (x.pos + 1)
  | 3 => .ok x.fin
  | 4 => .ok (min v x.fin)
  | _ => .ok (if v < e.ext then x.parent * e.ext + v else x.fin)

/-- `skip` on a level stream (12 R258). -/
def skipLevel (s : State) (t : Thread) (x : Stream) (v : Nat) : Except LaneEnd Stream :=
  match materialiseLevel s t x with
  | .error y => .error y
  | .ok x1 =>
    if x1.done || decide (v ≤ x1.crd.toNat) then .ok x1
    else
      match streamEntry s t x1 with
      | .error y => .error y
      | .ok e =>
        match skipTarget s t x1 e v with
        | .error y => .error y
        | .ok pos => materialiseLevel s t { x1 with pos := pos, valid := false, crd := 0 }

/-- The two sources of a derived stream. -/
def sourcesOf (t : Thread) (d : Stream) : Stream × Stream :=
  ((streamAt t d.linkA).getD { snum := d.linkA }, (streamAt t d.linkB).getD { snum := d.linkB })

def exhaust (d : Stream) : Stream := { d with done := true, crd := 0xFFFFFFFF, valid := true }

/-- The positions two fibres can still give up, which bounds the steps of their intersection. -/
def remaining (a b : Stream) : Nat := (a.fin - a.pos) + (b.fin - b.pos) + 2

/-- The intersection loop (12 R257). -/
def intersect (s : State) (t : Thread) (d : Stream) : Nat → Stream → Stream → Except LaneEnd (Stream × Stream × Stream)
  | 0, a, b => .ok (a, b, d)
  | n + 1, a, b =>
    match materialiseLevel s t a with
    | .error y => .error y
    | .ok a1 =>
      if a1.done then .ok (a1, b, exhaust d)
      else
        match materialiseLevel s t b with
        | .error y => .error y
        | .ok b1 =>
          if b1.done then .ok (a1, b1, exhaust d)
          else if a1.crd = b1.crd then .ok (a1, b1, { d with crd := a1.crd, done := false, valid := true })
          else if a1.crd.toNat < b1.crd.toNat then
            match skipLevel s t a1 b1.crd.toNat with
            | .error y => .error y
            | .ok a2 => intersect s t d n a2 b1
          else
            match skipLevel s t b1 a1.crd.toNat with
            | .error y => .error y
            | .ok b2 => intersect s t d n a1 b2

/-- The first materialisation of both sources fixes their ends; then the loop runs at most as far as they reach. -/
def intersectAll (s : State) (t : Thread) (d a b : Stream) : Except LaneEnd (Stream × Stream × Stream) :=
  match materialiseLevel s t a with
  | .error y => .error y
  | .ok a1 =>
    if a1.done then .ok (a1, b, exhaust d)
    else
      match materialiseLevel s t b with
      | .error y => .error y
      | .ok b1 => intersect s t d (remaining a1 b1) a1 b1

/-- A derived stream materialised (12 R257). -/
def materialiseDerived (s : State) (t : Thread) (d : Stream) : Except LaneEnd Thread :=
  if d.valid then .ok t
  else
    let src := sourcesOf t d
    if d.role = .intersection then
      match intersectAll s t d src.1 src.2 with
      | .error y => .error y
      | .ok (a, b, d1) => .ok (putStream (putStream (putStream t a) b) d1)
    else
      match materialiseLevel s t src.1 with
      | .error y => .error y
      | .ok a =>
        match materialiseLevel s t src.2 with
        | .error y => .error y
        | .ok b =>
          let d1 :=
            if a.done && b.done then exhaust d
            else if a.done then { d with crd := b.crd, done := false, valid := true }
            else if b.done then { d with crd := a.crd, done := false, valid := true }
            else { d with crd := if a.crd.toNat ≤ b.crd.toNat then a.crd else b.crd, done := false, valid := true }
          .ok (putStream (putStream (putStream t a) b) d1)

/-- A bound stream's current element materialised, with its derived stream's where it is a slave (12 R249). -/
def materialise (s : State) (t : Thread) (x : Stream) : Except LaneEnd Thread :=
  match x.role with
  | .level =>
    match materialiseLevel s t x with
    | .error y => .error y
    | .ok x1 => .ok (putStream t x1)
  | .intersection | .union => materialiseDerived s t x
  | .slave =>
    match streamAt t x.linkA with
    | none => .ok t
    | some d => materialiseDerived s t d
  | .append => .ok t

/-- The value a read of stream `n` delivers, its element being materialised (12 R252). -/
def streamValue (s : State) (t : Thread) (n : Nat) : Except LaneEnd Word :=
  match streamAt t n with
  | none => .error (.trap .illegalOperand)
  | some x =>
    match x.role with
    | .append => .error (.trap .illegalOperand)
    | .level =>
      if x.done then .ok 0
      else
        match streamEntry s t x with
        | .error y => .error y
        | .ok e => elementValue s t e x.pos
    | .intersection | .union => .ok (if x.done then 0 else x.crd)
    | .slave =>
      match streamAt t x.linkA with
      | none => .error (.trap .illegalOperand)
      | some d =>
        if d.done || !x.valid || x.done || x.crd != d.crd then .ok 0
        else
          match streamEntry s t x with
          | .error y => .error y
          | .ok e => elementValue s t e x.pos

/-- Materialise and value, for `speek` and for reads (12 R252, R259). -/
def peekStream (s : State) (t : Thread) (n : Nat) : Except LaneEnd (Word × Thread) :=
  match streamAt t n with
  | none => .error (.trap .illegalOperand)
  | some x =>
    if x.role = .append then .error (.trap .illegalOperand)
    else
      match materialise s t x with
      | .error y => .error y
      | .ok t1 =>
        match streamValue s t1 n with
        | .error y => .error y
        | .ok v => .ok (v, t1)

/-- What an earlier read of a stream in the run has met, before any of its words acts (12 R253). -/
def readEnd (t : Thread) (n : Nat) : Option LaneEnd := (t.readErr.find? fun x => decide (x.1 = n)).map (·.2)

/-- What an earlier query of a stream in the run has met. -/
def lookEnd (t : Thread) (n : Nat) : Option LaneEnd := (t.lookErr.find? fun x => decide (x.1 = n)).map (·.2)

/-- A stream read as an operand: one value in a run, one advance after it (12 R253, 06 R123). -/
def readStream (s : State) (t : Thread) (n : Nat) : Except LaneEnd (Word × Thread) :=
  match t.readS.find? fun x => decide (x.1 = n), readEnd t n with
  | some x, _ => .ok (x.2, t)
  | none, some y => .error y
  | none, none =>
    match peekStream s t n with
    | .error y => .error y
    | .ok (v, t1) => .ok (v, { t1 with readS := t1.readS ++ [(n, v)] })

/-- One element further, unless exhausted; memory is not read (12 R252), and no coordinate is current (12 Table 12-3). -/
def advanceLevel (x : Stream) : Stream := if x.done then x else { x with pos := x.pos + 1, valid := false, crd := 0 }

/-- A source that an advance of its derived stream advances (12 R253). -/
def goesOn (d y : Stream) : Bool := d.role == .intersection || (!y.done && y.crd == d.crd)

/-- The streams that the advance of a stream advances. -/
def advancedBy (t : Thread) (n : Nat) : List Nat :=
  match streamAt t n with
  | none => []
  | some x =>
    match x.role with
    | .level => if x.done then [] else [n]
    | .intersection | .union =>
      if x.done || !x.valid then []
      else
        let src := sourcesOf t x
        ([src.1, src.2].filter fun y => goesOn x y && !y.done).map Stream.snum ++ [n]
    | _ => []

/-- The advance of a stream by one element or coordinate (12 R252, R253). -/
def advanceStream (t : Thread) (n : Nat) : Thread :=
  match streamAt t n with
  | none => t
  | some x =>
    match x.role with
    | .level => putStream t (advanceLevel x)
    | .intersection | .union =>
      if x.done || !x.valid then t
      else
        let src := sourcesOf t x
        let step := fun (y : Stream) => if goesOn x y then advanceLevel y else y
        putStream (putStream (putStream t (step src.1)) (step src.2)) { x with pos := x.pos + 1, valid := false, crd := 0 }
    | _ => t

/-! ### Stores -/

/-- Entries of the buffer that a store of `n` bytes needs (02 R23). -/
def entriesFor (n : Nat) : Nat := if n = 16 then 2 else 1

/-- SIZE code of an entry (02 Table 2-6). -/
def sizeCode (n : Nat) : Nat := match n with | 1 => 0 | 2 => 1 | 4 => 2 | _ => 3

/-- The entry of the `w` bytes at offset `o` of a store. -/
def entryAt (va loc v : Nat) (peerf : Bool) (peer tag wpa o w : Nat) : SbEntry where
  data := BitVec.ofNat 64 (v / 2 ^ (8 * o) % 2 ^ (8 * w))
  vaddr := va + o
  peer := peer
  peerf := peerf
  size := sizeCode w
  loc := loc + o
  tag := tag
  wpa := if wpa = 0 then 0 else wpa + o

/-- The entries of a store (02 R23): low address first. -/
def entriesOf (va loc n v : Nat) (peerf : Bool) (peer tag wpa : Nat) : List SbEntry :=
  let one := entryAt va loc v peerf peer tag wpa
  if n = 16 then [one 0 8, one 8 8] else [one 0 n]

/-- A checked and translated store performed or posted (05 R110, R111). -/
def postStore (s : State) (t : Thread) (g : Target) (loc n v : Nat) : Except LaneEnd State :=
  match g with
  | .window off => .ok (putThread s { t with regs := windowSet t.regs off n v })
  | .cell l other =>
    if other then
      if feltReady s (dieOfCore t.core) (cellDie s l) then
        .ok (putThread (threadPost s t (cellDie s l) false (.write l n v) (some .otherDie)) { t with dieUnack := t.dieUnack + 1 })
      else .error (.wait .queue)
    else .ok (putThread { s with mem := writeNat s.mem l n v } t)
  | .virt va code =>
    if 8 ≤ t.sbuf.length then .error .storeSlot
    else if 8 < t.sbuf.length + entriesFor n then .error (.wait .queue)
    else .ok (putThread s
      { t with sbuf := t.sbuf ++ entriesOf va loc n v false 0 (if code then 0 else t.efftag) (hostPa s t.core t.efftag g) })
  | .peer p va =>
    if 8 ≤ t.sbuf.length then .error .storeSlot
    else if 8 < t.sbuf.length + entriesFor n then .error (.wait .queue)
    else if !peerRoom t (entriesFor n) then .error (.wait .queue)
    else .ok (putThread s { t with sbuf := t.sbuf ++ entriesOf va loc n v true p t.efftag 0 })

/-- A plain store of `n` bytes at a pointer (09 R182, R183). -/
def threadStore (s : State) (t : Thread) (p : DWord) (n v : Nat) : Except LaneEnd State :=
  match homeAccess s t .store p n .write .plain with
  | .error e => .error e
  | .ok (g, loc) => postStore s t g loc n v

/-! ### Passes of a cell store (04 R88, R89) -/

/-- The sub-group of a lane for an access size (04 R88). -/
def subGroup (size lane : Nat) : Nat := if size = 16 then lane / 8 else if size = 8 then lane / 16 else 0

/-- How an access of a lane reaches a cell store: its words' keys, or no key for its own window. -/
def cellWords (size : Nat) : Target → Option (List Nat)
  | .cell loc other => some ((List.range ((size + 3) / 4)).map fun i => (loc / 4 + i) * 2 + (if other then 1 else 0))
  | .window _ => some []
  | _ => none

/-- The bank of a word key: the die whose cell store holds the word, and the word modulo 32 (log 61). -/
def bankOf (k : Nat) : Nat := k / 2 % 32 * 2 + k % 2

/-- A list without repeats. -/
def distinct (l : List Nat) : List Nat := l.foldl (fun r x => if r.contains x then r else r ++ [x]) []

/-- Passes of one sub-group: its lanes' word lists (04 R88, R89). -/
def passesOf (atomic : Bool) (lanes : List (List Nat)) : Nat :=
  if lanes = [] then 0
  else
    let words := if atomic then lanes.flatten else distinct lanes.flatten
    (List.range 64).foldl (fun m b => max m (words.filter fun k => decide (bankOf k = b)).length) 1

/-- Replay passes of an access of the group: every pass after the first (04 R88). -/
def replayPasses (atomic : Bool) (size : Nat) (lanes : List (Nat × List Nat)) : Nat :=
  (List.range 4).foldl (fun n i =>
    n + passesOf atomic ((lanes.filter fun x => decide (subGroup size x.1 = i)).map (·.2))) 0 - 1

/-! ### Sources -/

/-- The special operands (06 Table 6-6). -/
def special (s : State) (iss : Issue) (t : Thread) (code : Nat) : Word :=
  let lr := launchOf s t.launch
  match code with
  | 80 => 0
  | 81 => 1
  | 82 => BitVec.ofNat 32 (laneNo iss t)
  | 83 => BitVec.ofNat 32 (t.thread % lr.gsize)
  | 84 => BitVec.ofNat 32 t.gang
  | 85 => BitVec.ofNat 32 lr.gsize
  | 86 => BitVec.ofNat 32 (t.gang % lr.clsize)
  | 87 => BitVec.ofNat 32 t.core
  | 88 => BitVec.ofNat 32 (dieOfCore t.core)
  | 89 => BitVec.ofNat 32 s.ownPeer
  | 90 => if lr.preq then 1 else 0
  | 91 => (coreOf s t.core).cycles.setWidth 32
  | 92 => ((coreOf s t.core).cycles >>> 32).setWidth 32
  | 93 => BitVec.ofNat 32 (segAt (gangOf s t).segs 2).limit.toNat
  | _ => 0

/-- k(i), as the group fetched it at the run's issue (06 R123). -/
def kreg (s : State) (iss : Issue) (t : Thread) (i : Nat) : Word :=
  regGet ((iss.kbefore).getD (gangOf s t).kregs) i

/-- A latch's value; a dead one reads zero (02 R37). -/
def latchVal (t : Thread) (i : Nat) : Word := ((oldLatch t i).map Latch.val).getD 0

/-- A 32-bit source that is no stream (06 Table 6-5). -/
def plain32 (s : State) (iss : Issue) (t : Thread) (code : BitVec 7) : Word :=
  let k := code.toNat
  if k < 64 then regGet (oldRegs t) k
  else if k < 68 then latchVal t (k - 64)
  else if k < 96 then special s iss t k
  else kreg s iss t (k - 96)

/-- The code names a stream (06 Table 6-5). -/
def isStream (code : BitVec 7) : Bool := decide (68 ≤ code.toNat) && decide (code.toNat < 76)

/-- A 32-bit source. -/
def src32 (s : State) (iss : Issue) (t : Thread) (code : BitVec 7) : Except LaneEnd (Word × Thread) :=
  if isStream code then readStream s t (code.toNat - 68) else .ok (plain32 s iss t code, t)

/-- Every lane's read of a stream operand, before any lane's word acts (12 R253). -/
def readFirst (g : BitVec 2) (c : BitVec 7) (s : State) : State :=
  if isStream c then
    mapLanes g (fun s iss t => match src32 s iss t c with | .error e => .error e | .ok r => .ok r.2) s
  else s

/-- A 64-bit source (06 Table 6-5). -/
def src64 (s : State) (iss : Issue) (t : Thread) (code : BitVec 7) : DWord :=
  let k := code.toNat
  if k < 64 then BitVec.ofNat 64 (natOfWords [regGet (oldRegs t) k, regGet (oldRegs t) (k + 1)])
  else if k < 68 then (latchVal t (k - 64)).setWidth 64
  else if k < 96 then (special s iss t k).setWidth 64
  else BitVec.ofNat 64 (natOfWords [kreg s iss t (k - 96), kreg s iss t (k - 95)])

/-- A 128-bit source, as a number (06 Table 6-5). -/
def src128 (s : State) (iss : Issue) (t : Thread) (code : BitVec 7) : Nat :=
  let k := code.toNat
  natOfWords ((List.range 4).map fun i => if k < 64 then regGet (oldRegs t) (k + i) else kreg s iss t (k - 96 + i))

/-- Register i of a block (11 R227): at or above the window, zero. -/
def blockReg (t : Thread) (i : Nat) : Word := regGet (oldRegs t) i

/-- Pair i of a block. -/
def blockPair (t : Thread) (i : Nat) : DWord := BitVec.ofNat 64 (natOfWords [blockReg t i, blockReg t (i + 1)])

/-! ### Destinations -/

/-- A write of a stream as a destination becomes an append after the run; the later of two stands (12 R254). -/
def addAppend (pos n : Nat) (v : Word) (t : Thread) : Thread :=
  let keep := t.acts.filter fun a => match a.2 with | .append m _ => !decide (m = n) | _ => true
  { t with acts := keep ++ [(pos, .append n v)] }

/-- A 32-bit destination written: a register of the window, or an append. -/
def put32 (iss : Issue) (code : BitVec 7) (v : Word) (t : Thread) : Thread :=
  if isStream code then addAppend iss.pos (code.toNat - 68) v t
  else { t with regs := regSet t.regs code.toNat v }

/-- A pair written. -/
def put64 (code : BitVec 7) (v : DWord) (t : Thread) : Thread := setRegs t code.toNat (wordsOf v.toNat 2)

/-- The result of an R-form word (06 R125): to D unless W = 1, and to the pipe's latch. -/
def result32 (iss : Issue) (p : Pipe) (d : BitVec 7) (w : BitVec 1) (v : Word) (t : Thread) : Thread :=
  setLatch iss p v (if w = 1 then t else put32 iss d v t)

/-- A 64-bit result of an R-form word; the latch takes bits [31:0] (07 R144). -/
def result64 (iss : Issue) (p : Pipe) (d : BitVec 7) (w : BitVec 1) (v : DWord) (t : Thread) : Thread :=
  setLatch iss p (v.setWidth 32) (if w = 1 then t else put64 d v t)

/-! ### The end of the run's stream effects (12 R253) -/

/-- Each stream the run read advances once. -/
def advanceRead (t : Thread) : Thread :=
  t.readS.foldl (fun x r => advanceStream { x with advanced := x.advanced ++ advancedBy x r.1 } r.1) t

/-- An append (12 R254). -/
def doAppend (s : State) (t : Thread) (n : Nat) (v : Word) : Except LaneEnd State :=
  match streamAt t n with
  | none => .error (.trap .illegalOperand)
  | some x =>
    if x.role ≠ .append then .error (.trap .illegalOperand)
    else
      if x.fin ≤ x.pos then .error (.trap .segmentLimit)
      else
        match streamEntry s t x with
        | .error y => .error y
        | .ok e => threadStore s (putStream t { x with pos := x.pos + 1, copy := some e }) (plusBytes e.a0 (4 * x.pos)) 4 v.toNat

/-- `sfree` (12 R261). -/
def doFree (t : Thread) (n : Nat) : Except LaneEnd Thread :=
  match streamAt t n with
  | none => .ok t
  | some x =>
    match x.role with
    | .level | .append => .ok (dropStream t n)
    | .slave => .error (.trap .illegalOperand)
    | _ =>
      let src := sourcesOf t x
      let back := fun (y : Stream) => { y with role := .level, linkA := 0, linkB := 0 }
      .ok (dropStream (putStream (putStream t (back src.1)) (back src.2)) n)

/-- A level stream. -/
def isLevel (t : Thread) (n : Nat) : Bool := ((streamAt t n).map fun x => x.role == .level).getD false

/-- `sisect` and `sunion` (12 R257). -/
def doDerive (t : Thread) (d a b : Nat) (isUnion : Bool) : Except LaneEnd Thread :=
  let free := match streamAt t d with
    | none => true
    | some x => x.role == .level || x.role == .append
  if decide (a = b) || decide (d = a) || decide (d = b) || !isLevel t a || !isLevel t b || !free then
    .error (.trap .illegalOperand)
  else
    let src := sourcesOf t { snum := d, linkA := a, linkB := b }
    let x : Stream := { snum := d, role := if isUnion then .union else .intersection, linkA := a, linkB := b }
    .ok (putStream (putStream (putStream t { src.1 with role := .slave, linkA := d, linkB := 0 })
      { src.2 with role := .slave, linkA := d, linkB := 1 }) x)

/-- `sskip` (12 R260). -/
def doSkip (s : State) (t : Thread) (n : Nat) (v : Word) : Except LaneEnd Thread :=
  match streamAt t n with
  | none => .error (.trap .illegalOperand)
  | some x =>
    match x.role with
    | .level =>
      match skipLevel s t x v.toNat with
      | .error y => .error y
      | .ok x1 => .ok (putStream t x1)
    | .intersection | .union =>
      let src := sourcesOf t x
      match skipLevel s t src.1 v.toNat with
      | .error y => .error y
      | .ok a =>
        match skipLevel s t src.2 v.toNat with
        | .error y => .error y
        | .ok b =>
          let x1 := { x with valid := false, crd := 0 }
          materialiseDerived s (putStream (putStream (putStream t a) b) x1) x1
    | _ => .error (.trap .illegalOperand)

/-- The end of an instruction that has advanced streams on its way: a lane whose run traps advances nothing (12 R253, log
80). -/
def undone (gone : List Nat) : LaneEnd → LaneEnd
  | .coordTrap x => if gone.contains x.snum then .trap .malformedCoord else .coordTrap x
  | y => y

/-- n times materialise and advance (12 R260), with the streams advanced so far. -/
def stepTimes (s : State) (n : Nat) : Nat → List Nat → Thread → Except LaneEnd Thread
  | 0, _, t => .ok t
  | k + 1, gone, t =>
    match streamAt t n with
    | none => .ok t
    | some x =>
      match materialise s t x with
      | .error y => .error (undone gone y)
      | .ok t1 =>
        if ((streamAt t1 n).map Stream.done).getD true then .ok t1
        else stepTimes s n k (gone ++ advancedBy t1 n) (advanceStream t1 n)

/-- `sskipn` (12 R260). An exhausted stream stays so, however often it would still advance. -/
def doSkipN (s : State) (t : Thread) (n : Nat) (v : Word) : Except LaneEnd Thread :=
  match streamAt t n with
  | none => .error (.trap .illegalOperand)
  | some x =>
    match x.role with
    | .append | .slave => .error (.trap .illegalOperand)
    | .level =>
      if v = 0 then .ok t
      else
        match streamEntry s t x with
        | .error y => .error y
        | .ok e =>
          if e.kind = 2 then stepTimes s n v.toNat [] t
          else
            match startFibre s t { x with copy := some e } e with
            | .error y => .error (coordEnd x y)
            | .ok x1 =>
              .ok (putStream t { x1 with pos := min (x1.pos + v.toNat) x1.fin, valid := false, done := false, crd := 0 })
    | _ => if v = 0 then .ok t else stepTimes s n v.toNat [] t

/-- END of a stream bound to an entry at a parent position (12 R256). -/
def endOf (e : Entry) (p : Nat) : Nat :=
  match e.kind with
  | 1 => 0
  | 3 => p + 1
  | 4 => affineN e
  | 5 => e.ext
  | _ => p * e.ext + e.ext

/-- The first position of the fibre (12 Table 12-1). -/
def startOf (e : Entry) (p : Nat) : Nat :=
  match e.kind with
  | 1 => 0
  | 3 | 4 | 5 => p
  | _ => p * e.ext

/-- The state that `sbind` gives a stream (12 R256). -/
def boundStream (n : Nat) (a : DWord) (p : Word) (e : Entry) : Stream :=
  { snum := n, entry := a, pos := startOf e p.toNat, fin := endOf e p.toNat, start := startOf e p.toNat,
    parent := p.toNat, role := if e.kind = 5 then .append else .level, started := decide (e.kind ≠ 1), kind := e.kind,
    copy := some e }

/-- A stream that `sbind` may not bind: derived or a slave. -/
def isTied (t : Thread) (n : Nat) : Bool :=
  match streamAt t n with
  | none => false
  | some y => !(y.role == .level || y.role == .append)

/-- `sbind` (12 R256). -/
def doBind (s : State) (t : Thread) (n : Nat) (a : DWord) (p : Word) : Except LaneEnd Thread :=
  if isTied t n then .error (.trap .illegalOperand)
  else
    match readEntry s t a with
    | .error y => .error y
    | .ok e => .ok (putStream t (boundStream n a p e))

/-- One stream act. -/
def doAct (s : State) (t : Thread) (a : StreamAct) : Except LaneEnd State :=
  let own := fun (r : Except LaneEnd Thread) =>
    match r with
    | .error e => Except.error e
    | .ok t1 => .ok (putThread s t1)
  match a with
  | .append n v => doAppend s t n v
  | .bind n x p => own (doBind s t n x p)
  | .derive d x y u => own (doDerive t d x y u)
  | .free n => own (doFree t n)
  | .skip n v => own (doSkip s t n v)
  | .skipN n v => own (doSkipN s t n v)

/-- The acts of one lane that stand at a word position. -/
def laneActs (iss : Issue) (pos : Nat) (s : State) (l : Nat) : State :=
  match threadAt s iss.launch l with
  | none => s
  | some t =>
    (t.acts.filter fun a => decide (a.1 = pos)).foldl (fun s1 a =>
      match threadAt s1 iss.launch l with
      | none => s1
      | some t1 =>
        if t1.laneEnd.isSome then s1
        else
          match doAct s1 t1 a.2 with
          | .ok s2 => s2
          | .error e => putThread s1 { t1 with laneEnd := some (e, pos) }) s

/-- The pointer of a lane's append at a word position, if it makes one. -/
def appendPointer (s : State) (t : Thread) (pos : Nat) : Option DWord :=
  (t.acts.filter fun a => decide (a.1 = pos)).findSome? fun a =>
    match a.2 with
    | .append n _ =>
      (streamAt t n).bind fun x =>
        if x.role = .append ∧ x.pos < x.fin then
          match streamEntry s t x with
          | .ok e => some (plusBytes e.a0 (4 * x.pos))
          | .error _ => none
        else none
    | _ => none

/-- The cell-store accesses of the appends at a word position, by lane number. -/
def appendLanes (iss : Issue) (s : State) (pos : Nat) : List (Nat × List Nat) :=
  ((groupLanes iss).filterMap (threadAt s iss.launch)).filterMap fun t =>
    if t.laneEnd.isSome then none
    else
      (appendPointer s t pos).bind fun p =>
        match decodePointer s (accessorOf s t) .store p 4 4 with
        | .ok g => (cellWords 4 g).map fun w => (laneNo iss t, w)
        | .error _ => none

/-- The acts at one word position, lane by lane; the appends' replay passes are counted (09 R181). -/
def actsAt (iss : Issue) (s : State) (pos : Nat) : State :=
  iss.lanes.foldl (laneActs iss pos) (count iss.core 0x0200 (replayPasses false 4 (appendLanes iss s pos)) s)

/-- After the words of a run: advances, then stream acts in word order. -/
def streamPhase (s : State) : State :=
  match s.issue with
  | none => s
  | some iss =>
    let step := fun t => if inGroup iss t && t.laneEnd.isNone then advanceRead t else t
    let s1 := { s with threads := s.threads.map step }
    [0, 1, 2].foldl (actsAt iss) s1

/-! ### The frame of a run -/

/-- Which lane ends depend on what other lanes of the run take: least a trap or a fault, then a wait or a full store
buffer, most a copy without a slot. -/
def endRank (t : Thread) : Nat :=
  match t.laneEnd with
  | some (.copySlot, _) => 2
  | some (.storeSlot, _) => 1
  | some (.wait _, _) => 1
  | some (.sysWait _, _) => 1
  | some (.modeWait _ _, _) => 1
  | some (.enqueue _ _ _, _) => 1
  | some (.remote _, _) => 1
  | _ => 0

/-- The lanes to make void next: those whose end depends least on others (11 R226: a slot goes only to a lane whose
whole run takes effect, and what another leaves is left for the lanes after it). -/
def nextVoid (more : List Thread) : List Thread :=
  let least := more.foldl (fun n t => min n (endRank t)) 2
  more.filter fun t => decide (endRank t = least)

/-- The lanes of a run that wait for an answer, or have made only a part of it, brought to their ends. -/
def closeRun (iss : Issue) (s : State) : State :=
  { s with
    threads := s.threads.map fun t => if t.launch = iss.launch ∧ t.thread ∈ iss.lanes then closePosting (closeAsk t) else t }

/-- What follows the words of a run: the stream effects, and the ends of lanes that they or the words leave waiting. -/
def runEffects (iss : Issue) (s : State) : State := closeRun iss (streamPhase s)

/-- A run from its words: their effects, the stream effects, and then each lane's end; a lane that some word ended
takes no effect of the run (02 R39), so the run is made again without it. -/
def conduct (body : State → State) : Nat → State → State
  | 0, s => settle s
  | n + 1, s =>
    match s.issue with
    | none => s
    | some iss =>
      let s1 := runEffects iss (body s)
      let more := (endedLanes s1 iss).filter fun t => (endedLanes s iss).all fun x => !decide (x.thread = t.thread)
      if more = [] then settle s1 else conduct body n (voidLanes s (nextVoid more))

/-- A word's outcome: one of several of its run only adds its effects; one that is a whole run ends it too. -/
def wordRun (body : State → State) (s : State) : State :=
  match s.issue with
  | none => s
  | some iss => if iss.chained then body s else conduct body 33 s

end Sys2Proof.Machine
end

