-- ==== Sys2Proof/Machine/Integer.lean ====
section
/-! DEFINITION. Integer, compare, `sel` and immediate instructions (07 R142 to R150). -/

namespace Sys2Proof.Machine

open Sys2Proof (Byte Word DWord Instr)

/-! ### What they compute -/

def mulHighS (a b : Word) : Word := BitVec.ofInt 32 (a.toInt * b.toInt / 2 ^ 32)

def mulHighN (a b : Word) : Word := BitVec.ofNat 32 (a.toNat * b.toNat / 2 ^ 32)

/-- Shifts take all 32 bits of B as the amount (07 R145). -/
def shiftLeft (a b : Word) : Word := if b.toNat < 32 then BitVec.ofNat 32 (a.toNat * 2 ^ b.toNat) else 0

def shiftRight (a b : Word) : Word := if b.toNat < 32 then BitVec.ofNat 32 (a.toNat / 2 ^ b.toNat) else 0

def shiftArith (a b : Word) : Word :=
  if b.toNat < 32 then BitVec.ofInt 32 (a.toInt / ((2 ^ b.toNat : Nat) : Int))
  else if a.getLsbD 31 then 0xFFFFFFFF else 0

def rotateLeft (a b : Word) : Word :=
  let m := b.toNat % 32
  BitVec.ofNat 32 (a.toNat * 2 ^ m) ||| BitVec.ofNat 32 (a.toNat / 2 ^ (32 - m))

def minS (a b : Word) : Word := if a.toInt ≤ b.toInt then a else b

def minN (a b : Word) : Word := if a.toNat ≤ b.toNat then a else b

def maxS (a b : Word) : Word := if b.toInt ≤ a.toInt then a else b

def maxN (a b : Word) : Word := if b.toNat ≤ a.toNat then a else b

def absS (a : Word) : Word := if a.toInt < 0 then 0 - a else a

/-- Clamps of the saturating forms (07 R146). -/
def clampS (v : Int) : Word := BitVec.ofInt 32 (if v < -2 ^ 31 then -2 ^ 31 else if 2 ^ 31 - 1 < v then 2 ^ 31 - 1 else v)

def clampN (v : Int) : Word := BitVec.ofInt 32 (if v < 0 then 0 else if 2 ^ 32 - 1 < v then 2 ^ 32 - 1 else v)

/-- Division truncates toward zero and never traps (07 R147). -/
def divS (a b : Word) : Word :=
  if b = 0 then 0xFFFFFFFF
  else if a = 0x80000000 ∧ b = 0xFFFFFFFF then 0x80000000
  else BitVec.ofInt 32 (a.toInt.tdiv b.toInt)

def remS (a b : Word) : Word :=
  if b = 0 then a
  else if a = 0x80000000 ∧ b = 0xFFFFFFFF then 0
  else BitVec.ofInt 32 (a.toInt - a.toInt.tdiv b.toInt * b.toInt)

def divN (a b : Word) : Word := if b = 0 then 0xFFFFFFFF else BitVec.ofNat 32 (a.toNat / b.toNat)

def remN (a b : Word) : Word := if b = 0 then a else BitVec.ofNat 32 (a.toNat % b.toNat)

/-- The bit numbers below `n`, counted where a bit is set. -/
def popFrom (a : Word) : Nat → Nat
  | 0 => 0
  | n + 1 => popFrom a n + if a.getLsbD n then 1 else 0

def popCount (a : Word) : Word := BitVec.ofNat 32 (popFrom a 32)

/-- Zero bits above the highest set bit among the lowest `n`. -/
def clzFrom (a : Word) : Nat → Nat
  | 0 => 0
  | n + 1 => if a.getLsbD n then 0 else 1 + clzFrom a n

def countLeading (a : Word) : Word := BitVec.ofNat 32 (clzFrom a 32)

/-- Zero bits below the lowest set bit, of the `n` bits from bit 32 - n. -/
def ctzFrom (a : Word) : Nat → Nat
  | 0 => 0
  | n + 1 => if a.getLsbD (31 - n) then 0 else 1 + ctzFrom a n

def countTrailing (a : Word) : Word := BitVec.ofNat 32 (ctzFrom a 32)

/-- The reversal of the lowest `n` bits, as a number. -/
def revFrom (a : Word) : Nat → Nat
  | 0 => 0
  | n + 1 => (if a.getLsbD n then 2 ^ (31 - n) else 0) + revFrom a n

def bitReverse (a : Word) : Word := BitVec.ofNat 32 (revFrom a 32)

/-- Position and width of a bit-field control word (07 R148). -/
def fieldPos (b : Word) : Nat := b.toNat % 32

def fieldWidth (b : Word) : Nat := min (b.toNat / 256 % 64) (32 - fieldPos b)

def extractN (a b : Word) : Word := BitVec.ofNat 32 (a.toNat / 2 ^ fieldPos b % 2 ^ fieldWidth b)

def extractS (a b : Word) : Word :=
  let w := fieldWidth b
  let v := a.toNat / 2 ^ fieldPos b % 2 ^ w
  if w = 0 then 0 else if v < 2 ^ (w - 1) then BitVec.ofNat 32 v else BitVec.ofNat 32 (v + 2 ^ 32 - 2 ^ w)

/-- `bfi`: the low bits of A put into the field of the old D (07 R148). -/
def insertField (a b c : Word) : Word :=
  let w := fieldWidth b
  let p := fieldPos b
  BitVec.ofNat 32 (c.toNat - c.toNat / 2 ^ p % 2 ^ w * 2 ^ p + a.toNat % 2 ^ w * 2 ^ p)

def bitMask (a b : Word) : Word :=
  let p := a.toNat % 32
  BitVec.ofNat 32 ((2 ^ min b.toNat (32 - p) - 1) * 2 ^ p)

/-- The immediate of the integer I-forms (06 R132). -/
def imm8 (i : BitVec 8) : Word := i.signExtend 32

/-- Conditions of `cmp` and `cmpi` (06 Table 6-3). -/
def condition (k : BitVec 4) (a b : Word) : Bool :=
  match k.toNat with
  | 0 => a == b
  | 1 => a != b
  | 2 => decide (a.toInt < b.toInt)
  | 3 => decide (a.toInt ≤ b.toInt)
  | 4 => decide (b.toInt < a.toInt)
  | 5 => decide (b.toInt ≤ a.toInt)
  | 6 => decide (a.toNat < b.toNat)
  | 7 => decide (a.toNat ≤ b.toNat)
  | 8 => decide (b.toNat < a.toNat)
  | _ => decide (b.toNat ≤ a.toNat)

/-! ### How they act in a lane -/

/-- Two sources, one 32-bit result. -/
def lane2 (d a b : BitVec 7) (w : BitVec 1) (f : Word → Word → Word) (s : State) (iss : Issue) (t : Thread) :
    Except LaneEnd Thread :=
  match src32 s iss t a with
  | .error e => .error e
  | .ok (x, t1) =>
    match src32 s iss t1 b with
    | .error e => .error e
    | .ok (y, t2) => .ok (result32 iss .ab d w (f x y) t2)

/-- One source, one result. -/
def lane1 (d a : BitVec 7) (w : BitVec 1) (f : Word → Word) (s : State) (iss : Issue) (t : Thread) :
    Except LaneEnd Thread :=
  match src32 s iss t a with
  | .error e => .error e
  | .ok (x, t1) => .ok (result32 iss .ab d w (f x) t1)

/-- Three sources, D the third (06 R126). -/
def lane3 (d a b : BitVec 7) (w : BitVec 1) (f : Word → Word → Word → Word) (s : State) (iss : Issue) (t : Thread) :
    Except LaneEnd Thread :=
  match src32 s iss t a with
  | .error e => .error e
  | .ok (x, t1) =>
    match src32 s iss t1 b with
    | .error e => .error e
    | .ok (y, t2) =>
      match src32 s iss t2 d with
      | .error e => .error e
      | .ok (z, t3) => .ok (result32 iss .ab d w (f x y z) t3)

/-- Pairs (07 R144). -/
def lane64 (d a b : BitVec 7) (w : BitVec 1) (f : DWord → DWord → DWord) (s : State) (iss : Issue) (t : Thread) :
    Except LaneEnd Thread :=
  .ok (result64 iss .ab d w (f (src64 s iss t a) (src64 s iss t b)) t)

/-- `sel` reads G as its selector (06 R128). -/
def laneSel (g : BitVec 2) (d a b : BitVec 7) (w : BitVec 1) (s : State) (iss : Issue) (t : Thread) :
    Except LaneEnd Thread :=
  lane2 d a b w (fun x y => if predBit (oldPred t) g.toNat then x else y) s iss t

/-- A predicate result: to p(n) unless W = 1, and to the latch as 1 or 0 (06 R127). -/
def resultPred (iss : Issue) (p : Pipe) (n : Nat) (w : BitVec 1) (v : Bool) (t : Thread) : Thread :=
  setLatch iss p (if v then 1 else 0) (if w = 1 then t else { t with pred := predSet t.pred n v })

/-- A pair of predicates: the condition to p(n), its negation to p(n + 1). -/
def resultPair (iss : Issue) (p : Pipe) (n : Nat) (w : BitVec 1) (v : Bool) (t : Thread) : Thread :=
  setLatch iss p (if v then 1 else 0)
    (if w = 1 then t else { t with pred := predSet (predSet t.pred n v) (n + 1) (!v) })

/-- A compare of two sources (07 R150). -/
def laneCmp (pair : Bool) (p : BitVec 3) (a b : BitVec 7) (w : BitVec 1) (f : Word → Word → Bool) (s : State)
    (iss : Issue) (t : Thread) : Except LaneEnd Thread :=
  match src32 s iss t a with
  | .error e => .error e
  | .ok (x, t1) =>
    match src32 s iss t1 b with
    | .error e => .error e
    | .ok (y, t2) => .ok (if pair then resultPair iss .ab p.toNat w (f x y) t2 else resultPred iss .ab p.toNat w (f x y) t2)

/-- A compare with an immediate. -/
def laneCmpi (pair : Bool) (p : BitVec 3) (a : BitVec 7) (f : Word → Bool) (s : State) (iss : Issue) (t : Thread) :
    Except LaneEnd Thread :=
  match src32 s iss t a with
  | .error e => .error e
  | .ok (x, t1) => .ok (if pair then resultPair iss .ab p.toNat 0 (f x) t1 else resultPred iss .ab p.toNat 0 (f x) t1)

/-- An outcome that is a next state. -/
abbrev Out := Host.Outcome State Fault Refusal

/-- A word whose lanes act each for itself. -/
def laneWord (g : BitVec 2) (f : State → Issue → Thread → Except LaneEnd Thread) (s : State) : Out :=
  .next (wordRun (mapLanes g f) s)

/-- A word whose lanes act one after another. -/
def foldWord (g : BitVec 2) (f : State → Issue → Thread → Except LaneEnd State) (s : State) : Out :=
  .next (wordRun (foldLanes g f) s)

/-- A word that acts once, for the elected lane. -/
def electWord (g : BitVec 2) (f : State → Issue → Thread → Except LaneEnd State) (s : State) : Out :=
  .next (wordRun (electLane g f) s)

/-! ### The instructions -/

/-- R143: `iadd`. -/
def execIadd (g : BitVec 2) (d a b : BitVec 7) (w : BitVec 1) (s : State) : Out :=
  laneWord g (lane2 d a b w fun x y => x + y) s

/-- R143: `isub`. -/
def execIsub (g : BitVec 2) (d a b : BitVec 7) (w : BitVec 1) (s : State) : Out :=
  laneWord g (lane2 d a b w fun x y => x - y) s

/-- R143: `imul`. -/
def execImul (g : BitVec 2) (d a b : BitVec 7) (w : BitVec 1) (s : State) : Out :=
  laneWord g (lane2 d a b w fun x y => x * y) s

/-- R143: `imulh.s32`. -/
def execImulhS32 (g : BitVec 2) (d a b : BitVec 7) (w : BitVec 1) (s : State) : Out :=
  laneWord g (lane2 d a b w fun x y => mulHighS x y) s

/-- R143: `imulh.n32`. -/
def execImulhN32 (g : BitVec 2) (d a b : BitVec 7) (w : BitVec 1) (s : State) : Out :=
  laneWord g (lane2 d a b w fun x y => mulHighN x y) s

/-- R143: `imad`. -/
def execImad (g : BitVec 2) (d a b : BitVec 7) (w : BitVec 1) (s : State) : Out :=
  laneWord g (lane3 d a b w fun x y z => x * y + z) s

/-- R144: `iadd64`. -/
def execIadd64 (g : BitVec 2) (d a b : BitVec 7) (w : BitVec 1) (s : State) : Out :=
  laneWord g (lane64 d a b w fun x y => x + y) s

/-- R144: `isub64`. -/
def execIsub64 (g : BitVec 2) (d a b : BitVec 7) (w : BitVec 1) (s : State) : Out :=
  laneWord g (lane64 d a b w fun x y => x - y) s

/-- R143: `and`. -/
def execAnd (g : BitVec 2) (d a b : BitVec 7) (w : BitVec 1) (s : State) : Out :=
  laneWord g (lane2 d a b w fun x y => x &&& y) s

/-- R143: `or`. -/
def execOr (g : BitVec 2) (d a b : BitVec 7) (w : BitVec 1) (s : State) : Out :=
  laneWord g (lane2 d a b w fun x y => x ||| y) s

/-- R143: `xor`. -/
def execXor (g : BitVec 2) (d a b : BitVec 7) (w : BitVec 1) (s : State) : Out :=
  laneWord g (lane2 d a b w fun x y => x ^^^ y) s

/-- R143: `andn`. -/
def execAndn (g : BitVec 2) (d a b : BitVec 7) (w : BitVec 1) (s : State) : Out :=
  laneWord g (lane2 d a b w fun x y => x &&& ~~~y) s

/-- R145: `shl`. -/
def execShl (g : BitVec 2) (d a b : BitVec 7) (w : BitVec 1) (s : State) : Out :=
  laneWord g (lane2 d a b w fun x y => shiftLeft x y) s

/-- R145: `shr`. -/
def execShr (g : BitVec 2) (d a b : BitVec 7) (w : BitVec 1) (s : State) : Out :=
  laneWord g (lane2 d a b w fun x y => shiftRight x y) s

/-- R145: `sar`. -/
def execSar (g : BitVec 2) (d a b : BitVec 7) (w : BitVec 1) (s : State) : Out :=
  laneWord g (lane2 d a b w fun x y => shiftArith x y) s

/-- R145: `rot`. -/
def execRot (g : BitVec 2) (d a b : BitVec 7) (w : BitVec 1) (s : State) : Out :=
  laneWord g (lane2 d a b w fun x y => rotateLeft x y) s

/-- R143: `imin.s32`. -/
def execIminS32 (g : BitVec 2) (d a b : BitVec 7) (w : BitVec 1) (s : State) : Out :=
  laneWord g (lane2 d a b w fun x y => minS x y) s

/-- R143: `imin.n32`. -/
def execIminN32 (g : BitVec 2) (d a b : BitVec 7) (w : BitVec 1) (s : State) : Out :=
  laneWord g (lane2 d a b w fun x y => minN x y) s

/-- R143: `imax.s32`. -/
def execImaxS32 (g : BitVec 2) (d a b : BitVec 7) (w : BitVec 1) (s : State) : Out :=
  laneWord g (lane2 d a b w fun x y => maxS x y) s

/-- R143: `imax.n32`. -/
def execImaxN32 (g : BitVec 2) (d a b : BitVec 7) (w : BitVec 1) (s : State) : Out :=
  laneWord g (lane2 d a b w fun x y => maxN x y) s

/-- R143: `iabs`. -/
def execIabs (g : BitVec 2) (d a : BitVec 7) (w : BitVec 1) (s : State) : Out :=
  laneWord g (lane1 d a w fun x => absS x) s

/-- R146: `iadds.s32`. -/
def execIaddsS32 (g : BitVec 2) (d a b : BitVec 7) (w : BitVec 1) (s : State) : Out :=
  laneWord g (lane2 d a b w fun x y => clampS (x.toInt + y.toInt)) s

/-- R146: `iadds.n32`. -/
def execIaddsN32 (g : BitVec 2) (d a b : BitVec 7) (w : BitVec 1) (s : State) : Out :=
  laneWord g (lane2 d a b w fun x y => clampN ((x.toNat : Int) + y.toNat)) s

/-- R146: `isubs.s32`. -/
def execIsubsS32 (g : BitVec 2) (d a b : BitVec 7) (w : BitVec 1) (s : State) : Out :=
  laneWord g (lane2 d a b w fun x y => clampS (x.toInt - y.toInt)) s

/-- R146: `isubs.n32`. -/
def execIsubsN32 (g : BitVec 2) (d a b : BitVec 7) (w : BitVec 1) (s : State) : Out :=
  laneWord g (lane2 d a b w fun x y => clampN ((x.toNat : Int) - y.toNat)) s

/-- R147: `idiv.s32`. -/
def execIdivS32 (g : BitVec 2) (d a b : BitVec 7) (w : BitVec 1) (s : State) : Out :=
  laneWord g (lane2 d a b w fun x y => divS x y) s

/-- R147: `idiv.n32`. -/
def execIdivN32 (g : BitVec 2) (d a b : BitVec 7) (w : BitVec 1) (s : State) : Out :=
  laneWord g (lane2 d a b w fun x y => divN x y) s

/-- R147: `irem.s32`. -/
def execIremS32 (g : BitVec 2) (d a b : BitVec 7) (w : BitVec 1) (s : State) : Out :=
  laneWord g (lane2 d a b w fun x y => remS x y) s

/-- R147: `irem.n32`. -/
def execIremN32 (g : BitVec 2) (d a b : BitVec 7) (w : BitVec 1) (s : State) : Out :=
  laneWord g (lane2 d a b w fun x y => remN x y) s

/-- R143: `popc`. -/
def execPopc (g : BitVec 2) (d a : BitVec 7) (w : BitVec 1) (s : State) : Out :=
  laneWord g (lane1 d a w fun x => popCount x) s

/-- R143: `clz`. -/
def execClz (g : BitVec 2) (d a : BitVec 7) (w : BitVec 1) (s : State) : Out :=
  laneWord g (lane1 d a w fun x => countLeading x) s

/-- R143: `ctz`. -/
def execCtz (g : BitVec 2) (d a : BitVec 7) (w : BitVec 1) (s : State) : Out :=
  laneWord g (lane1 d a w fun x => countTrailing x) s

/-- R143: `brev`. -/
def execBrev (g : BitVec 2) (d a : BitVec 7) (w : BitVec 1) (s : State) : Out :=
  laneWord g (lane1 d a w fun x => bitReverse x) s

/-- R148: `bfe.s32`. -/
def execBfeS32 (g : BitVec 2) (d a b : BitVec 7) (w : BitVec 1) (s : State) : Out :=
  laneWord g (lane2 d a b w fun x y => extractS x y) s

/-- R148: `bfe.n32`. -/
def execBfeN32 (g : BitVec 2) (d a b : BitVec 7) (w : BitVec 1) (s : State) : Out :=
  laneWord g (lane2 d a b w fun x y => extractN x y) s

/-- R148: `bfi`. -/
def execBfi (g : BitVec 2) (d a b : BitVec 7) (w : BitVec 1) (s : State) : Out :=
  laneWord g (lane3 d a b w fun x y z => insertField x y z) s

/-- R148: `bmsk`. -/
def execBmsk (g : BitVec 2) (d a b : BitVec 7) (w : BitVec 1) (s : State) : Out :=
  laneWord g (lane2 d a b w fun x y => bitMask x y) s

/-- R128: `sel`. -/
def execSel (g : BitVec 2) (d a b : BitVec 7) (w : BitVec 1) (s : State) : Out :=
  laneWord 0 (laneSel g d a b w) s

/-- R150: `cmp`. -/
def execCmp (g : BitVec 2) (k : BitVec 4) (p : BitVec 3) (a b : BitVec 7) (w : BitVec 1) (s : State) : Out :=
  laneWord g (laneCmp false p a b w (condition k)) s

/-- R150: `cmp.pair`. -/
def execCmpPair (g : BitVec 2) (k : BitVec 4) (p : BitVec 3) (a b : BitVec 7) (w : BitVec 1) (s : State) : Out :=
  laneWord g (laneCmp true p a b w (condition k)) s

/-- R149: `iaddi`. -/
def execIaddi (g : BitVec 2) (d a : BitVec 7) (i : BitVec 8) (s : State) : Out :=
  laneWord g (lane1 d a 0 fun x => x + imm8 i) s

/-- R149: `movi`. -/
def execMovi (g : BitVec 2) (d : BitVec 7) (i : BitVec 8) (s : State) : Out :=
  laneWord g (fun _ iss t => .ok (result32 iss .ab d 0 (imm8 i) t)) s

/-- R149: `imuli`. -/
def execImuli (g : BitVec 2) (d a : BitVec 7) (i : BitVec 8) (s : State) : Out :=
  laneWord g (lane1 d a 0 fun x => x * imm8 i) s

/-- R149: `andi`. -/
def execAndi (g : BitVec 2) (d a : BitVec 7) (i : BitVec 8) (s : State) : Out :=
  laneWord g (lane1 d a 0 fun x => x &&& imm8 i) s

/-- R149: `ori`. -/
def execOri (g : BitVec 2) (d a : BitVec 7) (i : BitVec 8) (s : State) : Out :=
  laneWord g (lane1 d a 0 fun x => x ||| imm8 i) s

/-- R149: `xori`. -/
def execXori (g : BitVec 2) (d a : BitVec 7) (i : BitVec 8) (s : State) : Out :=
  laneWord g (lane1 d a 0 fun x => x ^^^ imm8 i) s

/-- R149: `shfi.shl`. -/
def execShfiShl (g : BitVec 2) (d a : BitVec 7) (n : BitVec 5) (s : State) : Out :=
  laneWord g (lane1 d a 0 fun x => shiftLeft x (n.setWidth 32)) s

/-- R149: `shfi.shr`. -/
def execShfiShr (g : BitVec 2) (d a : BitVec 7) (n : BitVec 5) (s : State) : Out :=
  laneWord g (lane1 d a 0 fun x => shiftRight x (n.setWidth 32)) s

/-- R149: `shfi.sar`. -/
def execShfiSar (g : BitVec 2) (d a : BitVec 7) (n : BitVec 5) (s : State) : Out :=
  laneWord g (lane1 d a 0 fun x => shiftArith x (n.setWidth 32)) s

/-- R149: `shfi.rot`. -/
def execShfiRot (g : BitVec 2) (d a : BitVec 7) (n : BitVec 5) (s : State) : Out :=
  laneWord g (lane1 d a 0 fun x => rotateLeft x (n.setWidth 32)) s

/-- R149: `cmpi`. -/
def execCmpi (g : BitVec 2) (k : BitVec 4) (p : BitVec 3) (a : BitVec 7) (i : BitVec 8) (s : State) : Out :=
  laneWord g (laneCmpi false p a fun x => condition k x (imm8 i)) s

/-- R149: `cmpi.pair`. -/
def execCmpiPair (g : BitVec 2) (k : BitVec 4) (p : BitVec 3) (a : BitVec 7) (i : BitVec 8) (s : State) : Out :=
  laneWord g (laneCmpi true p a fun x => condition k x (imm8 i)) s

end Sys2Proof.Machine
end

