-- ==== Sys2Proof/Machine/Predicate.lean ====
section
/-! DEFINITION. Predicate instructions and `sel`'s companions (07 R151). -/

namespace Sys2Proof.Machine

open Sys2Proof (Byte Word DWord Instr)

/-- A predicate formed from one or two predicates as they stood before the run (06 R128). -/
def lanePred (d : BitVec 3) (w : BitVec 1) (f : BitVec 8 → Bool) (_s : State) (iss : Issue) (t : Thread) :
    Except LaneEnd Thread :=
  .ok (resultPred iss .ab d.toNat w (f (oldPred t)) t)

/-- PRED with p0 = 1, as `pget` reads it (07 Table 7-2). -/
def predWord (p : BitVec 8) : Word := (p ||| 1).setWidth 32

/-- The predicates p1 to p7 that bits 7:1 of `b` select, taken from `a`; p0 stays. -/
def predMerge (p : BitVec 8) (a b : Word) : BitVec 8 :=
  let m : BitVec 8 := b.setWidth 8 &&& 0xFE
  (p &&& ~~~m) ||| (a.setWidth 8 &&& m)

/-- `pset`: its latch takes the resulting PRED byte. -/
def lanePset (a b : BitVec 7) (w : BitVec 1) (s : State) (iss : Issue) (t : Thread) : Except LaneEnd Thread :=
  match src32 s iss t a with
  | .error e => .error e
  | .ok (x, t1) =>
    match src32 s iss t1 b with
    | .error e => .error e
    | .ok (y, t2) =>
      let m : BitVec 8 := y.setWidth 8 &&& 0xFE
      let wr := if w = 1 then t2 else { t2 with pred := (t2.pred &&& ~~~m) ||| (x.setWidth 8 &&& m) }
      .ok (setLatch iss .ab (predWord (predMerge (oldPred t) x y)) wr)

/-- R151: `pand`. -/
def execPand (g : BitVec 2) (d a b : BitVec 3) (w : BitVec 1) (s : State) : Out :=
  laneWord g (lanePred d w fun p => predBit p a.toNat && predBit p b.toNat) s

/-- R151: `por`. -/
def execPor (g : BitVec 2) (d a b : BitVec 3) (w : BitVec 1) (s : State) : Out :=
  laneWord g (lanePred d w fun p => predBit p a.toNat || predBit p b.toNat) s

/-- R151: `pxor`. -/
def execPxor (g : BitVec 2) (d a b : BitVec 3) (w : BitVec 1) (s : State) : Out :=
  laneWord g (lanePred d w fun p => predBit p a.toNat != predBit p b.toNat) s

/-- R151: `pnot`. -/
def execPnot (g : BitVec 2) (d a : BitVec 3) (w : BitVec 1) (s : State) : Out :=
  laneWord g (lanePred d w fun p => !predBit p a.toNat) s

/-- R151: `pget`. -/
def execPget (g : BitVec 2) (d : BitVec 7) (w : BitVec 1) (s : State) : Out :=
  laneWord g (fun _ iss t => .ok (result32 iss .ab d w (predWord (oldPred t)) t)) s

/-- R151: `pset`. -/
def execPset (g : BitVec 2) (a b : BitVec 7) (w : BitVec 1) (s : State) : Out :=
  laneWord g (lanePset a b w) s

end Sys2Proof.Machine
end

