-- ==== Sys2Proof/Machine/Control.lean ====
section
/-! DEFINITION. Literals, uniform registers, control transfers, traps and returns from a handler (07 R152 to R160,
06 R130, R133). -/

namespace Sys2Proof.Machine

open Sys2Proof (Byte Word DWord Instr)

/-! ### Code as fetch sees it -/

/-- Packet `p` is marked literal in its line, wherever a fetch would find that line (04 R85). A line that cannot be
fetched marks nothing: the fetch at the target meets the fault. -/
def markedAt (s : State) (t : Thread) (p : Nat) : Bool :=
  match seenLine s t (packetAddr p) with
  | .line l => isLiteral l (p % 10)
  | _ => false

/-- What the read of a literal gives (06 R133): its value, no literal there, or a line that is not yet fetched. -/
inductive Literal where
  | value (v : Nat)
  | illegal
  | miss (line : Nat)
  | fault (word : DWord)
  | retired
  | padding
  deriving DecidableEq, Repr

/-- A literal of `n` words at word offset `w` of packet `p`, of a block of its line; none at or beyond the limit of the code
segment (log 65). -/
def blockLiteral (s : State) (t : Thread) (p w n : Nat) : Literal :=
  match fetchLine s t (packetAddr p) with
  | .miss k => .miss k
  | .fault f => .fault f
  | .retired => .retired
  | .outside => .illegal
  | .padding => .padding
  | .line l =>
    let q := 3 * (p % 10) + w
    let word := fun i => (lineWord l ((q + i) / 3 * 12 + (q + i) % 3 * 4)).toNat
    match literalWord l (p % 10) w with
    | none => .illegal
    | some k =>
      if n = 1 then .value (word 0)
      else if literalWord l ((q + 1) / 3) ((q + 1) % 3) = some k then .value (word 0 + 2 ^ 32 * word 1)
      else .illegal

/-- The literal that IMM8 names in packet `p` (06 R133). -/
def literalAt (s : State) (t : Thread) (p : Nat) (i : BitVec 8) (wide : Bool) : Literal :=
  if i = 0x80 then
    match fetchLine s t (packetAddr p) with
    | .miss k => .miss k
    | .fault f => .fault f
    | .retired => .retired
    | .outside => .illegal
    | .padding => .padding
    | .line l => .value ((lineWord l 120).toNat + (if wide then 2 ^ 32 * (lineWord l 124).toNat else 0))
  else
    let target : Int := 3 * (p : Int) + i.toInt
    if target < 0 then .illegal else blockLiteral s t (target.toNat / 3) (target.toNat % 3) (if wide then 2 else 1)

/-- A literal as a lane's operand. -/
def laneLiteral (s : State) (iss : Issue) (t : Thread) (i : BitVec 8) (wide : Bool) : Except LaneEnd Nat :=
  match literalAt s t iss.packet i wide with
  | .value v => .ok v
  | .illegal => .error (.trap .illegalLiteral)
  | .retired => .error (.trap .moduleRetired)
  | .fault w => .error (.fault w 0)
  | .miss _ => .error (.wait .data)
  | .padding => .error (.wait .data)

/-! ### Targets -/

/-- A displaced target (06 R130): its packet number, or the trap. A packet that straddles the limit is beyond it (log 64). -/
def displacedTarget (s : State) (t : Thread) (target : Int) : Except LaneEnd Nat :=
  if target < 0 then .error (.trap .segmentLimit)
  else if (segAt (gangOf s t).segs 5).limit.toNat < packetAddr target.toNat + 12 then .error (.trap .segmentLimit)
  else if markedAt s t target.toNat then .error (.trap .illegalLiteral)
  else .ok target.toNat

/-- A register target (07 R155): its packet number, or the first trap in order. -/
def registerTarget (s : State) (t : Thread) (p : DWord) : Except LaneEnd Nat :=
  let c := p.toNat % 2 ^ 60
  if p.toNat / 2 ^ 60 ≠ 5 then .error (.trap .segmentLimit)
  else if (segAt (gangOf s t).segs 5).limit.toNat < c + 12 then .error (.trap .segmentLimit)
  else if 120 ≤ c % 128 then .error (.trap .illegalLiteral)
  else if c % 128 % 12 ≠ 0 then .error (.trap .misaligned)
  else
    let q := c / 128 * 10 + c % 128 / 12
    if markedAt s t q then .error (.trap .illegalLiteral) else .ok q

/-- The lane goes on at word `pos` of packet `p`. -/
def jumpTo (p pos : Nat) (t : Thread) : Thread := { t with next := .jump p pos }

/-- The link of a transfer in packet `p` (07 R154). -/
def linkOf (p : Nat) : DWord := codePointer (p + 1)

/-- A displaced transfer: its target is relative to its packet; `link` says whether d62 takes the link. -/
def laneBranch (disp : Int) (link : Bool) (s : State) (iss : Issue) (t : Thread) : Except LaneEnd Thread :=
  match displacedTarget s t (iss.packet + disp) with
  | .error e => .error e
  | .ok p => .ok (jumpTo p 0 (if link then put64 62 (linkOf iss.packet) t else t))

/-- A transfer whose displacement is a signed 64-bit literal (06 R133). -/
def laneLong (i : BitVec 8) (link : Bool) (s : State) (iss : Issue) (t : Thread) : Except LaneEnd Thread :=
  match laneLiteral s iss t i true with
  | .error e => .error e
  | .ok v => laneBranch (sextInt 64 v) link s iss t

/-- A register transfer, with its link pair where it has one. -/
def laneRegister (a : BitVec 7) (d : Option (BitVec 7)) (s : State) (iss : Issue) (t : Thread) :
    Except LaneEnd Thread :=
  match registerTarget s t (src64 s iss t a) with
  | .error e => .error e
  | .ok p =>
    match d with
    | none => .ok (jumpTo p 0 t)
    | some d => .ok (jumpTo p 0 (put64 d (linkOf iss.packet) t))

/-! ### Literals and uniform registers -/

/-- `ldl` (07 R152): class X, so no latch. -/
def laneLdl (d : BitVec 7) (i : BitVec 8) (wide : Bool) (s : State) (iss : Issue) (t : Thread) :
    Except LaneEnd Thread :=
  match laneLiteral s iss t i wide with
  | .error e => .error e
  | .ok v => .ok (if wide then put64 d (BitVec.ofNat 64 v) t else put32 iss d (BitVec.ofNat 32 v) t)

/-- `kmov`: the elected lane's value goes to k(d) of the gang the group runs under (07 R152); a stream is read, and
advances, in that lane alone (log 66). -/
def laneKmov (d : BitVec 5) (a : BitVec 7) (s : State) (iss : Issue) (t : Thread) : Except LaneEnd State :=
  match src32 s iss t a with
  | .error e => .error e
  | .ok (v, t1) => .ok (mapGangOf (putThread s t1) t fun x => { x with kregs := regSet x.kregs d.toNat v })

/-! ### Prefetch of code -/

/-- The physical line that holds the code at a virtual address, unless a request for it is dropped (07 R157). DESIGN CHOICE (log 100):
a line whose home copy is uncorrectable and that no cache of the core or die holds is dropped and not counted. -/
def wantedLine (s : State) (t : Thread) (va : Nat) : Option Nat :=
  match translate s t.core (launchOf s t.launch).ctx va .fetch .fetch false 0 with
  | .error _ => none
  | .ok pa => if isBad s pa && !cachedLine s t.core (pa / 128) then none else some (pa / 128)

/-- The physical lines of the code line at a byte address: two where SEG_CODE.BASE is no multiple of 128 (04 R84).
DESIGN CHOICE (log 101): IPFLINE merges and counts these physical lines. -/
def ipfLine (s : State) (t : Thread) (c : Nat) : List Nat :=
  let g := segAt (gangOf s t).segs 5
  let va := (g.base.toNat + c) % 2 ^ 48
  if g.limit.toNat ≤ c then []
  else if va % 128 = 0 then (wantedLine s t va).toList
  else (wantedLine s t (va / 128 * 128)).toList ++ (wantedLine s t ((va / 128 + 1) * 128 % 2 ^ 48)).toList

/-- The lines asked for from byte address `c` on, `n` of them. -/
def ipfLines (s : State) (t : Thread) (c : Nat) : Nat → List Nat
  | 0 => []
  | n + 1 => ipfLine s t c ++ ipfLines s t (c + 128) n

/-- The number of lines that a range of `n` bytes from `c` covers, at most 1,024 (07 R157). -/
def lineSpan (c n : Nat) : Nat := if n = 0 then 0 else min 1024 ((c + n - 1) / 128 - c / 128 + 1)

/-- The lines that one lane asks for. -/
def laneIpf (s : State) (t : Thread) (p : DWord) (n : Nat) : List Nat :=
  let c := p.toNat % 2 ^ 60
  if p.toNat / 2 ^ 60 ≠ 5 then [] else ipfLines s t (c / 128 * 128) (lineSpan c n)

/-- Line numbers not yet in a list appended to it. -/
def mergeLines (l : List Nat) (more : List Nat) : List Nat :=
  more.foldl (fun f k => if f.contains k then f else f ++ [k]) l

/-- Lines added to a core's fills in flight. -/
def addFills (lines : List Nat) (r : Core) : Core := { r with fills := mergeLines r.fills lines }

/-- Lines that a core's I-L1 or its group's I-L2 does not hold. -/
def linesToFill (s : State) (core : Nat) (lines : List Nat) : List Nat :=
  lines.filter fun k => !((coreOf s core).icache.any fun l => decide (l.1 = k))
    || !(s.icache2.any fun l => decide (l.1 = groupOfCore core) && decide (l.2.1 = k))

/-- Operands read by a word that acts for the group as a whole: every live lane reads its 32-bit operand. -/
def readOperand (b : BitVec 7) (s : State) (iss : Issue) (t : Thread) : Except LaneEnd Thread :=
  match src32 s iss t b with
  | .error e => .error e
  | .ok (_, t1) => .ok t1

/-- The lanes of a group that take a word's effect, in lane order. -/
def liveThreads (s : State) (iss : Issue) (g : BitVec 2) : List Thread :=
  (activeThreads s iss g).filter fun t => t.laneEnd.isNone

/-- `ipf` for the group: requests for one line are merged, and counted after merging (13 Table 13-1 IPFLINE). DESIGN CHOICE (log 99):
a line that a tag, limit or translation fault drops is not counted. -/
def ipfBody (g : BitVec 2) (a b : BitVec 7) (s : State) : State :=
  match s.issue with
  | none => s
  | some iss =>
    let s1 := mapLanes g (readOperand b) s
    let lines := (liveThreads s1 iss g).foldl (fun l t =>
      match src32 s1 iss t b with
      | .error _ => l
      | .ok (n, _) => mergeLines l (laneIpf s1 t (src64 s1 iss t a) n.toNat)) []
    count iss.core 0x0207 lines.length (mapCore s1 iss.core (addFills (linesToFill s1 iss.core lines)))

/-- A counter of the core raised by 1 where the word takes effect in some lane (13 R267). -/
def countedLanes (sel : Nat) (g : BitVec 2) (f : State → Issue → Thread → Except LaneEnd Thread) (s : State) : State :=
  match s.issue with
  | none => s
  | some iss =>
    let s1 := mapLanes g f s
    if liveThreads s1 iss g = [] then s1 else count iss.core sel 1 s1

/-! ### Traps and returns -/

/-- The first word of the run that holds word `w` of a packet, by the chain bits below it (07 R160). -/
def runStart (l : List Byte) (packet : Nat) : Nat → Nat
  | 0 => 0
  | w + 1 => if fldn (lineWord l (packet % 10 * 12 + 4 * w)) 31 1 = 1 then runStart l packet w else w + 1

/-- The line of packet `p` as a fetch would find it, whose chain bits `tret.redo` follows; what a fetch of it would meet is
met by the `tret` (log 27). -/
def codeLine (s : State) (t : Thread) (p : Nat) : Except LaneEnd (List Byte) :=
  match seenLine s t (packetAddr p) with
  | .line l => .ok l
  | .fault w => .error (.fault w 0)
  | .retired => .error (.trap .moduleRetired)
  | _ => .ok []

/-- `tret` (07 R160). -/
def laneTret (redo : Bool) (a b : BitVec 7) (s : State) (iss : Issue) (t : Thread) : Except LaneEnd Thread :=
  match src32 s iss t a with
  | .error e => .error e
  | .ok (x, t1) =>
    match src32 s iss t1 b with
    | .error e => .error e
    | .ok (y, t2) =>
      let tw : Nat := x.toNat + 2 ^ 32 * y.toNat
      let p : Nat := tw / 2 ^ 16
      let w := tw / 2 ^ 8 % 4
      if w = 3 then .error (.trap .misaligned)
      else
        match displacedTarget s t2 (if redo then (p : Int) else p + 1) with
        | .error e => .error e
        | .ok q =>
          if redo then
            match codeLine s t2 q with
            | .error e => .error e
            | .ok l => .ok { t2 with next := .handlerReturn q (runStart l q w) }
          else .ok { t2 with next := .handlerReturn q 0 }

/-! ### The instructions -/

/-- R152: `ldl` of a 32-bit literal. -/
def execLdl32 (g : BitVec 2) (d : BitVec 7) (i : BitVec 8) (s : State) : Out := laneWord g (laneLdl d i false) s

/-- R152: `ldl` of a 64-bit literal. -/
def execLdl64 (g : BitVec 2) (d : BitVec 7) (i : BitVec 8) (s : State) : Out := laneWord g (laneLdl d i true) s

/-- R152: `kmov`. -/
def execKmov (g : BitVec 2) (d : BitVec 5) (a : BitVec 7) (s : State) : Out := electWord g (laneKmov d a) s

/-- R154: `br`. -/
def execBr (g : BitVec 2) (x : BitVec 22) (s : State) : Out := laneWord g (laneBranch x.toInt false) s

/-- R154: `call`. -/
def execCall (g : BitVec 2) (x : BitVec 22) (s : State) : Out := laneWord g (laneBranch x.toInt true) s

/-- R154: `brl`. -/
def execBrl (g : BitVec 2) (i : BitVec 8) (s : State) : Out := laneWord g (laneLong i false) s

/-- R154: `calll`. -/
def execCalll (g : BitVec 2) (i : BitVec 8) (s : State) : Out := laneWord g (laneLong i true) s

/-- R154: `ret`. -/
def execRet (g : BitVec 2) (a : BitVec 7) (s : State) : Out := .next (wordRun (countedLanes 0x0205 g (laneRegister a none)) s)

/-- R154: `jmpx`. -/
def execJmpx (g : BitVec 2) (a : BitVec 7) (s : State) : Out := .next (wordRun (countedLanes 0x0206 g (laneRegister a none)) s)

/-- R154: `callx`. -/
def execCallx (g : BitVec 2) (d a : BitVec 7) (s : State) : Out := .next (wordRun (countedLanes 0x0206 g (laneRegister a (some d))) s)

/-- R157: `ipf`. -/
def execIpf (g : BitVec 2) (a b : BitVec 7) (s : State) : Out := .next (wordRun (ipfBody g a b) s)

/-- R158: `trap`. -/
def execTrap (g : BitVec 2) (s : State) : Out := laneWord g (fun _ _ _ => .error (.trap .userTrap)) s

/-- R158: `brk`. -/
def execBrk (g : BitVec 2) (s : State) : Out := laneWord g (fun _ _ _ => .error (.trap .breakpoint)) s

/-- R160: `tret.redo`. -/
def execTretRedo (g : BitVec 2) (a b : BitVec 7) (s : State) : Out := laneWord g (laneTret true a b) s

/-- R160: `tret.skip`. -/
def execTretSkip (g : BitVec 2) (a b : BitVec 7) (s : State) : Out := laneWord g (laneTret false a b) s

/-- R134: `nop` has no effect. -/
def execNop (g : BitVec 2) (s : State) : Out := laneWord g (fun _ _ t => .ok t) s

end Sys2Proof.Machine
end

