-- ==== Sys2Proof/Machine/Flags.lean ====
section
/-! DEFINITION. The status flags of FPSM (03 R52, 08 R161, R162) and the rounding that ARND selects. -/

namespace Sys2Proof.Machine

open Sys2Proof (Byte Word DWord Instr)

/-- Bits of FPSM (08 Table 8-1). -/
abbrev flagNX : BitVec 8 := 1

abbrev flagUF : BitVec 8 := 2

abbrev flagOF : BitVec 8 := 4

abbrev flagDZ : BitVec 8 := 8

abbrev flagNV : BitVec 8 := 16

/-- Flags that a word sets: they take effect with the run's writes, and two words' are ORed (08 R161). -/
def addFlags (f : BitVec 8) (t : Thread) : Thread := { t with flagsSet := t.flagsSet ||| f }

/-- The rounding functions (03 R49, R50); `sto` carries its 16-bit draw. -/
inductive Rounding where
  | rne | rz | ru | rd
  | sto (r : Nat)
  deriving DecidableEq, Repr

/-- ARND (08 Table 8-1). -/
def arnd (fpsm : BitVec 8) : Rounding :=
  match fpsm.toNat / 32 % 4 with
  | 0 => .rne
  | 1 => .rz
  | 2 => .ru
  | _ => .rd

/-- The rounding a lane's arithmetic uses. -/
def laneRounding (t : Thread) : Rounding := arnd (oldFpsm t)

end Sys2Proof.Machine
end

