-- ==== Sys2Proof/Machine/Float.lean ====
section
/-! DEFINITION. Floating-point formats and exact arithmetic (03): values as exact dyadic numbers, one rounding per
result, and what each operation does with NaNs, infinities and zeros (08 R164 to R173). -/

namespace Sys2Proof.Machine

open Sys2Proof (Byte Word DWord Instr)

/-! ### Formats and values -/

/-- A format (03 Table 3-1, R53, R54, R56): exponent and fraction bits, bias, the code of its largest finite
magnitude, whether it has infinities (the code after it), its canonical NaN (none in E2M1). -/
structure Fmt where
  ebits : Nat
  fbits : Nat
  bias : Nat
  top : Nat
  hasInf : Bool
  nan : Option Nat
  deriving DecidableEq, Repr

abbrev fmtF32 : Fmt := { ebits := 8, fbits := 23, bias := 127, top := 0x7F7FFFFF, hasInf := true, nan := some 0x7FC00000 }

abbrev fmtF16 : Fmt := { ebits := 5, fbits := 10, bias := 15, top := 0x7BFF, hasInf := true, nan := some 0x7E00 }

abbrev fmtBf16 : Fmt := { ebits := 8, fbits := 7, bias := 127, top := 0x7F7F, hasInf := true, nan := some 0x7FC0 }

abbrev fmtE5m2 : Fmt := { ebits := 5, fbits := 2, bias := 15, top := 0x7B, hasInf := true, nan := some 0x7E }

abbrev fmtE4m3 : Fmt := { ebits := 4, fbits := 3, bias := 7, top := 0x7E, hasInf := false, nan := some 0x7F }

abbrev fmtE2m1 : Fmt := { ebits := 2, fbits := 1, bias := 1, top := 7, hasInf := false, nan := none }

/-- An exact value: a NaN, signalling or quiet; an infinity; or ±mag × 2^exp. -/
inductive Val where
  | nan (signalling : Bool)
  | inf (neg : Bool)
  | fin (neg : Bool) (mag : Nat) (exp : Int)
  deriving DecidableEq, Repr

def Fmt.signBit (f : Fmt) : Nat := 2 ^ (f.ebits + f.fbits)

/-- Exponent of the format's smallest subnormal. -/
def Fmt.low (f : Fmt) : Int := 1 - (f.bias : Int) - f.fbits

/-- The value of a magnitude code, finite (03 R47, R53, R56). -/
def Fmt.magnitude (f : Fmt) (neg : Bool) (c : Nat) : Val :=
  let e := c / 2 ^ f.fbits
  if e = 0 then .fin neg c f.low else .fin neg (2 ^ f.fbits + c % 2 ^ f.fbits) (f.low + e - 1)

/-- The value of a code. A NaN is signalling when its most significant fraction bit is 0 (08 R165). -/
def Fmt.decode (f : Fmt) (code : Nat) : Val :=
  let neg := decide (code / f.signBit % 2 = 1)
  let c := code % f.signBit
  if c ≤ f.top then f.magnitude neg c
  else if f.hasInf && decide (c = f.top + 1) then .inf neg
  else .nan (decide (c / 2 ^ (f.fbits - 1) % 2 = 0))

def Fmt.withSign (f : Fmt) (neg : Bool) (c : Nat) : Nat := if neg then c + f.signBit else c

/-- The canonical NaN (03 R48); a format without one has no NaN result. -/
def Fmt.quiet (f : Fmt) : Nat := f.nan.getD 0

/-- The code of an infinity, or of what stands for it. -/
def Fmt.infinity (f : Fmt) (neg : Bool) : Nat := f.withSign neg (if f.hasInf then f.top + 1 else f.top)

def Fmt.zero (f : Fmt) (neg : Bool) : Nat := f.withSign neg 0

/-! ### Rounding -/

/-- Bits of a number. -/
def bitLength (m : Nat) : Nat := if m = 0 then 0 else Nat.log2 m + 1

/-- An exact or truncated magnitude: m × 2^e, or strictly between that and (m + 1) × 2^e where `more` holds. -/
structure Mag where
  m : Nat
  e : Int
  more : Bool := false
  deriving DecidableEq, Repr

/-- Units of 2^q in a magnitude: how many whole, and the rest in halves of a unit: 0 none, 1 below, 2 exactly, 3 above
one half; and floor(65,536 × rest). -/
def Mag.units (x : Mag) (q : Int) : Nat × Nat × Nat :=
  if q ≤ x.e then (x.m * 2 ^ (x.e - q).toNat, (if x.more then 1 else 0), 0)
  else
    let n := (q - x.e).toNat
    let rest := x.m % 2 ^ n
    let half := 2 ^ (n - 1)
    (x.m / 2 ^ n,
     if rest = 0 then (if x.more then 1 else 0)
     else if rest < half then 1
     else if rest = half then (if x.more then 3 else 2)
     else 3,
     rest * 65536 / 2 ^ n)

/-- Whether the magnitude goes up one unit (03 R49, R50), given the parity of the lower neighbour. -/
def roundsUp (r : Rounding) (neg odd : Bool) (rest frac : Nat) : Bool :=
  match r with
  | .rne => rest == 3 || (rest == 2 && odd)
  | .rz => false
  | .ru => rest != 0 && !neg
  | .rd => rest != 0 && neg
  | .sto k => decide (k < frac)

/-- The code of an overflowing result (03 R50, R51). -/
def Fmt.overflow (f : Fmt) (r : Rounding) (neg : Bool) : Nat :=
  match r with
  | .rne => f.infinity neg
  | .rz => f.withSign neg f.top
  | .ru => if neg then f.withSign neg f.top else f.infinity neg
  | .rd => if neg then f.infinity neg else f.withSign neg f.top
  | .sto _ => f.withSign neg f.top

/-- A magnitude rounded once to a format, with its flags (03 R49 to R52). -/
def Fmt.round (f : Fmt) (r : Rounding) (neg : Bool) (x : Mag) : Nat × BitVec 8 :=
  if x.m = 0 then (f.zero neg, if x.more then flagNX ||| flagUF else 0)
  else
    let lead : Int := (bitLength x.m : Int) - 1 + x.e
    let free : Int := lead - f.fbits
    let q : Int := if free < f.low then f.low else free
    let u := x.units q
    let code := (q - f.low).toNat * 2 ^ f.fbits + u.1
    let up := roundsUp r neg (decide (code % 2 = 1)) u.2.1 u.2.2
    let c := if up then code + 1 else code
    let inexact := decide (u.2.1 ≠ 0)
    let beyond := match r with
      | .sto _ => decide (f.top < code) || (decide (f.top = code) && inexact)
      | _ => decide (f.top < c)
    if beyond then (f.overflow r neg, flagOF ||| flagNX)
    else
      let v := x.units free
      let raised := roundsUp r neg (decide (v.1 % 2 = 1)) v.2.1 v.2.2
      let tiny := decide (lead < f.low + f.fbits)
        && !(decide (lead = f.low + f.fbits - 1) && raised && decide (v.1 + 1 = 2 ^ (f.fbits + 1)))
      (f.withSign neg c, (if inexact then flagNX else 0) ||| (if inexact && tiny then flagUF else 0))

/-- An exact value rounded to a format, NaNs and infinities converted (03 R48, R55, 08 R172). -/
def Fmt.deliver (f : Fmt) (r : Rounding) : Val → Nat × BitVec 8
  | .nan signalling => (f.quiet, if signalling || f.nan.isNone then flagNV else 0)
  | .inf neg =>
    if f.hasInf then (f.infinity neg, 0)
    else if f.nan.isSome then (f.quiet, flagNV)
    else (f.infinity neg, flagNV)
  | .fin neg m e => f.round r neg ⟨m, e, false⟩

/-! ### Exact operations -/

/-- Two dyadic numbers added, signs in the numbers. -/
def addExact (a : Int) (ea : Int) (b : Int) (eb : Int) : Int × Int :=
  if ea ≤ eb then (a + b * ((2 ^ (eb - ea).toNat : Nat) : Int), ea) else (a * ((2 ^ (ea - eb).toNat : Nat) : Int) + b, eb)

def signed (neg : Bool) (m : Nat) : Int := if neg then -(m : Int) else m

/-- A sum of two finite values; a zero sum of opposite operands is +0, or -0 under `round_rd` (03 R49). -/
def addFin (r : Rounding) (na : Bool) (ma : Nat) (ea : Int) (nb : Bool) (mb : Nat) (eb : Int) : Val :=
  let s := addExact (signed na ma) ea (signed nb mb) eb
  if s.1 = 0 then .fin (if na == nb then na else r == .rd) 0 0 else .fin (decide (s.1 < 0)) s.1.natAbs s.2

/-- x + y (08 R165). -/
def addVal (r : Rounding) : Val → Val → Val × BitVec 8
  | .nan p, .nan q => (.nan false, if p || q then flagNV else 0)
  | .nan p, _ => (.nan false, if p then flagNV else 0)
  | _, .nan q => (.nan false, if q then flagNV else 0)
  | .inf a, .inf b => if a == b then (.inf a, 0) else (.nan false, flagNV)
  | .inf a, _ => (.inf a, 0)
  | _, .inf b => (.inf b, 0)
  | .fin na ma ea, .fin nb mb eb => (addFin r na ma ea nb mb eb, 0)

/-- The exact product (08 R165). -/
def mulVal : Val → Val → Val × BitVec 8
  | .nan p, .nan q => (.nan false, if p || q then flagNV else 0)
  | .nan p, _ => (.nan false, if p then flagNV else 0)
  | _, .nan q => (.nan false, if q then flagNV else 0)
  | .inf a, .inf b => (.inf (a != b), 0)
  | .inf a, .fin b m _ => if m = 0 then (.nan false, flagNV) else (.inf (a != b), 0)
  | .fin a m _, .inf b => if m = 0 then (.nan false, flagNV) else (.inf (a != b), 0)
  | .fin na ma ea, .fin nb mb eb => (.fin (na != nb) (ma * mb) (ea + eb), 0)

def negVal : Val → Val
  | .nan p => .nan p
  | .inf a => .inf (!a)
  | .fin n m e => .fin (!n) m e

/-- A NaN that is signalling. -/
def isSnan : Val → Bool
  | .nan p => p
  | _ => false

def isNan : Val → Bool
  | .nan _ => true
  | _ => false

/-- The exact result of an operation delivered in a format, with all its flags. -/
def Fmt.finish (f : Fmt) (r : Rounding) (x : Val × BitVec 8) : Nat × BitVec 8 :=
  let y := f.deliver r x.1
  (y.1, y.2 ||| x.2)

/-- `fadd`, `fsub`, `fmul`, `ffma` on codes (08 R164, R165). -/
def fAdd (f : Fmt) (r : Rounding) (x y : Nat) : Nat × BitVec 8 := f.finish r (addVal r (f.decode x) (f.decode y))

def fSub (f : Fmt) (r : Rounding) (x y : Nat) : Nat × BitVec 8 :=
  f.finish r (addVal r (f.decode x) (negVal (f.decode y)))

def fMul (f : Fmt) (r : Rounding) (x y : Nat) : Nat × BitVec 8 := f.finish r (mulVal (f.decode x) (f.decode y))

def fFma (f : Fmt) (r : Rounding) (x y z : Nat) : Nat × BitVec 8 :=
  let p := mulVal (f.decode x) (f.decode y)
  let q := addVal r p.1 (f.decode z)
  f.finish r (q.1, q.2 ||| p.2)

/-- The order of two values that are no NaNs: x < y, -0 and +0 equal. -/
def ltVal : Val → Val → Bool
  | .inf a, .inf b => a && !b
  | .inf a, _ => a
  | _, .inf b => !b
  | .fin na ma ea, .fin nb mb eb => decide ((addExact (signed na ma) ea (-(signed nb mb)) eb).1 < 0)
  | _, _ => false

def eqVal (x y : Val) : Bool := !(isNan x) && !(isNan y) && !(ltVal x y) && !(ltVal y x)

/-- A magnitude code below the sign, as a number that orders finite and infinite codes, -0 below +0 (08 R166). -/
def orderKey (f : Fmt) (c : Nat) : Int :=
  if c / f.signBit % 2 = 1 then -((c % f.signBit : Nat) : Int) - 1 else ((c % f.signBit : Nat) : Int)

/-- `fmin` and `fmax` (08 R166). -/
def fPick (f : Fmt) (smaller : Bool) (x y : Nat) : Nat × BitVec 8 :=
  let a := f.decode x
  let b := f.decode y
  let fl := if isSnan a || isSnan b then flagNV else 0
  if isNan a && isNan b then (f.quiet, fl)
  else if isNan a then (y, fl)
  else if isNan b then (x, fl)
  else if smaller then (if orderKey f x ≤ orderKey f y then x else y, fl)
  else (if orderKey f y ≤ orderKey f x then x else y, fl)

/-- The FP32 conditions (08 R168): result and whether NV is set. -/
def fCompare (k : BitVec 4) (x y : Nat) : Bool × BitVec 8 :=
  let a := fmtF32.decode x
  let b := fmtF32.decode y
  let un := isNan a || isNan b
  let quietNV := if isSnan a || isSnan b then flagNV else 0
  let anyNV := if un then flagNV else 0
  match k.toNat with
  | 0 => (eqVal a b, quietNV)
  | 1 => (!eqVal a b, quietNV)
  | 2 => (!un && ltVal a b, anyNV)
  | 3 => (!un && !ltVal b a, anyNV)
  | 4 => (!un && ltVal b a, anyNV)
  | 5 => (!un && !ltVal a b, anyNV)
  | 6 => (!un, quietNV)
  | _ => (un, quietNV)

/-! ### Integers -/

/-- A value rounded to an integer between two bounds (08 R173). -/
def toInteger (r : Rounding) (lo hi : Int) : Val → Int × BitVec 8
  | .nan _ => (0, flagNV)
  | .inf neg => (if neg then lo else hi, flagNV)
  | .fin neg m e =>
    let u := (Mag.mk m e false).units 0
    let k := if roundsUp r neg (decide (u.1 % 2 = 1)) u.2.1 u.2.2 then u.1 + 1 else u.1
    let v := signed neg k
    if v < lo then (lo, flagNV) else if hi < v then (hi, flagNV) else (v, if u.2.1 = 0 then 0 else flagNX)

/-- An integer as an exact value. -/
def ofInteger (v : Int) : Val := .fin (decide (v < 0)) v.natAbs 0

/-! ### Twin-shift (03 R60 to R62) -/

/-- 64 × h(s, e). -/
def tshHalf (s e : Nat) : Int := if e = 7 then 0 else if s = 1 then -((64 / 2 ^ e : Nat) : Int) else ((64 / 2 ^ e : Nat) : Int)

/-- 64 × the weight of a code. -/
def tshValue (c : Nat) : Int := tshHalf (c / 128 % 2) (c / 16 % 8) + tshHalf (c / 8 % 2) (c % 8)

/-- A canonical code (03 R61). -/
def tshCanonical (c : Nat) : Bool :=
  decide (c / 16 % 8 ≤ c % 8) && !(decide (c / 16 % 8 = c % 8) && decide (c / 128 % 2 ≠ c / 8 % 2))

/-- The better of two codes for n / d sixty-fourths: nearer, then smaller, then the smaller code (03 R62). -/
def tshBetter (n : Int) (d : Nat) (a b : Nat) : Nat :=
  let da := (tshValue a * d - n).natAbs
  let db := (tshValue b * d - n).natAbs
  if da < db then a
  else if db < da then b
  else if (tshValue a).natAbs < (tshValue b).natAbs then a
  else if (tshValue b).natAbs < (tshValue a).natAbs then b
  else if a ≤ b then a else b

/-- Quantisation (03 R62) of an exact value already divided by its scale. -/
def tshQuantise : Val → Nat × BitVec 8
  | .nan _ => (0x77, flagNV)
  | .inf neg => (if neg then 0x88 else 0x00, flagNV)
  | .fin neg m e =>
    let k := e + 6
    let num := signed neg (if 0 ≤ k then m * 2 ^ k.toNat else m)
    let den := if 0 ≤ k then 1 else 2 ^ (-k).toNat
    if 128 * den < num.natAbs then (if neg then 0x88 else 0x00, flagNX)
    else
      let c := ((List.range 256).filter tshCanonical).foldl (tshBetter num den) 0x77
      (c, if tshValue c * den = num then 0 else flagNX)

/-- `qtsh` (08 R175). -/
def qtshWord (a b : Word) : Nat × BitVec 8 :=
  let s := b.toNat % 256
  if s = 255 then (0x77, flagNV)
  else
    match fmtF32.decode a.toNat with
    | .fin neg m e => tshQuantise (.fin neg m (e - ((s : Int) - 127)))
    | v => tshQuantise v

end Sys2Proof.Machine
end

