-- ==== Sys2Proof/Machine/FloatSpecial.lean ====
section
/-! DEFINITION. The special functions (08 R169, R170): the exact value enclosed between two fixed-point bounds whose
precision grows until both round alike, so that the one rounding is that of the exact value. -/

namespace Sys2Proof.Machine

open Sys2Proof (Byte Word DWord Instr)

/-! ### Roots and quotients, exactly truncated -/

/-- Bits of the integer square root of `n`, from bit `k - 1` down. -/
def sqrtBits (n : Nat) : Nat → Nat → Nat
  | 0, r => r
  | k + 1, r => if (r + 2 ^ k) * (r + 2 ^ k) ≤ n then sqrtBits n k (r + 2 ^ k) else sqrtBits n k r

/-- floor(√n). -/
def intSqrt (n : Nat) : Nat := sqrtBits n (bitLength n / 2 + 1) 0

/-- 1 / (m × 2^e), truncated. -/
def reciprocal (m : Nat) (e : Int) : Mag :=
  let k := bitLength m + 40
  { m := 2 ^ k / m, e := -e - k, more := decide (2 ^ k % m ≠ 0) }

/-- √(m × 2^e), truncated. -/
def squareRoot (m : Nat) (e : Int) : Mag :=
  let odd := decide (e % 2 = 1)
  let n := (if odd then 2 * m else m) * 2 ^ 100
  let r := intSqrt n
  { m := r, e := ((if odd then e - 1 else e) - 100) / 2, more := decide (r * r ≠ n) }

/-- 1 / √(m × 2^e), truncated. -/
def reciprocalRoot (m : Nat) (e : Int) : Mag :=
  let odd := decide (e % 2 = 1)
  let n := if odd then 2 * m else m
  let k := bitLength n + 100 + bitLength n % 2
  let r := intSqrt (2 ^ k / n)
  { m := r, e := (-(if odd then e - 1 else e) - k) / 2, more := decide (r * r * n ≠ 2 ^ k) }

/-! ### Fixed-point series: every number is an integer that stands for itself over 2^p -/

/-- atanh(1/n) or, with `alt`, atan(1/n): 1/n ± 1/(3 n^3) + … -/
def arcSeries (n : Nat) (alt : Bool) : Nat → Nat → Nat → Int
  | 0, _, _ => 0
  | fuel + 1, power, i =>
    if power = 0 then 0
    else
      let term : Int := ((power / (2 * i + 1) : Nat) : Int)
      (if alt && decide (i % 2 = 1) then -term else term) + arcSeries n alt fuel (power / (n * n)) (i + 1)

/-- π (Machin). -/
def piFix (p : Nat) : Int := 16 * arcSeries 5 true 2000 (2 ^ p / 5) 0 - 4 * arcSeries 239 true 2000 (2 ^ p / 239) 0

/-- ln 2 = 2 atanh(1/3). -/
def ln2Fix (p : Nat) : Int := 2 * arcSeries 3 false 2000 (2 ^ p / 3) 0

/-- A fixed-point product. -/
def mulFix (p : Nat) (a b : Int) : Int := a * b / ((2 ^ p : Nat) : Int)

/-- e^r for 0 ≤ r < 1: the terms from the i-th. -/
def expTerms (p : Nat) (r : Int) : Nat → Int → Nat → Int
  | 0, _, _ => 0
  | fuel + 1, term, i => if term = 0 then 0 else term + expTerms p r fuel (mulFix p term r / (i + 1)) (i + 1)

def expFix (p : Nat) (r : Int) : Int := expTerms p r 1000 ((2 ^ p : Nat) : Int) 0

/-- The terms of sin or cos from the one of power i, each the last times -r²/((i+1)(i+2)). -/
def circTerms (p : Nat) (r2 : Int) : Nat → Int → Nat → Int
  | 0, _, _ => 0
  | fuel + 1, term, i =>
    if term = 0 then 0
    else term + circTerms p r2 fuel (-(mulFix p term r2 / ((i + 1 : Nat) * (i + 2 : Nat)))) (i + 2)

def sinFix (p : Nat) (r : Int) : Int := circTerms p (mulFix p r r) 1000 r 1

def cosFix (p : Nat) (r : Int) : Int := circTerms p (mulFix p r r) 1000 ((2 ^ p : Nat) : Int) 0

/-- atanh(z) for 0 ≤ z ≤ 1/3. -/
def atanhTerms (p : Nat) (z2 : Int) : Nat → Int → Nat → Int
  | 0, _, _ => 0
  | fuel + 1, power, i => if power = 0 then 0 else power / (2 * i + 1) + atanhTerms p z2 fuel (mulFix p power z2) (i + 1)

def atanhFix (p : Nat) (z : Int) : Int := atanhTerms p (mulFix p z z) 1000 z 0

/-- m × 2^e as a fixed-point number, truncated. -/
def toFix (p : Nat) (m : Nat) (e : Int) : Int :=
  let k := e + p
  if 0 ≤ k then ((m * 2 ^ k.toNat : Nat) : Int) else ((m / 2 ^ (-k).toNat : Nat) : Int)

/-! ### The functions: an approximation over 2^p, wrong by less than 2^32 of its last place -/

/-- 2^x: the whole part of x, and 2 to its fraction. -/
def exp2Parts (p : Nat) (neg : Bool) (m : Nat) (e : Int) : Int × Int :=
  let big := signed neg m
  let n : Int := if 0 ≤ e then big * ((2 ^ e.toNat : Nat) : Int) else big / ((2 ^ (-e).toNat : Nat) : Int)
  let rest := if 0 ≤ e then 0 else big - n * ((2 ^ (-e).toNat : Nat) : Int)
  (n, expFix p (mulFix p (toFix p rest.toNat e) (ln2Fix p)))

/-- log2 of m × 2^e. -/
def log2Fix (p : Nat) (m : Nat) (e : Int) : Int :=
  let k : Int := (bitLength m : Int) - 1
  let y := toFix p m (-k)
  let one : Int := ((2 ^ p : Nat) : Int)
  let z := (y - one) * one / (y + one)
  (e + k) * one + 2 * atanhFix p z * one / ln2Fix p

/-- Quadrant and remainder of an argument over π/2. -/
def reduceFix (p : Nat) (m : Nat) (e : Int) : Int × Int :=
  let half := piFix p / 2
  let x := toFix p m e
  (x / half, x - x / half * half)

/-- sin (shift 0) or cos (shift 1) of m × 2^e. -/
def circFix (p : Nat) (shift : Int) (m : Nat) (e : Int) : Int :=
  let q := reduceFix p m e
  match ((q.1 + shift) % 4).toNat with
  | 0 => sinFix p q.2
  | 1 => cosFix p q.2
  | 2 => -(sinFix p q.2)
  | _ => -(cosFix p q.2)

/-- tanh of m × 2^e by t = e^(-2x): (1 - t)/(1 + t). -/
def tanhFix (p : Nat) (m : Nat) (e : Int) : Int :=
  let one : Int := ((2 ^ p : Nat) : Int)
  let y := 2 * toFix p m e
  let k := y / ln2Fix p
  let t := one * one / expFix p (y - k * ln2Fix p) / ((2 ^ k.toNat : Nat) : Int)
  (one - t) * one / (one + t)

/-! ### Rounding an enclosed value -/

/-- The allowance for the error of an approximation. -/
def slack : Int := ((2 ^ 32 : Nat) : Int)

/-- The two bounds of |v| as truncated magnitudes, for an approximation of v over 2^p, scaled by 2^n. -/
def bounds (p : Nat) (n v : Int) : Mag × Mag :=
  let a : Int := v.natAbs
  ({ m := (a - slack).toNat, e := n - p, more := true }, { m := (a + slack).toNat - 1, e := n - p, more := true })

/-- Rounds a value given at each precision, at the first of these precisions where both bounds round alike. -/
def roundEnclosed (f : Fmt) (approx : Nat → Int × Int) : List Nat → Nat × BitVec 8
  | [] => (f.quiet, flagNV)
  | p :: ps =>
    let v := approx p
    let b := bounds p v.1 v.2
    let neg := decide (v.2 < 0)
    let lo := f.round .rne neg b.1
    let hi := f.round .rne neg b.2
    if lo = hi ∨ ps = [] then hi else roundEnclosed f approx ps

/-- Working precisions: the reduction of the largest FP32 argument takes 160 bits of them. -/
def precisions : List Nat := [256, 512, 1024, 2048]

/-- Functions of Table 6-10. -/
inductive Special where
  | rcp | rsq | sqrt | exp2 | log2 | sin | cos | tanh
  deriving DecidableEq, Repr

/-- A finite argument of `fexp2` beyond every format's range. -/
def exp2Beyond (f : Fmt) (neg : Bool) : Nat × BitVec 8 := f.round .rne false ⟨1, if neg then -1000 else 1000, true⟩

/-- The function on a finite value (08 Table 8-3). -/
def specialFin (f : Fmt) (k : Special) (neg : Bool) (m : Nat) (e : Int) : Nat × BitVec 8 :=
  match k with
  | .rcp => if m = 0 then (f.infinity neg, flagDZ) else f.round .rne neg (reciprocal m e)
  | .rsq =>
    if m = 0 then (f.infinity neg, flagDZ)
    else if neg then (f.quiet, flagNV) else f.round .rne false (reciprocalRoot m e)
  | .sqrt =>
    if m = 0 then (f.zero neg, 0) else if neg then (f.quiet, flagNV) else f.round .rne false (squareRoot m e)
  | .exp2 =>
    if m = 0 then f.round .rne false ⟨1, 0, false⟩
    else if 12 < (bitLength m : Int) + e then exp2Beyond f neg
    else
      let x := exp2Parts 64 neg m e
      if 0 ≤ e ∨ m % 2 ^ (-e).toNat = 0 then f.round .rne false ⟨1, x.1, false⟩
      else roundEnclosed f (fun p => exp2Parts p neg m e) precisions
  | .log2 =>
    if m = 0 then (f.infinity true, flagDZ)
    else if neg then (f.quiet, flagNV)
    else
      let k := bitLength m - 1
      if m = 2 ^ k then
        let v : Int := e + k
        f.round .rne (decide (v < 0)) ⟨v.natAbs, 0, false⟩
      else roundEnclosed f (fun p => (0, log2Fix p m e)) precisions
  | .sin =>
    if m = 0 then (f.zero neg, 0)
    else roundEnclosed f (fun p => (0, if neg then -(circFix p 0 m e) else circFix p 0 m e)) precisions
  | .cos =>
    if m = 0 then f.round .rne false ⟨1, 0, false⟩ else roundEnclosed f (fun p => (0, circFix p 1 m e)) precisions
  | .tanh =>
    if m = 0 then (f.zero neg, 0)
    else if 7 < (bitLength m : Int) + e then f.round .rne neg ⟨2 ^ 200 - 1, -200, true⟩
    else roundEnclosed f (fun p => (0, if neg then -(tanhFix p m e) else tanhFix p m e)) precisions

/-- The function on an infinity. -/
def specialInf (f : Fmt) (k : Special) (neg : Bool) : Nat × BitVec 8 :=
  match k with
  | .rcp => (f.zero neg, 0)
  | .rsq => if neg then (f.quiet, flagNV) else (f.zero false, 0)
  | .sqrt => if neg then (f.quiet, flagNV) else (f.infinity false, 0)
  | .exp2 => if neg then (f.zero false, 0) else (f.infinity false, 0)
  | .log2 => if neg then (f.quiet, flagNV) else (f.infinity false, 0)
  | .sin => (f.quiet, flagNV)
  | .cos => (f.quiet, flagNV)
  | .tanh => f.round .rne neg ⟨1, 0, false⟩

/-- A special function on a code (08 R170). -/
def specialCode (f : Fmt) (k : Special) (x : Nat) : Nat × BitVec 8 :=
  match f.decode x with
  | .nan p => (f.quiet, if p then flagNV else 0)
  | .inf neg => specialInf f k neg
  | .fin neg m e => specialFin f k neg m e

end Sys2Proof.Machine
end

