-- ==== Sys2Proof/Machine/FloatInstr.lean ====
section
/-! DEFINITION. Floating-point instructions in their lanes (08 R161 to R175). -/

namespace Sys2Proof.Machine

open Sys2Proof (Byte Word DWord Instr)

/-! ### Elements -/

/-- Element 0 or 1 of a packed register (03 R46). -/
def half (v : Word) (e : Nat) : Nat := v.toNat / 2 ^ (16 * e) % 2 ^ 16

/-- An operation on whole FP32 values. -/
abbrev Op := Nat → Nat → Nat → Nat × BitVec 8

/-- One 32-bit element. -/
def single (f : Op) (x y z : Word) : Word × BitVec 8 :=
  let r := f x.toNat y.toNat z.toNat
  (BitVec.ofNat 32 r.1, r.2)

/-- Two 16-bit elements, their flags ORed (08 R161). -/
def packed (f : Op) (x y z : Word) : Word × BitVec 8 :=
  let lo := f (half x 0) (half y 0) (half z 0)
  let hi := f (half x 1) (half y 1) (half z 1)
  (BitVec.ofNat 32 (lo.1 + 2 ^ 16 * hi.1), lo.2 ||| hi.2)

/-! ### In a lane -/

/-- A result with its flags. -/
def resultF (iss : Issue) (p : Pipe) (d : BitVec 7) (w : BitVec 1) (r : Word × BitVec 8) (t : Thread) : Thread :=
  addFlags r.2 (result32 iss p d w r.1 t)

/-- Two sources. -/
def laneF2 (d a b : BitVec 7) (w : BitVec 1) (f : Rounding → Word → Word → Word × BitVec 8) (s : State) (iss : Issue)
    (t : Thread) : Except LaneEnd Thread :=
  match src32 s iss t a with
  | .error e => .error e
  | .ok (x, t1) =>
    match src32 s iss t1 b with
    | .error e => .error e
    | .ok (y, t2) => .ok (resultF iss .ab d w (f (laneRounding t) x y) t2)

/-- Three sources, D the third (06 R126). -/
def laneF3 (d a b : BitVec 7) (w : BitVec 1) (f : Rounding → Word → Word → Word → Word × BitVec 8) (s : State)
    (iss : Issue) (t : Thread) : Except LaneEnd Thread :=
  match src32 s iss t a with
  | .error e => .error e
  | .ok (x, t1) =>
    match src32 s iss t1 b with
    | .error e => .error e
    | .ok (y, t2) =>
      match src32 s iss t2 d with
      | .error e => .error e
      | .ok (z, t3) => .ok (resultF iss .ab d w (f (laneRounding t) x y z) t3)

/-- One source, on a pipe. -/
def laneF1 (p : Pipe) (d a : BitVec 7) (w : BitVec 1) (f : Rounding → Word → Word × BitVec 8) (s : State) (iss : Issue)
    (t : Thread) : Except LaneEnd Thread :=
  match src32 s iss t a with
  | .error e => .error e
  | .ok (x, t1) => .ok (resultF iss p d w (f (laneRounding t) x) t1)

/-- IMM8 widened to a format (03 R64): exact, with no flag, and in both halves of a packed type. -/
def immCode (f : Fmt) (i : BitVec 8) : Nat := (f.deliver .rne (fmtE4m3.decode i.toNat)).1

def immPair (f : Fmt) (i : BitVec 8) : Word := BitVec.ofNat 32 (immCode f i * (1 + 2 ^ 16))

/-- The NaN-free form of a two-operand operation. -/
def op2 (f : Nat → Nat → Nat × BitVec 8) : Op := fun x y _ => f x y

/-! ### Compares -/

/-- `fcmp` (08 R168). -/
def laneFcmp (pair : Bool) (k : BitVec 4) (p : BitVec 3) (a b : BitVec 7) (w : BitVec 1) (s : State) (iss : Issue)
    (t : Thread) : Except LaneEnd Thread :=
  match src32 s iss t a with
  | .error e => .error e
  | .ok (x, t1) =>
    match src32 s iss t1 b with
    | .error e => .error e
    | .ok (y, t2) =>
      let r := fCompare k x.toNat y.toNat
      .ok (addFlags r.2
        (if pair then resultPair iss .ab p.toNat w r.1 t2 else resultPred iss .ab p.toNat w r.1 t2))

/-! ### Conversions (08 R171 to R174) -/

/-- One step of the generator: xor with a right shift, times a constant, modulo 2^64. -/
def mixStep (z sh k : Nat) : Nat := Nat.xor z (z / 2 ^ sh) * k % 2 ^ 64

/-- `sto_draw` (08 R174). -/
def stoDraw (seed c x thread w e : Nat) : Nat :=
  let v0 := c % 2 ^ 32 * 2 ^ 32 + x
  let v1 := thread * 8 + w * 2 + e
  let z0 := (Nat.xor seed v0 + 0x9E3779B97F4A7C15 * (v1 + 1)) % 2 ^ 64
  let z2 := mixStep (mixStep z0 30 0xBF58476D1CE4E5B9) 27 0x94D049BB133111EB
  Nat.xor z2 (z2 / 2 ^ 31) % 2 ^ 16

/-- The rounding that RND names, for one element of a lane (06 Table 6-11). -/
def rndOf (s : State) (iss : Issue) (t : Thread) (r : BitVec 3) (x e : Nat) : Rounding :=
  match r.toNat with
  | 0 => .rne
  | 1 => .rz
  | 2 => .ru
  | 3 => .rd
  | _ => .sto (stoDraw (launchOf s t.launch).stoseed.toNat (packetAddr iss.packet) x t.thread iss.pos e)

/-- The exact widening of a narrow code: NaNs become canonical, and only a signalling one sets NV (08 R172). -/
def widen (f : Fmt) (x : Nat) : Nat × BitVec 8 := fmtF32.deliver .rne (f.decode x)

/-- A conversion from one format to another. -/
def narrow (f g : Fmt) (r : Rounding) (x : Nat) : Nat × BitVec 8 := g.deliver r (f.decode x)

/-- A packed conversion, each half with its own rounding. -/
def narrowPair (f g : Fmt) (r : Nat → Nat → Rounding) (x : Word) : Nat × BitVec 8 :=
  let lo := narrow f g (r (half x 0) 0) (half x 0)
  let hi := narrow f g (r (half x 1) 1) (half x 1)
  (lo.1 + 2 ^ 16 * hi.1, lo.2 ||| hi.2)

/-- A conversion to an integer, as its word. -/
def toWord (r : Rounding) (lo hi : Int) (x : Nat) : Nat × BitVec 8 :=
  let v := toInteger r lo hi (fmtF32.decode x)
  (wrapInt 32 v.1, v.2)

/-- `fcvt` of a source word (06 Table 6-11): the result word and flags; `r` gives an element's rounding. -/
def convert (k : Nat) (r : Nat → Nat → Rounding) (a : Word) : Nat × BitVec 8 :=
  let x := a.toNat
  let one := r x 0
  match k with
  | 0 => narrow fmtF32 fmtBf16 one x
  | 1 => narrow fmtF32 fmtF16 one x
  | 2 => widen fmtBf16 (x % 2 ^ 16)
  | 3 => widen fmtF16 (x % 2 ^ 16)
  | 4 => narrow fmtF32 fmtE4m3 one x
  | 5 => narrow fmtF32 fmtE5m2 one x
  | 6 => widen fmtE4m3 (x % 2 ^ 8)
  | 7 => widen fmtE5m2 (x % 2 ^ 8)
  | 8 => narrow fmtF32 fmtE2m1 one x
  | 9 => widen fmtE2m1 (x % 2 ^ 4)
  | 10 => toWord one (-2 ^ 31) (2 ^ 31 - 1) x
  | 11 => toWord one 0 (2 ^ 32 - 1) x
  | 12 => fmtF32.deliver one (ofInteger a.toInt)
  | 13 => fmtF32.deliver one (ofInteger x)
  | 14 => narrowPair fmtBf16 fmtF16 r a
  | _ => narrowPair fmtF16 fmtBf16 r a

def laneFcvt (d a : BitVec 7) (k : BitVec 5) (r : BitVec 3) (s : State) (iss : Issue) (t : Thread) :
    Except LaneEnd Thread :=
  match src32 s iss t a with
  | .error e => .error e
  | .ok (x, t1) =>
    let y := convert k.toNat (rndOf s iss t r) x
    .ok (resultF iss .ab d 0 (BitVec.ofNat 32 y.1, y.2) t1)

/-- A special function in a lane, its type 0 FP32, 1 BF16, 2 FP16 (08 R169). -/
def laneSpecial (k : Special) (d a : BitVec 7) (ty : BitVec 2) (s : State) (iss : Issue) (t : Thread) :
    Except LaneEnd Thread :=
  laneF1 .s d a 0 (fun _ x =>
    match ty.toNat with
    | 0 => single (fun u _ _ => specialCode fmtF32 k u) x 0 0
    | 1 => packed (fun u _ _ => specialCode fmtBf16 k u) x 0 0
    | _ => packed (fun u _ _ => specialCode fmtF16 k u) x 0 0) s iss t

/-! ### The instructions -/

/-- R164: `fadd.f32`. -/
def execFaddF32 (g : BitVec 2) (d a b : BitVec 7) (w : BitVec 1) (s : State) : Out :=
  laneWord g (laneF2 d a b w fun r x y => single (op2 (fAdd fmtF32 r)) x y 0) s

/-- R164: `fadd.bf16x2`. -/
def execFaddBf16x2 (g : BitVec 2) (d a b : BitVec 7) (w : BitVec 1) (s : State) : Out :=
  laneWord g (laneF2 d a b w fun r x y => packed (op2 (fAdd fmtBf16 r)) x y 0) s

/-- R164: `fadd.f16x2`. -/
def execFaddF16x2 (g : BitVec 2) (d a b : BitVec 7) (w : BitVec 1) (s : State) : Out :=
  laneWord g (laneF2 d a b w fun r x y => packed (op2 (fAdd fmtF16 r)) x y 0) s

/-- R164: `fsub.f32`. -/
def execFsubF32 (g : BitVec 2) (d a b : BitVec 7) (w : BitVec 1) (s : State) : Out :=
  laneWord g (laneF2 d a b w fun r x y => single (op2 (fSub fmtF32 r)) x y 0) s

/-- R164: `fsub.bf16x2`. -/
def execFsubBf16x2 (g : BitVec 2) (d a b : BitVec 7) (w : BitVec 1) (s : State) : Out :=
  laneWord g (laneF2 d a b w fun r x y => packed (op2 (fSub fmtBf16 r)) x y 0) s

/-- R164: `fsub.f16x2`. -/
def execFsubF16x2 (g : BitVec 2) (d a b : BitVec 7) (w : BitVec 1) (s : State) : Out :=
  laneWord g (laneF2 d a b w fun r x y => packed (op2 (fSub fmtF16 r)) x y 0) s

/-- R164: `fmul.f32`. -/
def execFmulF32 (g : BitVec 2) (d a b : BitVec 7) (w : BitVec 1) (s : State) : Out :=
  laneWord g (laneF2 d a b w fun r x y => single (op2 (fMul fmtF32 r)) x y 0) s

/-- R164: `fmul.bf16x2`. -/
def execFmulBf16x2 (g : BitVec 2) (d a b : BitVec 7) (w : BitVec 1) (s : State) : Out :=
  laneWord g (laneF2 d a b w fun r x y => packed (op2 (fMul fmtBf16 r)) x y 0) s

/-- R164: `fmul.f16x2`. -/
def execFmulF16x2 (g : BitVec 2) (d a b : BitVec 7) (w : BitVec 1) (s : State) : Out :=
  laneWord g (laneF2 d a b w fun r x y => packed (op2 (fMul fmtF16 r)) x y 0) s

/-- R164: `ffma.f32`. -/
def execFfmaF32 (g : BitVec 2) (d a b : BitVec 7) (w : BitVec 1) (s : State) : Out :=
  laneWord g (laneF3 d a b w fun r x y z => single (fFma fmtF32 r) x y z) s

/-- R164: `ffma.bf16x2`. -/
def execFfmaBf16x2 (g : BitVec 2) (d a b : BitVec 7) (w : BitVec 1) (s : State) : Out :=
  laneWord g (laneF3 d a b w fun r x y z => packed (fFma fmtBf16 r) x y z) s

/-- R164: `ffma.f16x2`. -/
def execFfmaF16x2 (g : BitVec 2) (d a b : BitVec 7) (w : BitVec 1) (s : State) : Out :=
  laneWord g (laneF3 d a b w fun r x y z => packed (fFma fmtF16 r) x y z) s

/-- R166: `fmin.f32`. -/
def execFminF32 (g : BitVec 2) (d a b : BitVec 7) (w : BitVec 1) (s : State) : Out :=
  laneWord g (laneF2 d a b w fun _ x y => single (op2 (fPick fmtF32 true)) x y 0) s

/-- R166: `fmin.bf16x2`. -/
def execFminBf16x2 (g : BitVec 2) (d a b : BitVec 7) (w : BitVec 1) (s : State) : Out :=
  laneWord g (laneF2 d a b w fun _ x y => packed (op2 (fPick fmtBf16 true)) x y 0) s

/-- R166: `fmin.f16x2`. -/
def execFminF16x2 (g : BitVec 2) (d a b : BitVec 7) (w : BitVec 1) (s : State) : Out :=
  laneWord g (laneF2 d a b w fun _ x y => packed (op2 (fPick fmtF16 true)) x y 0) s

/-- R166: `fmax.f32`. -/
def execFmaxF32 (g : BitVec 2) (d a b : BitVec 7) (w : BitVec 1) (s : State) : Out :=
  laneWord g (laneF2 d a b w fun _ x y => single (op2 (fPick fmtF32 false)) x y 0) s

/-- R166: `fmax.bf16x2`. -/
def execFmaxBf16x2 (g : BitVec 2) (d a b : BitVec 7) (w : BitVec 1) (s : State) : Out :=
  laneWord g (laneF2 d a b w fun _ x y => packed (op2 (fPick fmtBf16 false)) x y 0) s

/-- R166: `fmax.f16x2`. -/
def execFmaxF16x2 (g : BitVec 2) (d a b : BitVec 7) (w : BitVec 1) (s : State) : Out :=
  laneWord g (laneF2 d a b w fun _ x y => packed (op2 (fPick fmtF16 false)) x y 0) s

/-- R167: `fneg.f32`. -/
def execFnegF32 (g : BitVec 2) (d a : BitVec 7) (w : BitVec 1) (s : State) : Out :=
  laneWord g (lane1 d a w fun x => x ^^^ 0x80000000) s

/-- R167: `fneg.x2`. -/
def execFnegX2 (g : BitVec 2) (d a : BitVec 7) (w : BitVec 1) (s : State) : Out :=
  laneWord g (lane1 d a w fun x => x ^^^ 0x80008000) s

/-- R167: `fabs.f32`. -/
def execFabsF32 (g : BitVec 2) (d a : BitVec 7) (w : BitVec 1) (s : State) : Out :=
  laneWord g (lane1 d a w fun x => x &&& 0x7FFFFFFF) s

/-- R167: `fabs.x2`. -/
def execFabsX2 (g : BitVec 2) (d a : BitVec 7) (w : BitVec 1) (s : State) : Out :=
  laneWord g (lane1 d a w fun x => x &&& 0x7FFF7FFF) s

/-- R164: `faddi.f32`. -/
def execFaddiF32 (g : BitVec 2) (d a : BitVec 7) (i : BitVec 8) (s : State) : Out :=
  laneWord g (laneF1 .ab d a 0 fun r x => single (op2 (fAdd fmtF32 r)) x (BitVec.ofNat 32 (immCode fmtF32 i)) 0) s

/-- R164: `faddi.bf16x2`. -/
def execFaddiBf16x2 (g : BitVec 2) (d a : BitVec 7) (i : BitVec 8) (s : State) : Out :=
  laneWord g (laneF1 .ab d a 0 fun r x => packed (op2 (fAdd fmtBf16 r)) x (immPair fmtBf16 i) 0) s

/-- R164: `faddi.f16x2`. -/
def execFaddiF16x2 (g : BitVec 2) (d a : BitVec 7) (i : BitVec 8) (s : State) : Out :=
  laneWord g (laneF1 .ab d a 0 fun r x => packed (op2 (fAdd fmtF16 r)) x (immPair fmtF16 i) 0) s

/-- R164: `fmuli.f32`. -/
def execFmuliF32 (g : BitVec 2) (d a : BitVec 7) (i : BitVec 8) (s : State) : Out :=
  laneWord g (laneF1 .ab d a 0 fun r x => single (op2 (fMul fmtF32 r)) x (BitVec.ofNat 32 (immCode fmtF32 i)) 0) s

/-- R164: `fmuli.bf16x2`. -/
def execFmuliBf16x2 (g : BitVec 2) (d a : BitVec 7) (i : BitVec 8) (s : State) : Out :=
  laneWord g (laneF1 .ab d a 0 fun r x => packed (op2 (fMul fmtBf16 r)) x (immPair fmtBf16 i) 0) s

/-- R164: `fmuli.f16x2`. -/
def execFmuliF16x2 (g : BitVec 2) (d a : BitVec 7) (i : BitVec 8) (s : State) : Out :=
  laneWord g (laneF1 .ab d a 0 fun r x => packed (op2 (fMul fmtF16 r)) x (immPair fmtF16 i) 0) s

/-- R168: `fcmp`. -/
def execFcmp (g : BitVec 2) (k : BitVec 4) (p : BitVec 3) (a b : BitVec 7) (w : BitVec 1) (s : State) : Out :=
  laneWord g (laneFcmp false k p a b w) s

/-- R168: `fcmp.pair`. -/
def execFcmpPair (g : BitVec 2) (k : BitVec 4) (p : BitVec 3) (a b : BitVec 7) (w : BitVec 1) (s : State) : Out :=
  laneWord g (laneFcmp true k p a b w) s

/-- R175: `qtsh`. -/
def execQtsh (g : BitVec 2) (d a b : BitVec 7) (w : BitVec 1) (s : State) : Out :=
  laneWord g (laneF2 d a b w fun _ x y => (BitVec.ofNat 32 (qtshWord x y).1, (qtshWord x y).2)) s

/-- R171: `fcvt`. -/
def execFcvt (g : BitVec 2) (d a : BitVec 7) (k : BitVec 5) (r : BitVec 3) (s : State) : Out :=
  laneWord g (laneFcvt d a k r) s

/-- R170: `frcp`. -/
def execFrcp (g : BitVec 2) (d a : BitVec 7) (t : BitVec 2) (s : State) : Out := laneWord g (laneSpecial .rcp d a t) s

/-- R170: `frsq`. -/
def execFrsq (g : BitVec 2) (d a : BitVec 7) (t : BitVec 2) (s : State) : Out := laneWord g (laneSpecial .rsq d a t) s

/-- R170: `fsqrt`. -/
def execFsqrt (g : BitVec 2) (d a : BitVec 7) (t : BitVec 2) (s : State) : Out := laneWord g (laneSpecial .sqrt d a t) s

/-- R170: `fexp2`. -/
def execFexp2 (g : BitVec 2) (d a : BitVec 7) (t : BitVec 2) (s : State) : Out := laneWord g (laneSpecial .exp2 d a t) s

/-- R170: `flog2`. -/
def execFlog2 (g : BitVec 2) (d a : BitVec 7) (t : BitVec 2) (s : State) : Out := laneWord g (laneSpecial .log2 d a t) s

/-- R170: `fsin`. -/
def execFsin (g : BitVec 2) (d a : BitVec 7) (t : BitVec 2) (s : State) : Out := laneWord g (laneSpecial .sin d a t) s

/-- R170: `fcos`. -/
def execFcos (g : BitVec 2) (d a : BitVec 7) (t : BitVec 2) (s : State) : Out := laneWord g (laneSpecial .cos d a t) s

/-- R170: `ftanh`. -/
def execFtanh (g : BitVec 2) (d a : BitVec 7) (t : BitVec 2) (s : State) : Out := laneWord g (laneSpecial .tanh d a t) s

end Sys2Proof.Machine
end

