-- ==== Sys2Proof/Machine/Lane.lean ====
section
/-! DEFINITION. Lane operations (08 R176 to R179). -/

namespace Sys2Proof.Machine

open Sys2Proof (Byte Word DWord Instr)

/-- The values of `a` in the active lanes, with their lane numbers, in lane order (08 R176). A lane whose operand
cannot be read supplies none (log 31). -/
def laneValues (g : BitVec 2) (a : BitVec 7) (s : State) (iss : Issue) : List (Nat × Word) :=
  (activeThreads s iss g).filterMap fun t =>
    match src32 s iss t a with
    | .ok r => some (laneNo iss t, r.1)
    | .error _ => none

/-- The lane numbers of the active lanes whose predicate is 1, of all active lanes (08 R178). -/
def lanePreds (g : BitVec 2) (q : BitVec 3) (s : State) (iss : Issue) : List (Nat × Bool) :=
  (activeThreads s iss g).map fun t => (laneNo iss t, predBit (oldPred t) q.toNat)

/-- The four exchanges. -/
inductive Exchange where
  | at | below | above | mirror
  deriving DecidableEq, Repr

/-- The source lane of lane `l` (08 R177): none outside 0 to 31. -/
def exchangeSource (k : Exchange) (l n : Nat) : Option Nat :=
  match k with
  | .at => some n
  | .below => if n ≤ l then some (l - n) else none
  | .above => if l + n ≤ 31 then some (l + n) else none
  | .mirror => some (Nat.xor l n)

/-- What lane `l` receives, its own value being `own`. -/
def exchange (k : Exchange) (vals : List (Nat × Word)) (l : Nat) (own b : Word) : Word :=
  match (exchangeSource k l (b.toNat % 32)).bind fun j => vals.find? fun x => decide (x.1 = j) with
  | some v => v.2
  | none => if b.getLsbD 5 then 0 else own

/-- A lane exchange. -/
def laneLx (k : Exchange) (g : BitVec 2) (d a b : BitVec 7) (w : BitVec 1) (s : State) (iss : Issue) (t : Thread) :
    Except LaneEnd Thread :=
  match src32 s iss t a with
  | .error e => .error e
  | .ok (x, t1) =>
    match src32 s iss t1 b with
    | .error e => .error e
    | .ok (y, t2) => .ok (result32 iss .s d w (exchange k (laneValues g a s iss) (laneNo iss t) x y) t2)

/-- A predicate that every active lane receives, or that depends on the lane's number. -/
def laneShared (p : BitVec 3) (f : State → Issue → Nat → Bool) (s : State) (iss : Issue) (t : Thread) :
    Except LaneEnd Thread :=
  .ok (resultPred iss .s p.toNat 0 (f s iss (laneNo iss t)) t)

/-- A reduction over the active lanes' values. -/
def laneReduce (g : BitVec 2) (d a : BitVec 7) (f : List Word → Word) (s : State) (iss : Issue) (t : Thread) :
    Except LaneEnd Thread :=
  match src32 s iss t a with
  | .error e => .error e
  | .ok (_, t1) => .ok (result32 iss .s d 0 (f ((laneValues g a s iss).map (·.2))) t1)

/-- The extreme of a list under a choice of two. -/
def extreme (f : Word → Word → Word) : List Word → Word
  | [] => 0
  | x :: xs => xs.foldl f x

/-- Sum modulo 2^32. -/
def sumWords (l : List Word) : Word := l.foldl (· + ·) 0

/-- The mask of a list of lanes. -/
def laneMask (l : List Nat) : Word := l.foldl (fun m i => m ||| BitVec.ofNat 32 (2 ^ i)) 0

/-- `cdet` of lane `l` with value `v` (08 R179). -/
def conflicts (vals : List (Nat × Word)) (l : Nat) (v : Word) : DWord :=
  let same := vals.filter fun x => x.2 == v
  let below := (same.filter fun x => decide (x.1 < l)).map (·.1)
  let last := if same.any fun x => decide (l < x.1) then 0 else 1
  BitVec.ofNat 64 ((laneMask below).toNat + last * 2 ^ 32 + below.length * 2 ^ 33)

def laneCdet (g : BitVec 2) (d a : BitVec 7) (s : State) (iss : Issue) (t : Thread) : Except LaneEnd Thread :=
  match src32 s iss t a with
  | .error e => .error e
  | .ok (x, t1) => .ok (result64 iss .s d 0 (conflicts (laneValues g a s iss) (laneNo iss t) x) t1)

/-- R177: `lx.at`. -/
def execLxAt (g : BitVec 2) (d a b : BitVec 7) (w : BitVec 1) (s : State) : Out := laneWord g (laneLx .at g d a b w) s

/-- R177: `lx.below`. -/
def execLxBelow (g : BitVec 2) (d a b : BitVec 7) (w : BitVec 1) (s : State) : Out :=
  laneWord g (laneLx .below g d a b w) s

/-- R177: `lx.above`. -/
def execLxAbove (g : BitVec 2) (d a b : BitVec 7) (w : BitVec 1) (s : State) : Out :=
  laneWord g (laneLx .above g d a b w) s

/-- R177: `lx.mirror`. -/
def execLxMirror (g : BitVec 2) (d a b : BitVec 7) (w : BitVec 1) (s : State) : Out :=
  laneWord g (laneLx .mirror g d a b w) s

/-- R178: `lany`. -/
def execLany (g : BitVec 2) (p q : BitVec 3) (s : State) : Out :=
  laneWord g (laneShared p fun s iss _ => (lanePreds g q s iss).any (·.2)) s

/-- R178: `lall`. -/
def execLall (g : BitVec 2) (p q : BitVec 3) (s : State) : Out :=
  laneWord g (laneShared p fun s iss _ => (lanePreds g q s iss).all (·.2)) s

/-- R178: `lmask`. -/
def execLmask (g : BitVec 2) (d : BitVec 7) (q : BitVec 3) (s : State) : Out :=
  laneWord g (fun s iss t =>
    .ok (result32 iss .s d 0 (laneMask (((lanePreds g q s iss).filter (·.2)).map (·.1))) t)) s

/-- R178: `lsum`. -/
def execLsum (g : BitVec 2) (d a : BitVec 7) (s : State) : Out := laneWord g (laneReduce g d a sumWords) s

/-- R178: `lmin.s32`. -/
def execLminS32 (g : BitVec 2) (d a : BitVec 7) (s : State) : Out := laneWord g (laneReduce g d a (extreme minS)) s

/-- R178: `lmin.n32`. -/
def execLminN32 (g : BitVec 2) (d a : BitVec 7) (s : State) : Out := laneWord g (laneReduce g d a (extreme minN)) s

/-- R178: `lmax.s32`. -/
def execLmaxS32 (g : BitVec 2) (d a : BitVec 7) (s : State) : Out := laneWord g (laneReduce g d a (extreme maxS)) s

/-- R178: `lmax.n32`. -/
def execLmaxN32 (g : BitVec 2) (d a : BitVec 7) (s : State) : Out := laneWord g (laneReduce g d a (extreme maxN)) s

/-- R179: `cdet`. -/
def execCdet (g : BitVec 2) (d a : BitVec 7) (s : State) : Out := laneWord g (laneCdet g d a) s

/-- R178: `lfirst`. -/
def execLfirst (g : BitVec 2) (p : BitVec 3) (s : State) : Out :=
  laneWord g (laneShared p fun s iss l => ((lanePreds g 0 s iss).head?.map (·.1)) == some l) s

end Sys2Proof.Machine
end

