-- ==== Sys2Proof/Machine/Memory.lean ====
section
/-! DEFINITION. Loads, stores, continuation loads, acquires and releases, `fence`, `pfd` and `claim` (09 R180 to R192). -/

namespace Sys2Proof.Machine

open Sys2Proof (Byte Word DWord Instr)

/-! ### Pointers, and passes counted -/

/-- The effective pointer of an M form (06 R129): a + sext(OFF5) × size, modulo 2^64 (04 R74). -/
def effective (s : State) (iss : Issue) (t : Thread) (a : BitVec 7) (o : BitVec 5) (unit : Nat) : DWord :=
  src64 s iss t a + BitVec.ofInt 64 (o.toInt * unit)

/-- The cell-store accesses of the live lanes of a word, by lane number; not of one that its run has made before. -/
def cellLanes (k : AccessClass) (size : Nat) (g : BitVec 2) (ptr : State → Issue → Thread → DWord) (s : State)
    (iss : Issue) : List (Nat × List Nat) :=
  (liveThreads s iss g).filterMap fun t =>
    match decodePointer s (accessorOf s t) k (ptr s iss t) size size with
    | .ok tg => if t.posted = some iss.pos then none else (cellWords size tg).map fun w => (laneNo iss t, w)
    | .error _ => none

/-- REPLAY counted at issue (13 R267). -/
def countReplay (k : AccessClass) (atomic : Bool) (size : Nat) (g : BitVec 2) (ptr : State → Issue → Thread → DWord)
    (s : State) : State :=
  match s.issue with
  | none => s
  | some iss => count iss.core 0x0200 (replayPasses atomic size (cellLanes k size g ptr s iss)) s

/-! ### Loads -/

/-- Extension of the bytes of a load to its destination's width. -/
def extend (signed : Bool) (n v : Nat) : Nat := if signed then wrapInt 32 (sextInt (8 * n) v) else v

/-- The value of a load on its way to `words` registers from x(d), and to L2 (09 R180). -/
def pushLoad (iss : Issue) (d words v : Nat) (t : Thread) : Thread :=
  let w := wordsOf v words
  { t with loads := t.loads ++ [{ writes := ((List.range words).map (· + d)).zip w,
                                  latch := some ⟨BitVec.ofNat 32 v, groupLanes iss⟩ }] }

/-- The load just made reads this package's memory at a location. -/
def markFrom (g : Target) (loc n : Nat) (t : Thread) : Thread :=
  match g, t.loads.getLast? with
  | .window _, _ => t
  | _, none => t
  | _, some p => { t with loads := t.loads.dropLast ++ [{ p with loc := some (loc, n) }] }

/-- The load just made is the result of a release atomic, which acknowledges it (05 R118). -/
def markAcks (acks : Bool) (t : Thread) : Thread :=
  match t.loads.getLast? with
  | some p => { t with loads := t.loads.dropLast ++ [{ p with acks := acks }] }
  | none => t

/-- A loaded value for its destination: a stream appends it after the run (09 R182). -/
def loadTo (iss : Issue) (d : BitVec 7) (n v : Nat) (t : Thread) : Thread :=
  if isStream d then pushLoad iss 0 0 v (addAppend iss.pos (d.toNat - 68) (BitVec.ofNat 32 v) t)
  else pushLoad iss d.toNat ((n + 3) / 4) v t

/-! ### Reads that are answered from elsewhere -/

/-- A request of the publication class: an atomic, a release store, a reduction, a signal (23 R361). -/
def isPublished : RenharKind → Bool
  | .read _ _ => false
  | .acquire _ _ => false
  | .translate _ _ _ => false
  | .postedWrite _ _ => false
  | _ => true

/-- Two lanes' requests are atomics of one run on one word, which its home performs one after another in lane order (09
R188). -/
def oneWord (r q : RemoteRead) : Bool :=
  decide (r.peer.isSome = true ∧ r.loc = q.loc ∧ r.lanes = q.lanes) && isPublished r.kind && isPublished q.kind

/-- A lane whose atomic on a peer's word is to be sent, or performed, before another's. -/
def precedes (t : Thread) (r : RemoteRead) (u : Thread) : Bool :=
  decide (u.launch = t.launch) && decide (u.thread < t.thread)
    && (match u.remoteLoad with | some (.wanted q) => oneWord r q | _ => false)

/-- A lane's read on its way: over the Felt to the F-die that leads to the peer, or to the host port, if there is room; the
request to another die of the package goes when its response can come, too. -/
def sendRemote (s : State) (t : Thread) (r : RemoteRead) : State :=
  let t1 := { t with remoteLoad := some (.sent r none) }
  match r.peer with
  | some p =>
    if feltReady s (dieOfCore t.core) (fdieOf s t.launch) && !s.threads.any (precedes t r) then
      putThread (peerSend s t (isPublished r.kind) p r.va r.kind) t1
    else s
  | none =>
    if isHostLoc r.loc then
      match message s (dieOfCore t.core) 0 false t.efftag with
      | some s1 => putThread (portRead s1 r.wpa r.size) t1
      | none => s
    else putThread s t1

/-- The reads that the lanes of a run have left to be sent. -/
def postRemote (s : State) (t : Thread) : State :=
  match t.remoteLoad with
  | some (.wanted r) => sendRemote s t r
  | _ => s

/-! ### Plain loads -/

/-- A plain load in one lane: of what is at hand, of data to be fetched, or of what a peer or the host answers. -/
def laneLoad (n : Nat) (signed : Bool) (d a : BitVec 7) (o : BitVec 5) (s : State) (iss : Issue) (t : Thread) :
    Except LaneEnd Thread :=
  match access s t .load (effective s iss t a o n) n .read .plain with
  | .error e => .error e
  | .ok (g, loc) =>
    let v := extend signed n (loadValue s t g loc n)
    match (remoteRead s t g loc n (fun va => .read va n) false).filter fun _ => !isHeld s t.core loc n with
    | some r => (remoteAnswer t r).map fun _ => loadTo iss d n v t
    | none => if canFetch s t g loc n then .ok (markFrom g loc n (loadTo iss d n v t)) else .error (.wait .data)

/-- A plain load of the group (09 R182, R183). -/
def loadBody (n : Nat) (signed : Bool) (g : BitVec 2) (d a : BitVec 7) (o : BitVec 5) (s : State) : State :=
  mapLanes g (laneLoad n signed d a o) (countReplay .load false n g (fun s iss t => effective s iss t a o n) s)

/-- An acquire reads its location at its home or in bytes that its die owns (05 R113): the request goes there, and the
response brings the home's clock (23 R361). None where the request cannot be delivered yet. -/
def acquireTrip (s : State) (t : Thread) (g : Target) (loc n : Nat) : Option State :=
  match g with
  | .window _ => some s
  | .peer _ _ => some s
  | _ =>
    if eachByte (ownsByte s (dieOfCore t.core)) loc n then some s
    else roundTrip s (dieOfCore t.core) (targetDie s t g loc) false true t.efftag

/-- An acquire load in one lane: its checks, its wait, the self-invalidation of the caches (09 R184, 05 R113, R114). -/
def laneAcquire (n : Nat) (d a : BitVec 7) (o : BitVec 5) (s : State) (iss : Issue) (t : Thread) :
    Except LaneEnd State :=
  match access s t .sync (effective s iss t a o n) n .read .atomic with
  | .error e => .error e
  | .ok (g, loc) =>
    if !acquireReady t then .error (.wait .sync)
    else
      match remoteRead s t g loc n (fun va => .acquire va n) true with
      | some r =>
        match remoteAnswer t r with
        | .error e => .error e
        | .ok _ => .ok (putThread (selfInvalidate s t.core) (loadTo iss d n (acquireValue s t g loc n) t))
      | none =>
        match acquireTrip s t g loc n with
        | none => .error (.wait .queue)
        | some s1 => .ok (putThread (selfInvalidate s1 t.core) (loadTo iss d n (acquireValue s t g loc n) t))

def acquireBody (n : Nat) (g : BitVec 2) (d a : BitVec 7) (o : BitVec 5) (s : State) : State :=
  foldLanes g (laneAcquire n d a o) (countReplay .sync false n g (fun s iss t => effective s iss t a o n) s)

/-! ### Stores -/

/-- The data of a store, from a source of its width (09 R182). -/
def storeData (n : Nat) (d : BitVec 7) (s : State) (iss : Issue) (t : Thread) : Except LaneEnd (Nat × Thread) :=
  if n = 16 then .ok (src128 s iss t d, t)
  else if n = 8 then .ok ((src64 s iss t d).toNat, t)
  else
    match src32 s iss t d with
    | .error e => .error e
    | .ok (v, t1) => .ok (v.toNat % 2 ^ (8 * n), t1)

/-- The word is the one that its run has made already, while it waits at a later one. -/
def isMade (iss : Issue) (t : Thread) : Bool := decide (t.posted = some iss.pos)

/-- A plain store in one lane; not again where the run has posted it and has waited since (05 R113). -/
def laneStore (n : Nat) (d a : BitVec 7) (o : BitVec 5) (s : State) (iss : Issue) (t : Thread) : Except LaneEnd State :=
  match storeData n d s iss t with
  | .error e => .error e
  | .ok (v, t1) => if isMade iss t then .ok (putThread s t1) else threadStore s t1 (effective s iss t a o n) n v

def storeBody (n : Nat) (g : BitVec 2) (d a : BitVec 7) (o : BitVec 5) (s : State) : State :=
  foldLanes g (laneStore n d a o) (countReplay .store false n g (fun s iss t => effective s iss t a o n) (readFirst g d s))

/-- The thread with a release of its own under way, which acquires and, without causal delivery, releases wait for. -/
def releaseSent (release : Bool) (t : Thread) : Thread := { t with relUnack := if release then t.relUnack + 1 else t.relUnack }

/-- The thread with a relaxed reduction of its own on its way to another die, which fences and, without causal delivery,
releases wait for (05 R106, R107; log 91). -/
def relaxedSent (release : Bool) (t : Thread) : Thread := { t with dieUnack := if release then t.dieUnack else t.dieUnack + 1 }

/-- A write sent to its home (05 R110): performed at once (`apply`) on the own die, in gang-local memory and in the
stand-in of a peer's memory; on another die when the packet that carries it (`body`) is delivered (23 R361, R362:
publication class). `release` says whether acquires wait for it; `posted` whether a peer's acknowledgement counts in
PEERACK. -/
def homeSend (s : State) (t : Thread) (g : Target) (loc n : Nat) (release posted : Bool) (kind : Nat → RenharKind)
    (body : FeltBody) (apply : State → State) : State :=
  let t1 := releaseSent release t
  match g with
  | .peer p va =>
    let s1 := apply (dropWords s t.core loc n)
    putThread (peerSend s1 t true p va (kind va)) { t1 with peerAck := if posted then t.peerAck + 1 else t.peerAck }
  | .cell _ false => putThread (apply s) t
  | _ =>
    let die := targetDie s t g loc
    let s1 := disownOthers (dropWords s t.core loc n) (dieOfCore t.core) loc n
    if die = dieOfCore t.core then putThread (apply s1) t1
    else putThread (threadPost s1 t die true body (some (if release then .release else .otherDie))) (relaxedSent release t1)

/-- A number written at its home: a release store, an addition. -/
def homeWrite (s : State) (t : Thread) (g : Target) (loc n v : Nat) (release posted : Bool) (kind : Nat → RenharKind) :
    State :=
  homeSend s t g loc n release posted kind (.write loc n v) fun x => homePut x (dieOfCore t.core) loc n v

/-- The bytes of a Renhar write. -/
def writeKind (n v : Nat) (va : Nat) : RenharKind := .releaseWrite va ((List.range n).zip (bytesOfNat v n))

/-- A release store in one lane (09 R184); not again where the run has made it and has waited since. -/
def laneRelease (n : Nat) (d a : BitVec 7) (o : BitVec 5) (s : State) (iss : Issue) (t : Thread) :
    Except LaneEnd State :=
  match storeData n d s iss t with
  | .error e => .error e
  | .ok (v, t1) =>
    match homeAccess s t1 .sync (effective s iss t a o n) n .write .atomic with
    | .error e => .error e
    | .ok (g, loc) =>
      if isMade iss t then .ok (putThread s t1)
      else if !releaseReady s t then .error (.wait .sync)
      else if targetPeerf g && !peerRoom t 1 then .error (.wait .queue)
      else if !feltReady s (dieOfCore t.core) (targetDie s t g loc) then .error (.wait .queue)
      else .ok (homeWrite s t1 g loc n v true true (writeKind n v))

def releaseBody (n : Nat) (g : BitVec 2) (d a : BitVec 7) (o : BitVec 5) (s : State) : State :=
  foldLanes g (laneRelease n d a o) (countReplay .sync false n g (fun s iss t => effective s iss t a o n) (readFirst g d s))

/-! ### Continuation loads (09 R185) -/

/-- Every register of an `ldc`'s destination is carried by the descriptor's mask. -/
def carriesAll (m : DWord) (d : BitVec 7) (n : Nat) : Bool :=
  !(isStream d) && (List.range ((n + 3) / 4)).all fun i => m.getLsbD (d.toNat + i)

/-- `ldc` in one lane: its checks, then the end of the segment with the load still to be made. -/
def laneLdc (n : Nat) (signed : Bool) (d a : BitVec 7) (o : BitVec 5) (s : State) (iss : Issue) (t : Thread) :
    Except LaneEnd Thread :=
  match homeAccess s t .ldc (effective s iss t a o n) n .read .plain with
  | .error e => .error e
  | .ok (g, loc) =>
    if carriesAll iss.mask d n then
      .ok { t with ldc := some { loc := loc, size := n, signed := signed, dest := d.toNat, va := targetVa g,
                                 peerf := targetPeerf g, peer := targetPeer g,
                                 wpa := hostPa s t.core t.efftag g, tag := t.efftag },
                   next := .segment .ldcWait (resumePacket iss.packet) iss.mask }
    else .error (.trap .illegalOperand)

/-- The passes of its gang-local access are counted as any load's (09 R181, 04 R88). -/
def ldcBody (n : Nat) (signed : Bool) (g : BitVec 2) (d a : BitVec 7) (o : BitVec 5) (s : State) : State :=
  mapLanes g (laneLdc n signed d a o) (countReplay .ldc false n g (fun s iss t => effective s iss t a o n) s)

def ldcWord (n : Nat) (signed : Bool) (g : BitVec 2) (d a : BitVec 7) (o : BitVec 5) (s : State) : Out :=
  .next (wordRun (ldcBody n signed g d a o) s)

/-! ### Fence, prefetch, claim -/

/-- What a fence learns and passes on, so that it synchronises with accesses of any class (05 R100): what every die knows of
packets sent comes to its own, and from there goes to every other (log 91). -/
def fenceTell (s : State) (t : Thread) : Option State :=
  let d := dieOfCore t.core
  let others := s.felt.live.filter fun k => decide (k ≠ d)
  (tell s t.efftag others [d]).bind fun s1 => tell s1 t.efftag [d] others

/-- `fence` in one lane (09 R190); it self-invalidates as an acquire does (05 R106). -/
def laneFence (s : State) (_iss : Issue) (t : Thread) : Except LaneEnd State :=
  if fenceReady s t then
    match fenceTell s t with
    | some s1 => .ok (selfInvalidate s1 t.core)
    | none => .error (.wait .queue)
  else .error (.wait .sync)

/-- A peer has been asked for a line that a core prefetches. -/
def asksPrefetch (s : State) (core loc : Nat) : Bool :=
  s.renhar.out.any fun o => o.fill.any fun x => decide (x.1 = core) && decide (x.2.2 / 128 = loc / 128)

/-- The line that holds a byte brought into the die's L2, and with `inner` into the core's L1 (09 R191, 11 R236); nothing
where a check, a translation or the way fails, the line is in error or its page on the move, or the pointer is of cell space,
which R191 does not serve. A peer's line comes with the peer's response. -/
def prefetchAt (inner : Bool) (t : Thread) (s : State) (p : DWord) : State :=
  match decodePointer s (accessorOf s t) .load p 1 1 with
  | .error _ => s
  | .ok (.window _) => s
  | .ok g =>
    match locateFor s t.core t.efftag (launchOf s t.launch).ctx g .read .plain 0 with
    | .error _ => s
    | .ok loc =>
      if !cacheable loc || isMoving s loc || isHeld s t.core (loc / 128 * 128) 128
          || readsBad s t.core .plain (loc / 128 * 128) 128 then s
      else
        match g with
        | .peer n va =>
          if asksPrefetch s t.core loc then s
          else
            match message s (dieOfCore t.core) (fdieOf s t.launch) false t.efftag with
            | none => s
            | some s1 => renharAsk s1 (pathOf s (partOfThread s t) t.launch n) 0 0 t.core va (.read (va / 128 * 128) 128)
              (some (t.core, inner, loc))
        | _ =>
          match roundTrip s (dieOfCore t.core) (targetDie s t g loc) false false t.efftag with
          | none => s
          | some s1 => if inner then fillCore s1 t.core (loc / 128) else fillDie s1 (dieOfCore t.core) (loc / 128 * 128)

/-- The lines of `n` bytes from `p` prefetched one after another, each by its first byte in the range, at most so many. -/
def prefetchLines (inner : Bool) (t : Thread) : Nat → DWord → Nat → State → State
  | 0, _, _, s => s
  | _, _, 0, s => s
  | lines + 1, p, n, s =>
    let k := 128 - p.toNat % 128
    prefetchLines inner t lines (p + BitVec.ofNat 64 k) (n - k) (prefetchAt inner t s p)

/-- `pfd` and `cp.pf` in one lane. -/
def lanePrefetch (inner : Bool) (lines : Nat) (a b : BitVec 7) (s : State) (iss : Issue) (t : Thread) : Except LaneEnd State :=
  match src32 s iss t b with
  | .error e => .error e
  | .ok (n, t1) => .ok (prefetchLines inner t1 lines (src64 s iss t a) n.toNat (putThread s t1))

/-- The free frame of a die that a page moves to (log 8): of the partition's ranges there, the first 64 KiB frame
counted down from the top that no move has used and that is neither pool backing nor save area. -/
def freeFrameIn (s : State) (lo : Nat) : Nat → Option Nat
  | 0 => none
  | n + 1 =>
    let f := lo + n
    if s.rehomed.any (fun r => decide (r.2 = f)) || s.moves.any (fun m => m.moving.map (·.1) == some f) || isPoolFrame s (f * 65536)
        || isSaveArea s (f * 65536) then freeFrameIn s lo n
    else some f

/-- Frames of a range (in GiB) that lie on a die: first frame and how many. -/
def framesOn (die : Nat) (r : Nat × Nat) : Nat × Nat :=
  let lo := max (r.1 * 16384) ((die - 1) * 2 ^ 20)
  let hi := min ((r.1 + r.2) * 16384) (die * 2 ^ 20)
  if hi ≤ lo then (0, 0) else (lo, hi - lo)

def freeFrame (s : State) (part die : Nat) : Option Nat :=
  (((partOf s part).getD noPart).hbm.filterMap fun r =>
    let f := framesOn die r
    freeFrameIn s f.1 f.2).head?

/-- One page asked for by `claim` (09 R192): left in place unless it is a 64 KiB page that can move. -/
def claimPage (s : State) (t : Thread) (va : Nat) : State :=
  let die := dieOfCore t.core
  let page := va / 65536
  match decodePointer s (accessorOf s t) .load (BitVec.ofNat 64 va) 1 1 with
  | .error _ => s
  | .ok _ =>
    match lookup s t.core (ctxOf s t.efftag) va with
    | .error _ => s
    | .ok e =>
      let loc := e.pa + (va - e.base)
      if e.size ≠ 65536 ∨ 2 ^ 39 ≤ loc ∨ homeOf s loc = die
          ∨ (leafCheck s (ctxOf s t.efftag).partition e va .read .plain false false).toBool = false then s
      else if s.moves.any fun m => decide (m.tag = t.efftag) && decide (m.page = page) then s
      else if (freeFrame s (partOfThread s t) die).isNone then s
      else { s with moves := s.moves ++ [{ tag := t.efftag, page := page, die := die }] }

/-- Pages from an address, each by its first byte in the range. -/
def claimPages (t : Thread) : Nat → Nat → State → State
  | 0, _, s => s
  | n + 1, va, s => claimPages t n ((va / 65536 + 1) * 65536) (claimPage s t va)

/-- Pages that a range of `n` bytes from `va` covers, at most 1,024. -/
def pageSpan (va n : Nat) : Nat := if n = 0 then 0 else min 1024 ((va + n - 1) / 65536 - va / 65536 + 1)

/-- `claim` in one lane. -/
def laneClaim (a b : BitVec 7) (s : State) (iss : Issue) (t : Thread) : Except LaneEnd State :=
  match src32 s iss t b with
  | .error e => .error e
  | .ok (n, t1) =>
    let p := src64 s iss t a
    if p.toNat / 2 ^ 48 ≠ 0 ∨ (ctxAt s t.efftag).isNone then .ok (putThread s t1)
    else .ok (claimPages t1 (pageSpan p.toNat n.toNat) p.toNat (putThread s t1))

/-! ### The instructions -/

/-- R182: `ld.s8`. -/
def execLdS8 (g : BitVec 2) (d a : BitVec 7) (o : BitVec 5) (s : State) : Out := .next (wordRun (loadBody 1 true g d a o) s)

/-- R182: `ld.n8`. -/
def execLdN8 (g : BitVec 2) (d a : BitVec 7) (o : BitVec 5) (s : State) : Out := .next (wordRun (loadBody 1 false g d a o) s)

/-- R182: `ld.s16`. -/
def execLdS16 (g : BitVec 2) (d a : BitVec 7) (o : BitVec 5) (s : State) : Out := .next (wordRun (loadBody 2 true g d a o) s)

/-- R182: `ld.n16`. -/
def execLdN16 (g : BitVec 2) (d a : BitVec 7) (o : BitVec 5) (s : State) : Out := .next (wordRun (loadBody 2 false g d a o) s)

/-- R182: `ld.b32`. -/
def execLdB32 (g : BitVec 2) (d a : BitVec 7) (o : BitVec 5) (s : State) : Out := .next (wordRun (loadBody 4 false g d a o) s)

/-- R182: `ld.b64`. -/
def execLdB64 (g : BitVec 2) (d a : BitVec 7) (o : BitVec 5) (s : State) : Out := .next (wordRun (loadBody 8 false g d a o) s)

/-- R182: `ld.b128`. -/
def execLdB128 (g : BitVec 2) (d a : BitVec 7) (o : BitVec 5) (s : State) : Out :=
  .next (wordRun (loadBody 16 false g d a o) s)

/-- R182: `st.b8`. -/
def execStB8 (g : BitVec 2) (d a : BitVec 7) (o : BitVec 5) (s : State) : Out := .next (wordRun (storeBody 1 g d a o) s)

/-- R182: `st.b16`. -/
def execStB16 (g : BitVec 2) (d a : BitVec 7) (o : BitVec 5) (s : State) : Out := .next (wordRun (storeBody 2 g d a o) s)

/-- R182: `st.b32`. -/
def execStB32 (g : BitVec 2) (d a : BitVec 7) (o : BitVec 5) (s : State) : Out := .next (wordRun (storeBody 4 g d a o) s)

/-- R182: `st.b64`. -/
def execStB64 (g : BitVec 2) (d a : BitVec 7) (o : BitVec 5) (s : State) : Out := .next (wordRun (storeBody 8 g d a o) s)

/-- R182: `st.b128`. -/
def execStB128 (g : BitVec 2) (d a : BitVec 7) (o : BitVec 5) (s : State) : Out := .next (wordRun (storeBody 16 g d a o) s)

/-- R185: `ldc.s8`. -/
def execLdcS8 (g : BitVec 2) (d a : BitVec 7) (o : BitVec 5) (s : State) : Out := ldcWord 1 true g d a o s

/-- R185: `ldc.n8`. -/
def execLdcN8 (g : BitVec 2) (d a : BitVec 7) (o : BitVec 5) (s : State) : Out := ldcWord 1 false g d a o s

/-- R185: `ldc.s16`. -/
def execLdcS16 (g : BitVec 2) (d a : BitVec 7) (o : BitVec 5) (s : State) : Out := ldcWord 2 true g d a o s

/-- R185: `ldc.n16`. -/
def execLdcN16 (g : BitVec 2) (d a : BitVec 7) (o : BitVec 5) (s : State) : Out := ldcWord 2 false g d a o s

/-- R185: `ldc.b32`. -/
def execLdcB32 (g : BitVec 2) (d a : BitVec 7) (o : BitVec 5) (s : State) : Out := ldcWord 4 false g d a o s

/-- R185: `ldc.b64`. -/
def execLdcB64 (g : BitVec 2) (d a : BitVec 7) (o : BitVec 5) (s : State) : Out := ldcWord 8 false g d a o s

/-- R185: `ldc.b128`. -/
def execLdcB128 (g : BitVec 2) (d a : BitVec 7) (o : BitVec 5) (s : State) : Out := ldcWord 16 false g d a o s

/-- R184: `ld.acq.b32`. -/
def execLdAcqB32 (g : BitVec 2) (d a : BitVec 7) (o : BitVec 5) (s : State) : Out := .next (wordRun (acquireBody 4 g d a o) s)

/-- R184: `ld.acq.b64`. -/
def execLdAcqB64 (g : BitVec 2) (d a : BitVec 7) (o : BitVec 5) (s : State) : Out := .next (wordRun (acquireBody 8 g d a o) s)

/-- R184: `st.rel.b32`. -/
def execStRelB32 (g : BitVec 2) (d a : BitVec 7) (o : BitVec 5) (s : State) : Out := .next (wordRun (releaseBody 4 g d a o) s)

/-- R184: `st.rel.b64`. -/
def execStRelB64 (g : BitVec 2) (d a : BitVec 7) (o : BitVec 5) (s : State) : Out := .next (wordRun (releaseBody 8 g d a o) s)

/-- R190: `fence`. -/
def execFence (g : BitVec 2) (s : State) : Out := foldWord g laneFence s

/-- R191: `pfd` changes no architectural state: it brings lines into the caches. -/
def execPfd (g : BitVec 2) (a b : BitVec 7) (s : State) : Out := foldWord g (lanePrefetch true 64 a b) s

/-- R192: `claim`. -/
def execClaim (g : BitVec 2) (a b : BitVec 7) (s : State) : Out := foldWord g (laneClaim a b) s

end Sys2Proof.Machine
end

