-- ==== Sys2Proof/Machine/Atomic.lean ====
section
/-! DEFINITION. Atomics and reductions (09 R186 to R188). -/

namespace Sys2Proof.Machine

open Sys2Proof (Byte Word DWord Instr)

/-- An element-wise BF16 sum, rounded to nearest, flags dropped. -/
def addBf16x2 (x y : Nat) : Nat :=
  let lo := (fAdd fmtBf16 .rne (x % 2 ^ 16) (y % 2 ^ 16)).1
  let hi := (fAdd fmtBf16 .rne (x / 2 ^ 16) (y / 2 ^ 16)).1
  lo + 2 ^ 16 * hi

/-- The new value of an atomic on `w` bits (09 R187); `cas` writes nothing where it fails. -/
def atomicNew (n : Nat) (w old v cmp : Nat) : Option Nat :=
  match n with
  | 0 => some ((old + v) % 2 ^ w)
  | 1 => some (if sextInt w old ≤ sextInt w v then old else v)
  | 2 => some (if old ≤ v then old else v)
  | 3 => some (if sextInt w v ≤ sextInt w old then old else v)
  | 4 => some (if v ≤ old then old else v)
  | 5 => some (Nat.land old v)
  | 6 => some (Nat.lor old v)
  | 7 => some (Nat.xor old v)
  | 8 => some v
  | 9 => if old = cmp then some v else none
  | 10 => some (fAdd fmtF32 .rne old v).1
  | _ => some (addBf16x2 old v)

/-- ORD has release, and acquire, semantics (06 Table 6-12). -/
def isRelease (o : Nat) : Bool := o == 2 || o == 3

def isAcquire (o : Nat) : Bool := o == 1 || o == 3

/-- Pending entries of the thread that overlap bytes of a location (05 R110). -/
def overlaps (t : Thread) (loc n : Nat) : Bool :=
  t.sbuf.any fun e => decide (e.loc < loc + n) && decide (loc < e.loc + 2 ^ e.size)

/-- Why an atomic waits in issue, if it does. -/
def atomicWait (s : State) (t : Thread) (g : Target) (loc n ord : Nat) (posted : Bool) : Option WaitKind :=
  if isRelease ord && !releaseReady s t then some .sync
  else if isAcquire ord && !acquireReady t then some .sync
  else if overlaps t loc n then some .queue
  else if posted && targetPeerf g && !peerRoom t 1 then some .queue
  else if !feltReady s (dieOfCore t.core) (targetDie s t g loc) then some .queue
  else none

/-- The operands of an atomic: compare value (of `cas`) and data. -/
def atomicData (n : Nat) (wide : Bool) (d : BitVec 7) (s : State) (iss : Issue) (t : Thread) :
    Except LaneEnd (Nat × Nat × Thread) :=
  if n = 9 then
    if wide then
      let q := src128 s iss t d
      .ok (q % 2 ^ 64, q / 2 ^ 64, t)
    else
      let p := (src64 s iss t d).toNat
      .ok (p % 2 ^ 32, p / 2 ^ 32, t)
  else if wide then .ok (0, (src64 s iss t d).toNat, t)
  else
    match src32 s iss t d with
    | .error e => .error e
    | .ok (v, t1) => .ok (0, v.toNat, t1)

/-- The value that an atomic leaves: a failed `cas` leaves the old one. -/
def atomicValue (n bytes old v cmp : Nat) : Nat := (atomicNew n (8 * bytes) old v cmp).getD old

/-- The read-modify-write at a location, made for a die. -/
def modifyAt (s : State) (die loc bytes n cmp v : Nat) : State :=
  homePut s die loc bytes (atomicValue n bytes (readNat s.mem loc bytes) v cmp)

/-- A reduction sent to its home (09 R188). -/
def reduceSend (s : State) (t : Thread) (g : Target) (loc bytes n ord cmp v : Nat) (wide : Bool) : State :=
  homeSend s t g loc bytes (isRelease ord) true (fun va => .atomic va n wide false (BitVec.ofNat 64 cmp) (BitVec.ofNat 64 v))
    (.modify loc bytes n cmp v) fun x => modifyAt x (dieOfCore t.core) loc bytes n cmp v

/-- The request and response of a returning atomic to its home; what a peer answers has had its own. -/
def atomicTrip (s : State) (t : Thread) (g : Target) (loc : Nat) (acquire : Bool) : Option State :=
  match g with
  | .peer _ _ => some s
  | _ => roundTrip s (dieOfCore t.core) (targetDie s t g loc) true acquire t.efftag

/-- A returning atomic performed at its home, its old value on its way, which acknowledges it (05 R118); as an acquire
it self-invalidates. -/
def atomicReturn (s : State) (iss : Issue) (t : Thread) (d : BitVec 7) (loc bytes n ord cmp v : Nat) : State :=
  let t1 := releaseSent (isRelease ord) (markAcks (isRelease ord) (loadTo iss d bytes (readNat s.mem loc bytes) t))
  let s1 := modifyAt (dropWords s t.core loc bytes) (dieOfCore t.core) loc bytes n cmp v
  putThread (if isAcquire ord then selfInvalidate s1 t.core else s1) t1

/-- The results on their way that a word has added to a thread's, set aside where the run makes the word before the rest of
it; the home's acknowledgement of a release comes with the result (05 R118). -/
def keepResult (s : State) (t : Thread) : State :=
  mapThread s t.launch t.thread fun x =>
    if x.posting.isSome then { x with kept := x.loads.getLast?, loads := x.loads.dropLast } else x

/-- Such a result written with the run. -/
def takeKept (iss : Issue) (t : Thread) : Thread :=
  let here := fun (p : PendingLoad) => { p with latch := p.latch.map fun l => { l with group := groupLanes iss } }
  { t with loads := t.loads ++ (t.kept.map here).toList, kept := none }

/-- A returning atomic that its peer has performed, with the old value that the answer brought. -/
def atomicAnswered (s : State) (iss : Issue) (t : Thread) (d : BitVec 7) (bytes ord old : Nat) : State :=
  putThread (if isAcquire ord then selfInvalidate s t.core else s) (loadTo iss d bytes old t)

/-- The old value that the answer to an atomic brings. In a run of several words the lane asks when all of them are done, and
what it has here then is not kept. -/
def atomicAnswer (iss : Issue) (t : Thread) (r : RemoteRead) : Except LaneEnd (Nat × Thread) :=
  match answerTo t r with
  | some old => .ok (old, t)
  | none => if iss.chained && t.remoteLoad.isNone then .ok (0, { t with ask := some (r, iss.pos) }) else (remoteAnswer t r).map fun x => (x, t)

/-- An atomic in one lane: checks and translation, waits, the read-modify-write, the old value (09 R187, R188). -/
def laneAtomic (returning : Bool) (d a : BitVec 7) (ord : Nat) (wide : Bool) (n : Nat) (s : State) (iss : Issue)
    (t : Thread) : Except LaneEnd State :=
  let bytes := if wide then 8 else 4
  match atomicData n wide d s iss t with
  | .error e => .error e
  | .ok (cmp, v, t1) =>
    match (if returning then access else homeAccess) s t1 .sync (src64 s iss t a) bytes .modify .atomic with
    | .error e => .error e
    | .ok (g, loc) =>
      if isMade iss t then .ok (putThread s (takeKept iss t1))
      else
        match atomicWait s t g loc bytes ord (!returning) with
        | some k => .error (.wait k)
        | none =>
          if returning then
            match remoteRead s t1 g loc bytes
                (fun va => .atomic va n wide true (BitVec.ofNat 64 cmp) (BitVec.ofNat 64 v)) (isAcquire ord) with
            | some r => (atomicAnswer iss t1 { r with lanes := groupLanes iss }).map fun x => atomicAnswered s iss x.2 d bytes ord x.1
            | none =>
              match atomicTrip s t g loc (isAcquire ord) with
              | none => .error (.wait .queue)
              | some s1 => .ok (keepResult (atomicReturn s1 iss t1 d loc bytes n ord cmp v) t)
          else .ok (reduceSend s t1 g loc bytes n ord cmp v wide)

/-- Reductions of one word that go to one die are performed there together (09 R188). -/
def joinPackets (before s : State) : State :=
  let n := before.felt.packets.length
  let new := s.felt.packets.drop n
  let join := fun (i : Nat) (p : FeltPacket) => { p with joined := (new.take i).any fun q => decide (q.src = p.src) && decide (q.dst = p.dst) }
  { s with felt := { s.felt with packets := s.felt.packets.take n ++ new.mapIdx join } }

def atomicBody (returning : Bool) (g : BitVec 2) (d a : BitVec 7) (ord : Nat) (wide : Bool) (n : Nat) (s : State) :
    State :=
  joinPackets s <| foldLanes g (laneAtomic returning d a ord wide n)
    (countReplay .sync true (if wide then 8 else 4) g (fun s iss t => src64 s iss t a) (readFirst g d s))

/-- R186: `atom`. -/
def execAtom (g : BitVec 2) (d a : BitVec 7) (o : BitVec 2) (w : BitVec 1) (n : BitVec 4) (s : State) : Out :=
  .next (wordRun (atomicBody true g d a o.toNat (w == 1) n.toNat) s)

/-- R186: `red`; ORD is relaxed or release. -/
def execRed (g : BitVec 2) (d a : BitVec 7) (o w : BitVec 1) (n : BitVec 4) (s : State) : Out :=
  .next (wordRun (atomicBody false g d a (if o = 1 then 2 else 0) (w == 1) n.toNat) s)

end Sys2Proof.Machine
end

