-- ==== Sys2Proof/Machine/Placement.lean ====
section
/-! DEFINITION. Where the gangs of a launch find room on cores (20 R319, R320), and whether a launch fits an empty
partition (R305, R320). -/

namespace Sys2Proof.Machine

open Sys2Proof (Byte Word DWord Instr)

/-- Gang-local bytes reserved on a core. -/
def localUsed (s : State) (c : Nat) : Nat :=
  s.gangs.foldl (fun n x => if x.core = c ∧ x.detached = false ∧ x.saved = false then n + (launchOf s x.launch).local_ else n) 0

/-- Cores of the launch's partition in service. -/
def launchCores (s : State) (x : Launch) : List Nat :=
  (((partOf s (ctxOf s x.ctx).partition).getD noPart).cores).filter fun c => (coreOf s c).inService

/-- Gang-local bytes of a core that are free. -/
def localFree (s : State) (c : Nat) : Nat := Config.coreLocal - localUsed s c

/-- A core fits a gang. -/
def fits (s : State) (x : Launch) (c : Nat) : Bool :=
  decide (localUsed s c + x.local_ ≤ Config.coreLocal) && decide (x.gsize ≤ freeSlots (coreOf s c) (classBytes x.rclass))

/-- The die that homes a 64 KiB piece of a context's space, if its walk does not fault. -/
def pieceHome (s : State) (tag va : Nat) : Option Nat :=
  match walk s (ctxOf s tag) (va % 2 ^ 48) with
  | .error _ => none
  | .ok e =>
    match leafCheck s (ctxOf s tag).partition e (va % 2 ^ 48) .read .plain false false with
    | .error _ => none
    | .ok pa => if pa < 2 ^ 39 then some (homeOf s pa) else none

/-- The home dies of the pieces of [HINT, HINT + HINTLEN). -/
def hintHomes (s : State) (x : Launch) : List Nat :=
  if x.hint = 0 ∨ x.hintlen = 0 then []
  else
    let lo := x.hint / 65536
    let hi := (x.hint + x.hintlen - 1) / 65536
    (List.range (hi - lo + 1)).filterMap fun i => pieceHome s x.ctx ((lo + i) * 65536)

/-- The rank of a core that fits: less is chosen first. -/
def coreRank (s : State) (x : Launch) (homes : List Nat) (c : Nat) : Nat :=
  let space := localFree s c / (256 * 1024)
  let slots := freeSlots (coreOf s c) (classBytes x.rclass) / 64
  let pages := (homes.filter (· == dieOfCore c)).length
  ((((2 ^ 20 - space) * 2 ^ 32 + (2 ^ 32 - 1 - slots)) * 2 ^ 32 + (2 ^ 32 - 1 - pages)) * 16 + dieOfCore c) * 256 + c

/-- Fitting cores of a list, best first. -/
def ranked (s : State) (x : Launch) (homes cs : List Nat) : List Nat := sortBy (coreRank s x homes) (cs.filter (fits s x))

/-- Two C-dies of the 2 × 4 array are adjacent, by die index. -/
def adjacentDies (a b : Nat) : Bool :=
  let r := fun d => (d - 1) / 4
  let k := fun d => (d - 1) % 4
  (decide (r a = r b) && (decide (k a + 1 = k b) || decide (k b + 1 = k a))) || (decide (r a ≠ r b) && decide (k a = k b))

/-- Core groups that a list of cores touches, in the order of the list. -/
def groupsOf (cs : List Nat) : List Nat :=
  cs.foldl (fun gs c => if gs.contains (groupOfCore c) then gs else gs ++ [groupOfCore c]) []

/-- Distinct cores for a cluster of `n` gangs: in one group, or in two groups of adjacent dies with the first half of
the gangs on one (20 R319). The group that holds the best core is tried first (log 41). -/
def clusterCores (s : State) (x : Launch) (homes cs : List Nat) (n : Nat) : Option (List Nat) :=
  let best := ranked s x homes cs
  let inGroup := fun g => best.filter fun c => decide (groupOfCore c = g)
  let gs := groupsOf best
  match gs.find? fun g => decide (n ≤ (inGroup g).length) with
  | some g => some ((inGroup g).take n)
  | none =>
    let h := (n + 1) / 2
    let pairs := gs.flatMap fun g => (gs.filter fun k => adjacentDies (g / 4) (k / 4)).map fun k => (g, k)
    (pairs.find? fun p => decide (h ≤ (inGroup p.1).length) && decide (n - h ≤ (inGroup p.2).length)).map
      fun p => (inGroup p.1).take h ++ (inGroup p.2).take (n - h)

/-- A gang's place on a core held: its gang-local memory and its pool reservation. -/
def holdGang (x : Launch) (s : State) (g c : Nat) : State :=
  let r := coreOf s c
  let s1 := putCore s (takeSlots (classBytes x.rclass) x.handle g none x.gsize (poolRegions r) r)
  { s1 with gangs := s1.gangs ++ [{ launch := x.handle, gang := g, core := c, reserved := true }] }

/-- The places of clusters one after another, each held before the next is sought. -/
def placeClusters (x : Launch) (homes cs : List Nat) : Nat → State → List Nat → Option (List (Nat × Nat))
  | _, _, [] => some []
  | 0, _, _ => none
  | fuel + 1, s, g :: gs =>
    let unit := (g :: gs).take x.clsize
    match clusterCores s x homes cs x.clsize with
    | none => none
    | some picks =>
      let s1 := (unit.zip picks).foldl (fun y p => holdGang x y p.1 p.2) s
      (placeClusters x homes cs fuel s1 ((g :: gs).drop x.clsize)).map fun rest => unit.zip picks ++ rest

/-- The places of a unit's gangs, if it fits. -/
def placeUnit (s : State) (x : Launch) (gangs : List Nat) : Option (List (Nat × Nat)) :=
  placeClusters x (hintHomes s x) (launchCores s x) gangs.length s gangs

/-! ### An empty partition (20 R320) -/

/-- The package with nothing on its cores. -/
def emptied (s : State) : State := { s with gangs := [], cores := s.cores.map fun r => { r with pool := [] } }

/-- One unit of a launch that is no cohort fits the empty partition: a gang on some core, a cluster on some cores. -/
def couldFit (s : State) (x : Launch) : Bool :=
  let e := emptied s
  if x.clsize = 1 then (launchCores s x).any (fits e x) else (clusterCores e x [] (launchCores s x) x.clsize).isSome

/-- Every gang of a cohort fits the empty partition, as a distributor would place them (log 41). -/
def cohortFits (s : State) (x : Launch) : Bool :=
  (placeClusters x (hintHomes s x) (launchCores s x) x.ngang (emptied s) (List.range x.ngang)).isSome

end Sys2Proof.Machine
end

