-- ==== Sys2Proof/Machine/Accept.lean ====
section
/-! DEFINITION. Accesses of the command processor, and the acceptance of a launch record (20 R304 to R307, R314). -/

namespace Sys2Proof.Machine

open Sys2Proof (Byte Word DWord Instr)

/-! ### Accesses without a core -/

/-- A virtual address of a context translated by a walk, for a use; the fault word names SRC 0. -/
def walkTo (s : State) (tag va : Nat) (a : Acc) (u : Use) : Except DWord Nat :=
  let x := ctxOf s tag
  match walk s x va with
  | .error (k, lv) => .error (faultWord k a 0 false lv va)
  | .ok e =>
    match leafCheck s x.partition e va a u false false with
    | .error (k, lv) => .error (faultWord k a 0 false lv va)
    | .ok pa => if isBad s pa && a != .write then .error (faultWord 7 a 0 false 0 va) else .ok pa

/-- Bytes of a context's space in pieces of 64, each translated on its own. -/
def readSpace (s : State) (tag : Nat) (a : Acc) (u : Use) : Nat → Nat → Except DWord (List Byte)
  | _, 0 => .ok []
  | va, n + 1 =>
    match walkTo s tag va a u with
    | .error w => .error w
    | .ok pa =>
      match readSpace s tag a u (va + 64) n with
      | .error w => .error w
      | .ok rest => .ok (readBytes s.mem pa 64 ++ rest)

/-- A number of bytes of a list. -/
def field (b : List Byte) (o n : Nat) : Nat := natOfBytes ((b.drop o).take n)

/-- The die at which an F-die's access to a location is performed. -/
def spaceDie (s : State) (loc : Nat) : Nat := if loc < 2 ^ 39 then homeOf s loc else 0

/-- The reads of so many pieces of 64 bytes that an F-die makes, each with what its home knows (05 R99, 20 Table 20-6); none
while one cannot be made. -/
def readTrip (s : State) (fdie tag va n : Nat) : Option State :=
  (List.range n).foldlM (fun y i =>
    match walkTo y tag (va + 64 * i) .read .plain with
    | .ok loc => if isMoving y loc then none else roundTrip y fdie (spaceDie y loc) false true tag
    | .error _ => some y) s

/-- A write of an F-die at its home, as a release store: after what the F-die knows to be on its way there; none while it
cannot be delivered, or its page moves (09 R192). -/
def releasePut (s : State) (fdie tag loc n v : Nat) : Option State :=
  if isMoving s loc then none
  else (message s fdie (spaceDie s loc) true tag).map fun s1 => homePut s1 fdie loc n v

/-- A word of a context's space written by an F-die, if its address translates. -/
def writeSpace (s : State) (fdie tag va n v : Nat) : Except DWord (Option State) :=
  match walkTo s tag va .write .plain with
  | .error w => .error w
  | .ok loc => .ok (releasePut s fdie tag loc n v)

/-- A WAIT in progress is read again after an addition to its word (20 R313), unless the addition is of a context that
stops (22 R343). -/
def armWaits (s : State) (ctx loc : Nat) : State :=
  let r := (ctxOf s ctx).run
  if r == .stopping || r == .stopped then s
  else { s with queues := s.queues.map fun q => if q.waitInProgress ∧ q.waitLoc = loc then { q with waitArmed := true } else q }

/-! ### Descriptors and entries -/

/-- The segment descriptor at an offset (04 Table 4-2). -/
def parseSeg (b : List Byte) (o : Nat) : Seg :=
  { base := BitVec.ofNat 48 (field b o 6), limit := BitVec.ofNat 48 (field b (o + 8) 6),
    pshift := BitVec.ofNat 5 (field b (o + 14) 2) }

/-- Its reserved bits are zero (04 R75). -/
def segReserved (b : List Byte) (o : Nat) : Bool := decide (field b (o + 6) 2 = 0) && decide (field b (o + 14) 2 / 32 = 0)

/-- The PSHIFT of SEG_PRIV is in its range (04 R75). -/
def privShiftOk (g : Seg) : Bool :=
  (decide (12 ≤ g.pshift.toNat) && decide (g.pshift.toNat ≤ 28)) || (decide (g.limit = 0) && decide (g.pshift = 0))

/-- A code line read in a context through a SEG_CODE descriptor: out of two physical lines where BASE is no multiple of
128 (04 R84). -/
def codeLineFor (s : State) (tag : Nat) (g : Seg) (c : Nat) : Option (List Byte) :=
  let va := (g.base.toNat + c / 128 * 128) % 2 ^ 48
  match readSpace s tag .fetch .fetch (va / 128 * 128) (if va % 128 = 0 then 2 else 4) with
  | .error _ => none
  | .ok b => some ((b.drop (va % 128)).take 128)

/-- A resume descriptor stands at packet p of a line: a block whose header counts 5 literal words (02 R18, R19). -/
def isDescriptor (l : List Byte) (p : Nat) : Bool :=
  decide (fldn (lineWord l (p % 10 * 12)) 0 22 = 5) && (literalBlocks l).any fun b => decide (b = (p % 10, 2, 5))

/-- Packet p is a segment entry: two packets before it stand as a resume descriptor, and it is no literal (02 R18). -/
def isEntry (s : State) (tag : Nat) (g : Seg) (p : Nat) : Bool :=
  decide (2 ≤ p) && decide (packetAddr p + 12 ≤ g.limit.toNat)
    && (match codeLineFor s tag g (packetAddr (p - 2)) with
        | some l => isDescriptor l (p - 2)
        | none => false)
    && (match codeLineFor s tag g (packetAddr p) with
        | some l => !isLiteral l (p % 10)
        | none => false)

/-! ### Acceptance -/

/-- The launch that a record describes (20 Table 20-1), before it has a handle. -/
def parseLaunch (b : List Byte) (ctx va : Nat) : Launch :=
  { handle := 0, ctx := ctx, recordVA := va,
    entry := (packetOfAddr (field b 0 8 % 2 ^ 60)).getD 0,
    ngang := field b 8 4, gsize := field b 12 2, clsize := field b 14 1,
    kernel := decide (field b 15 1 % 2 = 1), cohort := decide (field b 15 1 / 2 % 2 = 1),
    detach := decide (field b 15 1 / 4 % 2 = 1), local_ := field b 16 4, rclass := field b 20 1, prio := field b 21 1,
    fpmode := field b 22 1, stoseed := BitVec.ofNat 64 (field b 24 8), donesig := field b 40 8,
    seginit := [parseSeg b 0x30, parseSeg b 0x40, parseSeg b 0x50, parseSeg b 0x60],
    kinit := (List.range 32).map fun i => BitVec.ofNat 32 (field b (0x70 + 4 * i) 4),
    hint := field b 0xF0 8, hintlen := field b 0xF8 4, trappkt := field b 0xFC 4 }

/-- Initial segment registers: GLOB, PEER, GANG, CLUS, PRIV, CODE (04 R75, R79, R80). -/
def initialSegs (x : Launch) (detached : Bool) : List Seg :=
  let lim := fun (n : Nat) => ({ limit := BitVec.ofNat 48 (if detached then 0 else n) } : Seg)
  [segAt x.seginit 0, segAt x.seginit 1, lim x.local_, lim ((x.clsize + 1) / 2 * x.local_), segAt x.seginit 2,
   segAt x.seginit 3]

/-- The HINT range passes R76 as a load of the launch (20 Table 20-2, REASON 7). -/
def hintOk (x : Launch) : Bool :=
  let g := segAt x.seginit 0
  decide (x.hint = 0)
    || (decide (x.hint < 2 ^ 48) && decide (g.base.toNat ≤ x.hint)
      && decide (x.hint + x.hintlen ≤ g.base.toNat + g.limit.toNat))

/-- REASON 1: a reserved field or value is set. -/
def reservedBad (b : List Byte) : Bool :=
  decide (field b 15 1 / 8 ≠ 0) || decide (3 < field b 20 1) || decide (field b 21 1 / 16 ≠ 0)
    || decide (field b 22 1 / 4 ≠ 0) || decide (field b 23 1 ≠ 0)
    || !([0x30, 0x40, 0x50, 0x60].all (segReserved b))

/-- REASON 2: a field out of its range. -/
def rangeBad (b : List Byte) (x : Launch) : Bool :=
  decide (x.ngang = 0) || decide (2 ^ 22 < x.ngang) || decide (x.gsize = 0) || decide (1024 < x.gsize)
    || decide (x.clsize = 0) || decide (4 < x.clsize) || decide (x.ngang % x.clsize ≠ 0)
    || decide (x.local_ % 4096 ≠ 0) || decide (2 ^ 20 < x.local_)
    || decide (x.donesig % 8 ≠ 0) || decide (2 ^ 48 ≤ x.donesig) || !privShiftOk (parseSeg b 0x50)
    || [0x30, 0x40, 0x60].any fun o => decide ((parseSeg b o).pshift ≠ 0)

/-- REASON 3: ENTRY, or a nonzero TRAPPKT, is no segment entry. -/
def entryBad (s : State) (b : List Byte) (x : Launch) : Bool :=
  let g := segAt x.seginit 3
  decide (field b 0 8 / 2 ^ 60 ≠ 5) || (packetOfAddr (field b 0 8 % 2 ^ 60)).isNone || !isEntry s x.ctx g x.entry
    || (decide (x.trappkt ≠ 0) && !isEntry s x.ctx g x.trappkt)

/-- The REASON for which a record is refused, or 0 (20 R305): checked in the order of the codes. -/
def refusal (s : State) (b : List Byte) (x : Launch) (privileged : Bool) : Nat :=
  if reservedBad b then 1
  else if rangeBad b x then 2
  else if entryBad s b x then 3
  else if x.kernel && !privileged then 4
  else if !couldFit s x || decide (2 ^ 20 < (x.clsize + 1) / 2 * x.local_) then 5
  else if x.cohort && !cohortFits s x then 6
  else if !hintOk x then 7
  else 0

/-- STATUS written as a release store, unless its page has gone: then the system log has it (20 R305). None while the store
cannot be delivered. -/
def writeStatus (s : State) (x : Launch) (v : Nat) : Option State :=
  match writeSpace s x.fdie x.ctx (x.recordVA + 0x20) 4 v with
  | .ok s1 => s1
  | .error w => some { s with log := s.log ++ [.statusFault w x.handle] }

/-- HANDLE written at acceptance. -/
def writeHandle (s : State) (x : Launch) : Option State :=
  match writeSpace s x.fdie x.ctx (x.recordVA + 0x24) 4 x.handle with
  | .ok s1 => s1
  | .error _ => some s

/-- The next free handle from a number on (20 R306). -/
def freshHandle (s : State) : Nat → Nat → Nat
  | 0, h => h
  | n + 1, h =>
    let k := if h % 2 ^ 32 = 0 then 1 else h % 2 ^ 32
    if (launchAt s k).isSome then freshHandle s n (k + 1) else k

/-- Every launch that this one depends on is complete (20 R312): no row of the job holds one of its indices. -/
def depsMet (s : State) (x : Launch) : Bool :=
  x.deps.all fun d => !(s.launches.any fun y => decide (y.queue = x.queue) && decide (y.job = x.job)
    && decide (y.index = d) && y.queue.isSome && y.state != .complete)

/-- A record's bytes accepted or refused (20 R305): the new state, and whether it was accepted; none while STATUS cannot be
written. -/
def acceptRecord (s : State) (b : List Byte) (x : Launch) (privileged : Bool) : Option (State × Bool) :=
  match refusal s b x privileged with
  | 0 =>
    let h := freshHandle s (s.launches.length + 2) s.nextHandle
    let y := { x with handle := h, eligible := if depsMet s x && (ctxOf s x.ctx).run == .running then some (now s) else none }
    let s1 := { s with launches := s.launches ++ [y], nextHandle := h + 1 }
    ((writeHandle s1 y).bind fun s2 => writeStatus s2 y 1).map fun s3 => (s3, true)
  | r => (writeStatus s x (4 + 256 * r)).map fun s1 => (s1, false)

end Sys2Proof.Machine
end

