-- ==== Sys2Proof/Machine/Segment.lean ====
section
/-! DEFINITION. Segment instructions: barriers, batch waits, `yield`, `exit`, forwarding, `enq`, `launch`, `signal`
(09 R193 to R200). -/

namespace Sys2Proof.Machine

open Sys2Proof (Byte Word DWord Instr)

/-! ### Ends -/

/-- The lane's segment ends voluntarily at the packet after the descriptor (09 Table 9-5). -/
def endAt (iss : Issue) (p : Place) (t : Thread) : Thread :=
  { t with next := .segment p (resumePacket iss.packet) iss.mask }

/-- A barrier in one lane (09 R195). -/
def laneBar (k : BarKind) (s : State) (iss : Issue) (t : Thread) : Except LaneEnd Thread :=
  if t.detached || (k == .launch && !(launchOf s t.launch).cohort) then .error (.trap .illegalInstruction)
  else .ok (endAt iss (.barrier k false) t)

/-- `wait.batch` in one lane (09 R196). -/
def laneWaitBatch (n : BitVec 7) (_s : State) (iss : Issue) (t : Thread) : Except LaneEnd Thread :=
  .ok (if unfinished t ≤ n.toNat then t else endAt iss (.batchWait n.toNat) t)

/-! ### Forwarding (09 R199) -/

/-- The fields of a target word (09 Table 9-6). -/
structure FwdTarget where
  core : Nat
  peerf : Bool
  peer : Nat
  plaunch : Nat
  reserved : Bool
  deriving DecidableEq, Repr

def fwdTarget (a : DWord) : FwdTarget :=
  let v := a.toNat
  { core := v % 256, peerf := decide (v / 256 % 2 = 1), peer := v / 2 ^ 16 % 4096, plaunch := v / 2 ^ 32,
    reserved := decide (v / 512 % 128 ≠ 0) || decide (v / 2 ^ 28 % 16 ≠ 0) }

/-- Check 1: the fields of the word. -/
def fwdFieldsBad (f : FwdTarget) : Bool :=
  f.reserved || (decide (192 ≤ f.core) && decide (f.core ≠ 255)) || (decide (f.peer ≠ 0) && !f.peerf)
    || (decide (f.plaunch = 0) && f.peerf) || (decide (f.plaunch ≠ 0) && !f.peerf)

/-- Checks 1 to 3: the word, the peer, the core. The result says whether the destination is a peer, whose cores are its
own to check (log 67). -/
def fwdChecks (s : State) (t : Thread) (f : FwdTarget) : Except LaneEnd Bool :=
  let part := partOfThread s t
  let away := f.peerf && decide (f.peer ≠ s.ownPeer)
  if fwdFieldsBad f then .error (.trap .illegalOperand)
  else
    match (if away then checkPeer s part f.peer else .ok ()) with
    | .error e => .error e
    | .ok () =>
      if !away && decide (f.core ≠ 255) && !((partOf s part).getD noPart).cores.contains f.core then
        .error (.trap .segmentLimit)
      else .ok away

/-- The thread with its forward set up: the open batch sealed where it holds an operation (02 R41). -/
def startForward (f : FwdTarget) (away : Bool) (ack : Option Nat) (iss : Issue) (packet : Nat) (m : DWord) (t : Thread) :
    Thread :=
  { sealIfUsed t with
    fwd := some { dest := f.core, peerf := away, peer := f.peer, plaunch := f.plaunch, ack := ack, packet := iss.packet,
                  source := t.core },
    next := .segment .forward packet m }

/-- The mask of the descriptor that stands before packet `p`, if one does (02 R18). -/
def maskBefore (s : State) (t : Thread) (p : Nat) : Except LaneEnd (Option DWord) :=
  match codeLine s t (p - 2) with
  | .error e => .error e
  | .ok l =>
    let o := (p - 2) % 10 * 12
    .ok (if 2 ≤ p ∧ isDescriptor l (p - 2) = true then
        some (BitVec.ofNat 64 (natOfWords [lineWord l (o + 4), lineWord l (o + 8)]))
      else none)

/-- Where a `fwd` resumes, and its mask: after its descriptor, or at a displaced entry (check 4). -/
def fwdResume (s : State) (iss : Issue) (t : Thread) (b : BitVec 7) (v : Word) : Except LaneEnd (Nat × DWord) :=
  if b = 80 then .ok (resumePacket iss.packet, iss.mask)
  else
    match displacedTarget s t (iss.packet + v.toInt) with
    | .error e => .error e
    | .ok p =>
      match maskBefore s t p with
      | .error e => .error e
      | .ok none => .error (.trap .illegalLiteral)
      | .ok (some m) => .ok (p, m)

/-- `fwd` in one lane. -/
def laneFwd (a b : BitVec 7) (s : State) (iss : Issue) (t : Thread) : Except LaneEnd Thread :=
  match src32 s iss t b with
  | .error e => .error e
  | .ok (v, t1) =>
    let f := fwdTarget (src64 s iss t a)
    match fwdChecks s t1 f with
    | .error e => .error e
    | .ok away =>
      match fwdResume s iss t1 b v with
      | .error e => .error e
      | .ok (p, m) => .ok (startForward f away none iss p m t1)

/-- `fwd.ack` in one lane: its offset is check 5. -/
def laneFwdAck (a b : BitVec 7) (s : State) (iss : Issue) (t : Thread) : Except LaneEnd Thread :=
  match src32 s iss t b with
  | .error e => .error e
  | .ok (o, t1) =>
    let f := fwdTarget (src64 s iss t a)
    match fwdChecks s t1 f with
    | .error e => .error e
    | .ok away =>
      if (segAt (gangOf s t1).segs 2).limit.toNat < o.toNat + 4 then .error (.trap .segmentLimit)
      else if o.toNat % 4 ≠ 0 then .error (.trap .misaligned)
      else .ok (startForward f away (some o.toNat) iss (resumePacket iss.packet) iss.mask t1)

/-! ### `enq` (09 R200, 20 R309) -/

/-- The pointer of a command: global or gang-local, 64 bytes, 64-byte aligned. -/
def checkCommand (s : State) (t : Thread) (p : DWord) : Except LaneEnd Target :=
  let tag := (pointerFields s p).1
  if tag = 0 ∨ tag = 2 then decodePointer s (accessorOf s t) .load p 64 64 else .error (.trap .segmentLimit)

/-- A field of an unmapped queue's saved control block written. -/
def putQcb (s : State) (q : Queue) (off n v : Nat) : State :=
  match q.slot, q.qcbAt with
  | none, some a => { s with mem := writeNat s.mem (a + off) n v }
  | _, _ => s

/-- A queue stopped with a state, its fault word logged for Milliner (20 R310). -/
def stopQueue (s : State) (q : Queue) (code : Nat) (w : DWord) : State :=
  let s1 := mapQueue (putQcb s q 0x0B 1 code) q.part q.idx fun x => { x with qstate := code, waitInProgress := false }
  { s1 with log := s1.log ++ [.queueStop q.part q.idx code w] }

/-- A command written at the tail of a queue in the queue's context. A fault there stops the queue, and the slot's
command is lost (20 R309). -/
def putCommand (s : State) (q : Queue) (b : List Byte) : State :=
  let v := (q.tail + 1) % 2 ^ 64
  let s1 := mapQueue (putQcb s q 0x18 8 v) q.part q.idx fun x => { x with tail := v }
  match walkTo s q.ctx (q.ring + 64 * (q.tail % 2 ^ q.logn)) .write .plain with
  | .ok loc => homePutBytes s1 10 2 loc b
  | .error w => stopQueue s1 q 3 w

/-- A queue's pending bit set, and a control core woken, when work reaches it unmapped (20 R315). A bit that is set already keeps
the cycle in which it was, from which its waiting time runs (DESIGN CHOICE, log 107). -/
def noteWork (s : State) (part idx : Nat) : State :=
  match queueAt s part idx with
  | none => s
  | some q =>
    if q.slot.isSome then s
    else
      let s1 := mapQueue s part idx fun x => { x with pendingSince := some (x.pendingSince.getD (now s)) }
      { s1 with wakes := s1.wakes ++ [q.fdie] }

/-- A thread is about to send a command to a peer on a way. -/
def wantsSlot (s : State) (w : PeerPath) (t : Thread) : Bool :=
  decide (pathOf s (partOfThread s t) t.launch w.peer = w)
    && ((match t.remoteEnq with | some (.wanted p _ _) => decide (p = w.peer) | _ => false)
      || (match t.laneEnd with | some (.enqueue p _ _, _) => decide (p = w.peer) | _ => false))

/-- The command or record that a packet of this package's own carries to a peer: whose it is, and whether a record's. -/
def slotOwner : RenharKind → Nat → Nat → Option (Nat × Nat × Bool)
  | .enqueue _ _ _ _, l, t => some (l, t, false)
  | .record _ _ _ _ _ _, l, t => some (l, t, true)
  | _, _, _ => none

/-- Remote-enqueue slots in use on the way to a peer, of the four that the destination F-die reserves (23 Table 23-4): one for
each command and one for each record, whatever its packets. -/
def remoteSlots (s : State) (w : PeerPath) : Nat :=
  (s.threads.filter (wantsSlot s w)).length
  + (s.felt.packets.filter fun p =>
      match p.body with
      | .renhar part l _ _ n _ k => decide (pathOf s part l n = w) && isEnqueueKind k
      | _ => false).length
  + (s.renhar.out.filterMap fun o =>
      if o.fdie = w.fdie ∧ o.part = w.part ∧ o.packet.destination = w.peer ∧ o.packet.source = s.ownPeer
      then slotOwner o.packet.kind o.launch o.thread else none).eraseDups.length

/-- Commands on their way to a queue. -/
def enqueueing (s : State) (q : Queue) : Nat :=
  (s.felt.packets.filter fun p => match p.body with | .enqueue n i _ => decide (n = q.part) && decide (i = q.idx) | _ => false).length

/-- Commands a queue holds. -/
def queueFill (q : Queue) : Nat := (q.tail + 2 ^ 64 - q.head) % 2 ^ 64

/-- An `enq` to a queue of this package: its command goes to the queue's F-die, as a packet of the publication class
(23 R361), for which the ring has room. -/
def enqLocal (s : State) (t : Thread) (idx : Nat) (b : List Byte) : Except LaneEnd State :=
  match queueAt s (partOfThread s t) idx with
  | none => .error (.trap .segmentLimit)
  | some q =>
    if !q.devprod || (q.privq && !(launchOf s t.launch).kernel) then .error (.trap .segmentLimit)
    else if 2 ^ q.logn ≤ queueFill q + enqueueing s q then .error (.wait .queue)
    else if !feltReady s (dieOfCore t.core) q.fdie then .error (.wait .queue)
    else .ok (threadPost s t q.fdie true (.enqueue q.part q.idx b) none)

/-- An `enq` to a peer's queue: the command is sent, and sent again while the ring is full, and the lane waits in issue
for the answer. -/
def enqRemote (s : State) (t : Thread) (peer idx : Nat) (b : List Byte) : Except LaneEnd State :=
  match t.remoteEnq with
  | some .accepted => .ok (putThread s { t with remoteEnq := none })
  | some .refused => .error (.trap .segmentLimit)
  | some .sent => .error (.wait .queue)
  | some (.wanted _ _ _) => .error (.wait .queue)
  | _ =>
    if 4 ≤ remoteSlots s (pathOf s (partOfThread s t) t.launch peer) || !feltReady s (dieOfCore t.core) (fdieOf s t.launch) then
      .error (.wait .queue)
    else .error (.enqueue peer idx b)

/-- `enq` in one lane: pointer, handle, release, then the command is read and appended; not again where the run has made it
and has waited since. -/
def laneEnq (a b : BitVec 7) (s : State) (iss : Issue) (t : Thread) : Except LaneEnd State :=
  match src32 s iss t b with
  | .error e => .error e
  | .ok (h, t1) =>
    match checkCommand s t1 (src64 s iss t a) with
    | .error e => .error e
    | .ok _ =>
      if isMade iss t then .ok (putThread s t1) else
      let idx := h.toNat % 2 ^ 16
      let peer := h.toNat / 2 ^ 16 % 4096
      let away := decide (h.toNat / 2 ^ 28 % 2 = 1) && decide (peer ≠ s.ownPeer)
      if h.toNat / 2 ^ 29 ≠ 0 then .error (.trap .segmentLimit)
      else
        match (if away then checkPeer s (partOfThread s t1) peer else .ok ()) with
        | .error e => .error e
        | .ok () =>
          if !away && (queueAt s (partOfThread s t1) idx).isNone then .error (.trap .segmentLimit)
          else if !releaseReady s t1 then .error (.wait .sync)
          else
            match loadPieces s t1 (src64 s iss t a) 0 1 with
            | .error e => .error e
            | .ok cmd =>
              if away then enqRemote (putThread s t1) t1 peer idx cmd else enqLocal (putThread s t1) t1 idx cmd

/-- The commands that the lanes of a run have left to be sent to peers, on their way to the F-die, while there is room; a lane
for whose command there is none asks again with its run. -/
def postEnqueue (s : State) (t : Thread) : State :=
  match t.remoteEnq with
  | some (.wanted peer idx b) =>
    if feltReady s (dieOfCore t.core) (fdieOf s t.launch) then
      putThread (peerSend s t true peer 0 (.enqueue t.launch t.thread idx b)) { t with remoteEnq := some .sent }
    else putThread s { t with remoteEnq := none }
  | _ => s

/-! ### `launch` (09 R200, 20 R314) -/

/-- The record's pieces translated for reading and for writing. -/
def recordAccess (s : State) (t : Thread) (p : DWord) : Nat → Except LaneEnd Unit
  | 0 => .ok ()
  | n + 1 =>
    match recordAccess s t p n with
    | .error e => .error e
    | .ok () =>
      match locate s t (.virt ((p.toNat + 64 * n) % 2 ^ 48) false) 64 .read .plain with
      | .error e => .error e
      | .ok _ =>
        match locate s t (.virt ((p.toNat + 64 * n) % 2 ^ 48) false) 64 .write .plain with
        | .error e => .error e
        | .ok _ => .ok ()

/-- The 256 bytes of a launch record at a checked global pointer, in the launch's own context (20 R305). -/
def recordBytes (s : State) (t : Thread) (p : DWord) : Except LaneEnd (List Byte) :=
  let x := { t with efftag := (launchOf s t.launch).ctx }
  match recordAccess s x p 4 with
  | .error e => .error e
  | .ok () => loadPieces s x p 0 4

/-- The child of a `launch`: no queue, no dependences, at most the parent's base priority; its work distributor is the
parent's (log 89). -/
def childLaunch (parent : Launch) (b : List Byte) (va : Nat) : Launch :=
  let x := parseLaunch b parent.ctx va
  { x with fdie := parent.fdie, parent := some parent.handle, prio := min x.prio parent.prio }

/-- `launch` in one lane: what its die knows goes to the launch's F-die, which accepts the record (05 R99). -/
def laneLaunch (a : BitVec 7) (s : State) (iss : Issue) (t : Thread) : Except LaneEnd State :=
  let p := src64 s iss t a
  let lr := launchOf s t.launch
  if p.toNat / 2 ^ 60 ≠ 0 then .error (.trap .segmentLimit)
  else
    match decodePointer s (accessorOf s t) .load p 256 64 with
    | .error e => .error e
    | .ok _ =>
      if !releaseReady s t then .error (.wait .sync)
      else
        match recordBytes s t p with
        | .error e => .error e
        | .ok b =>
          match (tell s t.efftag [dieOfCore t.core] [lr.fdie]).bind fun s1 =>
              acceptRecord s1 b (childLaunch lr b p.toNat) lr.kernel with
          | none => .error (.wait .queue)
          | some x => .ok x.1

/-! ### `signal` (09 R200) -/

/-- An addition to a signal word made for a die, after which WAITs on it are read again. -/
def signalAt (s : State) (die tag loc v : Nat) : State :=
  armWaits (homePut s die loc 8 ((readNat s.mem loc 8 + v) % 2 ^ 64)) tag loc

/-- `signal` in one lane: a release reduction of 8 bytes on a global or peer-global word; not again where the run has made it
and has waited since. -/
def laneSignal (a b : BitVec 7) (s : State) (iss : Issue) (t : Thread) : Except LaneEnd State :=
  match src32 s iss t b with
  | .error e => .error e
  | .ok (v, t1) =>
    let p := src64 s iss t a
    let tag := (pointerFields s p).1
    if tag ≠ 0 ∧ tag ≠ 1 then .error (.trap .segmentLimit)
    else
      match homeAccess s t1 .sync p 8 .modify .atomic with
      | .error e => .error e
      | .ok (g, loc) =>
        if isMade iss t then .ok (putThread s t1) else
        match atomicWait s t1 g loc 8 2 true with
        | some k => .error (.wait k)
        | none =>
          let tag := (launchOf s t.launch).ctx
          .ok (homeSend s t1 g loc 8 true true (fun va => .signal va (v.setWidth 64)) (.signal tag loc v.toNat) fun x =>
            signalAt x (dieOfCore t.core) tag loc v.toNat)

/-! ### The instructions -/

/-- R195: `bar`. -/
def execBar (g : BitVec 2) (s : State) : Out := laneWord g (laneBar .gang) s

/-- R195: `barc`. -/
def execBarc (g : BitVec 2) (s : State) : Out := laneWord g (laneBar .cluster) s

/-- R195: `barx`. -/
def execBarx (g : BitVec 2) (s : State) : Out := laneWord g (laneBar .launch) s

/-- R196: `wait.batch`. -/
def execWaitBatch (g : BitVec 2) (n : BitVec 7) (s : State) : Out := laneWord g (laneWaitBatch n) s

/-- R197: `yield`. -/
def execYield (g : BitVec 2) (s : State) : Out := laneWord g (fun _ iss t => .ok (endAt iss (.binned 0) t)) s

/-- R199: `fwd`. -/
def execFwd (g : BitVec 2) (a b : BitVec 7) (s : State) : Out := laneWord g (laneFwd a b) s

/-- R199: `fwd.ack`. -/
def execFwdAck (g : BitVec 2) (a b : BitVec 7) (s : State) : Out := laneWord g (laneFwdAck a b) s

/-- R200: `enq`. -/
def execEnq (g : BitVec 2) (a b : BitVec 7) (s : State) : Out :=
  .next (wordRun (fun x => foldLanes g (laneEnq a b) (readFirst g b x)) s)

/-- R198: `exit`. -/
def execExit (g : BitVec 2) (s : State) : Out := laneWord g (fun _ _ t => .ok { t with next := .exit }) s

/-- R200: `launch`. -/
def execLaunch (g : BitVec 2) (a : BitVec 7) (s : State) : Out := foldWord g (laneLaunch a) s

/-- R200: `signal`. -/
def execSignal (g : BitVec 2) (a b : BitVec 7) (s : State) : Out :=
  .next (wordRun (fun x => foldLanes g (laneSignal a b) (readFirst g b x)) s)

end Sys2Proof.Machine
end

