-- ==== Sys2Proof/Machine/Tile.lean ====
section
/-! DEFINITION. Tile-store handles and the issue of tile operations (10 R201 to R211, R221, R222). -/

namespace Sys2Proof.Machine

open Sys2Proof (Byte Word DWord Instr)

/-! ### Handles -/

/-- The COUNT code of a tile count. -/
def countCode (c : Nat) : Nat := match c with | 1 => 0 | 2 => 1 | 4 => 2 | 8 => 3 | _ => 4

/-- A handle's value (10 Table 10-1): ENGINE is 0 while unbound. -/
def handleValue (r : TileRange) : Word :=
  BitVec.ofNat 32 (r.core + (if r.bound then r.engine * 256 else 0) + r.base * 1024 + countCode r.count * 2 ^ 16 + r.gen * 2 ^ 19)

/-- The value in a slot. -/
def slotValue (t : Thread) (slot : Nat) : Word := if slot = 0 then t.handle0 else t.handle1

def setSlot (t : Thread) (slot : Nat) (v : Word) : Thread :=
  if slot = 0 then { t with handle0 := v } else { t with handle1 := v }

/-- A value names the handle of a slot: all but the ENGINE bits agree (10 R202). -/
def namesSlot (v h : Word) : Bool := decide (v ≠ 0) && decide (v.toNat / 1024 = h.toNat / 1024) && decide (v.toNat % 256 = h.toNat % 256)

/-- `resolve` (10 R202). -/
def resolve (t : Thread) (h : Word) : Except LaneEnd Nat :=
  if h = 0 ∨ h = 1 then (if slotValue t h.toNat = 0 then .error (.trap .staleHandle) else .ok h.toNat)
  else if namesSlot t.handle0 h then .ok 0
  else if namesSlot t.handle1 h then .ok 1
  else .error (.trap .staleHandle)

/-- The tile count of a handle value. -/
def handleCount (v : Word) : Nat := 2 ^ (v.toNat / 2 ^ 16 % 8)

def rangeAt (s : State) (id : Nat) : Option TileRange := s.tileRanges.find? fun r => decide (r.id = id)

def mapRange (s : State) (id : Nat) (f : TileRange → TileRange) : State :=
  { s with tileRanges := s.tileRanges.map fun r => if r.id = id then f r else r }

def dropRange (s : State) (id : Nat) : State := { s with tileRanges := s.tileRanges.filter fun r => decide (r.id ≠ id) }

/-- The range of the handle in a thread's slot. -/
def slotRange (s : State) (t : Thread) (slot : Nat) : Option TileRange :=
  s.tileRanges.find? fun r => decide (r.launch = t.launch) && decide (r.thread = t.thread) && decide (r.slot = slot)
    && !r.freeing && !r.incoming

/-- Its number; 0 is none's. -/
def slotRangeId (s : State) (t : Thread) (slot : Nat) : Nat := ((slotRange s t slot).map TileRange.id).getD 0

/-- Tiles b to b + c - 1 of an engine are held or reserved by some range. -/
def tilesTaken (s : State) (core engine b c : Nat) : Bool :=
  s.tileRanges.any fun r => decide (r.core = core) && decide (r.engine = engine) && !r.saved
    && decide (b < r.base + r.count) && decide (r.base < b + c)

/-- The lowest engine on which a range is free. -/
def freeEngine (s : State) (core b c : Nat) : Option Nat :=
  [0, 1, 2, 3].find? fun e => !tilesTaken s core e b c && !(coreOf s core).enginesOff.contains e

/-- The lowest base of `c` free tiles, with its lowest engine (10 R203). -/
def findTiles (s : State) (core c : Nat) : Option (Nat × Nat) :=
  ((List.range (64 / c)).filterMap fun i => (freeEngine s core (i * c) c).map fun e => (i * c, e)).head?

/-- The generation after one (10 R203). -/
def nextGen (g : Nat) : Nat := if g = 8191 then 1 else g + 1

/-- A range of `c` tiles given to a thread's slot on a core. -/
def grantTiles (s : State) (core c launch thread slot : Nat) (incoming : Bool) : Option (State × TileRange) :=
  match findTiles s core c with
  | none => none
  | some (b, e) =>
    let g := nextGen (coreOf s core).gen
    let r : TileRange := { id := s.nextOp, core := core, engine := e, base := b, count := c, gen := g, launch := launch,
                           thread := thread, slot := slot, incoming := incoming }
    some ({ mapCore s core (fun x => { x with gen := g }) with tileRanges := s.tileRanges ++ [r], nextOp := s.nextOp + 1 }, r)

/-- `mtile.alloc` in one lane (10 R203): d := 0 where it is refused. -/
def laneAlloc (d a : BitVec 7) (s : State) (iss : Issue) (t : Thread) : Except LaneEnd State :=
  match src32 s iss t a with
  | .error e => .error e
  | .ok (c, t1) =>
    let no := putThread s (put32 iss d 0 t1)
    if !([1, 2, 4, 8, 16].contains c.toNat) || (decide (t1.handle0 ≠ 0) && decide (t1.handle1 ≠ 0)) then .ok no
    else
      let slot := if t1.handle0 = 0 then 0 else 1
      match grantTiles s t1.core c.toNat t1.launch t1.thread slot false with
      | none => .ok no
      | some (s1, r) => .ok (putThread s1 (setSlot (put32 iss d (handleValue r) t1) slot (handleValue r)))

/-- A slot emptied, its range to be freed when its operations are complete (10 R204). -/
def freeSlot (s : State) (t : Thread) (slot : Nat) : State :=
  if slotValue t slot = 0 then s
  else mapRange (putThread s (setSlot t slot 0)) (slotRangeId s t slot) fun r => { r with freeing := true }

/-- `mtile.free` in one lane. -/
def laneTileFree (a : BitVec 7) (s : State) (iss : Issue) (t : Thread) : Except LaneEnd State :=
  match src32 s iss t a with
  | .error e => .error e
  | .ok (h, t1) =>
    match resolve t1 h with
    | .error e => .error e
    | .ok k => .ok (freeSlot (putThread s t1) t1 k)

/-! ### Operations of a handle -/

def isTask (o : TileOp) : Bool := o.kind == .task || o.kind == .sparseTask

def opsOf (s : State) (id : Nat) : List TileOp := s.tileOps.filter fun o => decide (o.range = id)

/-- Steps of a task: K/32 (10 Table 10-5). -/
def taskSteps (o : TileOp) : Nat := o.shape.toNat / 2 ^ 16 % 2048 + 1

/-- What `mprog` shows of the handle in a slot (10 R221); a pending marker is no operation of PEND (log 68). -/
def progress (s : State) (t : Thread) (slot : Nat) : Word :=
  let ops := opsOf s (slotRangeId s t slot)
  let last := (ops.filter isTask).getLast?
  let step := match last with
    | some o => if o.state = .complete then taskSteps o else o.step
    | none => 0
  let susp := match last with
    | some o => (match o.state with | .suspended _ => true | _ => false)
    | none => false
  let pend := ops.any fun o => o.kind != .fence && o.state != .complete
  let eng := match slotRange s t slot with
    | some r => if r.bound then 2 ^ 12 + r.engine * 2 ^ 13 else 0
    | none => 0
  BitVec.ofNat 32 (step + eng + (if pend then 2 ^ 15 else 0) + (if susp then 2 ^ 16 else 0))

/-- `mprog` in one lane. -/
def laneMprog (d a : BitVec 7) (s : State) (iss : Issue) (t : Thread) : Except LaneEnd Thread :=
  match src32 s iss t a with
  | .error e => .error e
  | .ok (h, t1) =>
    match resolve t1 h with
    | .error e => .error e
    | .ok k => .ok (put32 iss d (progress s t1 k) t1)

/-- Operations the scheduler of a core holds, those among them that a pre-emption has set aside (log 84). -/
def heldOps (s : State) (core : Nat) : Nat :=
  (s.tileOps.filter fun o => decide (o.core = core) && o.kind != .fence && o.state != .complete).length

/-- An operation entered for a thread, in its open batch unless it is a marker (10 R211, R215). -/
def enterOp (s : State) (t : Thread) (o : TileOp) : State :=
  let o1 := { o with id := s.nextOp, core := t.core, launch := t.launch, gang := t.gang, thread := t.thread,
                     segs := (gangOf s t).segs, tag := t.efftag }
  let t1 := if o.kind = .fence then t
    else { t with openBatch := { t.openBatch with issued := true, ops := t.openBatch.ops ++ [s.nextOp] } }
  putThread { s with tileOps := s.tileOps ++ [o1], nextOp := s.nextOp + 1 } t1

/-- An operation with nothing but its kind and range. -/
def bareOp (k : TileKind) (range : Nat) : TileOp :=
  { id := 0, core := 0, launch := 0, gang := 0, thread := 0, range := range, kind := k }

/-! ### The format word and the shape -/

/-- A valid combination (10 Table 10-3). -/
def formatOk (f : Word) : Bool :=
  let v := f.toNat
  let a := v % 16
  let b := v / 16 % 16
  let acc := v / 256 % 4
  let sa := v / 1024 % 2
  let sb := v / 2048 % 2
  let syn := v / 4096 % 4
  let eight := fun x => decide (x = 2) || decide (x = 3)
  decide (v / 2 ^ 14 = 0) && decide (acc ≤ 1)
    && ((decide (a = 0) && decide (b = 0) && decide (syn = 0) && decide (sa = 0) && decide (sb = 0))
      || (decide (a = 1) && decide (b = 1) && decide (syn = 0) && decide (sa = 0) && decide (sb = 0))
      || (decide (a = 7) && decide (b = 7) && (decide (syn = 1) || decide (syn = 2)) && decide (sa = 0) && decide (sb = 0))
      || (eight a && eight b && decide (syn = 0))
      || (decide (a = 4) && decide (b = 4) && decide (syn = 0) && decide (sa = 1) && decide (sb = 1))
      || (eight a && decide (b = 5) && decide (syn = 0) && decide (sb = 1))
      || (decide (a = 0) && decide (b = 5) && decide (syn = 0) && decide (sa = 0) && decide (sb = 1))
      || (decide (a = 6) && decide (b = 6) && decide (syn = 0) && decide (sa = 0) && decide (sb = 0)))

/-- Bits of an element type (10 Table 10-2). -/
def typeBits (ty : Nat) : Nat := match ty with | 0 => 16 | 1 => 16 | 4 => 4 | 7 => 32 | _ => 8

/-- M / 32, N / 32, K of a shape word (10 Table 10-5). -/
def shapeM (w : Word) : Nat := 2 ^ (w.toNat % 4)

def shapeN (w : Word) : Nat := 2 ^ (w.toNat / 4 % 4)

def shapeK (w : Word) : Nat := 32 * (w.toNat / 2 ^ 16 % 2048 + 1)

def shapeRmask (w : Word) : Bool := decide (w.toNat / 16 % 2 = 1)

def shapeBdep (w : Word) : Bool := decide (w.toNat / 32 % 2 = 1)

/-- A reserved bit or value of SHAPE, DEP or the last register (10 R211). -/
def shapeBad (sparse : Bool) (shape dep last : Word) : Bool :=
  decide (shape.toNat / 64 % 2 ^ 10 ≠ 0) || decide (shape.toNat / 2 ^ 27 ≠ 0) || decide (dep.toNat / 2 ^ 16 ≠ 0)
    || decide (shape.toNat % 4 = 3) || decide (shape.toNat / 4 % 4 = 3) || (sparse && shapeRmask shape) || decide (last ≠ 0)

/-- Ranges checked one after another as tile operands (10 R211). -/
def checkRanges (s : State) (t : Thread) : List (DWord × Nat) → Except LaneEnd Unit
  | [] => .ok ()
  | (p, n) :: rest =>
    match decodePointer s (accessorOf s t) .tileOperand p n 1 with
    | .error e => .error e
    | .ok _ => checkRanges s t rest

/-- The ranges of a task, in the order of R211. -/
def taskRanges (sparse : Bool) (f : Word) (o : TileOp) : List (DWord × Nat) :=
  let m := 32 * shapeM o.shape
  let n := 32 * shapeN o.shape
  let k := shapeK o.shape
  [(o.pa, (m - 1) * o.sa.toNat + k * typeBits (f.toNat % 16) / 8),
   (o.pb, (n - 1) * o.sb.toNat + k * typeBits (f.toNat / 16 % 16) / 8)]
    ++ (if f.toNat / 1024 % 2 = 1 then [(o.psa, m * k / 32)] else [])
    ++ (if f.toNat / 2048 % 2 = 1 then [(o.psb, n * k / 32)] else [])
    ++ (if sparse then [(o.pm, 4 * k * (shapeM o.shape + shapeN o.shape))]
        else if shapeRmask o.shape then [(o.pm, 4 * shapeM o.shape)] else [])

/-- The task of a block (10 Table 10-4). -/
def blockTask (sparse : Bool) (f : Word) (n range : Nat) (t : Thread) : TileOp :=
  let shape := blockReg t (n + 5)
  { bareOp (if sparse then .sparseTask else .task) range with
    fmt := f, pa := blockPair t n, pb := blockPair t (n + 2), shape := shape, sa := blockReg t (n + 6),
    sb := blockReg t (n + 7), psa := blockPair t (n + 8), psb := blockPair t (n + 10), pm := blockPair t (n + 12),
    bdep := if shapeBdep shape then some ((blockReg t (n + 14)).toNat % 2 ^ 16) else none }

/-- The last checks of a task: its alignments (10 R211). -/
def taskAligned (sparse : Bool) (o : TileOp) : Bool :=
  decide (o.pa.toNat % 16 = 0) && decide (o.pb.toNat % 16 = 0) && decide (o.sa.toNat % 16 = 0)
    && decide (o.sb.toNat % 16 = 0) && (!(sparse || shapeRmask o.shape) || decide (o.pm.toNat % 4 = 0))

/-- The checks of R211 in order: the task to enter, or a trap. -/
def checkTask (sparse : Bool) (f : Word) (n : Nat) (s : State) (t : Thread) : Except LaneEnd TileOp :=
  match resolve t (blockReg t (n + 4)) with
  | .error e => .error e
  | .ok k =>
    let v := slotValue t k
    let o := blockTask sparse f n (slotRangeId s t k) t
    if shapeBad sparse o.shape (blockReg t (n + 14)) (blockReg t (n + 15)) then .error (.trap .illegalOperand)
    else if handleCount v < shapeM o.shape * shapeN o.shape then .error (.trap .illegalOperand)
    else if o.bdep.isSome && decide (2 ^ 15 ≤ (t.bsealed.toNat + 2 ^ 16 - o.bdep.getD 0) % 2 ^ 16) then
      .error (.trap .illegalOperand)
    else
      match checkRanges s t (taskRanges sparse f o) with
      | .error e => .error e
      | .ok () => if taskAligned sparse o then .ok o else .error (.trap .misaligned)

/-- The elected lane's task entered, or the group waits for the scheduler (10 R211). -/
def laneTask (sparse : Bool) (a : BitVec 7) (n : Nat) (s : State) (iss : Issue) (t : Thread) : Except LaneEnd State :=
  match src32 s iss t a with
  | .error e => .error e
  | .ok (f, t1) =>
    match checkTask sparse f n s t1 with
    | .error e => .error e
    | .ok o => if Config.schedulerOps ≤ heldOps s t1.core then .ok (waitGroup .queue s) else .ok (enterOp s t1 o)

/-- Every live lane of a word ends with a trap. -/
def trapLanes (g : BitVec 2) (k : Trap) (s : State) : State := mapLanes g (fun _ _ _ => .error (.trap k)) s

/-- The format words of the active lanes. -/
def formats (g : BitVec 2) (a : BitVec 7) (s : State) (iss : Issue) : List Word := (laneValues g a s iss).map (·.2)

/-- `mtask` and `mtask.sb` for the group (10 R207): format words compared, then the elected lane's task. -/
def taskBody (sparse : Bool) (g : BitVec 2) (a : BitVec 7) (n : Nat) (s : State) : State :=
  match s.issue with
  | none => s
  | some iss =>
    let s1 := mapLanes g (readOperand a) s
    match formats g a s1 iss with
    | [] => s1
    | f :: fs =>
      if fs.any (fun x => x != f) then trapLanes g .formatDivergence s1
      else if !formatOk f then trapLanes g .illegalOperand s1
      else electLane g (laneTask sparse a n) s1

/-! ### Tile moves (10 R222) -/

/-- Bits of an element in memory: 32, or as FMT of `mtile.cvt` says (10 Table 10-7). -/
def moveBits (k : TileKind) (fmt : Nat) : Nat :=
  if k = .convert then (match fmt with | 0 => 16 | 1 => 16 | 6 => 4 | _ => 8) else 32

/-- The operation of a tile-move block (10 Table 10-6). -/
def blockMove (k : TileKind) (n range : Nat) (t : Thread) : TileOp :=
  { bareOp k range with
    pa := blockPair t n, psa := blockPair t (n + 2), ctl := blockReg t (n + 4), sa := blockReg t (n + 5) }

def moveT0 (c : Word) : Nat := c.toNat / 16 % 16

def moveFmt (c : Word) : Nat := c.toNat / 256 % 16

/-- Check 2: reserved fields and values, and the region inside the handle. -/
def moveBad (k : TileKind) (c r6 r7 : Word) (tiles : Nat) : Bool :=
  decide (c.toNat / 2 ^ 12 ≠ 0) || decide (r6 ≠ 0) || decide (r7 ≠ 0) || decide (c.toNat % 4 = 3)
    || decide (c.toNat / 4 % 4 = 3) || decide (tiles < moveT0 c + shapeM c * shapeN c)
    || (k != .convert && decide (moveFmt c ≠ 0)) || decide (7 ≤ moveFmt c)

/-- The ranges of a move: its data, and the scales of an MX format. -/
def moveRanges (k : TileKind) (o : TileOp) : List (DWord × Nat) :=
  let m := 32 * shapeM o.ctl
  let n := 32 * shapeN o.ctl
  if k = .zero then []
  else [(o.pa, (m - 1) * o.sa.toNat + n * moveBits k (moveFmt o.ctl) / 8)]
    ++ (if k = .convert ∧ 4 ≤ moveFmt o.ctl then [(o.psa, m * n / 32)] else [])

/-- The checks of R222 in order. -/
def checkMove (k : TileKind) (h : Word) (n : Nat) (s : State) (t : Thread) : Except LaneEnd TileOp :=
  match resolve t h with
  | .error e => .error e
  | .ok slot =>
    let v := slotValue t slot
    let o := blockMove k n (slotRangeId s t slot) t
    if moveBad k o.ctl (blockReg t (n + 6)) (blockReg t (n + 7)) (handleCount v) then .error (.trap .illegalOperand)
    else
      match checkRanges s t (moveRanges k o) with
      | .error e => .error e
      | .ok () =>
        if k ≠ .zero ∧ (o.pa.toNat % 16 ≠ 0 ∨ o.sa.toNat % 16 ≠ 0) then .error (.trap .misaligned) else .ok o

/-- The elected lane's move entered, or the group waits for the scheduler. -/
def laneMove (k : TileKind) (a : BitVec 7) (n : Nat) (s : State) (iss : Issue) (t : Thread) : Except LaneEnd State :=
  match src32 s iss t a with
  | .error e => .error e
  | .ok (h, t1) =>
    match checkMove k h n s t1 with
    | .error e => .error e
    | .ok o => if Config.schedulerOps ≤ heldOps s t1.core then .ok (waitGroup .queue s) else .ok (enterOp s t1 o)

/-- `mfence` of the elected lane: a marker in the handle's queue (10 R215). -/
def laneMfence (a : BitVec 7) (s : State) (iss : Issue) (t : Thread) : Except LaneEnd State :=
  match src32 s iss t a with
  | .error e => .error e
  | .ok (h, t1) =>
    match resolve t1 h with
    | .error e => .error e
    | .ok k => .ok (enterOp s t1 (bareOp .fence (slotRangeId s t1 k)))

/-! ### The instructions -/

/-- R203: `mtile.alloc`. -/
def execMtileAlloc (g : BitVec 2) (d a : BitVec 7) (s : State) : Out := foldWord g (laneAlloc d a) s

/-- R221: `mprog`. -/
def execMprog (g : BitVec 2) (d a : BitVec 7) (s : State) : Out := laneWord g (laneMprog d a) s

/-- R209: `mtask`. -/
def execMtask (g : BitVec 2) (a : BitVec 7) (n : BitVec 2) (s : State) : Out :=
  .next (wordRun (taskBody false g a (16 * n.toNat)) s)

/-- R209, R217: `mtask.sb`. -/
def execMtaskSb (g : BitVec 2) (a : BitVec 7) (n : BitVec 2) (s : State) : Out :=
  .next (wordRun (taskBody true g a (16 * n.toNat)) s)

/-- R204: `mtile.free`. -/
def execMtileFree (g : BitVec 2) (a : BitVec 7) (s : State) : Out := foldWord g (laneTileFree a) s

/-- R207, R223: `mtile.ld`: the elected lane alone reads the operand and acts. -/
def execMtileLd (g : BitVec 2) (a : BitVec 7) (n : BitVec 3) (s : State) : Out :=
  electWord g (laneMove .load a (8 * n.toNat)) s

/-- R207, R223: `mtile.st`. -/
def execMtileSt (g : BitVec 2) (a : BitVec 7) (n : BitVec 3) (s : State) : Out :=
  electWord g (laneMove .store a (8 * n.toNat)) s

/-- R207, R223: `mtile.zero`. -/
def execMtileZero (g : BitVec 2) (a : BitVec 7) (n : BitVec 3) (s : State) : Out :=
  electWord g (laneMove .zero a (8 * n.toNat)) s

/-- R207, R223: `mtile.cvt`. -/
def execMtileCvt (g : BitVec 2) (a : BitVec 7) (n : BitVec 3) (s : State) : Out :=
  electWord g (laneMove .convert a (8 * n.toNat)) s

/-- R207, R215: `mfence`. -/
def execMfence (g : BitVec 2) (a : BitVec 7) (s : State) : Out := electWord g (laneMfence a) s

end Sys2Proof.Machine
end

