-- ==== Sys2Proof/Machine/Copy.lean ====
section
/-! DEFINITION. Tensor copies and batches (11 R226 to R242). -/

namespace Sys2Proof.Machine

open Sys2Proof (Byte Word DWord Instr)

/-! ### Layout records (11 R228 to R230) -/

/-- Numbers of `n` bytes at successive offsets. -/
def fieldsAt (b : List Byte) (o n count : Nat) : List Nat := (List.range count).map fun i => field b (o + n * i) n

/-- The record of 256 bytes, its dimensions up to RANK. -/
def parseLayout (b : List Byte) : Layout :=
  let r := field b 0 1
  { rank := r, es := 2 ^ field b 1 1, swz := field b 2 1, nosent := decide (field b 3 1 % 2 = 1),
    fill := BitVec.ofNat 64 (field b 8 8),
    extents := (fieldsAt b 0x10 4 r).map (· + 1), strides := (fieldsAt b 0x50 8 r).map (sextInt 64),
    box := (fieldsAt b 0xD0 1 r).map (· + 1) }

/-- Rows of the tile of a box. -/
def layoutRows (l : Layout) : Nat := productOf (l.box.drop 1)

/-- Tile bytes TB. -/
def tileBytes (l : Layout) : Nat := l.es * productOf l.box

/-- A reserved value or a nonzero reserved field, a bad RANK, a bad stride (11 R230). -/
def layoutBad (b : List Byte) : Bool :=
  let r := field b 0 1
  let es := 2 ^ field b 1 1
  let zeroFrom := fun o n => (fieldsAt b o n 16).drop r |>.any (· != 0)
  decide (3 < field b 1 1) || decide (3 < field b 2 1) || decide (1 < field b 3 1) || decide (field b 4 4 ≠ 0)
    || decide (2 ^ (8 * es) ≤ field b 8 8) || decide (field b 0xE0 32 ≠ 0) || decide (r = 0) || decide (16 < r)
    || zeroFrom 0x10 4 || zeroFrom 0x50 8 || zeroFrom 0xD0 1
    || (fieldsAt b 0x50 8 r).any (fun x => decide (x % es ≠ 0)) || decide (field b 0x50 8 ≠ es)

/-- The record at a pointer, read by the thread and checked; `more` says what else makes it illegal. -/
def readLayout (s : State) (t : Thread) (p : DWord) (more : Layout → Bool) : Except LaneEnd Layout :=
  match threadLoadBlock s t .copySource p 4 with
  | .error e => .error e
  | .ok b => if layoutBad b || more (parseLayout b) then .error (.trap .illegalOperand) else .ok (parseLayout b)

/-- What `cp.t` asks of a layout beyond R230's common rules. -/
def boxBad (l : Layout) : Bool :=
  decide (2 ^ 20 < tileBytes l) || decide (tileBytes l % 16 ≠ 0) || (decide (l.swz ≠ 0) && decide (tileBytes l % 128 ≠ 0))

/-! ### Geometry (11 R229) -/

/-- The coordinates of the i-th box point. -/
def boxPoint : List Nat → Nat → List Nat
  | [], _ => []
  | b :: bs, i => i % b :: boxPoint bs (i / b)

/-- The tensor coordinates of a box point. -/
def coordsOf (origin : List Int) (b : List Nat) : List Int := List.zipWith (fun c (x : Nat) => c + (x : Int)) origin b

def inExtent (c : Int) (e : Nat) : Bool := decide (0 ≤ c) && decide (c < (e : Int))

def inRange (l : Layout) (cs : List Int) : Bool := (List.zipWith inExtent cs l.extents).all id

/-- The byte offset of an element from BASE. -/
def tensorOffset (l : Layout) (cs : List Int) : Int := (List.zipWith (· * ·) cs l.strides).foldl (· + ·) 0

/-- A pointer moved by a signed offset, modulo 2^64. -/
def plusInt (p : DWord) (n : Int) : DWord := BitVec.ofNat 64 (wrapInt 64 (p.toNat + n))

/-- The swizzled offset of a tile byte. -/
def swizzle (l : Layout) (o : Nat) : Nat := Nat.xor o (o / 128 % 2 ^ l.swz * 16)

/-- Mask bytes after a tile of `rows` rows. -/
def maskBytes (rows : Nat) : Nat := 4 * ((rows + 31) / 32)

/-- The lowest and highest in-range coordinate of one dimension of a box, if there is one. -/
def spanOf (c : Int) (b e : Nat) : Option (Int × Int) :=
  let lo := max c 0
  let hi := min (c + (b : Int) - 1) ((e : Int) - 1)
  if hi < lo then none else some (lo, hi)

/-- The spans of all dimensions, if the box has an element in range. -/
def spansOf : List Int → List Nat → List Nat → Option (List (Int × Int))
  | c :: cs, b :: bs, e :: es =>
    match spanOf c b e, spansOf cs bs es with
    | some x, some xs => some (x :: xs)
    | _, _ => none
  | _, _, _ => some []

/-- The tensor range of a box: its pointer and length; none where no element is in range (11 R231). -/
def boxRange (l : Layout) (base : DWord) (origin : List Int) : Option (DWord × Nat) :=
  (spansOf origin l.box l.extents).map fun sp =>
    let ends := List.zipWith (fun (x : Int × Int) (d : Int) => (x.1 * d, x.2 * d)) sp l.strides
    let lo := (ends.map fun x => min x.1 x.2).foldl (· + ·) 0
    let hi := (ends.map fun x => max x.1 x.2).foldl (· + ·) 0
    (plusInt base lo, (hi - lo).toNat + l.es)

/-- The range of a whole rank-2 tensor (11 R233). -/
def wholeRange (l : Layout) (base : DWord) : DWord × Nat :=
  let reach := ((l.extents.getD 1 1 : Nat) - 1 : Int) * l.strides.getD 1 0
  (plusInt base (min 0 reach), (max 0 reach - min 0 reach).toNat + l.extents.getD 0 1 * l.es)

/-! ### Issue -/

/-- Ranges checked one after another (11 R231), each under its own class. -/
def checkCopyRanges (s : State) (t : Thread) : List (AccessClass × DWord × Nat) → Except LaneEnd Unit
  | [] => .ok ()
  | (k, p, n) :: rest =>
    match decodePointer s (accessorOf s t) k p n 1 with
    | .error e => .error e
    | .ok _ => checkCopyRanges s t rest

/-- The class of one byte of a range (11 R240); one that has no translation at issue counts as local HBM (log 85). -/
def pointClass (s : State) (t : Thread) (p : DWord) : CopyClass :=
  let f := pointerFields s p
  let g := placeOf s (accessorOf s t) f.1 f.2
  match g with
  | .peer _ _ => .peer
  | .cell _ other => if other then .otherDie else .localHbm
  | _ =>
    match locateFor s t.core t.efftag (launchOf s t.launch).ctx g .read .copy 1 with
    | .error _ => .localHbm
    | .ok loc => if 2 ^ 39 ≤ loc then .host else if homeOf s loc ≠ dieOfCore t.core then .otherDie else .localHbm

/-- Points of a range, one in every page or gang's part, and its last byte. -/
def rangePoints (p : DWord) (n : Nat) : List DWord :=
  let step := if p.toNat / 2 ^ 60 = 2 ∨ p.toNat / 2 ^ 60 = 3 then 4096 else 65536
  if n = 0 then [] else (List.range ((n + step - 1) / step)).map (fun i => plusBytes p (step * i)) ++ [plusBytes p (n - 1)]

/-- The first class of R240's list that fits. -/
def classOfRanges (s : State) (t : Thread) (rs : List (AccessClass × DWord × Nat)) : CopyClass :=
  let cs := rs.flatMap fun r => (rangePoints r.2.1 r.2.2).map (pointClass s t)
  if cs.contains .host then .host
  else if cs.contains .peer then .peer
  else if cs.contains .otherDie then .otherDie
  else .localHbm

/-- Copies of a core in flight, which hold its slots. -/
def slotsUsed (s : State) (core : Nat) : Nat := (s.copies.filter fun c => decide (c.core = core)).length

/-- A checked copy issued for a thread, or its segment ended for want of a slot (11 R226). -/
def issueCopy (s : State) (t : Thread) (c : Copy) (rs : List (AccessClass × DWord × Nat)) : Except LaneEnd State :=
  if Config.coreCopies ≤ slotsUsed s t.core then .error .copySlot
  else
    let c1 := { c with id := s.nextOp, core := t.core, launch := t.launch, gang := t.gang, thread := t.thread,
                       cls := classOfRanges s t rs, segs := (gangOf s t).segs, tag := t.efftag,
                       detachedHere := t.detachedHere }
    let b := t.openBatch
    .ok (putThread { s with copies := s.copies ++ [c1], nextOp := s.nextOp + 1 }
      { t with openBatch := { issued := true, ops := b.ops ++ [s.nextOp], bytes := b.bytes + c.nominal } })

/-- A copy with nothing but its kind. -/
def bareCopy (k : CopyKind) : Copy := { id := 0, core := 0, launch := 0, gang := 0, thread := 0, kind := k, cls := .localHbm }

/-- The origin of a coordinate block: pair d(m + 2d) as a signed value (11 R231). -/
def originOf (t : Thread) (m rank : Nat) : List Int := (List.range rank).map fun d => (blockPair t (m + 2 * d)).toInt

/-- `cp.t` in one lane (11 R231). -/
def laneCpT (n m : Nat) (s : State) (_iss : Issue) (t : Thread) : Except LaneEnd State :=
  let base := blockPair t (n + 2)
  let tile := blockPair t (n + 4)
  let ctl := blockReg t (n + 6)
  match readLayout s t (blockPair t n) boxBad with
  | .error e => .error e
  | .ok l =>
    if decide (1 < ctl.toNat) || decide (blockReg t (n + 7) ≠ 0) || decide (64 < m + 2 * l.rank) then .error (.trap .illegalOperand)
    else
      let out := decide (ctl.toNat = 1)
      let origin := originOf t m l.rank
      let tensor := ((boxRange l base origin).toList).map fun r => (if out then AccessClass.copyDest else .copySource, r)
      let rs := tensor ++ [(if out then AccessClass.copySource else .copyDest, tile,
        tileBytes l + (if out then 0 else maskBytes (layoutRows l)))]
      match checkCopyRanges s t rs with
      | .error e => .error e
      | .ok () =>
        if base.toNat % l.es ≠ 0 ∨ tile.toNat % 16 ≠ 0 then .error (.trap .misaligned)
        else issueCopy s t
          { bareCopy .tensor with layout := l, src := base, dst := tile, toTensor := out, origin := origin, nominal := tileBytes l } rs

/-- `cp.g` and `cp.s` in one lane (11 R233). -/
def laneCpRows (k : CopyKind) (n : Nat) (b : BitVec 7) (s : State) (iss : Issue) (t : Thread) : Except LaneEnd State :=
  let base := blockPair t (n + 2)
  let tile := blockPair t (n + 4)
  let ctl := blockReg t (n + 6)
  let index := src64 s iss t b
  match readLayout s t (blockPair t n) (fun l => decide (l.rank ≠ 2)) with
  | .error e => .error e
  | .ok l =>
    let cnt := ctl.toNat % 256 + 1
    let rb := l.es * l.box.getD 0 1
    if decide (256 ≤ ctl.toNat) || decide (cnt * rb % 4 ≠ 0) then .error (.trap .illegalOperand)
    else
      let gather := k == .gather
      let rs : List (AccessClass × DWord × Nat) :=
        [(.copySource, index, 4 * cnt), (if gather then .copySource else .copyDest, wholeRange l base),
         (if gather then .copyDest else .copySource, tile, cnt * rb + (if gather then maskBytes cnt else 0))]
      match checkCopyRanges s t rs with
      | .error e => .error e
      | .ok () =>
        if index.toNat % 4 ≠ 0 ∨ base.toNat % l.es ≠ 0 ∨ tile.toNat % 16 ≠ 0 then .error (.trap .misaligned)
        else issueCopy s t
          { bareCopy k with
            layout := l, src := base, dst := tile, index := index, count := cnt,
            origin := [(blockReg t (n + 7)).toInt], nominal := cnt * rb } rs

/-- `cp.l` and `cp.red` in one lane (11 R235). -/
def laneCpLinear (k : CopyKind) (n : Nat) (s : State) (_iss : Issue) (t : Thread) : Except LaneEnd State :=
  let src := blockPair t n
  let dst := blockPair t (n + 2)
  let len := (blockReg t (n + 4)).toNat
  let ctl := (blockReg t (n + 5)).toNat
  let most := if k = .reduce then 2 else 0
  if decide (most < ctl) || decide (blockReg t (n + 6) ≠ 0) || decide (blockReg t (n + 7) ≠ 0) then .error (.trap .illegalOperand)
  else
    let rs : List (AccessClass × DWord × Nat) := [(.copySource, src, len), (if k = .reduce then .sync else .copyDest, dst, len)]
    match checkCopyRanges s t rs with
    | .error e => .error e
    | .ok () =>
      if src.toNat % 4 ≠ 0 ∨ dst.toNat % 4 ≠ 0 ∨ len % 4 ≠ 0 then .error (.trap .misaligned)
      else issueCopy s t { bareCopy k with src := src, dst := dst, len := len, rtype := ctl, nominal := len } rs

/-! ### The accesses of a copy -/

/-- Why an engine's access does not proceed: a fault, a way, a page or a circuit that is not open, or a peer that is to be asked
for the line of a location. -/
inductive EngineStop where
  | fault (word : DWord) (peer : Nat)
  | wait
  | ask (peer va loc : Nat)
  deriving DecidableEq, Repr

/-- The check context of an engine that acts for a thread (11 R226, 10 R207). -/
def engineAccessor (s : State) (launch gang thread core : Nat) (segs : List Seg) : Accessor :=
  let lr := launchOf s launch
  { launch := launch, gang := gang, thread := thread, core := core, window := 0, clsize := lr.clsize,
    part := (ctxOf s lr.ctx).partition, segs := segs }

/-- The circuits to a peer are down (23 R374). -/
def targetHeld (s : State) (part : Nat) : Target → Bool
  | .peer n _ => (peerEntry s part n).reconf
  | _ => false

/-- For whom an engine accesses storage: its checks, its effective tag, what the access is for, and the source that a
fault word names (21 Table 21-3). -/
structure EngineUser where
  who : Accessor
  tag : Nat
  use : Use
  src : Nat
  deriving DecidableEq, Repr

/-- An engine's read finds its bytes in the L2 of its die (04 R94). -/
def engineHeld (s : State) (u : EngineUser) (loc n : Nat) (a : Acc) : Bool :=
  a == .read && eachByte (holdsByte s (dieOfCore u.who.core)) loc n

/-- The target and location of an engine's access of `n` bytes at a pointer. It waits while its page moves, and, for what its
die's L2 does not hold, while its request cannot reach the home. -/
def engineLocate (s : State) (u : EngineUser) (p : DWord) (n : Nat) (a : Acc) : Except EngineStop (Target × Nat) :=
  let x := u.who
  let f := pointerFields s p
  let g := placeOf s x f.1 f.2
  match locateFor s x.core u.tag (launchOf s x.launch).ctx g a u.use u.src with
  | .error w => .error (.fault w (targetPeer g))
  | .ok loc =>
    if isMoving s loc || windowPaused s loc then .error .wait
    else if engineHeld s u loc n a then .ok (g, loc)
    else if targetHeld s x.part g || !reach s (dieOfCore x.core) (accessDie s x.launch x.core g loc) u.tag then .error .wait
    else if isBad s loc && a != .write then .error (.fault (faultWord 7 a u.src (targetPeerf g) 0 (targetVa g)) (targetPeer g))
    else .ok (g, loc)

/-- The packets of an access to its home, once for each line one after another: a request and its response, of plain
traffic (23 R361). -/
def engineTrip (s : State) (u : EngineUser) (g : Target) (loc : Nat) (last : Option Nat) : Option State :=
  if last = some (loc / 128) then some s
  else roundTrip s (dieOfCore u.who.core) (accessDie s u.who.launch u.who.core g loc) false false u.tag

/-- The bytes of a read come: they are in the die's L2, or their line comes over the Felt and into it; a peer is asked for its
line (04 R94). -/
def engineFetch (s : State) (u : EngineUser) (g : Target) (loc n : Nat) (last : Option Nat) : Except EngineStop State :=
  if engineHeld s u loc n .read then .ok s
  else
    match g with
    | .peer p va => .error (.ask p va loc)
    | _ =>
      match engineTrip s u g loc last with
      | none => .error .wait
      | some s1 => .ok (fillDie s1 (dieOfCore u.who.core) loc)

/-- `n` bytes as an engine of a core reads them, through the L2 of its die (04 R94). -/
def engineBytes (s : State) (core loc n : Nat) : Nat := natOfBytes (seenBytes (dieByte s (dieOfCore core)) [] loc n)

/-- The physical address of an engine's access behind a host window. -/
def enginePa (s : State) (u : EngineUser) (g : Target) : Nat := hostPa s u.who.core u.tag g

/-- `n` bytes written by an engine at their home: the core's own caches hold them no longer (05 R115). -/
def engineStore (s : State) (u : EngineUser) (g : Target) (loc n v : Nat) : State :=
  portWrite (homePut (dropWords s u.who.core loc n) (dieOfCore u.who.core) loc n v) (enginePa s u g) n v

def copyUser (s : State) (c : Copy) : EngineUser :=
  { who := engineAccessor s c.launch c.gang c.thread c.core c.segs, tag := c.tag,
    use := if c.kind = .reduce then .copyReduce else .copy, src := 1 }

/-- A copy's packet to a peer, for which its F-die holds the copy's number (05 R118). -/
def copySend (s : State) (c : Copy) (g : Target) (k : Nat → RenharKind) : State :=
  match g with
  | .peer n va => renharAsk s (pathOf s (copyUser s c).who.part c.launch n) 0 c.id c.core va (k va) none
  | _ => s

/-- What an access of a copy leads to: the state, the copy, and why it stops if it does. -/
abbrev CopyRun : Type := State × Copy × Option EngineStop

/-- `n` bytes read by a copy. -/
def copyRead (s : State) (c : Copy) (p : DWord) (n : Nat) : Except EngineStop (State × Copy × Nat) :=
  match engineLocate s (copyUser s c) p n .read with
  | .error e => .error e
  | .ok (g, loc) =>
    match engineFetch s (copyUser s c) g loc n c.readLine with
    | .error e => .error e
    | .ok s1 =>
      .ok (portRead s1 (enginePa s (copyUser s c) g) n, { c with readLine := some (loc / 128) }, engineBytes s1 c.core loc n)

/-- The bytes of a posted write. -/
def postedKind (n v va : Nat) : RenharKind := .postedWrite va ((List.range n).zip (bytesOfNat v n))

/-- A copy's write or read-modify-write made: `kind` says what goes to a peer, `apply` what becomes of the location. -/
def copyPut (s : State) (c : Copy) (p : DWord) (n : Nat) (a : Acc) (kind : Nat → RenharKind)
    (apply : State → Target → Nat → State) : CopyRun :=
  match engineLocate s (copyUser s c) p n a with
  | .error e => (s, c, some e)
  | .ok (g, loc) =>
    match engineTrip s (copyUser s c) g loc c.writeLine with
    | none => (s, c, some .wait)
    | some s1 =>
      (apply (copySend s1 c g kind) g loc,
        { c with writeLine := some (loc / 128), unacked := if targetPeerf g then c.unacked + 1 else c.unacked }, none)

/-- `n` bytes written. -/
def putBytes (s : State) (c : Copy) (p : DWord) (n v : Nat) : CopyRun :=
  copyPut s c p n .write (postedKind n v) fun x g loc => engineStore x (copyUser x c) g loc n v

/-- `n` bytes moved. -/
def moveBytes (s : State) (c : Copy) (src dst : DWord) (n : Nat) : CopyRun :=
  match copyRead s c src n with
  | .error e => (s, c, some e)
  | .ok (s1, c1, v) => putBytes s1 c1 dst n v

/-- One after another, until one stops. -/
def inTurn (f : State → Copy → Nat → CopyRun) : State → Copy → List Nat → CopyRun
  | s, c, [] => (s, c, none)
  | s, c, i :: is =>
    match f s c i with
    | (s1, c1, none) => inTurn f s1 c1 is
    | r => r

/-- The pointer to the tensor element of the i-th box point, where it is in range. -/
def pointAt (c : Copy) (i : Nat) : Option DWord :=
  let cs := coordsOf c.origin (boxPoint c.layout.box i)
  if inRange c.layout cs then some (plusInt c.src (tensorOffset c.layout cs)) else none

/-- The i-th box point of a `cp.t` (11 R232). -/
def tensorPoint (s : State) (c : Copy) (i : Nat) : CopyRun :=
  let l := c.layout
  let cs := coordsOf c.origin (boxPoint l.box i)
  let at_ := plusInt c.src (tensorOffset l cs)
  let tile := plusBytes c.dst (swizzle l (l.es * i))
  if c.toTensor then (if inRange l cs then moveBytes s c tile at_ l.es else (s, c, none))
  else if inRange l cs then moveBytes s c at_ tile l.es
  else putBytes s c tile l.es l.fill.toNat

/-- Row q of a box holds an element in range. -/
def rowInRange (c : Copy) (q : Nat) : Bool :=
  let b0 := c.layout.box.getD 0 1
  (List.range b0).any fun x => inRange c.layout (coordsOf c.origin (boxPoint c.layout.box (b0 * q + x)))

/-- Word w of a mask whose bits are given by row, of `rows` rows. -/
def maskWord (rows w : Nat) (f : Nat → Bool) : Nat :=
  (List.range 32).foldl (fun v i => if 32 * w + i < rows && f (32 * w + i) then v + 2 ^ i else v) 0

/-- The coordinates of element b0 of the row of an index. -/
def rowCoords (c : Copy) (x b0 : Nat) : List Int := [c.origin.getD 0 0 + (b0 : Int), (x : Int)]

/-- How an index word is classed (11 R234). -/
inductive IndexClass where
  | skip | out | inside
  deriving DecidableEq, Repr

def indexClass (l : Layout) (x : Word) : IndexClass :=
  if x = 0xFFFFFFFF ∧ l.nosent = false then .skip
  else if l.extents.getD 1 1 ≤ x.toNat then .out
  else .inside

/-- One element of row q of a `cp.g` or `cp.s`. -/
def rowElement (q : Nat) (x : Word) (s : State) (c : Copy) (b0 : Nat) : CopyRun :=
  let l := c.layout
  let cs := rowCoords c x.toNat b0
  let inside := indexClass l x == .inside && inRange l cs
  let at_ := plusInt c.src (tensorOffset l cs)
  let tile := plusBytes c.dst (l.es * (q * l.box.getD 0 1 + b0))
  match c.kind with
  | .gather => if inside then moveBytes s c at_ tile l.es else putBytes s c tile l.es l.fill.toNat
  | _ => if inside then moveBytes s c tile at_ l.es else (s, c, none)

/-- Index word q, read once. -/
def readIndex (s : State) (c : Copy) (q : Nat) : CopyRun :=
  match copyRead s c (plusBytes c.index (4 * q)) 4 with
  | .error e => (s, c, some e)
  | .ok (s1, c1, v) => (s1, { c1 with indices := c1.indices.take q ++ [BitVec.ofNat 32 v] }, none)

/-- Row q of a `cp.g` or `cp.s`: the index words not yet read, then its elements. -/
def rowPiece (s : State) (c : Copy) (q : Nat) : CopyRun :=
  match inTurn readIndex s c ((List.range c.count).drop c.indices.length) with
  | (s1, c1, none) =>
    let x := c1.indices.getD q 0
    if indexClass c.layout x = .skip then (s1, c1, none)
    else inTurn (rowElement q x) s1 c1 (List.range (c.layout.box.getD 0 1))
  | r => r

/-- Mask bit q of a `cp.g`. -/
def gatherBit (c : Copy) (q : Nat) : Bool :=
  match c.indices[q]? with
  | none => false
  | some x => indexClass c.layout x == .inside && (List.range (c.layout.box.getD 0 1)).any fun b0 =>
      inExtent (c.origin.getD 0 0 + (b0 : Int)) (c.layout.extents.getD 0 1)

/-- A sum of `cp.red` (11 R235). -/
def reduceWord (rtype old v : Nat) : Nat :=
  match rtype with
  | 0 => (old + v) % 2 ^ 32
  | 1 => (fAdd fmtF32 .rne old v).1
  | _ => addBf16x2 old v

/-- The operation of a peer's atomic that is a sum of `cp.red` (09 R187). -/
def reduceOp (rtype : Nat) : Nat := match rtype with | 0 => 0 | 1 => 10 | _ => 11

/-- Word i of a `cp.red`: one relaxed atomic read-modify-write at the word's home. -/
def reducePiece (s : State) (c : Copy) (i : Nat) : CopyRun :=
  match copyRead s c (plusBytes c.src (4 * i)) 4 with
  | .error e => (s, c, some e)
  | .ok (s1, c1, v) =>
    copyPut s1 c1 (plusBytes c.dst (4 * i)) 4 .modify
      (fun va => .atomic va (reduceOp c.rtype) false false 0 (BitVec.ofNat 64 v)) fun x g loc =>
        engineStore x (copyUser x c) g loc 4 (reduceWord c.rtype (readNat x.mem loc 4) v)

/-- How many pieces a copy has. -/
def copyPieces (c : Copy) : Nat :=
  match c.kind with
  | .tensor => productOf c.layout.box + (if c.toTensor then 0 else (layoutRows c.layout + 31) / 32)
  | .gather => c.count + (c.count + 31) / 32
  | .scatter => c.count
  | _ => c.len / 4

/-- The copy's next piece. -/
def copyPiece (s : State) (c : Copy) : CopyRun :=
  let i := c.progress
  match c.kind with
  | .tensor =>
    let n := productOf c.layout.box
    if i < n then tensorPoint s c i
    else putBytes s c (plusBytes c.dst (tileBytes c.layout + 4 * (i - n))) 4
      (maskWord (layoutRows c.layout) (i - n) (rowInRange c))
  | .gather =>
    if i < c.count then rowPiece s c i
    else putBytes s c (plusBytes c.dst (c.count * c.layout.es * c.layout.box.getD 0 1 + 4 * (i - c.count))) 4
      (maskWord c.count (i - c.count) (gatherBit c))
  | .scatter => rowPiece s c i
  | .linear => moveBytes s c (plusBytes c.src (4 * i)) (plusBytes c.dst (4 * i)) 4
  | .reduce => reducePiece s c i

/-- `n` pieces, until one stops. -/
def copySteps : Nat → State → Copy → CopyRun
  | 0, s, c => (s, c, none)
  | n + 1, s, c =>
    match copyPiece s c with
    | (s1, c1, none) => copySteps n s1 { c1 with progress := c1.progress + 1 }
    | r => r

/-! ### Whole words (05 R108, R116; 11 R241, R242) -/

/-- Every number of one list lies below every number of the other, or above. -/
def apart (a b : List Nat) : Bool :=
  let below := fun (x y : List Nat) => decide (x.foldl max 0 < y.foldl min (2 ^ 64))
  a.isEmpty || b.isEmpty || below a b || below b a

/-- The 4-byte words of the tensor that box points touch. -/
def pointWords (c : Copy) (is : List Nat) : List Nat := (is.filterMap (pointAt c)).map fun p => p.toNat / 4

/-- The 4-byte words of the tensor that a row of a `cp.g` or `cp.s` touches. -/
def rowWords (c : Copy) (q : Nat) : List Nat :=
  let x := c.indices.getD q 0
  if indexClass c.layout x = .inside then
    (List.range (c.layout.box.getD 0 1)).filterMap fun b0 =>
      let cs := rowCoords c x.toNat b0
      if inRange c.layout cs then some ((plusInt c.src (tensorOffset c.layout cs)).toNat / 4) else none
  else []

/-- The rows before j and those from j on share no word, of the tile or of the tensor. -/
def rowsApart (c : Copy) (j : Nat) : Bool :=
  let es := c.layout.es
  let later := ((List.range (c.count - j)).map (· + j)).flatMap (rowWords c)
  decide (4 ≤ es) || decide (c.count ≤ j)
    || (decide (es * c.layout.box.getD 0 1 * j % 4 = 0)
      && (((List.range j).flatMap (rowWords c)).all fun w => !later.contains w))

/-- Before piece j no 4-byte word of source or destination is touched that the pieces from j on touch, too. -/
def atWord (c : Copy) (j : Nat) : Bool :=
  let es := c.layout.es
  match c.kind with
  | .tensor =>
    let n := productOf c.layout.box
    decide (4 ≤ es) || decide (n ≤ j)
      || (decide (es * j % 4 = 0) && apart (pointWords c (List.range j)) (pointWords c ((List.range (n - j)).map (· + j))))
  | .gather => rowsApart c j
  | .scatter => rowsApart c j
  | _ => true

/-- The last number that satisfies a test among the `n` after `lo`; `lo` where there is none. -/
def wordStop (f : Nat → Bool) (lo : Nat) : Nat → Nat
  | 0 => lo
  | n + 1 => if f (lo + n + 1) then lo + n + 1 else wordStop f lo n

/-- The pieces of a copy up to the first that stops. What it did of a word that it could not finish has not been done:
each word is read and written whole. -/
def copyRun (s : State) (c : Copy) : CopyRun :=
  match copySteps (copyPieces c - c.progress) s c with
  | (s1, c1, none) => (s1, c1, none)
  | (s1, c1, some e) =>
    let j := wordStop (atWord c1) c.progress (c1.progress - c.progress)
    if j = c1.progress && !(c.kind == .gather || c.kind == .scatter) then (s1, c1, some e)
    else
      let r := copySteps (j - c.progress) s c
      (r.1, { r.2.1 with indices := c1.indices }, some e)

def copyAt (s : State) (id : Nat) : Option Copy := s.copies.find? fun c => decide (c.id = id)

def setCopy (s : State) (c : Copy) : State := { s with copies := s.copies.map fun x => if x.id = c.id then c else x }

/-- New work of a launch is started: its context is not held, stopped or being removed (21 R333, 22 R341, R351). -/
def startsWork (s : State) (launch : Nat) : Bool :=
  let r := (ctxOfLaunch s launch).run
  r == .running || r == .stopping

/-- The posted stores that an engine access of a thread follows have drained (05 R101). -/
def storesDrained (s : State) (launch thread : Nat) : Bool :=
  ((threadAt s launch thread).map fun t => t.sbuf.isEmpty).getD true

/-- A copy may start (11 R226, R240): its thread's posted stores have drained, and no earlier copy of its class on its
core is still to start. One that has started goes on wherever it stood. -/
def copyReady (s : State) (c : Copy) : Bool :=
  c.state == .waiting && !c.setAside && (c.started || startsWork s c.launch) && storesDrained s c.launch c.thread
    && (c.started || !(s.copies.any fun x => decide (x.core = c.core) && x.cls == c.cls && decide (x.id < c.id)
        && x.state == .waiting && !x.started && !x.setAside))

/-- A peer asked for a line that a copy reads. -/
def askLine (s : State) (c : Copy) (peer va loc : Nat) : State :=
  match message s (dieOfCore c.core) (fdieOf s c.launch) false c.tag with
  | none => setCopy s c
  | some s1 =>
    copySend (setCopy s1 { c with asked := some loc }) c (.peer peer va) fun _ => .read (va / 128 * 128) 128

/-- A peer has answered the read of a copy, which leaves the books; none while its circuits are down. -/
def lineAnswer (s : State) (c : Copy) : Option State :=
  match s.renhar.out.find? (isRead 0 c.id) with
  | none => some s
  | some o => if o.held then none else some (dropRequest s o)

/-- The line that a copy has asked a peer for, in the L2 of the copy's die; none while it has not come. -/
def lineCome (s : State) (c : Copy) : Option (State × Copy) :=
  match c.asked with
  | none => some (s, c)
  | some loc =>
    (lineAnswer s c).bind fun s1 =>
      (messageOf 1 s1 (fdieOf s c.launch) (dieOfCore c.core) false c.tag).map fun s2 =>
        (fillDie s2 (dieOfCore c.core) loc, { c with asked := none })

/-- R240 to R242: a copy starts, and its accesses are performed up to the end or to the first that stops. -/
def execCopyStart (copy : Nat) (s : State) : Out :=
  match copyAt s copy with
  | none => .next s
  | some c =>
    if copyReady s c then
      match lineCome s { c with started := true } with
      | none => .next s
      | some (s0, c0) =>
        match copyRun s0 c0 with
        | (s1, c1, none) => .next (setCopy s1 { c1 with state := .moved })
        | (s1, c1, some (.fault w n)) => .next (enterFault (setCopy s1 { c1 with state := .parked w n }) c.launch c.core w n)
        | (s1, c1, some .wait) => .next (setCopy s1 c1)
        | (s1, c1, some (.ask n va loc)) => .next (askLine s1 c1 n va loc)
    else .next s

/-- An operation of a thread is complete: it leaves its batch, whose counter falls (11 R238, R239). -/
def finishOp (id bytes : Nat) (t : Thread) : Thread :=
  let f := fun (l : List Nat) => l.filter fun x => !decide (x = id)
  advanceBatches
    { t with openBatch := if t.openBatch.ops.contains id then
               { t.openBatch with ops := f t.openBatch.ops, bytes := t.openBatch.bytes - bytes } else t.openBatch,
             batches := t.batches.map fun b =>
               if b.ops.contains id then { b with ops := f b.ops, bytes := b.bytes - bytes } else b }

/-- A finished operation reported to its thread; a batch wait that it ends bins the record (09 R196). -/
def finishFor (s : State) (launch thread id bytes : Nat) : State :=
  match threadAt s launch thread with
  | none => s
  | some t => wakeBatch s (finishOp id bytes t)

/-- The records of a core that waited for a copy slot return to their bins (02 Table 2-3). -/
def wakeCopySlots (s : State) (core : Nat) : State :=
  s.threads.foldl (fun s1 t => if t.core = core ∧ awaits t = .copySlot then eventCame s1 t else s1) s

/-- R238: a copy completes, its writes to a peer acknowledged (05 R118), and frees its slot. -/
def execCopyComplete (copy : Nat) (s : State) : Out :=
  match copyAt s copy with
  | none => .next s
  | some c =>
    if c.state = .moved ∧ c.unacked = 0 then
      let s1 := finishFor { s with copies := s.copies.filter fun x => !decide (x.id = copy) } c.launch c.thread copy c.nominal
      .next (wakeCopySlots s1 c.core)
    else .next s

/-! ### Batches -/

/-- `seal` in one lane (11 R237): waits where 32,768 sealed batches would be unfinished. -/
def laneSeal (d : BitVec 7) (_s : State) (iss : Issue) (t : Thread) : Except LaneEnd Thread :=
  if 32768 ≤ unfinished t + 1 then .error (.wait .queue)
  else .ok (put32 iss d ((t.bsealed + 1).setWidth 32) (sealBatch t))

/-- `batch.bytes` in one lane (11 R239). -/
def laneBatchBytes (d a : BitVec 7) (s : State) (iss : Issue) (t : Thread) : Except LaneEnd Thread :=
  match src32 s iss t a with
  | .error e => .error e
  | .ok (v, t1) =>
    let b : BitVec 16 := v.setWidth 16
    if v.getLsbD 16 then .ok (put64 d (BitVec.ofNat 64 (t1.openBatch.bytes % 2 ^ 48)) t1)
    else if (b - t1.boldest).toNat < (t1.bsealed + 1 - t1.boldest).toNat then
      let n := ((t1.batches.find? fun x => decide (x.num = b.toNat)).map Batch.bytes).getD 0
      .ok (put64 d (BitVec.ofNat 64 (n % 2 ^ 48)) t1)
    else if (t1.bsealed - b).toNat < 2 ^ 15 then .ok (put64 d (BitVec.ofNat 64 (2 ^ 48)) t1)
    else .error (.trap .illegalOperand)

/-! ### The instructions -/

/-- R231: `cp.t`; block x(8n), coordinate block from register 2m. -/
def execCpT (g : BitVec 2) (n : BitVec 3) (m : BitVec 5) (s : State) : Out := foldWord g (laneCpT (8 * n.toNat) (2 * m.toNat)) s

/-- R233: `cp.g`. -/
def execCpG (g : BitVec 2) (n : BitVec 3) (b : BitVec 7) (s : State) : Out := foldWord g (laneCpRows .gather (8 * n.toNat) b) s

/-- R233: `cp.s`. -/
def execCpS (g : BitVec 2) (n : BitVec 3) (b : BitVec 7) (s : State) : Out := foldWord g (laneCpRows .scatter (8 * n.toNat) b) s

/-- R235: `cp.l`. -/
def execCpL (g : BitVec 2) (n : BitVec 3) (s : State) : Out := foldWord g (laneCpLinear .linear (8 * n.toNat)) s

/-- R235: `cp.red`. -/
def execCpRed (g : BitVec 2) (n : BitVec 3) (s : State) : Out := foldWord g (laneCpLinear .reduce (8 * n.toNat)) s

/-- R236: `cp.pf` changes no architectural state: it brings lines into the L2. -/
def execCpPf (g : BitVec 2) (a b : BitVec 7) (s : State) : Out := foldWord g (lanePrefetch false 4096 a b) s

/-- R237: `seal`. -/
def execSeal (g : BitVec 2) (d : BitVec 7) (s : State) : Out := laneWord g (laneSeal d) s

/-- R239: `batch.bytes`. -/
def execBatchBytes (g : BitVec 2) (d a : BitVec 7) (s : State) : Out := laneWord g (laneBatchBytes d a) s

end Sys2Proof.Machine
end

