-- ==== Sys2Proof/Machine/StreamInstr.lean ====
section
/-! DEFINITION. Stream instructions (12 R255 to R261). Bindings, derivations, skips and releases act after the run's
advances, in word order (R253); the queries read as the run's operands do. -/

namespace Sys2Proof.Machine

open Sys2Proof (Byte Word DWord Instr)

/-- The number of the stream that an operand code names. -/
def streamNo (c : BitVec 7) : Nat := c.toNat - 68

/-- A stream instruction noted for the end of the run. -/
def addAct (iss : Issue) (a : StreamAct) (t : Thread) : Thread := { t with acts := t.acts ++ [(iss.pos, a)] }

/-- `sbind` in one lane: its operands are read now. -/
def laneSbind (d a b : BitVec 7) (s : State) (iss : Issue) (t : Thread) : Except LaneEnd Thread :=
  match src32 s iss t b with
  | .error e => .error e
  | .ok (v, t1) => .ok (addAct iss (.bind (streamNo d) (src64 s iss t a) v) t1)

/-- `sskip` and `sskipn` in one lane. -/
def laneSkip (f : Nat → Word → StreamAct) (a b : BitVec 7) (s : State) (iss : Issue) (t : Thread) : Except LaneEnd Thread :=
  match src32 s iss t b with
  | .error e => .error e
  | .ok (v, t1) => .ok (addAct iss (f (streamNo a) v) t1)

/-- A bound stream as a query sees it, materialised: a slave as the level stream it is (12 R259). -/
def lookAt (s : State) (t : Thread) (n : Nat) : Except LaneEnd (Stream × Thread) :=
  match streamAt t n with
  | none => .error (.trap .illegalOperand)
  | some x =>
    match (if x.role = .slave then (match materialiseLevel s t x with
                                    | .error e => Except.error e
                                    | .ok x1 => .ok (putStream t x1))
           else materialise s t x) with
    | .error e => .error e
    | .ok t1 => .ok ((streamAt t1 n).getD x, t1)

/-- The stream that a query of the run has looked at before its words act, or looks at now (02 R35). -/
def queried (s : State) (t : Thread) (n : Nat) : Except LaneEnd (Stream × Thread) :=
  match t.looked.find? fun x => decide (x.1 = n), lookEnd t n with
  | some x, _ => .ok (x.2, t)
  | none, some y => .error y
  | none, none => lookAt s t n

def isDerived (x : Stream) : Bool := x.role == .intersection || x.role == .union

/-- The sides of a derived stream that are present at its coordinate, with its sources as they stood with it. -/
def sidesOf (t : Thread) (x : Stream) : Word :=
  if x.done then 0
  else if x.role = .intersection then 3
  else
    let src := sourcesOf t x
    let here := fun (y : Stream) => !y.done && y.crd == x.crd
    (if here src.1 then 1 else 0) + (if here src.2 then 2 else 0)

/-- POS as `spos` gives it. -/
def positionOf (x : Stream) : Nat :=
  if x.role = .append || isDerived x then x.pos else if x.done then x.fin else x.pos

/-- Exhaustion as `sdone` gives it: an append stream has reached its end (DEDUCED, log 33, for one bound past it). -/
def exhausted (x : Stream) : Bool := if x.role = .append then decide (x.fin ≤ x.pos) else x.done

/-- A query whose result goes to a register; `bad` are the roles it refuses. -/
def laneQuery (bad : Stream → Bool) (f : Thread → Stream → Word) (d a : BitVec 7) (s : State) (iss : Issue) (t : Thread) :
    Except LaneEnd Thread :=
  if ((streamAt t (streamNo a)).map bad).getD true then .error (.trap .illegalOperand)
  else
    match queried s t (streamNo a) with
    | .error e => .error e
    | .ok (x, t1) => .ok (put32 iss d (f t1 x) t1)

/-- The value that a read of a stream would deliver: as it was before the run (12 R259). -/
def peekedValue (s : State) (t : Thread) (n : Nat) : Except LaneEnd (Word × Thread) :=
  match t.peeked.find? fun x => decide (x.1 = n), readEnd t n with
  | some x, _ => .ok (x.2, t)
  | none, some y => .error y
  | none, none => peekStream s t n

/-- `speek` in one lane. -/
def laneSpeek (d a : BitVec 7) (s : State) (iss : Issue) (t : Thread) : Except LaneEnd Thread :=
  match peekedValue s t (streamNo a) with
  | .error e => .error e
  | .ok (v, t1) => .ok (put32 iss d v t1)

/-- `sdone` in one lane: class X, so no latch. -/
def laneSdone (p : BitVec 3) (a : BitVec 7) (s : State) (_iss : Issue) (t : Thread) : Except LaneEnd Thread :=
  match queried s t (streamNo a) with
  | .error e => .error e
  | .ok (x, t1) => .ok { t1 with pred := predSet t1.pred p.toNat (exhausted x) }

/-- R256: `sbind`. -/
def execSbind (g : BitVec 2) (d a b : BitVec 7) (s : State) : Out := laneWord g (laneSbind d a b) s

/-- R257: `sisect`. -/
def execSisect (g : BitVec 2) (d a b : BitVec 7) (s : State) : Out :=
  laneWord g (fun _ iss t => .ok (addAct iss (.derive (streamNo d) (streamNo a) (streamNo b) false) t)) s

/-- R257: `sunion`. -/
def execSunion (g : BitVec 2) (d a b : BitVec 7) (s : State) : Out :=
  laneWord g (fun _ iss t => .ok (addAct iss (.derive (streamNo d) (streamNo a) (streamNo b) true) t)) s

/-- R259: `speek`. -/
def execSpeek (g : BitVec 2) (d a : BitVec 7) (s : State) : Out := laneWord g (laneSpeek d a) s

/-- R259: `scrd`. -/
def execScrd (g : BitVec 2) (d a : BitVec 7) (s : State) : Out :=
  laneWord g (laneQuery (fun x => x.role == .append) (fun _ x => x.crd) d a) s

/-- R259: `spos`. -/
def execSpos (g : BitVec 2) (d a : BitVec 7) (s : State) : Out :=
  laneWord g (laneQuery (fun _ => false) (fun _ x => BitVec.ofNat 32 (positionOf x)) d a) s

/-- R259: `sin`. -/
def execSin (g : BitVec 2) (d a : BitVec 7) (s : State) : Out :=
  laneWord g (laneQuery (fun x => !isDerived x) sidesOf d a) s

/-- R259: `sdone`. -/
def execSdone (g : BitVec 2) (p : BitVec 3) (a : BitVec 7) (s : State) : Out := laneWord g (laneSdone p a) s

/-- R261: `sfree`. -/
def execSfree (g : BitVec 2) (a : BitVec 7) (s : State) : Out :=
  laneWord g (fun _ iss t => .ok (addAct iss (.free (streamNo a)) t)) s

/-- R260: `sskip`. -/
def execSskip (g : BitVec 2) (a b : BitVec 7) (s : State) : Out := laneWord g (laneSkip .skip a b) s

/-- R260: `sskipn`. -/
def execSskipn (g : BitVec 2) (a b : BitVec 7) (s : State) : Out := laneWord g (laneSkip .skipN a b) s

end Sys2Proof.Machine
end

