-- ==== Sys2Proof/Machine/Counter.lean ====
section
/-! DEFINITION. `ctr` and `tick` (13 R264 to R269). -/

namespace Sys2Proof.Machine

open Sys2Proof (Byte Word DWord Instr)

/-- The counters of groups 1 to 3 that Table 13-1 lists. -/
def isCounter (sel : Nat) : Bool :=
  (decide (0x0100 ≤ sel) && decide (sel ≤ 0x0104)) || (decide (0x0108 ≤ sel) && decide (sel ≤ 0x010D))
    || (decide (0x0200 ≤ sel) && decide (sel ≤ 0x0207))
    || (decide (0x0300 ≤ sel) && decide (sel < 0x0340) && decide (sel % 16 < 6))

/-- A counter as it stood before the run (13 R267). -/
def counterBefore (s : State) (iss : Issue) (t : Thread) (sel : Nat) : DWord :=
  let r := coreOf s t.core
  readCounter { r with counters := iss.cbefore.getD r.counters } sel

/-- `ctr` in one lane (13 R268). -/
def laneCtr (d a : BitVec 7) (s : State) (iss : Issue) (t : Thread) : Except LaneEnd Thread :=
  match src32 s iss t a with
  | .error e => .error e
  | .ok (v, t1) =>
    let sel := v.toNat % 2 ^ 16
    match sel with
    | 0 => .ok (put64 d ((oldFpsm t).setWidth 64) t1)
    | 1 => .ok (put64 d ((oldFpsm t).setWidth 64) { t1 with flagsClear := true })
    | 2 => .ok (put64 d t.trapWord t1)
    | _ =>
      if !isCounter sel then .error (.trap .illegalOperand)
      else .ok (put64 d (if (ctxOfLaunch s t.launch).ctren then counterBefore s iss t sel else 0) t1)

/-- R268: `ctr`. -/
def execCtr (g : BitVec 2) (d a : BitVec 7) (s : State) : Out := laneWord g (laneCtr d a) s

/-- R268, R269: `tick`. -/
def execTick (g : BitVec 2) (d : BitVec 7) (s : State) : Out := laneWord g (fun s _ t => .ok (put64 d s.timeBase t)) s

end Sys2Proof.Machine
end

