-- ==== Sys2Proof/Machine/Privileged.lean ====
section
/-! DEFINITION. Privileged instructions (19 R286 to R302). -/

namespace Sys2Proof.Machine

open Sys2Proof (Byte Word DWord Instr)

/-! ### Common rules -/

/-- Every lane of the group ends with PRIVILEGED (19 R286). -/
def trapGroup (k : Trap) (s : State) : State :=
  match s.issue with
  | none => s
  | some iss =>
    { s with threads := s.threads.map fun t =>
        if inGroup iss t && t.laneEnd.isNone then endLane iss t (.trap k) else t }

/-- The issuing launch is privileged. -/
def isPrivileged (s : State) : Bool :=
  match s.issue with
  | none => false
  | some iss => (launchOf s iss.launch).kernel

/-- A privileged word: the body in a privileged launch, PRIVILEGED in every other. -/
def privWord (body : State → State) (s : State) : Out :=
  .next (wordRun (fun x => if isPrivileged x then body x else trapGroup .privileged x) s)

/-- SYSSTAT (19 Table 19-4). -/
def sysstatWord (code fn detail : Nat) : DWord := BitVec.ofNat 64 (code + 256 * fn + 65536 * detail)

/-- The outcome of an instruction written to its thread's SYSSTAT. -/
def outcome (s : State) (t : Thread) (fn code detail : Nat) : State :=
  putThread s { t with sysstat := sysstatWord code fn detail }

/-- An effect left for the end of the run. -/
def leave (s : State) (a : AfterRun) : State :=
  match s.issue with
  | none => s
  | some iss => { s with issue := some { iss with after := iss.after ++ [a] } }

/-- The elected lane waits for acknowledgements, and its group with it, until they have come. -/
def awaitAcks (w : SysWait) (s : State) (iss : Issue) (t : Thread) (done : State) : Except LaneEnd State :=
  if t.sysWait = .complete ∨ t.sysWait = .clockDone then .ok done
  else .ok (putThread (waitGroup .sync s) (endLane iss t (.sysWait w)))

/-- A word that acts once, for the elected lane, and for which the group waits as a whole (19 R288). -/
def electWhole (g : BitVec 2) (f : State → Issue → Thread → Except LaneEnd State) (s : State) : State :=
  electLane g (fun s iss t => match f s iss t with | .error (.wait k) => .ok (waitGroup k s) | r => r) s

/-- A live context of the issuing thread's partition; one that is being removed is none. -/
def liveContext (s : State) (t : Thread) (tag : Nat) : Bool :=
  match ctxAt s tag with
  | none => false
  | some x => decide (x.partition = partOfThread s t) && (match x.run with | .removing _ => false | _ => true)

/-! ### System registers -/

/-- MODE (19 Table 19-3). -/
def modeWord (m : Mode) : Nat := m.clk.toNat + 4 * m.poolsh.toNat + (if m.causal then 16 else 0) + 32 * m.drain.toNat

/-- The value of a system register (19 Table 19-2); reserved numbers have none. -/
def sysReg (s : State) (t : Thread) (n : Nat) : Option Nat :=
  let x := ctxOfLaunch s t.launch
  match n with
  | 0 => some (0x0880 + Config.stepping.toNat * 2 ^ 16 + s.ownPeer * 2 ^ 24)
  | 1 => some (modeWord s.mode)
  | 2 => some ((t.before.map Before.sysstat).getD t.sysstat).toNat
  | 3 => some (if x.ctren then 1 else 0)
  | 4 => some 0
  | 5 => some x.pqdl
  | 6 => some (x.tag + t.efftag % 4096 * 4096)
  | _ =>
    if 0x10 ≤ n ∧ n ≤ 0x1B then
      let v := segBits (segAt (gangOf s t).segs ((n - 0x10) / 2))
      some (if n % 2 = 0 then v % 2 ^ 64 else v / 2 ^ 64)
    else none

/-- `sysrd` in one lane (19 R291). -/
def laneSysrd (d a : BitVec 7) (s : State) (iss : Issue) (t : Thread) : Except LaneEnd Thread :=
  match src32 s iss t a with
  | .error e => .error e
  | .ok (v, t1) =>
    match sysReg s t (v.toNat % 2 ^ 16) with
    | none => .error (.trap .illegalOperand)
    | some x => .ok (put64 d (BitVec.ofNat 64 x) t1)

/-- Watts of a clock mode (24 Table 24-1). -/
def clockWatts (clk : BitVec 2) : Nat := match clk.toNat with | 0 => 2000 | 1 => 1750 | _ => 1400

/-- A MODE value with a reserved bit or field value (19 Table 19-3). -/
def modeBad (v : Nat) : Bool :=
  decide (v / 128 ≠ 0) || decide (v % 4 = 3) || decide (v / 4 % 4 = 3) || decide (v / 32 % 4 = 3)

/-- The fields of a MODE value. -/
def modeOf (v : Nat) : Mode :=
  { clk := BitVec.ofNat 2 v, poolsh := BitVec.ofNat 2 (v / 4), causal := decide (v / 16 % 2 = 1),
    drain := BitVec.ofNat 2 (v / 32) }

/-- A mode request (19 R292). Requests are made one at a time: one waits in issue while another clock is being
changed to. A thread whose clock, or a slower one, has come into force completes (24 R383). -/
def modeRequest (s : State) (iss : Issue) (t : Thread) (v : Nat) : Except LaneEnd State :=
  let m := modeOf v
  let done := t.sysWait == .clockDone
  if m.poolsh ≠ s.mode.poolsh ∨ m.causal ≠ s.mode.causal then .ok (outcome s t 0 1 0)
  else if !done && decide (s.plimit < clockWatts m.clk) then .ok (outcome s t 0 2 0)
  else if !done && m.clk != s.mode.clk then
    if s.clockWanted.isSome && s.clockWanted != some m.clk then .ok (waitGroup .sync s)
    else .ok (putThread (waitGroup .sync s) (endLane iss t (.modeWait m.drain m.clk)))
  else .ok (outcome { s with mode := { s.mode with drain := m.drain } } t 0 0 0)

/-- A write of a system register (19 R291). -/
def writeSysReg (s : State) (iss : Issue) (t : Thread) (v n : Nat) : Except LaneEnd State :=
  match n with
  | 1 => if modeBad v then .error (.trap .illegalOperand) else modeRequest s iss t v
  | 3 =>
    if 1 < v then .error (.trap .illegalOperand)
    else .ok (leave (putThread s t) (.counterEnable (launchOf s t.launch).ctx (decide (v = 1))))
  | 4 =>
    if 1 < v then .error (.trap .illegalOperand)
    else .ok (if v = 1 then leave (putThread s t) (.zeroCounters t.core) else putThread s t)
  | _ => .error (.trap .illegalOperand)

/-- `syswr` in the elected lane. -/
def laneSyswr (a b : BitVec 7) (s : State) (iss : Issue) (t : Thread) : Except LaneEnd State :=
  match src32 s iss t b with
  | .error e => .error e
  | .ok (n, t1) => writeSysReg s iss t1 (src64 s iss t a).toNat (n.toNat % 2 ^ 16)

/-! ### Segment registers and context tags -/

/-- A 16-byte descriptor read as one load of global space (19 R293). -/
def readDescriptor (s : State) (t : Thread) (p : DWord) : Except LaneEnd (List Byte) :=
  if p.toNat / 2 ^ 60 ≠ 0 then .error (.trap .segmentLimit)
  else
    match loadAccess s t .load p 16 with
    | .error e => .error e
    | .ok (_, loc) => .ok (seenBytes (coreByte s t.core) t.sbuf loc 16)

/-- A descriptor that 04 R75 refuses for segment register i of a gang. -/
def segRefused (s : State) (t : Thread) (i : Nat) (b : List Byte) : Bool :=
  let g := parseSeg b 0
  let fixed := (segAt (initialSegs (launchOf s t.launch) t.detachedHere) i).limit
  !segReserved b 0 || (if i = 4 then !privShiftOk g else decide (g.pshift ≠ 0))
    || ((decide (i = 2) || decide (i = 3)) && decide (g.limit ≠ fixed))

/-- `segld` in the elected lane (19 R293). -/
def laneSegld (a b : BitVec 7) (s : State) (iss : Issue) (t : Thread) : Except LaneEnd State :=
  match src32 s iss t b with
  | .error e => .error e
  | .ok (n, t1) =>
    if 5 < n.toNat then .error (.trap .illegalOperand)
    else
      match readDescriptor s t1 (src64 s iss t a) with
      | .error e => .error e
      | .ok d =>
        if segRefused s t1 n.toNat d then .error (.trap .illegalOperand)
        else
          let g := parseSeg d 0
          let base := if n.toNat = 2 ∨ n.toNat = 3 then 0 else g.base
          .ok (leave (putThread s t1) (.segment t.launch t.gang (gangOf s t).core t.detachedHere n.toNat base g.limit g.pshift))

/-- `ctxtag` in one lane (19 R294). -/
def laneCtxtag (a : BitVec 7) (s : State) (iss : Issue) (t : Thread) : Except LaneEnd State :=
  match src32 s iss t a with
  | .error e => .error e
  | .ok (v, t1) =>
    if 4096 ≤ v.toNat then .error (.trap .illegalOperand)
    else if !liveContext s t v.toNat then .ok (outcome s t1 4 7 0)
    else .ok (leave (outcome s t1 4 0 0) (.effectiveTag t.launch t.thread v.toNat))

/-! ### Instruction caches and translations -/

/-- The physical code lines of a range of the thread's global space; a replayable fault ends the segment. -/
def rangeLines (s : State) (t : Thread) : Nat → Nat → Except LaneEnd (List Nat)
  | _, 0 => .ok []
  | va, n + 1 =>
    match locate s t (.virt (va % 2 ^ 48) false) 1 .read .plain with
    | .error e => .error e
    | .ok loc =>
      match rangeLines s t (va + 128) n with
      | .error e => .error e
      | .ok rest => .ok (loc / 128 :: rest)

/-- Lines that a range of `n` bytes from `va` touches. -/
def touched (va n : Nat) : Nat := if n = 0 then 0 else (va + n - 1) / 128 - va / 128 + 1

/-- Physical lines discarded from every I-L1, I-L2 and L2 code share, and from the fills in flight (19 R295). -/
def discardLines (lines : List Nat) (s : State) : State :=
  { s with cores := s.cores.map fun r =>
             { r with icache := r.icache.filter fun l => !lines.contains l.1, fills := r.fills.filter fun l => !lines.contains l },
           icache2 := s.icache2.filter fun l => !lines.contains l.2.1,
           icache3 := s.icache3.filter fun l => !lines.contains l.2.1 }

/-- The range of an `icinv` checked and its lines found; an empty range has none. -/
def icinvLines (s : State) (t : Thread) (p : DWord) (n : Nat) : Except LaneEnd (List Nat) :=
  if n = 0 then .ok []
  else if p.toNat / 2 ^ 60 ≠ 0 then .error (.trap .segmentLimit)
  else
    match decodePointer s (accessorOf s t) .load p n 1 with
    | .error e => .error e
    | .ok _ => rangeLines s t (p.toNat / 128 * 128) (touched p.toNat n)

/-- `icinv` in the elected lane (19 R295). -/
def laneIcinv (a b : BitVec 7) (s : State) (iss : Issue) (t : Thread) : Except LaneEnd State :=
  match src32 s iss t b with
  | .error e => .error e
  | .ok (n, t1) =>
    match icinvLines s t1 (src64 s iss t a) n.toNat with
    | .error e => .error e
    | .ok lines =>
      if !releaseReady s t1 then .ok (waitGroup .sync s)
      else if n = 0 then .ok (putThread s t1)
      else awaitAcks .discard s iss t1 (discardLines lines (putThread s t1))

/-- `tlbinv` in the elected lane (19 R296). -/
def laneTlbinv (a b : BitVec 7) (s : State) (iss : Issue) (t : Thread) : Except LaneEnd State :=
  match src32 s iss t b with
  | .error e => .error e
  | .ok (n, t1) =>
    let v := (src64 s iss t a).toNat
    let tag := v / 2 ^ 48 % 4096
    if v / 2 ^ 60 ≠ 0 then .error (.trap .illegalOperand)
    else if v % 65536 ≠ 0 then .error (.trap .misaligned)
    else if !liveContext s t tag then .ok (outcome s t1 3 7 0)
    else awaitAcks (.invalidation tag (v % 2 ^ 48) n.toNat) s iss t1 (outcome s t1 3 0 0)

/-! ### Code modules -/

/-- Records and window threads that count for a module of a context (19 R297). -/
def countsFor (s : State) (tag : Nat) (m : Module) (t : Thread) : Bool :=
  decide ((launchOf s t.launch).ctx = tag) && inModule m (codeAddr t)
    && !(t.place == .exiting || t.place == .exited)

/-- Records and threads that lie in the range already when it is published are among them: R298 gives the new entry a live count
of zero, and R297 counts every record that resumes there (DESIGN CHOICE, log 105). -/
def liveCount (s : State) (tag : Nat) (m : Module) : Nat := (s.threads.filter (countsFor s tag m)).length

def moduleAt (x : Context) (n : Nat) : Option Module := x.modules.find? fun m => decide (m.num = n)

/-- STATE of an entry as SYSSTAT's DETAIL gives it: free, live or retired. -/
def moduleDetail (x : Context) (n : Nat) : Nat :=
  match moduleAt x n with
  | none => 0
  | some m => if m.state = .live then 1 else 2

/-- An entry of the module table replaced. -/
def putModule (x : Context) (m : Module) : Context :=
  { x with modules := insertBy Module.num m (x.modules.filter fun y => !decide (y.num = m.num)) }

/-- The new range overlaps that of a LIVE entry. -/
def overlapsLive (x : Context) (start len : Nat) : Bool :=
  x.modules.any fun m => m.state == .live && decide (m.start < start + len) && decide (start < m.start + m.length)

/-- The lines that a code range reaches through a SEG_CODE base in a context's page tables: one more where BASE is no multiple of
128 (04 R84). -/
def codeLines (s : State) (tag base start : Nat) (n : Nat) : List Nat :=
  let from_ := (base + start) / 128 * 128
  (List.range (if base % 128 = 0 then n else n + 1)).filterMap fun i =>
    match walkTo s tag ((from_ + 128 * i) % 2 ^ 48) .fetch .fetch with
    | .ok pa => some (pa / 128)
    | .error _ => none

/-- The SEG_CODE bases of a live launch: its record's, and those of its gangs, which `segld` may have changed (DESIGN CHOICE, log
106: R298 speaks of the launch's SEG_CODE). -/
def codeBases (s : State) (l : Launch) : List Nat :=
  distinct ((segAt l.seginit 3).base.toNat
    :: (s.gangs.filter fun g => decide (g.launch = l.handle) && !g.reserved).map fun g => (segAt g.segs 5).base.toNat)

/-- The lines of a range through every live launch of a context (19 R298, step 5). -/
def moduleLines (s : State) (tag start len : Nat) : List Nat :=
  ((s.launches.filter fun l => decide (l.ctx = tag)).flatMap (codeBases s)).foldl
    (fun ls base => mergeLines ls (codeLines s tag base start (len / 128))) []

/-- `mod.pub` in the elected lane (19 R298). -/
def laneModPub (a b : BitVec 7) (s : State) (iss : Issue) (t : Thread) : Except LaneEnd State :=
  match src32 s iss t b with
  | .error e => .error e
  | .ok (m, t1) =>
    if 1023 < m.toNat then .error (.trap .illegalOperand)
    else
      match readDescriptor s t1 (src64 s iss t a) with
      | .error e => .error e
      | .ok d =>
        let start := field d 0 8
        let len := field d 8 4
        let x := ctxOf s t.efftag
        if start % 128 ≠ 0 ∨ len % 128 ≠ 0 ∨ len = 0 ∨ field d 12 4 ≠ 0 then .error (.trap .illegalOperand)
        else if moduleDetail x m.toNat = 1 then .ok (outcome s t1 6 4 1)
        else if overlapsLive x start len then .ok (outcome s t1 6 4 3)
        else if !releaseReady s t1 then .ok (waitGroup .sync s)
        else
          let s1 := discardLines (moduleLines s t.efftag start len) s
          let s2 := mapCtx s1 t.efftag fun y => putModule y { num := m.toNat, state := .live, start := start, length := len }
          awaitAcks .discard s iss t1 (outcome s2 t1 6 0 0)

/-- Binned records of a context that lie in a retired range converted in place (21 R334); one in the save area is, when
it is binned again. -/
def convertBinned (s : State) (tag l n : Nat) : State :=
  match threadAt s l n with
  | none => s
  | some t =>
    match t.place with
    | .binned _ =>
      if (launchOf s l).ctx = tag && !t.saved && isRetired (ctxOf s tag) (codeAddr t) then binRecord s t else s
    | _ => s

def convertAll (tag : Nat) (s : State) : State :=
  s.threads.foldl (fun s1 t => convertBinned s1 tag t.launch t.thread) s

/-- `mod.ret` in the elected lane (19 R299): the module table is that of the effective tag (log 87). -/
def laneModRet (a b : BitVec 7) (s : State) (iss : Issue) (t : Thread) : Except LaneEnd State :=
  match src32 s iss t a with
  | .error e => .error e
  | .ok (c, t1) =>
    match src32 s iss t1 b with
    | .error e => .error e
    | .ok (m, t2) =>
      let x := ctxOf s t.efftag
      if 1 < c.toNat ∨ 1023 < m.toNat then .error (.trap .illegalOperand)
      else
        match moduleAt x m.toNat with
        | none => .ok (outcome s t2 7 4 0)
        | some e =>
          if e.state = .retired then .ok (outcome s t2 7 4 2)
          else
            let n := liveCount s t.efftag e
            if c = 0 ∧ n ≠ 0 then .ok (outcome s t2 7 3 n)
            else
              let s1 := mapCtx s t.efftag fun y => putModule y { e with state := .retired }
              .ok (convertAll t.efftag (outcome s1 t2 7 0 0))

/-! ### Record pools, deadlines, halt -/

/-- The 64 KiB frames of a region of the thread's space, if every one is HBM4 of a die that the partition may use: none
where the region leaves the space, or the context of that space is gone. -/
def regionFrames (s : State) (t : Thread) (die : Nat) : Nat → Nat → Option (List Nat)
  | _, 0 => some []
  | va, n + 1 =>
    match lookup s t.core (ctxOf s t.efftag) va with
    | .error _ => none
    | .ok e =>
      let pa := e.pa + (va - e.base)
      if pa < 2 ^ 39 && decide (homeOf s pa = die) && physicalOk s (partOfThread s t) .plain pa then
        (regionFrames s t die (va + 65536) n).map fun rest => pa / 65536 :: rest
      else none

/-- Bytes of a core's extensions; one that has been withdrawn counts no more (log 88). -/
def extensionBytes (r : Core) : Nat := (r.exts.filter fun e => !e.withdrawn).foldl (fun n e => n + e.length) 0

/-- `poolx` in the elected lane (19 R300): the extension is made by the launch's own context (log 88). -/
def lanePoolx (a b : BitVec 7) (s : State) (iss : Issue) (t : Thread) : Except LaneEnd State :=
  match src32 s iss t b with
  | .error e => .error e
  | .ok (w, t1) =>
    let p := (src64 s iss t a).toNat
    let c := w.toNat % 256
    let u := w.toNat / 256 % 65536
    if w.toNat / 2 ^ 24 ≠ 0 ∨ 191 < c ∨ u = 0 ∨ 4096 < u then .error (.trap .illegalOperand)
    else if p % 65536 ≠ 0 then .error (.trap .misaligned)
    else
      let mine := ((partOf s (partOfThread s t)).getD noPart).cores.contains c
      match (if mine ∧ p + u * 65536 ≤ 2 ^ 48 ∧ (ctxAt s t.efftag).isSome then regionFrames s t (dieOfCore c) p u else none) with
      | none => .ok (outcome s t1 8 5 0)
      | some f =>
        if 2 ^ 28 < extensionBytes (coreOf s c) + u * 65536 then .ok (outcome s t1 8 6 0)
        else
          let e : PoolExt := { region := s.nextRegion, frames := f.map some, length := u * 65536, ctx := (launchOf s t.launch).ctx }
          .ok (outcome { mapCore s c (fun r => { r with exts := r.exts ++ [e] }) with nextRegion := s.nextRegion + 1 } t1 8 0 0)

/-- `pq.set` in the elected lane (19 R301). -/
def lanePqSet (a b : BitVec 7) (s : State) (iss : Issue) (t : Thread) : Except LaneEnd State :=
  match src32 s iss t a with
  | .error e => .error e
  | .ok (d, t1) =>
    match src32 s iss t1 b with
    | .error e => .error e
    | .ok (tag, t2) =>
      if 4096 ≤ tag.toNat ∨ d.toNat < 1024 then .error (.trap .illegalOperand)
      else if !liveContext s t tag.toNat then .ok (outcome s t2 9 7 0)
      else .ok (outcome (mapCtx s tag.toNat fun x => { x with pqdl := d.toNat }) t2 9 0 0)

/-! ### The instructions -/

/-- R291: `sysrd`. -/
def execSysrd (g : BitVec 2) (d a : BitVec 7) (s : State) : Out := privWord (mapLanes g (laneSysrd d a)) s

/-- R291: `syswr` of a register that a word's codes do not fix. -/
def execSyswr (g : BitVec 2) (a b : BitVec 7) (s : State) : Out := privWord (electWhole g (laneSyswr a b)) s

/-- R292: `syswr` whose number operand is the constant 1, which names MODE. -/
def execModeRequest (g : BitVec 2) (a b : BitVec 7) (s : State) : Out := privWord (electWhole g (laneSyswr a b)) s

/-- R291: `syswr` whose value operand is the constant 1, as a write of CTRZERO has it. -/
def execCtrzero (g : BitVec 2) (a b : BitVec 7) (s : State) : Out := privWord (electWhole g (laneSyswr a b)) s

/-- R293: `segld`. -/
def execSegld (g : BitVec 2) (a b : BitVec 7) (s : State) : Out := privWord (electWhole g (laneSegld a b)) s

/-- R295: `icinv`. -/
def execIcinv (g : BitVec 2) (a b : BitVec 7) (s : State) : Out := privWord (electWhole g (laneIcinv a b)) s

/-- R296: `tlbinv`. -/
def execTlbinv (g : BitVec 2) (a b : BitVec 7) (s : State) : Out := privWord (electWhole g (laneTlbinv a b)) s

/-- R294: `ctxtag`. -/
def execCtxtag (g : BitVec 2) (a : BitVec 7) (s : State) : Out := privWord (foldLanes g (laneCtxtag a)) s

/-- R302: `halt`; the run takes effect, and the package freezes. -/
def execHalt (g : BitVec 2) (s : State) : Out :=
  privWord (electLane g fun s _ _ => .ok { s with frozen := true }) s

/-- R298: `mod.pub`. -/
def execModPub (g : BitVec 2) (a b : BitVec 7) (s : State) : Out := privWord (electWhole g (laneModPub a b)) s

/-- R299: `mod.ret`. -/
def execModRet (g : BitVec 2) (a b : BitVec 7) (s : State) : Out := privWord (electWhole g (laneModRet a b)) s

/-- R300: `poolx`. -/
def execPoolx (g : BitVec 2) (a b : BitVec 7) (s : State) : Out := privWord (electWhole g (lanePoolx a b)) s

/-- R301: `pq.set`. -/
def execPqSet (g : BitVec 2) (a b : BitVec 7) (s : State) : Out := privWord (electWhole g (lanePqSet a b)) s

/-- An acknowledgement that a thread waits for has come. -/
def acknowledge (launch thread : Nat) (s : State) : State :=
  mapThread s launch thread fun t => { t with sysWait := .complete }

/-- A thread's access under a context's tag that is neither performed nor parked: a posted store, a deferred `ldc` load. A
translation of 16 MiB or 4 GiB goes as a whole, so any page may have used it. -/
def holdsOldAccess (tag : Nat) (t : Thread) : Bool :=
  (t.sbuf.any fun e => decide (e.tag = tag) && !e.peerf && !e.failed)
    || (match t.ldc, t.place with
      | some _, .faultBin _ _ => false
      | some d, _ => decide (d.tag = tag) && !d.peerf
      | none, _ => false)

/-- A write on its way to its home under a context's tag. -/
def carriesWrite (tag : Nat) (p : FeltPacket) : Bool :=
  decide (p.tag = tag) && (match p.body with | .write _ _ _ => true | .modify _ _ _ _ _ => true | .signal _ _ _ => true | _ => false)

/-- Accesses through invalidated translations are outstanding (19 R296). -/
def oldAccesses (s : State) (tag : Nat) : Bool := s.threads.any (holdsOldAccess tag) || s.felt.packets.any (carriesWrite tag)

/-- The discard of code lines made known to every die, with what its thread's die knows, and acknowledged by each: a fetch that
comes after it finds what the thread has stored before (01 R13, 19 R295). None while one of the packets cannot be delivered. -/
def discardTrips (s : State) (t : Thread) : Option State :=
  let d := dieOfCore t.core
  (s.felt.live.filter fun k => decide (k ≠ d)).foldlM (fun y k => roundTrip y d k true false t.efftag) s

/-- R295: every die has acknowledged the discard. -/
def execIcinvComplete (launch thread : Nat) (s : State) : Out :=
  match threadAt s launch thread with
  | none => .next s
  | some t =>
    match t.sysWait with
    | .discard => .next (((discardTrips s t).map (acknowledge launch thread)).getD s)
    | _ => .next s

/-- R296: every invalidated translation is gone, and every access that used one is performed or parked. -/
def execTlbinvComplete (launch thread : Nat) (s : State) : Out :=
  .next (match (threadAt s launch thread).map Thread.sysWait with
    | some (.invalidation tag _ _) => if oldAccesses s tag then s else acknowledge launch thread s
    | _ => s)

end Sys2Proof.Machine
end

