-- ==== Sys2Proof/Machine/Picker.lean ====
section
/-! DEFINITION. The picker: fetch and encoding checks of a run (06 R121, R135, 02 R19), readiness and the forming of an
issue group (02 R35 to R38), and what an issued run leaves behind. -/

namespace Sys2Proof.Machine

open Sys2Proof (Byte Word DWord Instr)

/-! ### Operand codes (06 Table 6-5) -/

def isReg (c : BitVec 7) : Bool := decide (c.toNat < 64)

/-- A special operand's code. -/
def isSpecial (c : BitVec 7) : Bool := decide (80 ≤ c.toNat) && decide (c.toNat ≤ 93)

def isLatchCode (c : BitVec 7) : Bool := decide (64 ≤ c.toNat) && decide (c.toNat ≤ 67)

def isUniform (c : BitVec 7) : Bool := decide (96 ≤ c.toNat)

/-- A register number that begins an aligned group of `n`. -/
def aligned (n : Nat) (c : BitVec 7) : Bool := decide (c.toNat % n = 0)

/-- The code is legal in its position. -/
def operandOk : Operand → Bool
  | .s32 c => isReg c || isLatchCode c || isStream c || isSpecial c || isUniform c
  | .s64 c => (isReg c && aligned 2 c) || isLatchCode c || isSpecial c || (isUniform c && aligned 2 c)
  | .s128 c => (isReg c || isUniform c) && aligned 4 c
  | .d32 c => isReg c || isStream c
  | .r32 c => isReg c
  | .d64 c => isReg c && aligned 2 c
  | .d128 c => isReg c && aligned 4 c
  | .strm c => isStream c
  | .pdst p => p != 0
  | .kdst _ => true
  | .block _ _ => true
  | .coord _ => true

/-- Window registers that an operand position reads or writes. -/
def operandRegs : Operand → List Nat
  | .s32 c => if isReg c then [c.toNat] else []
  | .d32 c => if isReg c then [c.toNat] else []
  | .r32 c => if isReg c then [c.toNat] else []
  | .s64 c => if isReg c then [c.toNat, c.toNat + 1] else []
  | .d64 c => if isReg c then [c.toNat, c.toNat + 1] else []
  | .s128 c => if isReg c then (List.range 4).map (· + c.toNat) else []
  | .d128 c => if isReg c then (List.range 4).map (· + c.toNat) else []
  | .block f n => (List.range n).map (· + f)
  | .coord f => (List.range 32).map (· + f)
  | _ => []

/-- Window registers that an operand position writes. -/
def destRegs : Operand → List Nat
  | .d32 c => operandRegs (.d32 c)
  | .r32 c => operandRegs (.r32 c)
  | .d64 c => operandRegs (.d64 c)
  | .d128 c => operandRegs (.d128 c)
  | _ => []

/-- Latches that an operand position reads. -/
def operandLatches : Operand → List Nat
  | .s32 c => if isLatchCode c then [c.toNat - 64] else []
  | .s64 c => if isLatchCode c then [c.toNat - 64] else []
  | _ => []

/-! ### The run at a program counter -/

/-- What the fetch and the checks of a run give. -/
inductive RunView where
  /-- Lines that the core's I-L1 does not hold. -/
  | stall (lines : List Nat)
  /-- The packet is fetched; the line of a literal or of a descriptor is not. `data` says that `ldl` data is outstanding (13
  Table 13-1). -/
  | lineMiss (lines : List Nat) (data : Bool)
  | trap (k : Trap) (pos : Nat)
  /-- A fetch fault of the whole group (01 R12). -/
  | fault (word : DWord)
  /-- An obligation on the code is broken: a context fault (00, Notation; 04 R85). -/
  | broken
  | run (words : List (Nat × Instr)) (fall : Nat × Nat) (mask : DWord)
  deriving DecidableEq, Repr

/-- Word `i` of packet `p` in its line. -/
def packetWord (l : List Byte) (p i : Nat) : Word := lineWord l (p % 10 * 12 + 4 * i)

/-- The words of the run that begins at word `i`, at most `n` of them. -/
def chainedWords (l : List Byte) (p : Nat) : Nat → Nat → List (Nat × Word)
  | 0, _ => []
  | n + 1, i =>
    let w := packetWord l p i
    (i, w) :: (if fldn w 31 1 = 1 then chainedWords l p n (i + 1) else [])

/-- Words of a pipe class that one run may hold (06 R121). -/
def pipeRoom : Pipe → Nat
  | .ab => 2
  | _ => 1

/-- A word of a class breaks a rule of R121 or R19, after words of the classes listed. -/
def chainBad (before : List Pipe) (pipe : Pipe) (ends : Ending) (pos : Nat) (w : Word) : Bool :=
  (decide (pos = 2) && decide (fldn w 31 1 = 1))
    || decide (pipeRoom pipe ≤ (before.filter fun y => decide (y = pipe)).length)
    || (decide (ends ≠ .none) && decide (pos ≠ 2))

/-- The literal that a word reads, if it reads one: its IMM8 and whether it is 64 bits wide (06 Table 6-7). -/
def literalOf : Instr → Option (BitVec 8 × Bool)
  | .ldl32 _ _ _ i => some (i, false)
  | .ldl64 _ _ _ i => some (i, true)
  | .brl _ i => some (i, true)
  | .calll _ i => some (i, true)
  | _ => none

/-- The literal is loaded data, and no displacement. -/
def isDataLiteral : Instr → Bool
  | .ldl32 _ _ _ _ => true
  | .ldl64 _ _ _ _ => true
  | _ => false

/-- Check 6 for a literal: nothing to report, or what the run meets. -/
def literalView (s : State) (t : Thread) (p pos : Nat) (i : Instr) : Option RunView :=
  match literalOf i with
  | none => none
  | some (n, wide) =>
    match literalAt s t p n wide with
    | .value _ => none
    | .illegal => some (.trap .illegalLiteral pos)
    | .retired => some (.trap .moduleRetired pos)
    | .fault w => some (.fault w)
    | .miss k => some (.lineMiss [k] (isDataLiteral i))
    | .padding => some .broken

/-- The mask of the descriptor that must follow an ending word of packet `p`, or what the run meets (02 R19). -/
def descriptorView (s : State) (t : Thread) (l : List Byte) (p : Nat) : Except RunView DWord :=
  let d := descPacket p
  let nops := (List.range 3).all fun i => packetWord l (p + 1) i == 0x73000000
  if d ≠ p + 1 ∧ nops = false then .error (.trap .illegalLiteral 2)
  else
    match fetchLine s t (packetAddr d) with
    | .miss k => .error (.lineMiss [k] false)
    | .fault w => .error (.fault w)
    | .retired => .error (.trap .moduleRetired 2)
    | .outside => .error (.trap .illegalLiteral 2)
    | .padding => .error .broken
    | .line m =>
      if isDescriptor m d then .ok (BitVec.ofNat 64 (natOfWords [packetWord m d 1, packetWord m d 2]))
      else .error (.trap .illegalLiteral 2)

/-- The checks of Table 6-16 on one word, after words of the classes listed. -/
def checkWord (s : State) (t : Thread) (p : Nat) (before : List Pipe) (pos : Nat) (w : Word) : Except RunView Instr :=
  match decodeWord w with
  | .error .literal => .error (.trap .illegalLiteral pos)
  | .error .instruction => .error (.trap .illegalInstruction pos)
  | .error .chain => .error (.trap .illegalChain pos)
  | .error .operand =>
    .error (.trap (if chainBad before .x .none pos w then .illegalChain else .illegalOperand) pos)
  | .ok i =>
    let f := instrInfo i
    if chainBad before f.pipe f.ends pos w then .error (.trap .illegalChain pos)
    else if f.privileged && !(launchOf s t.launch).kernel then .error (.trap .privileged pos)
    else if !(f.operands.all operandOk) then .error (.trap .illegalOperand pos)
    else
      match literalView s t p pos i with
      | some v => .error v
      | none => .ok i

/-- The words of a run checked in ascending position (06 R135). -/
def checkWords (s : State) (t : Thread) (p : Nat) : List Pipe → List (Nat × Word) → Except RunView (List (Nat × Instr))
  | _, [] => .ok []
  | before, (pos, w) :: ws =>
    match checkWord s t p before pos w with
    | .error v => .error v
    | .ok i =>
      match checkWords s t p (before ++ [(instrInfo i).pipe]) ws with
      | .error v => .error v
      | .ok is => .ok ((pos, i) :: is)

/-- Where a checked run leads its lanes that it does not move, with its descriptor's mask. -/
def runFrom (s : State) (t : Thread) (l : List Byte) (words : List (Nat × Instr)) : RunView :=
  match words.getLast? with
  | none => .stall []
  | some (pos, i) =>
    if pos < 2 then .run words (t.packet, pos + 1) 0
    else
      match (instrInfo i).ends with
      | .segment true =>
        match descriptorView s t l t.packet with
        | .error v => v
        | .ok m => .run words (resumePacket t.packet, 0) m
      | _ => .run words (t.packet + 1, 0) 0

/-- The run at a thread's program counter. -/
def runView (s : State) (t : Thread) : RunView :=
  match fetchLine s t (packetAddr t.packet) with
  | .miss k => .stall [k]
  | .fault w => .fault w
  | .retired => .trap .moduleRetired t.pos
  | .outside => .trap .segmentLimit t.pos
  | .padding => .broken
  | .line l =>
    if isLiteral l (t.packet % 10) then .trap .illegalLiteral t.pos
    else
      match checkWords s t t.packet [] (chainedWords l t.packet (3 - t.pos) t.pos) with
      | .error v => v
      | .ok words => runFrom s t l words

/-! ### Readiness -/

/-- The words of a view. -/
def viewWords : RunView → List (Nat × Instr)
  | .run ws _ _ => ws
  | _ => []

/-- The run reads or writes what outstanding load data will write (09 R180). -/
def hitsLoads (t : Thread) (ws : List (Nat × Instr)) : Bool :=
  let ops := ws.flatMap fun w => (instrInfo w.2).operands
  let pending := t.loads.flatMap fun p => p.writes.map (·.1)
  (ops.flatMap operandRegs).any (fun r => pending.contains r)
    || ((ops.flatMap operandLatches).contains 2 && t.loads.any fun p => p.latch.isSome)

/-- Privileged waits that acknowledgements end. -/
def inSysWait (t : Thread) : Bool :=
  match t.sysWait with
  | .discard => true
  | .invalidation _ _ _ => true
  | .clock => true
  | _ => false

def sameGang (t u : Thread) : Bool :=
  decide (t.launch = u.launch) && decide (t.gang = u.gang) && (t.detachedHere == u.detachedHere)

def samePc (t u : Thread) : Bool := decide (t.packet = u.packet) && decide (t.pos = u.pos)

/-- A thread's group waits for the acknowledgements of its elected lane (19 R288). -/
def mateWaits (s : State) (t : Thread) : Bool :=
  s.threads.any fun u => inSysWait u && u.sysMates.contains t.thread && sameGang t u && samePc t u && decide (u.core = t.core)

/-- The thread's context lets it issue: not held, stopped or being removed (21 R333, 22 R341, R351). -/
def mayIssue (s : State) (t : Thread) : Bool :=
  let x := ctxOfLaunch s t.launch
  x.run == .running || x.run == .stopping

/-- Threads of a core that hold a window and wait for nothing. -/
def candidates (s : State) (c : Nat) : List Thread :=
  s.threads.filter fun t =>
    decide (t.core = c) && t.place == .window && t.waiting.isNone && !inSysWait t && !mateWaits s t && mayIssue s t

/-- The run is available: its lines are fetched and no load data is awaited. -/
def isReady (t : Thread) (v : RunView) : Bool :=
  match v with
  | .stall _ => false
  | .lineMiss _ _ => false
  | _ => !hitsLoads t (viewWords v)

/-- Two threads are in the middle of one packet, whose runs so far issued to both in one group (02 R35). -/
def packetMates (t u : Thread) : Bool :=
  t.inPacket && u.inPacket && sameGang t u && samePc t u && decide (t.lastGroup = u.lastGroup)

/-- Candidates that are ready: their run is available, to every one with which they are in the middle of a packet. -/
def readyThreads (s : State) (c : Nat) : List (Thread × RunView) :=
  let xs := (candidates s c).map fun t => (t, runView s t)
  let late := (xs.filter fun x => !isReady x.1 x.2).map (·.1)
  xs.filter fun x => isReady x.1 x.2 && !(late.any (packetMates x.1))

/-- Code lines that the core's threads need, and its I-L1 does not hold, as their views name them. -/
def linesIn (f : RunView → List Nat) (s : State) (c : Nat) : List Nat :=
  (candidates s c).foldl (fun ls t => mergeLines ls (f (runView s t))) []

/-- The lines of packets that are not fetched. -/
def packetLines : RunView → List Nat
  | .stall m => m
  | _ => []

/-- The lines of `ldl` data. -/
def dataLines : RunView → List Nat
  | .lineMiss m true => m
  | _ => []

/-- The lines of displacement literals and descriptors. -/
def otherLines : RunView → List Nat
  | .lineMiss m false => m
  | _ => []

def stallLines (s : State) (c : Nat) : List Nat := linesIn packetLines s c

def literalLines (s : State) (c : Nat) : List Nat := linesIn dataLines s c

/-- Code lines to be filled. -/
def missingLines (s : State) (c : Nat) : List Nat :=
  mergeLines (mergeLines (stallLines s c) (literalLines s c)) (linesIn otherLines s c)

/-! ### Priorities -/

/-- The ageing interval of a launch's partition (20 R316). -/
def ageingInterval (s : State) (l : Launch) : Nat := 2 ^ ((partOf s (ctxOf s l.ctx).partition).getD noPart).age

/-- Gangs of the launch await admission. -/
def awaitsAdmission (l : Launch) : Bool := decide (l.admitted.length < l.ngang)

/-- The effective priority of a launch (20 R317). -/
def effectivePriority (s : State) (l : Launch) : Nat :=
  match l.eligible with
  | none => l.prio
  | some e => if awaitsAdmission l then min 15 (l.prio + (now s - e) / ageingInterval s l) else l.prio

/-! ### The group -/

/-- The rank of a thread's gang among gangs with ready threads: less is chosen first (02 R36). A gang and a detached gang
of the same launch and number are equal in every key: the resident one is taken first (DESIGN CHOICE, log 59). -/
def gangRank (s : State) (t : Thread) : Nat :=
  let g := gangOf s t
  ((15 - effectivePriority s (launchOf s t.launch)) * 2 ^ 64 + max g.lastIssue g.resident) * 2 ^ 80 + t.launch * 2 ^ 40
    + t.gang * 2 + (if t.detachedHere then 1 else 0)

/-- How many of the threads stand at a thread's program counter. -/
def pcCount (ts : List Thread) (t : Thread) : Nat := (ts.filter (samePc t)).length

/-- The thread whose program counter the picker takes: the longest passed over from 256 on, else one at the program
counter that most hold, the lower address winning a tie. -/
def pcLeader (ts : List Thread) : Option Thread :=
  match minBy (fun t => (2 ^ 40 - t.passed) * 2 ^ 40 + t.thread) (ts.filter fun t => decide (256 ≤ t.passed)) with
  | some t => some t
  | none => minBy (fun t => (2 ^ 20 - pcCount ts t) * 2 ^ 80 + codeAddr t) ts

/-- Latches that a run reads. -/
def viewLatches (v : RunView) : List Nat := (viewWords v).flatMap fun w => (instrInfo w.2).operands.flatMap operandLatches

/-- A thread was in the issue group of the run that wrote each live latch of another that the run reads (02 R38). -/
def inLatchGroups (ls : List Nat) (t u : Thread) : Bool :=
  ls.all fun i => match oldLatch t i with
    | none => true
    | some l => l.group.contains u.thread

/-- Two threads may issue a run together. In the middle of a packet they do where its runs so far issued to both in one
group (R35); a run that reads a latch joins no threads whose previous runs issued in different groups, and goes to
threads that the latch's writing run issued to (R38); a group that has waited for acknowledgements goes on as it was (19
R288). -/
def mayJoin (ls : List Nat) (waited : List (List Nat)) (t u : Thread) : Bool :=
  (t.inPacket == u.inPacket) && (!t.inPacket || decide (t.lastGroup = u.lastGroup))
    && (ls.isEmpty || (decide (t.lastGroup = u.lastGroup) && inLatchGroups ls t u && inLatchGroups ls u t))
    && waited.all fun g => g.contains t.thread == g.contains u.thread

/-- Threads taken in ascending THREAD, up to 32, leaving out those that may not join the ones taken. -/
def takeGroup (ls : List Nat) (waited : List (List Nat)) : List Thread → List Thread → List Thread
  | got, [] => got
  | got, t :: ts =>
    if got.length < 32 && got.all (mayJoin ls waited t) then takeGroup ls waited (got ++ [t]) ts
    else takeGroup ls waited got ts

/-- The groups of threads whose acknowledgements have come. -/
def waitedGroups (ts : List Thread) : List (List Nat) := (ts.map Thread.sysMates).filter fun g => !g.isEmpty

/-- The chosen gang's ready threads, in ascending THREAD. -/
def chosenGang (s : State) (rs : List (Thread × RunView)) : List (Thread × RunView) :=
  match minBy (fun x => gangRank s x.1) rs with
  | none => []
  | some x => sortBy (fun y => y.1.thread) (rs.filter fun y => sameGang x.1 y.1)

/-- The issue group of a core in this cycle, with its run, and the ready threads of its gang. -/
def formGroup (s : State) (c : Nat) : Option (List Thread × RunView × List Thread) :=
  let rs := chosenGang s (readyThreads s c)
  let ts := rs.map (·.1)
  match pcLeader ts with
  | none => none
  | some t =>
    match rs.find? fun x => decide (x.1.thread = t.thread) with
    | none => none
    | some (_, v) => some (takeGroup (viewLatches v) (waitedGroups (ts.filter (samePc t))) [] (ts.filter (samePc t)), v, ts)

/-- The issue in progress of a group. -/
def issueOf (s : State) (c : Nat) (g : List Thread) (ready : List Thread) (ws : List (Nat × Instr)) (fall : Nat × Nat)
    (mask : DWord) : Issue :=
  let t := g.headD { launch := 0, gang := 0, thread := 0, core := c }
  let lanes := g.map Thread.thread
  { core := c, launch := t.launch, gang := t.gang, lanes := lanes, packet := t.packet, pos := t.pos,
    chained := decide (1 < ws.length), kbefore := some (gangOf s t).kregs, cbefore := some (coreOf s c).counters,
    detachedGang := t.detachedHere, others := (ready.map Thread.thread).filter (fun x => !lanes.contains x),
    words := ws, fall := fall, mask := mask }

/-! ### After a run -/

/-- A latch that stands after a run issued to these lanes: its writer's group held them all (02 R37). -/
def keepLatch (lanes : List Nat) (l : Option Latch) : Option Latch := l.filter fun x => lanes.all fun y => x.group.contains y

/-- The thread after a run that issued to it: whether a further run of its packet is to follow (02 R35). -/
def afterIssue (fall : Nat × Nat) (lanes : List Nat) (t : Thread) : Thread :=
  let t1 := { t with passed := 0, lastGroup := lanes, inPacket := decide (0 < t.pos) && decide ((t.packet, t.pos) = fall) }
  if t.place = .window then
    { t1 with la := keepLatch lanes t.la, lb := keepLatch lanes t.lb, lm := keepLatch lanes t.lm, ls := keepLatch lanes t.ls,
              loads := t.loads.map fun p => { p with latch := keepLatch lanes p.latch } }
  else t1

/-- The run did not issue to a lane that waits. -/
def didIssue (s : State) (iss : Issue) (l : Nat) : Bool :=
  match threadAt s iss.launch l with
  | none => false
  | some t => t.waiting.isNone && !inSysWait t

/-- Lanes whose previous runs issued in different groups (13 Table 13-1 JOIN). -/
def joins (s : State) (iss : Issue) (lanes : List Nat) : Bool :=
  let gs := (lanes.filterMap fun l => (threadAt s iss.launch l).map Thread.lastGroup).filter fun g => !g.isEmpty
  match gs with
  | [] => false
  | g :: rest => rest.any fun x => x != g

/-- What a lane of the run has left to be sent: a command to a peer's queue (09 R200), a read of a peer or the host. -/
def postLane (iss : Issue) (s : State) (l : Nat) : State :=
  match threadAt s iss.launch l with
  | some t => postRemote (postEnqueue s t) ((threadAt (postEnqueue s t) iss.launch l).getD t)
  | none => s

def postRequests (iss : Issue) (s : State) : State := iss.lanes.foldl (postLane iss) s

/-- The books of a run that has issued: counts, last issues, threads passed over, latches that the join killed. -/
def finishRun (iss : Issue) (s0 : State) : State :=
  let s := postRequests iss s0
  let ran := iss.lanes.filter (didIssue s iss)
  if ran.isEmpty then s
  else
    let s1 := count iss.core 0x0204 (if joins s iss ran then 1 else 0) s
    let s2 := mapCore s1 iss.core fun r => { r with issued := true }
    { s2 with
      threads := s2.threads.map fun t =>
        if t.launch = iss.launch then
          if ran.contains t.thread then afterIssue iss.fall ran t
          else if iss.others.contains t.thread then { t with passed := t.passed + 1 } else t
        else t,
      gangs := s2.gangs.map fun g =>
        if g.launch = iss.launch ∧ g.gang = iss.gang ∧ g.detached = iss.detachedGang ∧ g.core = iss.core then
          { g with lastIssue := now s } else g }

/-- Every lane of the group ends in one way, and the run has no effect. -/
def endGroup (e : LaneEnd) (iss : Issue) (s : State) : State :=
  finishRun iss (settle { s with issue := some iss,
                                 threads := s.threads.map fun t => if inGroup iss t then endLane iss t e else t })

/-- The picker forms an issue group and fetches and checks its run; a run that passes is the issue in progress. -/
def pick (c : Nat) (s : State) : State :=
  match formGroup s c with
  | none => s
  | some (g, v, ready) =>
    match v with
    | .stall _ => s
    | .lineMiss _ _ => s
    | .broken =>
      let iss := issueOf s c g ready [] (0, 0) 0
      contextFault s (launchOf s iss.launch).ctx iss.launch (iss.lanes.headD 0) 0
    | .trap k pos => endGroup (.trap k) { issueOf s c g ready [] (0, 0) 0 with pos := pos } s
    | .fault w => endGroup (.fault w 0) (issueOf s c g ready [] (0, 0) 0) s
    | .run ws fall mask => { s with issue := some (issueOf s c g ready ws fall mask) }

end Sys2Proof.Machine
end

