-- ==== Sys2Proof/Machine/Teasel.lean ====
section
/-! DEFINITION. The Teasel: bins and drains (02 R26 to R33), windows, the compactor, the pool's stalls; the return of
load data, the drain of posted stores and their acknowledgements (05 R110 to R114), barrier arrivals, deferred loads
and exits (09 R185, R195, R198). -/

namespace Sys2Proof.Machine

open Sys2Proof (Byte Word DWord Instr)

/-! ### Bins -/

/-- The drain threshold in force (19 Table 19-3). -/
def drainThreshold (s : State) : Nat := match s.mode.drain.toNat with | 0 => 64 | 1 => 256 | _ => 1024

/-- A bin's key on a core: (LAUNCH, GANG, RESUME). -/
structure BinKey where
  launch : Nat
  gang : Nat
  packet : Nat
  pos : Nat
  deriving DecidableEq, Repr

def keyOf (t : Thread) : BinKey := { launch := t.launch, gang := t.gang, packet := t.packet, pos := t.pos }

/-- The binning cycle of a binned record; one in the save area is in no bin. -/
def binnedAt (t : Thread) : Option Nat := if t.saved then none else match t.place with | .binned c => some c | _ => none

/-- The records of a bin, by binning cycle and then THREAD (02 R27). -/
def binRecords (s : State) (c : Nat) (k : BinKey) : List Thread :=
  sortBy (fun t => (binnedAt t).getD 0 * 2 ^ 40 + t.thread)
    (s.threads.filter fun t => decide (t.core = c) && (binnedAt t).isSome && decide (keyOf t = k))

/-- The keys of a core's bins. -/
def binKeys (s : State) (c : Nat) : List BinKey :=
  (s.threads.filter fun t => decide (t.core = c) && (binnedAt t).isSome).foldl
    (fun ks t => if ks.contains (keyOf t) then ks else ks ++ [keyOf t]) []

def isMark (k : BinKey) (m : BinMark) : Bool :=
  decide (m.launch = k.launch) && decide (m.gang = k.gang) && decide (m.packet = k.packet) && decide (m.pos = k.pos)

def markOf (s : State) (c : Nat) (k : BinKey) : BinMark :=
  ((coreOf s c).bins.find? (isMark k)).getD { launch := k.launch, gang := k.gang, packet := k.packet, pos := k.pos }

def putMark (s : State) (c : Nat) (k : BinKey) (m : BinMark) : State :=
  mapCore s c fun r =>
    { r with bins := if r.bins.any (isMark k) then r.bins.map (fun x => if isMark k x then m else x) else r.bins ++ [m] }

def dropMark (s : State) (c : Nat) (k : BinKey) : State :=
  mapCore s c fun r => { r with bins := r.bins.filter fun x => !isMark k x }

/-- The binning cycle of a bin's oldest record. -/
def oldestOf (rs : List Thread) : Nat := ((rs.head?.bind binnedAt).getD 0)

/-- The oldest record of a bin has waited for the threshold in force (02 R26). -/
def binOld (s : State) (c : Nat) (k : BinKey) : Bool :=
  let rs := binRecords s c k
  decide (rs ≠ []) && decide (drainThreshold s ≤ now s - oldestOf rs)

/-- Ready by count, or by the age that BIN_READY_BY_AGE has marked, under the threshold in force (02 R26, 01 R6). -/
def binReady (s : State) (c : Nat) (k : BinKey) : Bool :=
  decide (32 ≤ (binRecords s c k).length) || ((markOf s c k).ready && binOld s c k)

/-- R26: a bin's oldest record has reached the drain threshold. -/
def execBinReadyByAge (core launch gang packet pos : Nat) (s : State) : Out :=
  let k : BinKey := { launch := launch, gang := gang, packet := packet, pos := pos }
  if binOld s core k then .next (putMark s core k { markOf s core k with ready := true })
  else .next s

/-- The rank of a bin: less is drained first (02 R28). -/
def binRank (s : State) (c : Nat) (k : BinKey) : Nat :=
  (((15 - effectivePriority s (launchOf s k.launch)) * 2 ^ 64 + oldestOf (binRecords s c k)) * 2 ^ 32 + k.launch) * 2 ^ 90
    + k.gang * 2 ^ 66 + packetAddr k.packet + 4 * k.pos

/-! ### Windows -/

/-- A window class (02 Table 2-2). -/
def classWindow (c : Nat) : Nat := 4 * 2 ^ c

/-- The smallest class that holds the highest carried register (02 R30). -/
def maskWindow (m : DWord) : Nat :=
  ([4, 8, 16, 32].find? fun w => decide (m.toNat < 2 ^ w)).getD 64

/-- Threads of a core that hold a window. -/
def windowsHeld (s : State) (c : Nat) : Nat :=
  (s.threads.filter fun t => decide (t.core = c) && holdsWindow t).length

/-- What the Teasel finds in the descriptor before a resume packet (02 R18). -/
inductive Descriptor where
  | good (wclass : Nat)
  | malformed
  | fault (word : DWord)
  deriving DecidableEq, Repr

/-- The two packets before a resume packet, read as code wherever a fetch would find them: the read enters no level and
waits for none (log 81), and passes over padding, which a fetch meets (log 62). Below packet 0 or at the limit of
the code segment there is no descriptor (log 82). -/
def readDescriptorBefore (s : State) (t : Thread) : Descriptor :=
  let p := t.packet - 2
  if t.packet < 2 ∨ (segAt (gangOf s t).segs 5).limit.toNat ≤ packetAddr p then .malformed
  else
    match codeLineAt true s t (packetAddr p) with
    | .fault w => .fault w
    | .line l =>
      let w := fun i => lineWord l (p % 10 * 12 + 4 * i)
      let n := classWindow (w 3).toNat
      if !isDescriptor l p || decide ((w 0).toNat ≠ 0x7F000005) || decide (4 < (w 3).toNat) || decide ((w 4).toNat ≠ 0)
          || decide ((w 5).toNat ≠ 0) || decide (2 ^ n ≤ natOfWords [w 1, w 2]) then .malformed
      else .good (w 3).toNat
    | _ => .malformed

/-- The window a drained record receives, or why it does not drain. -/
def drainWindow (s : State) (t : Thread) : Except Descriptor Nat :=
  if (t.forced || t.latchesSaved) && !t.trapRec then .ok (maskWindow t.carry)
  else
    match readDescriptorBefore s t with
    | .good c => .ok (if t.trapRec then max (classWindow c) (maskWindow t.carry) else classWindow c)
    | d => .error d

/-- A drained thread (02 R33): carried registers at their numbers, the others zero; the trap word of a trap record. Its count of
groups that passed it over starts anew, though it may not have issued since (DESIGN CHOICE, log 98). -/
def drained (t : Thread) (w : Nat) : Thread :=
  { t with place := .window, window := w, regs := (List.range w).map (fun i => if t.carry.getLsbD i then regGet t.regs i else 0),
           trapWord := if t.trapRec then t.tfword else 0, tfword := 0, forced := false, trapRec := false,
           latchesSaved := false, waiting := none, passed := 0 }

/-- A record whose descriptor is malformed: a trap record at the handler, or, where the handler's own descriptor is at
fault, a context fault (02 R18). -/
def malformedRecord (s : State) (t : Thread) : State :=
  let lr := launchOf s t.launch
  let w := trapWordOf .illegalLiteral t.packet 0
  if t.trapRec || decide (lr.trappkt = 0) then
    contextFault (putThread s { t with place := .unbinned }) lr.ctx t.launch t.thread (if t.trapRec then t.tfword else w)
  else binRecord (recordWritten s t.core) (trapRecord t lr.trappkt w lr.ctx)

/-- The records that a drain cannot take: those whose descriptor cannot be read or is malformed (02 R18). -/
def refuseDrain (s : State) (t : Thread) : State :=
  match drainWindow s t with
  | .error (.fault w) => parkFault s t .unbinned w 0
  | .error _ => malformedRecord s t
  | .ok _ => s

/-- A record drained into its window. -/
def drainOne (s : State) (t : Thread) : State :=
  match drainWindow s t with
  | .error _ => s
  | .ok w => putThread (freeRecordSlot s t.launch t.thread) (drained t w)

/-- A bin drained as an umbel, or none of it where the windows cannot all be allocated: then it is deferred. -/
def drainBin (s : State) (c : Nat) (k : BinKey) : State × Bool :=
  let rs := (binRecords s c k).take 32
  let good := rs.filter fun t => (drainWindow s t).toBool
  let s1 := rs.foldl refuseDrain s
  if good = [] then (dropMark s1 c k, true)
  else if Config.coreWindows < windowsHeld s c + good.length then
    let m := markOf s c k
    (putMark s1 c k { m with deferredSince := some (m.deferredSince.getD (now s)) }, false)
  else
    let s2 := good.foldl drainOne (dropMark s1 c k)
    (count c 0x0203 1 (fitCore (mapCore s2 c fun r => { r with drained := true }) c), true)

/-- A bin has been deferred for the drain threshold or longer: nothing passes it (02 R28). -/
def blocksOthers (s : State) (c : Nat) (k : BinKey) : Bool :=
  match (markOf s c k).deferredSince with
  | none => false
  | some d => decide (drainThreshold s ≤ now s - d)

/-- Bins tried in rank order until one drains; nothing passes a bin deferred too long. -/
def drainFirst (c : Nat) : State → List BinKey → State
  | s, [] => s
  | s, k :: ks =>
    match drainBin s c k with
    | (s1, true) => s1
    | (s1, false) => if blocksOthers s1 c k then s1 else drainFirst c s1 ks

/-- A launch whose bins drain: its context runs. -/
def drains (s : State) (l : Nat) : Bool := (ctxOfLaunch s l).run == .running

/-- The ready bins of a core in the order of 02 R28: a bin deferred too long stands before every other. -/
def readyBins (s : State) (c : Nat) : List BinKey :=
  let ks := sortBy (binRank s c) ((binKeys s c).filter fun k => drains s k.launch && binReady s c k)
  ks.filter (blocksOthers s c) ++ ks.filter fun k => !blocksOthers s c k

/-- R27, R28: the Teasel drains one ready bin, at most one in a cycle. -/
def execDrain (core : Nat) (s : State) : Out :=
  if (coreOf s core).drained || !(coreOf s core).inService then .next s
  else .next (drainFirst core s (readyBins s core))

/-- R31: the compactor moves a live window; only the counter shows it. -/
def execCompactorMove (core : Nat) (s : State) : Out :=
  if windowsHeld s core = 0 then .next s else .next (count core 0x0201 1 s)

/-- R20, R21: a slot has freed, and a stalled thread completes its segment end; not in a context that is held (21 R333). -/
def execPoolSlotFreed (launch thread : Nat) (s : State) : Out :=
  match threadAt s launch thread with
  | none => .next s
  | some t =>
    match t.place with
    | .stalled p => if mayIssue s t then .next (placeRecord s t p) else .next s
    | _ => .next s

/-! ### Fetch and loads -/

/-- A code line entered into a level under its key, of at most `n` lines, the oldest giving way (01 R12). -/
def addCodeLine (n k line : Nat) (b : List Byte) (ls : List (Nat × Nat × List Byte)) : List (Nat × Nat × List Byte) :=
  if (ls.filter fun x => decide (x.1 = k)).length < n then ls ++ [(k, line, b)]
  else ls.eraseP (fun x => decide (x.1 = k)) ++ [(k, line, b)]

/-- Fills of a code line into the levels that lack it (01 R12): 128 KiB of I-L1, 2 MiB of I-L2, 16 MiB of the die's L2,
of which its data copies keep what is left. -/
def fillLine (core line : Nat) (s : State) : State :=
  let b := lineBelow s core line
  let g := groupOfCore core
  let d := dieOfCore core
  let has2 := s.icache2.any fun l => decide (l.1 = g) && decide (l.2.1 = line)
  let has3 := s.icache3.any fun l => decide (l.1 = d) && decide (l.2.1 = line)
  let s1 := mapCore s core fun r =>
    { r with fills := r.fills.filter (fun x => !decide (x = line)),
             icache := if r.icache.any fun x => decide (x.1 = line) then r.icache else youngest 1023 r.icache ++ [(line, b)] }
  fitDie { s1 with icache2 := if has2 then s.icache2 else addCodeLine 16384 g line b s.icache2,
                   icache3 := if has2 || has3 then s.icache3 else addCodeLine codeLineLimit d line b s.icache3 } d

/-- The way of a code line to a core: from its group's I-L2 or its die's L2, or asked for and brought over the Felt from the
die that homes it (23 R361); none while it cannot come, or its page moves (09 R192). -/
def codeTrip (s : State) (core line : Nat) : Option State :=
  if cachedLine s core line then some s
  else if isMoving s (line * 128) then none
  else roundTrip s (dieOfCore core) (homeOf s (line * 128)) false false 0

/-- R12: the oldest code line in flight to a core arrives; with an uncorrectable error in HBM nothing is delivered, and a
fetch that needs the line faults (21 R336). -/
def execCodeLineFill (core : Nat) (s : State) : Out :=
  match (coreOf s core).fills with
  | [] => .next s
  | l :: _ =>
    if isBad s (l * 128) && !cachedLine s core l then
      .next (mapCore s core fun r => { r with fills := r.fills.filter fun x => decide (x ≠ l) })
    else .next (((codeTrip s core l).map (fillLine core l)).getD s)

/-! ### Load data -/

/-- What an access to a location reaches: which peer is no matter to the way. -/
def targetOfLoc (loc : Nat) : Target :=
  if isPeerLoc loc then .peer 0 0
  else if 2 ^ 80 ≤ loc ∧ loc < 2 ^ 100 then .cell loc true
  else .virt 0 false

/-- The data of a plain load comes to its core: from its L1 or its die's copies, or over the Felt and into the caches
(04 R87, R94); none while it cannot be delivered. -/
def fetchData (s : State) (t : Thread) (loc n : Nat) : Option State :=
  if isHeld s t.core loc n then some s
  else
    (roundTrip s (dieOfCore t.core) (targetDie s t (targetOfLoc loc) loc) false false t.efftag).map
      fun s1 => fillCore s1 t.core (loc / 128)

/-- The data of an outstanding load has come; none while it has not. -/
def loadArrives (s : State) (t : Thread) (p : PendingLoad) : Option State :=
  match p.loc with
  | some (loc, n) => fetchData s t loc n
  | none => some s

/-! ### Reads that are answered from elsewhere -/

/-- A peer has answered a thread's read, which leaves the books. Not while the request is on its way to the F-die, or held
there. -/
def peerAnswer (s : State) (t : Thread) : Option State :=
  match s.renhar.out.find? (isRead t.launch t.thread) with
  | none => if requestUnderway s t.launch t.thread then none else some s
  | some o => if o.held then none else some (dropRequest s o)

/-- An atomic of a lane performed in a peer's memory (log 6), its old value on its way to the lane. -/
def performRemote (s : State) (t : Thread) : State :=
  match t.remoteLoad with
  | some (.sent r none) =>
    match r.kind with
    | .atomic _ n wide _ cmp v =>
      let b := if wide then 8 else 4
      putThread (modifyAt (dropWords s t.core r.loc b) (dieOfCore t.core) r.loc b n cmp.toNat v.toNat)
        { t with remoteLoad := some (.sent r (some (readNat s.mem r.loc b))) }
    | _ => s
  | _ => s

/-- The lanes whose atomics are of one run and on one word with a lane's, itself among them, in lane order. -/
def oneWordLanes (s : State) (t : Thread) (r : RemoteRead) : List Thread :=
  sortBy Thread.thread (s.threads.filter fun u => decide (u.launch = t.launch)
    && (match u.remoteLoad with | some (.sent q none) => oneWord r q | _ => false))

/-- With the first of their answers the atomics of one run on one word are performed together, in lane order (09 R188). -/
def performTogether (s : State) (t : Thread) (r : RemoteRead) : State := (oneWordLanes s t r).foldl performRemote s

/-- The answer at the core, with the old value of an atomic. -/
def answered (s : State) (t : Thread) (r : RemoteRead) : State :=
  mapThread s t.launch t.thread fun u =>
    let old := match u.remoteLoad with | some (.sent _ (some v)) => v | _ => 0
    { u with remoteLoad := none, answers := u.answers ++ [(r, old)] }

/-- What the answer brings: the line of a plain load fills the caches, an atomic is performed. -/
def takeAnswer (s : State) (t : Thread) (r : RemoteRead) : State :=
  match r.kind with
  | .atomic _ _ _ _ _ _ => answered (performTogether s t r) t r
  | .read _ _ => answered (fillCore s t.core (r.loc / 128)) t r
  | _ => answered s t r

/-- Another lane's atomic of the run on the word, which comes before, has still to be sent. -/
def awaitsMate (s : State) (t : Thread) (r : RemoteRead) : Bool :=
  s.threads.any fun u => decide (u.launch = t.launch) && (match u.remoteLoad with | some (.wanted q) => oneWord r q | _ => false)

/-- The answer has come to the F-die or the host port, and goes on to the core (23 R361); none while it has not, or cannot. -/
def remoteArrives (s : State) (t : Thread) (r : RemoteRead) : Option State :=
  match r.peer with
  | some _ =>
    if awaitsMate s t r then none
    else
      (peerAnswer s t).bind fun s1 =>
        (messageOf 1 s1 (fdieOf s t.launch) (dieOfCore t.core) r.acquire t.efftag).map fun s2 => takeAnswer s2 t r
  | none =>
    if isHostLoc r.loc then
      if windowPaused s r.loc then none
      else (messageOf 1 s 0 (dieOfCore t.core) false t.efftag).map fun s1 => takeAnswer s1 t r
    else if isMoving s r.loc then none
    else (fetchData s t r.loc r.size).map fun s1 => answered s1 t r

/-! ### Faults out of issue -/

/-- What a thread has asked for that a fault takes back: it is asked for again. -/
def forgetRequests (t : Thread) : Thread := { t with remoteLoad := none, ldc := t.ldc.map fun d => { d with sent := false } }

/-- A thread that keeps its window while its context is held (21 R333). -/
def heldWindow (s : State) (t : Thread) : Bool := t.place == .window && (ctxOfLaunch s t.launch).run == .held

/-- A fault of a thread's access that it is not issuing: its entry in the fault bin of its core, and its record there (21
R331, R336). An exiting thread has no record, one in a fault bin stays under its own page, and one that stalls enters with
its slot: the access is made again with the entry's RETRY (log 63). In a context that is held a window stays, and the access
is made again when the context goes on. -/
def drainFault (s : State) (t0 : Thread) (w : DWord) (peer : Nat) : State :=
  let t := forgetRequests t0
  match t.place with
  | .window => if heldWindow s t then putThread s t else involuntaryEnd s t (.faultBin w peer) w
  | .faultBin _ _ => enterFault (putThread s t) t.launch t.core w peer
  | .exiting => enterFault (putThread s t) t.launch t.core w peer
  | .exited => s
  | .stalled (.faultBin _ _) => enterFault (putThread s t) t.launch t.core w peer
  | .stalled p =>
    putThread s { t with
      place := .stalled (.faultBin w peer), forced := false, trapRec := false, latchesSaved := true, tfword := w,
      parked := some { place := match p with | .binned _ => .unbinned | q => q, forced := t.forced, trapRec := t.trapRec,
                       latchesSaved := t.latchesSaved, tfword := t.tfword } }
  | .binned _ => parkFault s t .unbinned w peer
  | p => parkFault s t p w peer

/-- The fault word of an access through a host window that is bound no more, with the level of the leaf that names it (21 R323,
R326). -/
def lostWindow (s : State) (core tag va : Nat) (a : Acc) (src : Nat) : DWord :=
  faultWord 6 a src false (match lookup s core (ctxOf s tag) va with | .ok e => e.level | .error _ => 0) va

/-- The acknowledgement of a release that its result brings has come, while the run waits that has made it. -/
def ackKept (t : Thread) : Thread :=
  match t.kept with
  | some p => if p.acks then { t with kept := some { p with acks := false }, relUnack := t.relUnack - 1 } else t
  | none => t

/-- R180: load data returns and is written into the thread's window, in the order of issue; or a lane's read is answered, or
its connection is lost and the read faults at its run (23 R378). -/
def execLoadDataReturn (launch thread : Nat) (s : State) : Out :=
  match threadAt s launch thread with
  | none => .next s
  | some t =>
    match t.remoteLoad with
    | some (.wanted r) =>
      if windowLost s r.wpa then .next (drainFault s t (lostWindow s t.core t.efftag r.va .read 0) 0) else .next (sendRemote s t r)
    | some (.sent r _) =>
      if windowLost s r.wpa then .next (drainFault s t (lostWindow s t.core t.efftag r.va .read 0) 0)
      else .next ((remoteArrives s t r).getD s)
    | none =>
      match t.loads with
      | [] => .next (putThread s (ackKept t))
      | p :: ps =>
        match loadArrives s t p with
        | none => .next s
        | some s1 =>
          .next (putThread s1 { returnLoad t p with loads := ps, relUnack := if p.acks then t.relUnack - 1 else t.relUnack })

/-- Non-leaf entries that a walk of an address reads. -/
def walkedTables (s : State) (x : Context) (va : Nat) : List Nat → Nat → List WalkEntry
  | [], _ => []
  | lvl :: lvls, table =>
    let e := readNat s.mem (table + 8 * (va / 2 ^ (48 - 8 * lvl) % 256)) 8
    let addr := e / 2 ^ 11 % 2 ^ 37 * 2 ^ 11
    if e % 2 = 0 ∨ badEntry e lvl = true ∨ e / 2 % 2 = 1 then []
    else
      { tag := x.tag, level := lvl, base := va / 2 ^ (48 - 8 * lvl) * 2 ^ (48 - 8 * lvl), table := addr }
        :: walkedTables s x va lvls addr

/-- Entries of a die's walk cache: 64 KiB of 8-byte entries (21 R325). -/
def walkEntries : Nat := 8192

/-- Tables entered into a die's walk cache, the oldest giving way. -/
def addWalks (die : Nat) (new : List WalkEntry) (cache : List (Nat × WalkEntry)) : List (Nat × WalkEntry) :=
  let mine := cache.filter fun w => decide (w.1 = die)
  (cache.filter fun w => decide (w.1 ≠ die))
    ++ youngest walkEntries (mine ++ (new.map fun w => (die, w)).filter fun w => !mine.contains w)

/-- Where a walk reads its entries, and the walk-cache entries that spare a reading. -/
def walkReads (s : State) (die : Nat) (x : Context) (va : Nat) : List Nat :=
  let ws := walkedTables s x va [1, 2, 3, 4] x.tbase
  let levels := ((ws.map WalkEntry.table).zip (List.range 4)).map fun p => p.1 + 8 * (va / 2 ^ (40 - 8 * (p.2 + 1)) % 256)
  let at_ := (x.tbase + 8 * (va / 2 ^ 40 % 256)) :: levels
  ((List.range at_.length).zip at_).filterMap fun p =>
    if (ws[p.1]?).any fun w => s.walkCache.contains (die, w) then none else some p.2

/-- The packets of a walk, to the dies that home the entries it reads (23 R361); none while one cannot be delivered. -/
def walkTrips (s : State) (core tag : Nat) (x : Context) (va : Nat) : Option State :=
  (walkReads s (dieOfCore core) x va).foldlM (fun y loc => roundTrip y (dieOfCore core) (homeOf y loc) false false tag) s

/-- A context whose removal has begun: nothing more is entered under its tag (22 R351, R352). -/
def isRemoving (x : Context) : Bool := match x.run with | .removing _ => true | _ => false

/-- R322, R325: a walker resolves an address; the core's TLB of 512 entries holds the translation, the oldest giving
way, and its die's walk cache the tables. -/
def execTlbMissWalk (core tag va : Nat) (s : State) : Out :=
  let x := ctxOf s tag
  match ctxAt s tag, walk s x va, walkTrips s core tag x va with
  | some _, .ok e, some s0 =>
    if isRemoving x then .next s
    else
      let s1 := mapCore s0 core fun r =>
        let kept := r.tlb.filter fun y => !(decide (y.tag = e.tag) && decide (y.base = e.base) && decide (y.size = e.size))
        { r with tlb := (if kept.length < 512 then kept else kept.drop 1) ++ [e] }
      .next { s1 with walkCache := addWalks (dieOfCore core) (walkedTables s x va [1, 2, 3, 4] x.tbase) s1.walkCache }
  | _, _, _ => .next s

/-! ### Posted stores -/

/-- A record that waited for a store-buffer entry returns to its bin. -/
def wakeStore (s : State) (t : Thread) : State :=
  match awaits t with
  | .storeSlot => eventCame s t
  | _ => putThread s t

/-- An entry to a host window: it goes to the host as an RDMA WRITE, and drains with the transport's acknowledgement (23
R377, log 7). -/
def performHost (s : State) (t : Thread) (e : SbEntry) (rest : List SbEntry) : State :=
  let n := 2 ^ e.size
  if e.sent then wakeStore s { t with sbuf := rest }
  else
    match messageOf 1 s (dieOfCore t.core) 0 false e.tag with
    | none => s
    | some s1 =>
      putThread (portWrite (homePut (dropWords s1 t.core e.loc n) 0 e.loc n e.data.toNat) e.wpa n e.data.toNat)
        { t with sbuf := { e with sent := true } :: rest }

/-- The accepted entry's store performed (05 R111): a peer's is sent and counted; a word homed on another die is merged into
the own die's copy, owned there, and registered with its home. -/
def performEntry (s : State) (t : Thread) (e : SbEntry) (rest : List SbEntry) : State :=
  let n := 2 ^ e.size
  let v := e.data.toNat
  let own := dieOfCore t.core
  let t1 := { t with sbuf := rest }
  let s1 := mergeStore s t.core e.loc n v
  if e.peerf then
    wakeStore (peerSend (homePut s1 own e.loc n v) { t1 with efftag := e.tag } false e.peer e.vaddr
        (.postedWrite e.vaddr ((List.range n).zip (bytesOfNat v n))))
      { t1 with peerAck := t.peerAck + 1 }
  else if isHostLoc e.loc then performHost s t e rest
  else if e.loc < 2 ^ 39 ∧ homeOf s e.loc ≠ own then
    wakeStore (threadPost s1 { t1 with efftag := e.tag } (homeOf s e.loc) false (.write e.loc n v) (some .ownership))
      { t1 with ownUnack := t.ownUnack + 1 }
  else wakeStore (homePut s1 own e.loc n v) t1

/-- The die that an entry's packet goes to. -/
def entryDie (s : State) (t : Thread) (e : SbEntry) : Nat :=
  if e.peerf then fdieOf s t.launch else if e.loc < 2 ^ 39 then homeOf s e.loc else 0

/-- The core of a thread holds it, and drains its entries (02 R24): not a saved record, nor one that has left for another
core. -/
def holdsEntries (t : Thread) : Bool :=
  !t.saved && match t.fwd with | some f => f.phase != .transit | none => true

/-- A drain that meets an error, and is made again with RETRY (21 R336); in a context that is held, without. -/
def failDrain (s : State) (t : Thread) (e : SbEntry) (rest : List SbEntry) (w : DWord) : State :=
  if heldWindow s t then s else drainFault s { t with sbuf := { e with failed := true } :: rest } w e.peer

/-- R111: the oldest entry of a thread is accepted, unless its fabric has no room or its line is in error. -/
def execStoreBufferDrain (launch thread : Nat) (s : State) : Out :=
  match threadAt s launch thread with
  | none => .next s
  | some t =>
    match t.sbuf with
    | [] => .next s
    | e :: rest =>
      if !holdsEntries t || e.failed then .next s
      else if isBad s e.loc then .next (failDrain s t e rest (faultWord 7 .write 3 e.peerf 0 e.vaddr))
      else if windowLost s e.wpa then .next (failDrain s t e rest (lostWindow s t.core e.tag e.vaddr .write 3))
      else if windowPaused s e.loc then .next s
      else if !feltReady s (dieOfCore t.core) (entryDie s t e) then .next s
      else .next (performEntry s t e rest)

/-- A posted request of a thread, which PEERACK counts: sent, and not a returning atomic or a read. -/
def isPosted (launch thread : Nat) (o : RenharOut) : Bool :=
  decide (o.launch = launch) && decide (o.thread = thread) && !o.held && isPostedKind o.packet.kind

/-- A thread's first `n` posted requests acknowledged. -/
def dropRequests (launch thread : Nat) : Nat → List RenharOut → List (PeerPath × Nat × Nat × Nat) →
    List RenharOut × List (PeerPath × Nat × Nat × Nat)
  | 0, out, ls => (out, ls)
  | _, [], ls => ([], ls)
  | n + 1, o :: out, ls =>
    if isPosted launch thread o then
      dropRequests launch thread n out (dropLine (wayOf o) ((requestLine o.packet.kind).getD 0) ls)
    else
      let r := dropRequests launch thread (n + 1) out ls
      (o :: r.1, r.2)

/-- An acknowledgement of `n` requests of a thread (05 R118). -/
def peerAcked (s : State) (launch thread n : Nat) : State :=
  match threadAt s launch thread with
  | none => s
  | some t =>
    let k := min n (s.renhar.out.filter (isPosted launch thread)).length
    let r := dropRequests launch thread k s.renhar.out s.renhar.lines
    putThread { s with renhar := { s.renhar with out := r.1, lines := r.2 } } { t with peerAck := t.peerAck - k }

/-- R118: a peer's acknowledgement lowers PEERACK, wherever the thread or its record is. -/
def execPeerAck (launch thread count : Nat) (s : State) : Out := .next (peerAcked s launch thread count)

/-- Packets of a thread that await an acknowledgement of a kind and are not yet delivered. -/
def undeliveredOf (s : State) (t : Thread) (kind : AckKind) : Nat :=
  (s.felt.packets.filter fun p => decide (p.sender = some (t.launch, t.thread)) && decide (p.acks = some kind)).length

/-- Releases of a thread that no home can have acknowledged yet: on the Felt, at a peer, or acknowledged by their own
results (05 R118). -/
def openReleases (s : State) (t : Thread) : Nat :=
  undeliveredOf s t .release
    + (s.felt.owed.filter fun o => decide (o.launch = t.launch ∧ o.thread = t.thread ∧ o.kind = .release)).length
    + ((t.loads ++ t.kept.toList).filter PendingLoad.acks).length
    + (s.renhar.out.filter fun o => decide (o.launch = t.launch) && decide (o.thread = t.thread) && isPostedKind o.packet.kind).length
    + (s.felt.packets.filter fun p => match p.body with
        | .renhar _ l n _ _ _ k => decide (l = t.launch) && decide (n = t.thread) && isPostedKind k
        | _ => false).length

/-- One acknowledgement counted. -/
def countAck (kind : AckKind) (t : Thread) : Thread :=
  match kind with
  | .release => { t with relUnack := t.relUnack - 1 }
  | .ownership => { t with ownUnack := t.ownUnack - 1 }
  | .otherDie => { t with dieUnack := t.dieUnack - 1 }

/-- An acknowledgement of a home on the thread's own die, or of a peer, where one may have come. -/
def ackThread (s : State) (kind : AckKind) (t : Thread) : Thread :=
  let open_ := match kind with
    | .release => openReleases s t
    | k => undeliveredOf s t k
  let count := match kind with
    | .release => t.relUnack
    | .ownership => t.ownUnack
    | .otherDie => t.dieUnack
  if open_ < count then countAck kind t else t

/-- An acknowledgement that is owed to a thread. -/
def owedTo (launch thread : Nat) (kind : AckKind) (o : OwedAck) : Bool := decide (o.launch = launch ∧ o.thread = thread ∧ o.kind = kind)

/-- An owed acknowledgement on its way over the Felt to its thread's die (23 R361); none while it cannot be delivered. -/
def bringAck (s : State) (o : OwedAck) : Option State :=
  match threadAt s o.launch o.thread with
  | none => some s
  | some t => message s o.die (dieOfCore t.core) false o.tag

/-- R113: a home acknowledges one release, ownership registration or other-die store that has been delivered to it. -/
def execReleaseAck (launch thread : Nat) (kind : AckKind) (s : State) : Out :=
  match s.felt.owed.find? (owedTo launch thread kind) with
  | none => .next (mapThread s launch thread (ackThread s kind))
  | some o =>
    match bringAck s o with
    | none => .next s
    | some s1 => .next (mapThread { s1 with felt := { s1.felt with owed := s1.felt.owed.erase o } } launch thread (countAck kind))

/-! ### Barriers (09 R195) -/

def barrierCount (k : BarKind) (t : Thread) : Nat := match k with | .gang => t.barN | .cluster => t.barcN | .launch => t.barxN

def bumpBarrier (k : BarKind) (t : Thread) : Thread :=
  match k with
  | .gang => { t with barN := t.barN + 1 }
  | .cluster => { t with barcN := t.barcN + 1 }
  | .launch => { t with barxN := t.barxN + 1 }

/-- Two threads are of one unit of a barrier. -/
def sameUnit (s : State) (k : BarKind) (t u : Thread) : Bool :=
  decide (t.launch = u.launch) && match k with
    | .gang => decide (t.gang = u.gang)
    | .cluster => decide (t.gang / (launchOf s t.launch).clsize = u.gang / (launchOf s t.launch).clsize)
    | .launch => true

/-- A thread counts for instance `n`: it has arrived there, has exited, or is or was detached. -/
def countsForInstance (k : BarKind) (n : Nat) (u : Thread) : Bool :=
  u.detached || u.place == .exited || decide (n ≤ barrierCount k u)

/-- A counted thread's instance is complete. -/
def instanceComplete (s : State) (k : BarKind) (t : Thread) : Bool :=
  s.threads.all fun u => !sameUnit s k t u || countsForInstance k (barrierCount k t) u

/-- The dies of the threads that have arrived at a thread's instance. -/
def arrivalDies (s : State) (k : BarKind) (t : Thread) : List Nat :=
  distinct ((s.threads.filter fun u => sameUnit s k t u && countsForInstance k (barrierCount k t) u).map fun u => dieOfCore u.core)

/-- The threads that wait at a counted thread's instance. -/
def instanceMembers (s : State) (k : BarKind) (t : Thread) : List Thread :=
  s.threads.filter fun u => sameUnit s k t u && awaits u == .barrier k true && decide (barrierCount k u = barrierCount k t)

/-- The records of a complete instance binned together, each on the core that holds it, which acquires for it, once what the
dies of the arrivals know has come to every die of theirs (05 R99, R106, R113). -/
def releaseInstance (s : State) (k : BarKind) (t : Thread) : State :=
  let us := instanceMembers s k t
  match tell s t.efftag (arrivalDies s k t) (distinct (us.map fun u => dieOfCore u.core)) with
  | some s1 => us.foldl (fun y u => eventCame (selfInvalidate y u.core) u) s1
  | none => s

/-- Every complete instance's records binned. -/
def releaseBarriers (s : State) : State :=
  s.threads.foldl (fun y t =>
    match (threadAt y t.launch t.thread).map awaits with
    | some (.barrier k true) => if instanceComplete y k t then releaseInstance y k t else y
    | _ => y) s

/-- R195: a thread's arrival is counted once its release conditions hold; the threads of a complete instance go on. -/
def execBarrierArrival (launch thread : Nat) (s : State) : Out :=
  match threadAt s launch thread with
  | none => .next s
  | some t =>
    match t.place with
    | .barrier k false =>
      if releaseReady s t then .next (releaseBarriers (putThread s { bumpBarrier k t with place := .barrier k true })) else .next s
    | .barrier _ true => .next (releaseBarriers s)
    | _ => .next s

/-! ### Deferred loads (09 R185) -/

/-- The loaded value put into the record's copy of its destination. -/
def ldcPut (s : State) (t : Thread) (d : DeferredLoad) : Thread :=
  let v := extend d.signed d.size (seenNat s t d.loc d.size)
  let m := max t.regs.length (d.dest + (d.size + 3) / 4)
  setRegs { t with regs := (List.range m).map (regGet t.regs), ldc := none } d.dest (wordsOf v ((d.size + 3) / 4))

/-- The request of a deferred load to a peer, or to the host, on its way. -/
def sendDeferred (s : State) (t : Thread) (d : DeferredLoad) : State :=
  let t1 := { t with ldc := some { d with sent := true } }
  if d.peerf then
    if feltReady s (dieOfCore t.core) (fdieOf s t.launch) then
      putThread (peerSend s { t with efftag := d.tag } false d.peer d.va (.read d.va d.size)) t1
    else s
  else
    match message s (dieOfCore t.core) 0 false d.tag with
    | some s1 => putThread (portRead s1 d.wpa d.size) t1
    | none => s

/-- The state in which the data of a deferred load has come: over the Felt, from a peer, or from the host. -/
def ldcData (s : State) (t : Thread) (d : DeferredLoad) : Option State :=
  if d.peerf && d.sent then
    (peerAnswer s t).bind fun s1 =>
      (messageOf 1 s1 (fdieOf s t.launch) (dieOfCore t.core) false d.tag).map fun s2 => fillCore s2 t.core (d.loc / 128)
  else if isHostLoc d.loc then messageOf 1 s 0 (dieOfCore t.core) false d.tag
  else if isMoving s d.loc then none
  else fetchData s { t with efftag := d.tag } d.loc d.size

/-- A deferred load has still to be asked for: of a peer, but for words at hand, or of the host. -/
def asksFirst (s : State) (t : Thread) (d : DeferredLoad) : Bool :=
  !d.sent && ((d.peerf && !isHeld s t.core d.loc d.size) || isHostLoc d.loc)

/-- R185: the load is performed into the record, which is then binned. -/
def execLdcLoad (launch thread : Nat) (s : State) : Out :=
  match threadAt s launch thread with
  | none => .next s
  | some t =>
    match t.place, t.ldc with
    | .ldcWait, some d =>
      if readsBad s t.core .plain d.loc d.size then .next (drainFault s t (faultWord 7 .read 3 d.peerf 0 d.va) d.peer)
      else if windowLost s d.wpa then .next (drainFault s t (lostWindow s t.core d.tag d.va .read 3) 0)
      else if windowPaused s d.loc then .next s
      else if asksFirst s t d then .next (sendDeferred s t d)
      else
        match ldcData s t d with
        | none => .next s
        | some s1 => .next (binRecord s1 (ldcPut s t d))
    | _, _ => .next s

/-! ### Exits (09 R198) -/

/-- A range that a thread still holds. -/
def holdsRange (s : State) (l t : Nat) : Bool := s.tileRanges.any fun r => decide (r.launch = l) && decide (r.thread = t)

/-- Steps 1 to 4 of R198 are complete, but for the handles that its exit frees. -/
def exitReady (t : Thread) : Bool :=
  t.batches.isEmpty && t.openBatch.ops.isEmpty && t.sbuf.isEmpty && decide (t.peerAck = 0) && t.fwdAcks.isEmpty

/-- A detached gang that holds no thread any more is gone. -/
def dropDetached (s : State) : State :=
  { s with gangs := s.gangs.filter fun g => !g.detached || s.threads.any fun t =>
      decide (t.launch = g.launch) && decide (t.gang = g.gang) && t.detachedHere && decide (t.core = g.core)
        && t.place != .exited }

/-- Two gangs of a launch are held together from admission to their last exit (02 R16): a cluster, or a cohort launch. -/
def sameUnitGang (lr : Launch) (g h : Nat) : Bool := lr.cohort || decide (g / lr.clsize = h / lr.clsize)

/-- The gang-local memory of a gang zeroed (04 R90). -/
def zeroLocal (launch gang : Nat) (s : State) : State :=
  { s with mem := cellClear s.mem (gangLoc launch gang 0) (gangLoc launch gang (2 ^ 20)) }

/-- The gangs of a unit leave their cores: memory zeroed, pool reservations given back. -/
def releaseGangs (s : State) (l : Nat) (unit : Nat → Bool) : State :=
  let gone := s.gangs.filter fun g => decide (g.launch = l) && !g.detached && unit g.gang
  let s1 := gone.foldl (fun x g => zeroLocal l g.gang x) s
  { s1 with gangs := s1.gangs.filter fun g => !(decide (g.launch = l) && !g.detached && unit g.gang),
            cores := s1.cores.map fun r => { r with pool := r.pool.filter fun b =>
              !(decide (b.launch = l) && b.thread.isNone && unit b.gang) } }

/-- A unit whose last thread has exited gives up its cores. -/
def releaseUnit (s : State) (t : Thread) : State :=
  let unit := sameUnitGang (launchOf s t.launch) t.gang
  if s.threads.all fun u => !(decide (u.launch = t.launch) && unit u.gang) || (u.place == .exited && u.fwdAcks.isEmpty) then
    releaseGangs s t.launch unit
  else s

/-- The thread counted as exited (09 R198), which barriers see; its unit leaves with its last thread. -/
def countExit (s : State) (t : Thread) : State :=
  let s1 := mapLaunch (putThread s { t with place := .exited }) t.launch fun l => { l with exitedCount := l.exitedCount + 1 }
  dropDetached (releaseUnit (releaseBarriers s1) t)

/-- R198: an exiting thread gives up its handles, and, with everything complete and released, has exited; what its die knows
goes to the launch's F-die, which completes the launch (05 R99, R102). -/
def execThreadExit (launch thread : Nat) (s : State) : Out :=
  match threadAt s launch thread with
  | none => .next s
  | some t =>
    if t.place ≠ .exiting ∨ exitReady t = false then .next s
    else if t.handle0 ≠ 0 ∨ t.handle1 ≠ 0 then
      let s1 := freeSlot s t 0
      match threadAt s1 launch thread with
      | none => .next s1
      | some t1 => .next (freeSlot s1 t1 1)
    else if holdsRange s launch thread || !releaseReady s t then .next s
    else
      match tell s t.efftag [dieOfCore t.core] [(launchOf s launch).fdie] with
      | none => .next s
      | some s1 => .next (countExit s1 t)

end Sys2Proof.Machine
end

