-- ==== Sys2Proof/Machine/Engine.lean ====
section
/-! DEFINITION. The tile scheduler, the matrix engines and the moves of tiles (10 R205, R212 to R223), with the matrix
fold (03 R65 to R72) and the limit on engine starts (24 R382); the page moves of `claim` (09 R192). -/

namespace Sys2Proof.Machine

open Sys2Proof (Byte Word DWord Instr)

/-! ### Operations and tiles -/

def opAt (s : State) (id : Nat) : Option TileOp := s.tileOps.find? fun o => decide (o.id = id)

def putOp (s : State) (o : TileOp) : State := { s with tileOps := s.tileOps.map fun x => if x.id = o.id then o else x }

def sameRange (o p : TileOp) : Bool := decide (o.range = p.range)

/-- Key of a tile element: tile, row and column on an engine. -/
def tileKey (core engine tile row col : Nat) : Nat := ((core * 4 + engine) * 64 + tile) * 1024 + row * 32 + col

/-- Key of element (i, j) of a region that begins at tile `t0` of a range, `nb` tiles wide (10 R210, R222). -/
def elemKey (r : TileRange) (t0 nb i j : Nat) : Nat :=
  tileKey r.core r.engine (r.base + t0 + i / 32 * nb + j / 32) (i % 32) (j % 32)

def tileGet (s : State) (k : Nat) : Word := cellGet s.tiles k

def tileSet (s : State) (k : Nat) (v : Word) : State := { s with tiles := cellSet s.tiles k v }

/-- `n` tiles of a range zeroed, from its tile `t0` on. -/
def zeroTiles (s : State) (r : TileRange) (t0 n : Nat) : State :=
  { s with tiles := cellClear s.tiles (tileKey r.core r.engine (r.base + t0) 0 0) (tileKey r.core r.engine (r.base + t0 + n) 0 0) }

/-- Key of a range's first element. -/
def rangeKey (r : TileRange) : Nat := tileKey r.core r.engine r.base 0 0

/-- The contents of a range, by offset: from its engine, or from the save area. -/
def rangeImage (s : State) (r : TileRange) : List (Nat × Word) :=
  if r.saved then r.image
  else (s.tiles.filter fun x => decide (rangeKey r ≤ x.1) && decide (x.1 < rangeKey r + 1024 * r.count)).map
    fun x => (x.1 - rangeKey r, x.2)

/-- Contents written into a range. -/
def putImage (r : TileRange) (s : State) (im : List (Nat × Word)) : State :=
  im.foldl (fun s1 x => tileSet s1 (rangeKey r + x.1) x.2) s

/-- A dispatched operation holds an engine of a core (10 R205), also while a pre-emption has set it aside (log 84). -/
def engineHolds (s : State) (core e : Nat) : Bool :=
  s.tileOps.any fun o =>
    (match o.state with | .dispatched => true | .suspended _ => true | _ => false) && decide (o.core = core)
      && (match rangeAt s o.range with | some r => r.bound && decide (r.engine = e) | none => false)

/-! ### Dispatch (10 R205, R213, R214) -/

/-- The engines on which no other handle holds or has reserved a range's tiles. -/
def eligibleEngines (s : State) (r : TileRange) : List Nat :=
  [0, 1, 2, 3].filter fun e => !(coreOf s r.core).enginesOff.contains e &&
    !(s.tileRanges.any fun x => decide (x.core = r.core) && decide (x.engine = e) && !x.saved && decide (x.id ≠ r.id)
      && decide (r.base < x.base + x.count) && decide (x.base < r.base + r.count))

/-- The lowest eligible engine that is idle, or else the lowest eligible one. -/
def chooseEngine (s : State) (r : TileRange) : Nat :=
  let es := eligibleEngines s r
  (es.find? fun e => !engineHolds s r.core e).getD (es.headD r.engine)

/-- The slot that holds the handle of a range takes its value anew. -/
def refreshSlot (r : TileRange) (t : Thread) : Thread := if r.freeing then t else setSlot t r.slot (handleValue r)

/-- A range bound to an engine: its reservation moves there with what its tiles hold (22 R348), and ENGINE stands in the
slot. -/
def bindRange (s : State) (r : TileRange) (e : Nat) : State :=
  let r1 := { r with engine := e, bound := true }
  let s1 := if r.engine = e then s else putImage r1 (zeroTiles s r 0 r.count) (rangeImage s r)
  mapThread (mapRange s1 r.id fun _ => r1) r.launch r.thread (refreshSlot r1)

/-- A batch of a thread has been reported complete (11 R238). -/
def batchReported (t : Thread) (n : Nat) : Bool := decide (unfinished t ≤ (n + 2 ^ 16 - t.boldest.toNat) % 2 ^ 16)

/-- An operation may be dispatched: every earlier operation and marker of its handle is complete, the batch it names
has been reported, and the stores its thread had posted have drained. -/
def opReady (s : State) (o : TileOp) : Bool :=
  o.state == .queued && !o.setAside && startsWork s o.launch
    && (s.tileOps.all fun p => !sameRange o p || decide (o.id ≤ p.id) || p.state == .complete)
    && (match o.bdep with
        | none => true
        | some n => ((threadAt s o.launch o.thread).map fun t => batchReported t n).getD true)
    && storesDrained s o.launch o.thread

/-- Tiles of an operation's region. -/
def taskTiles (o : TileOp) : Nat := shapeM o.shape * shapeN o.shape

/-- An operation dispatched, on the engine that its range is bound to, or now binds to (10 R205). One that was suspended
and whose range has been rebound since is dispatched again, and goes on where it was (22 R346). -/
def dispatchOp (s : State) (o : TileOp) : State :=
  match rangeAt s o.range with
  | none => s
  | some r0 =>
    let s1 := if r0.bound then s else bindRange s r0 (chooseEngine s r0)
    let r := (rangeAt s1 o.range).getD r0
    if o.kind = .fence then { s1 with tileOps := s1.tileOps.filter fun x => !decide (x.id = o.id) }
    else
      let s2 := putOp { s1 with nextOp := s1.nextOp + 1 } { o with state := .dispatched, order := s1.nextOp }
      if isTask o && decide (o.fmt.toNat / 256 % 4 = 1) && decide (o.order = 0) then zeroTiles s2 r 0 (taskTiles o) else s2

/-- R214: the scheduler of a core dispatches its oldest ready operation. -/
def execTaskDispatch (core : Nat) (s : State) : Out :=
  match s.tileOps.find? fun o => decide (o.core = core) && opReady s o with
  | none => .next s
  | some o => .next (dispatchOp s o)

/-! ### Operands (10 R210, R216, R217) -/

/-- The results of a list of accesses, up to the first that stops. -/
def readAll {α β : Type} (f : α → Except EngineStop β) : List α → Except EngineStop (List β)
  | [] => .ok []
  | x :: xs =>
    match f x with
    | .error e => .error e
    | .ok v =>
      match readAll f xs with
      | .error e => .error e
      | .ok vs => .ok (v :: vs)

def opUser (s : State) (o : TileOp) : EngineUser :=
  { who := engineAccessor s o.launch o.gang o.thread o.core o.segs, tag := o.tag, use := .tile, src := 2 }

/-- `n` bytes of an operand. -/
def operandRead (s : State) (o : TileOp) (p : DWord) (n : Nat) : Except EngineStop Nat :=
  match engineLocate s (opUser s o) p n .read with
  | .error e => .error e
  | .ok (_, loc) => .ok (engineBytes s o.core loc n)

/-- The line of an operand's byte brought into the L2 of the die, where it is not held and homed elsewhere (04 R94). -/
def operandFetch (o : TileOp) (s : State) (p : DWord) : State :=
  match engineLocate s (opUser s o) p 1 .read with
  | .error _ => s
  | .ok (g, loc) => (engineFetch s (opUser s o) g loc 1 none).toOption.getD s

/-- The first and last byte of a step's part of a row of an operand, 128 bytes at most. -/
def rowPointers (base : DWord) (stride bits step row : Nat) : List DWord :=
  [plusBytes base (row * stride + 4 * step * bits), plusBytes base (row * stride + 4 * step * bits + 4 * bits - 1)]

/-- Element k of a row of an operand: its code; E2M1 elements lie two to a byte (03 R46). -/
def elementRead (s : State) (o : TileOp) (base : DWord) (stride bits row k : Nat) : Except EngineStop Nat :=
  if bits = 4 then
    match operandRead s o (plusBytes base (row * stride + k / 2)) 1 with
    | .error e => .error e
    | .ok b => .ok (if k % 2 = 0 then b % 16 else b / 16)
  else operandRead s o (plusBytes base (row * stride + k * bits / 8)) (bits / 8)

/-- The bitmap words of a block of rows or columns for the 32 k of a step (10 R217). -/
def bitmapRead (s : State) (o : TileOp) (offset step : Nat) : Except EngineStop (List Word) :=
  readAll (fun x =>
    match operandRead s o (plusBytes o.pm (offset + 4 * (32 * step + x))) 4 with
    | .error e => .error e
    | .ok v => .ok (BitVec.ofNat 32 v)) (List.range 32)

/-- The bitmaps of a step, by row block and by column block. -/
structure Bitmaps where
  a : List (List Word)
  b : List (List Word)
  deriving DecidableEq, Repr

def bitmapsRead (s : State) (o : TileOp) : Except EngineStop Bitmaps :=
  let k := shapeK o.shape
  match readAll (fun rb => bitmapRead s o (4 * (rb * k)) o.step) (List.range (shapeM o.shape)) with
  | .error e => .error e
  | .ok a =>
    match readAll (fun cb => bitmapRead s o (4 * (shapeM o.shape * k + cb * k)) o.step) (List.range (shapeN o.shape)) with
    | .error e => .error e
    | .ok b => .ok ⟨a, b⟩

/-- Some element of one operand is present at k = 32 × step + x. -/
def anyAt (l : List (List Word)) (x : Nat) : Bool := l.any fun b => b.getD x 0 != 0

/-- Element (row, x) is present. -/
def presentAt (l : List (List Word)) (row x : Nat) : Bool := ((l.getD (row / 32) []).getD x 0).getLsbD (row % 32)

/-- A step is executed: some k of it has a present element of A and one of B. -/
def executes (m : Option Bitmaps) : Bool :=
  match m with
  | none => true
  | some m => (List.range 32).any fun x => anyAt m.a x && anyAt m.b x

/-- One row or column of an operand over a step: codes, and none where a bitmap leaves the element's products out. -/
def panelRow (s : State) (o : TileOp) (base : DWord) (stride bits : Nat) (own other : Option (List (List Word)))
    (valid : Nat → Bool) (row : Nat) : Except EngineStop (List (Option Nat)) :=
  readAll (fun x =>
    let used := match own, other with
      | some p, some q => presentAt p row x && anyAt q x
      | _, _ => true
    if !used then .ok none
    else if !valid row then .ok (some 0)
    else
      match elementRead s o base stride bits row (32 * o.step + x) with
      | .error e => .error e
      | .ok v => .ok (some v)) (List.range 32)

/-- The scale byte of a row or column for the step's block. -/
def scaleRead (s : State) (o : TileOp) (base : DWord) (row : Nat) : Except EngineStop Nat :=
  operandRead s o (plusBytes base (row * (shapeK o.shape / 32) + o.step)) 1

/-- What a step multiplies: rows of A and columns of B with their scales. -/
structure Panels where
  a : List (List (Option Nat) × Option Nat)
  b : List (List (Option Nat) × Option Nat)
  deriving DecidableEq, Repr

/-- A row with its scale, if its operand has scales. -/
def scaledRow (s : State) (o : TileOp) (scaled : Bool) (ps : DWord) (row : Nat) (f : Nat → Except EngineStop (List (Option Nat))) :
    Except EngineStop (List (Option Nat) × Option Nat) :=
  match f row with
  | .error e => .error e
  | .ok v =>
    if scaled then
      match scaleRead s o ps row with
      | .error e => .error e
      | .ok c => .ok (v, some c)
    else .ok (v, none)

/-- Row r of A is valid under the mask. -/
def rowValid (m : Option (List Word)) (r : Nat) : Bool :=
  match m with
  | none => true
  | some l => (l.getD (r / 32) 0).getLsbD (r % 32)

/-- The operands of a step. -/
def panelsRead (s : State) (o : TileOp) (maps : Option Bitmaps) : Except EngineStop Panels :=
  let f := o.fmt.toNat
  let ma := maps.map Bitmaps.a
  let mb := maps.map Bitmaps.b
  let rowA := panelRow s o o.pa o.sa.toNat (typeBits (f % 16)) ma mb (rowValid o.rows)
  let colB := panelRow s o o.pb o.sb.toNat (typeBits (f / 16 % 16)) mb ma (fun _ => true)
  match readAll (fun i => scaledRow s o (decide (f / 1024 % 2 = 1)) o.psa i rowA) (List.range (32 * shapeM o.shape)) with
  | .error e => .error e
  | .ok a =>
    match readAll (fun j => scaledRow s o (decide (f / 2048 % 2 = 1)) o.psb j colB) (List.range (32 * shapeN o.shape)) with
    | .error e => .error e
    | .ok b => .ok ⟨a, b⟩

/-- Whether a step multiplies some element of a row of an operand. -/
def rowUsed (own other : Option (List (List Word))) (row : Nat) : Bool :=
  match own, other with
  | some p, some q => (List.range 32).any fun x => presentAt p row x && anyAt q x
  | _, _ => true

/-- The bytes of operands and scales that a step reads, as far as their lines tell them apart. -/
def stepPointers (o : TileOp) (maps : Option Bitmaps) : List DWord :=
  let f := o.fmt.toNat
  let ma := maps.map Bitmaps.a
  let mb := maps.map Bitmaps.b
  let scale := fun (on : Bool) (ps : DWord) (row : Nat) => if on then [plusBytes ps (row * (shapeK o.shape / 32) + o.step)] else []
  let a := (List.range (32 * shapeM o.shape)).flatMap fun i =>
    (if rowValid o.rows i && rowUsed ma mb i then rowPointers o.pa o.sa.toNat (typeBits (f % 16)) o.step i else [])
      ++ scale (decide (f / 1024 % 2 = 1)) o.psa i
  let b := (List.range (32 * shapeN o.shape)).flatMap fun j =>
    (if rowUsed mb ma j then rowPointers o.pb o.sb.toNat (typeBits (f / 16 % 16)) o.step j else [])
      ++ scale (decide (f / 2048 % 2 = 1)) o.psb j
  a ++ b

/-- The first and last byte of the bitmap words, or with its first step of the mask words, that a task reads. -/
def maskPointers (o : TileOp) : List DWord :=
  let k := shapeK o.shape
  if o.kind = .sparseTask then
    ((List.range (shapeM o.shape + shapeN o.shape)).map fun i => 4 * (i * k + 32 * o.step)).flatMap fun a =>
      [plusBytes o.pm a, plusBytes o.pm (a + 127)]
  else if o.rows.isSome && decide (o.step = 0) then [o.pm, plusBytes o.pm (4 * shapeM o.shape - 1)]
  else []

/-- The row mask, read once per task (10 R216). -/
def maskRead (s : State) (o : TileOp) : Except EngineStop (Option (List Word)) :=
  if o.kind = .task ∧ shapeRmask o.shape = true then
    match o.rows with
    | some r => .ok (some r)
    | none =>
      match readAll (fun w =>
          match operandRead s o (plusBytes o.pm (4 * w)) 4 with
          | .error e => .error e
          | .ok v => .ok (BitVec.ofNat 32 v)) (List.range (shapeM o.shape)) with
      | .error e => .error e
      | .ok r => .ok (some r)
  else .ok none

/-! ### The fold (03 R65 to R72) -/

/-- The value of an element code of a type (10 Table 10-2). -/
def elementVal (ty code : Nat) : Val :=
  match ty with
  | 0 => fmtBf16.decode code
  | 1 => fmtF16.decode code
  | 2 => fmtE4m3.decode code
  | 3 => fmtE5m2.decode code
  | 4 => fmtE2m1.decode code
  | 5 => let v := tshValue code
         .fin (decide (v < 0)) v.natAbs (-6)
  | 6 => ofInteger (sextInt 8 code)
  | _ => fmtF32.decode code

/-- The exponent of an E8M0 scale; none for its NaN (03 R57); an absent scale is 2^0. -/
def scaleExp (c : Option Nat) : Option Int :=
  match c with
  | none => some 0
  | some e => if e = 255 then none else some ((e : Int) - 127)

/-- The exact sum of a group's products (03 R67). -/
def groupSum (ps : List (Option Val)) : Val :=
  ps.foldl (fun acc p => match p with | none => acc | some v => (addVal .rne acc v).1) (.fin false 0 0)

/-- One group's sum taken into the accumulator (03 R66). -/
def foldGroup (acc : Nat) (scale : Option Int) (t : Val) : Nat :=
  match scale with
  | none => fmtF32.quiet
  | some e =>
    match t with
    | .nan _ => fmtF32.quiet
    | .inf n => (fmtF32.finish .rne (addVal .rne (fmtF32.decode acc) (.inf n))).1
    | .fin n m x => if m = 0 then acc else (fmtF32.finish .rne (addVal .rne (fmtF32.decode acc) (.fin n m (x + e)))).1

/-- The slices of a finite FP32 element as BF16 codes, lo, mid and hi (03 R70). -/
def slice (x which : Nat) : Nat :=
  let hi := x / 65536
  let r1 := (fSub fmtF32 .rne x (hi * 65536)).1
  let mid := r1 / 65536
  match which with
  | 2 => hi
  | 1 => mid
  | _ => (fSub fmtF32 .rne r1 (mid * 65536)).1 / 65536

/-- An infinity or a NaN. -/
def notFinite (x : Nat) : Bool := decide (x / 2 ^ 23 % 256 = 255)

/-- The product of A's p slice and B's q slice; a pair with an infinity or a NaN enters the hi·hi term (03 R72). -/
def sliceProduct (p q a b : Nat) : Option Val :=
  if notFinite a || notFinite b then
    (if p = 2 ∧ q = 2 then some (mulVal (fmtF32.decode a) (fmtF32.decode b)).1 else none)
  else some (mulVal (fmtBf16.decode (slice a p)) (fmtBf16.decode (slice b q))).1

/-- The slice terms of a group, in their order (03 R71): 0 is lo, 1 mid, 2 hi. -/
def sliceTerms (syn : Nat) : List (Nat × Nat) :=
  let six := [(0, 2), (2, 0), (1, 1), (1, 2), (2, 1), (2, 2)]
  if syn = 2 then [(0, 0), (0, 1), (1, 0)] ++ six else six

/-- Products of two rows of codes. -/
def products (f : Nat → Nat → Option Val) (a b : List (Option Nat)) : List (Option Val) :=
  List.zipWith (fun x y => match x, y with | some u, some v => f u v | _, _ => none) a b

/-- One group folded: its sum, or its slice terms one after another. -/
def foldPart (fmt : Nat) (scale : Option Int) (acc : Nat) (a b : List (Option Nat)) : Nat :=
  let syn := fmt / 4096 % 4
  if syn = 0 then
    foldGroup acc scale (groupSum (products (fun u v => some (mulVal (elementVal (fmt % 16) u) (elementVal (fmt / 16 % 16) v)).1) a b))
  else (sliceTerms syn).foldl (fun c pq => foldGroup c scale (groupSum (products (sliceProduct pq.1 pq.2) a b))) acc

/-- The group size of a format (03 Table 3-6). -/
def groupSize (fmt : Nat) : Nat :=
  let a := fmt % 16
  let b := fmt / 16 % 16
  if (a = 0 ∧ b = 0) ∨ a = 1 ∨ a = 7 then 16 else 32

/-- An INT8 group added modulo 2^32 (03 R69). -/
def foldInt (acc : Nat) (a b : List (Option Nat)) : Nat :=
  let t := (List.zipWith (fun x y => match x, y with | some u, some v => sextInt 8 u * sextInt 8 v | _, _ => (0 : Int)) a b).foldl (· + ·) 0
  wrapInt 32 ((acc : Int) + t)

/-- A scale exponent for a pair of blocks. -/
def pairScale (a b : Option Nat) : Option Int :=
  match scaleExp a, scaleExp b with
  | some x, some y => some (x + y)
  | _, _ => none

/-- One accumulator element over a step. -/
def foldElement (fmt : Nat) (acc : Nat) (a b : List (Option Nat) × Option Nat) : Nat :=
  if fmt % 16 = 6 then foldInt acc a.1 b.1
  else if groupSize fmt = 16 then
    foldPart fmt (some 0) (foldPart fmt (some 0) acc (a.1.take 16) (b.1.take 16)) (a.1.drop 16) (b.1.drop 16)
  else foldPart fmt (pairScale a.2 b.2) acc a.1 b.1

/-- Every pair of an index and an element. -/
def indexed {α : Type} (l : List α) : List (Nat × α) := (List.range l.length).zip l

/-- The region of a task updated by one step. -/
def foldStep (o : TileOp) (r : TileRange) (p : Panels) (s : State) : State :=
  let nb := shapeN o.shape
  (indexed p.a).foldl (fun s1 a => (indexed p.b).foldl (fun s2 b =>
    let k := elemKey r 0 nb a.1 b.1
    tileSet s2 k (BitVec.ofNat 32 (foldElement o.fmt.toNat (tileGet s2 k).toNat a.2 b.2))) s1) s

/-! ### Engine starts (24 R382) -/

/-- Starts of a die in a cycle. -/
def startLimit (s : State) : Nat := match s.mode.clk.toNat with | 0 => 8 | 1 => 12 | _ => 16

/-- An engine has executed no step for 64 cycles or more. -/
def isIdleLong (s : State) (e : Nat) : Bool :=
  match s.engineLast.find? fun x => decide (x.1 = e) with
  | none => true
  | some x => decide (64 ≤ now s - x.2)

/-- The order in which starts are taken: the cycle an engine began to wait, its core, its number. -/
def startRank (s : State) (e : Nat) : Nat :=
  (((s.startWaits.find? fun x => decide (x.1 = e)).map (·.2)).getD (now s)) * 1024 + e

/-- No operation dispatched earlier still holds the engine that an operation's handle is bound to. -/
def isHead (s : State) (o : TileOp) : Bool :=
  match rangeAt s o.range with
  | none => false
  | some r => !(s.tileOps.any fun p => decide (p.core = o.core) && p.state == .dispatched && !p.setAside
      && decide (p.order < o.order) && (match rangeAt s p.range with | some q => decide (q.engine = r.engine) | none => false))

/-- An operation that its engine works on. -/
def atWork (s : State) (o : TileOp) : Bool := o.state == .dispatched && !o.setAside && isHead s o

/-- The engine on which a task has a step to take now, if it has. -/
def steppingEngine (s : State) (o : TileOp) : Option Nat :=
  if isTask o && decide (o.step < taskSteps o) && atWork s o then (rangeAt s o.range).map fun r => o.core * 4 + r.engine else none

/-- An engine has a step to take. -/
def wantsStep (s : State) (e : Nat) : Bool := s.tileOps.any fun o => steppingEngine s o == some e

/-- A step that is executed and whose operands are at hand. -/
def mayStep (s : State) (o : TileOp) : Bool :=
  match maskRead s o with
  | .error _ => false
  | .ok rows =>
    let o1 := { o with rows := rows }
    if o.kind = .sparseTask then
      match bitmapsRead s o1 with
      | .ok b => executes (some b) && (panelsRead s o1 (some b)).toBool
      | .error _ => false
    else (panelsRead s o1 none).toBool

/-- Engines of a die that are due to start: only one of these takes a place in the order of starts. -/
def dueStarts (s : State) (die : Nat) : List Nat :=
  distinct (((s.tileOps.filter (mayStep s)).filterMap (steppingEngine s)).filter fun e => decide (dieOfCore (e / 4) = die) && isIdleLong s e)

/-- A start may be made now: its die has one left in this cycle beyond those of the engines due before it. -/
def mayStart (s : State) (e : Nat) : Bool :=
  let die := dieOfCore (e / 4)
  let before := (dueStarts s die).filter fun x => decide (x ≠ e) && decide (startRank s x < startRank s e)
  let made := ((s.starts.find? fun x => decide (x.1 = die)).map (·.2)).getD 0
  decide (made + before.length < startLimit s)

/-- An engine joins those that wait for a start. -/
def awaitStart (s : State) (e : Nat) : State :=
  if s.startWaits.any fun x => decide (x.1 = e) then s else { s with startWaits := s.startWaits ++ [(e, now s)] }

/-- A table of numbers with the value at a key replaced. -/
def putPair (k v : Nat) (l : List (Nat × Nat)) : List (Nat × Nat) := l.filter (fun x => !decide (x.1 = k)) ++ [(k, v)]

/-- A start made. -/
def makeStart (s : State) (e : Nat) : State :=
  let die := dieOfCore (e / 4)
  let made := ((s.starts.find? fun x => decide (x.1 = die)).map (·.2)).getD 0
  { s with starts := putPair die (made + 1) s.starts, startWaits := s.startWaits.filter fun x => !decide (x.1 = e) }

/-! ### Steps -/

/-- An operation stopped by an access: suspended or parked under its fault word, or it waits (10 R220, R222). -/
def stopOp (s : State) (o : TileOp) : EngineStop → State
  | .wait => putOp s o
  | .ask _ _ _ => putOp s o
  | .fault w n => enterFault (putOp s { o with state := .suspended w }) o.launch o.core w n

/-- The step of a task whose bitmaps are known: skipped, or executed as one unit. -/
def performStep (s : State) (o : TileOp) (r : TileRange) (maps : Option Bitmaps) : State :=
  let e := o.core * 4 + r.engine
  let fetched := fun (ps : List DWord) (y : State) => ps.foldl (operandFetch o) y
  if !executes maps then count o.core (0x0305 + 16 * r.engine) 1 (putOp (fetched (maskPointers o) s) { o with step := o.step + 1 })
  else if isIdleLong s e && !mayStart s e then awaitStart s e
  else
    match panelsRead s o maps with
    | .error x => stopOp s o x
    | .ok p =>
      let s1 := foldStep o r p (fetched (maskPointers o ++ stepPointers o maps) (if isIdleLong s e then makeStart s e else s))
      count o.core (0x0304 + 16 * r.engine) 1
        (putOp { s1 with engineLast := putPair e (now s) s1.engineLast } { o with step := o.step + 1 })

/-! ### Moves (10 R222, R223) -/

/-- The formats of 10 Table 10-7, with the emax of the MX ones (03 R59). -/
def convertFmt (f : Nat) : Fmt :=
  match f with
  | 0 => fmtBf16 | 1 => fmtF16 | 2 => fmtE4m3 | 3 => fmtE5m2 | 4 => fmtE4m3 | 5 => fmtE5m2 | _ => fmtE2m1

def convertEmax (f : Nat) : Int := match f with | 4 => 8 | 5 => 15 | _ => 2

/-- The scale code of an MX block of FP32 codes (03 R59). -/
def mxScale (emax : Int) (vs : List Nat) : Nat :=
  if vs.any notFinite then 255
  else
    match fmtF32.decode ((vs.map (· % 2 ^ 31)).foldl max 0) with
    | .fin _ m e =>
      if m = 0 then 127
      else
        let x : Int := (bitLength m : Int) - 1 + e - emax
        (max (-127) (min 127 x) + 127).toNat
    | _ => 255

/-- An element of an MX block under its scale: rounded once, its overflow the largest finite magnitude. -/
def mxElement (f : Fmt) (scale v : Nat) : Nat :=
  if scale = 255 then 0
  else
    match fmtF32.decode v with
    | .fin n m e =>
      let c := (f.deliver .rne (.fin n m (e - ((scale : Int) - 127)))).1
      if f.top < c % f.signBit then f.withSign n f.top else c
    | _ => 0

/-- Tile element (i, j) of a move's region. -/
def moveElem (s : State) (o : TileOp) (r : TileRange) (i j : Nat) : Nat :=
  (tileGet s (elemKey r (moveT0 o.ctl) (shapeN o.ctl) i j)).toNat

/-- The 32 elements of block b of row i. -/
def moveBlock (s : State) (o : TileOp) (r : TileRange) (i b : Nat) : List Nat :=
  (List.range 32).map fun x => moveElem s o r i (32 * b + x)

/-- The code that `mtile.cvt` writes for an element. -/
def convertCode (s : State) (o : TileOp) (r : TileRange) (i j : Nat) : Nat :=
  let f := moveFmt o.ctl
  let v := moveElem s o r i j
  if f < 4 then ((convertFmt f).deliver .rne (fmtF32.decode v)).1
  else mxElement (convertFmt f) (mxScale (convertEmax f) (moveBlock s o r i (j / 32))) v

/-- What an access of a move leads to: the state, the operation, and why it stops if it does. -/
abbrev MoveRun : Type := State × TileOp × Option EngineStop

/-- `n` bytes written. -/
def moveWrite (s : State) (o : TileOp) (p : DWord) (n v : Nat) : MoveRun :=
  match engineLocate s (opUser s o) p n .write with
  | .error e => (s, o, some e)
  | .ok (g, loc) =>
    match engineTrip s (opUser s o) g loc o.lastLine with
    | none => (s, o, some .wait)
    | some s1 => (engineStore s1 (opUser s o) g loc n v, { o with lastLine := some (loc / 128) }, none)

/-- A word of memory into a tile element. -/
def moveRead (s : State) (o : TileOp) (p : DWord) (key : Nat) : MoveRun :=
  match engineLocate s (opUser s o) p 4 .read with
  | .error e => (s, o, some e)
  | .ok (g, loc) =>
    match engineFetch s (opUser s o) g loc 4 o.lastLine with
    | .error e => (s, o, some e)
    | .ok s1 => (tileSet s1 key (BitVec.ofNat 32 (engineBytes s1 o.core loc 4)), { o with lastLine := some (loc / 128) }, none)

/-- Accesses of a move: one per element, or per byte of two E2M1 elements; then one per scale. -/
def movePieces (o : TileOp) : Nat :=
  let mn := 1024 * shapeM o.ctl * shapeN o.ctl
  match o.kind with
  | .zero => 0
  | .convert => (if moveFmt o.ctl = 6 then mn / 2 else mn) + (if 4 ≤ moveFmt o.ctl then mn / 32 else 0)
  | _ => mn

/-- Accesses of a `mtile.cvt` that write elements, and the accesses of a row. -/
def convertElems (o : TileOp) : Nat × Nat :=
  let n := 32 * shapeN o.ctl
  let m := 32 * shapeM o.ctl
  if moveFmt o.ctl = 6 then (m * n / 2, n / 2) else (m * n, n)

/-- Where access `i` of a `mtile.cvt` writes. -/
def convertAt (o : TileOp) (i : Nat) : DWord :=
  let x := convertElems o
  if x.1 ≤ i then plusBytes o.psa (i - x.1)
  else if moveFmt o.ctl = 6 then plusBytes o.pa (i / x.2 * o.sa.toNat + i % x.2)
  else plusBytes o.pa (i / x.2 * o.sa.toNat + i % x.2 * (moveBits .convert (moveFmt o.ctl) / 8))

/-- The codes of one access of `mtile.cvt`. -/
def convertPiece (s : State) (o : TileOp) (r : TileRange) (i : Nat) : MoveRun :=
  let x := convertElems o
  let f := moveFmt o.ctl
  let blocks := shapeN o.ctl
  if x.1 ≤ i then
    moveWrite s o (convertAt o i) 1 (mxScale (convertEmax f) (moveBlock s o r ((i - x.1) / blocks) ((i - x.1) % blocks)))
  else if f = 6 then
    let j := 2 * (i % x.2)
    moveWrite s o (convertAt o i) 1 (convertCode s o r (i / x.2) j + 16 * convertCode s o r (i / x.2) (j + 1))
  else moveWrite s o (convertAt o i) (moveBits .convert f / 8) (convertCode s o r (i / x.2) (i % x.2))

/-- One access of a move. -/
def movePiece (s : State) (o : TileOp) (r : TileRange) (i : Nat) : MoveRun :=
  let n := 32 * shapeN o.ctl
  let at_ := plusBytes o.pa (i / n * o.sa.toNat + i % n * 4)
  match o.kind with
  | .load => moveRead s o at_ (elemKey r (moveT0 o.ctl) (shapeN o.ctl) (i / n) (i % n))
  | .store => moveWrite s o at_ 4 (moveElem s o r (i / n) (i % n))
  | .convert => convertPiece s o r i
  | _ => (s, o, none)

/-- `n` accesses, until one stops. -/
def moveSteps (r : TileRange) : Nat → State → TileOp → MoveRun
  | 0, s, o => (s, o, none)
  | n + 1, s, o =>
    match movePiece s o r o.progress with
    | (s1, o1, none) => moveSteps r n s1 { o1 with progress := o1.progress + 1 }
    | x => x

/-- Before access `i` no 4-byte word is touched that accesses from `i` on touch, too. -/
def moveAtWord (o : TileOp) (i : Nat) : Bool :=
  o.kind != .convert || decide (i = (convertElems o).1) || decide ((convertAt o i).toNat % 4 = 0)

/-- The accesses of a move up to the first that stops: a word that it could not finish has not been touched (05 R116). -/
def moveRun (s : State) (o : TileOp) (r : TileRange) : MoveRun :=
  match moveSteps r (movePieces o - o.progress) s o with
  | (s1, o1, none) => (s1, o1, none)
  | (s1, o1, some e) =>
    let j := wordStop (moveAtWord o) o.progress (o1.progress - o.progress)
    if j = o1.progress then (s1, o1, some e)
    else
      let x := moveSteps r (j - o.progress) s o
      (x.1, x.2.1, some e)

/-! ### Completion -/

/-- Complete operations of a range are forgotten, but for the last task, which `mprog` shows. -/
def pruneOps (o : TileOp) (ops : List TileOp) : List TileOp :=
  let last := ((ops.filter fun p => sameRange o p && isTask p).getLast?).map TileOp.id
  ops.filter fun p => !sameRange o p || p.state != .complete || decide (some p.id = last)

/-- A complete operation reported to its thread's batch. -/
def completeOp (s : State) (o : TileOp) : State :=
  let s1 := putOp s { o with state := .complete }
  finishFor { s1 with tileOps := pruneOps o s1.tileOps } o.launch o.thread o.id 0

/-- NaN results of a task stand as the canonical NaN (10 R212). -/
def canonicalRegion (o : TileOp) (r : TileRange) (s : State) : State :=
  if o.fmt.toNat % 16 = 6 then s
  else
    let lo := tileKey r.core r.engine r.base 0 0
    let hi := tileKey r.core r.engine (r.base + taskTiles o) 0 0
    { s with tiles := s.tiles.map fun x =>
        if lo ≤ x.1 ∧ x.1 < hi ∧ isNan (fmtF32.decode x.2.toNat) = true then (x.1, 0x7FC00000) else x }

/-- R214, R222: an operation completes: a task all of whose steps are taken, or a move, which performs its accesses. -/
def execTileOpComplete (op : Nat) (s : State) : Out :=
  match opAt s op with
  | none => .next s
  | some o =>
    match rangeAt s o.range with
    | none => .next s
    | some r =>
      if !atWork s o then .next s
      else if isTask o then
        (if o.step < taskSteps o then .next s else .next (completeOp (canonicalRegion o r s) o))
      else if o.kind = .zero then .next (completeOp (zeroTiles s r (moveT0 o.ctl) (shapeM o.ctl * shapeN o.ctl)) o)
      else
        match moveRun s o r with
        | (s1, o1, some e) => .next (stopOp s1 o1 e)
        | (s1, o1, none) => .next (completeOp s1 o1)

/-- A freed range whose operations are complete. -/
def releasable (s : State) (r : TileRange) : Bool := r.freeing && (opsOf s r.id).all fun o => o.state == .complete

/-- R204: a freed handle whose operations are complete gives up its tiles, zeroed. -/
def execTileRangeRelease (core gen : Nat) (s : State) : Out :=
  match s.tileRanges.find? fun r => decide (r.core = core) && decide (r.gen = gen) && releasable s r with
  | none => .next s
  | some r =>
    let s1 := dropRange (if r.saved then s else zeroTiles s r 0 r.count) r.id
    .next { s1 with tileOps := s1.tileOps.filter fun o => decide (o.range ≠ r.id) }

/-! ### Page moves (09 R192) -/

/-- An access to a frame has issued and is still to be performed: a posted store, a deferred load, a write on its way to
its home. -/
def frameBusy (s : State) (f : Nat) : Bool :=
  (s.threads.any fun t => (t.sbuf.any fun e => decide (e.loc / 65536 = f))
    || (match t.ldc with | some d => decide (d.loc / 65536 = f) | none => false))
  || s.felt.packets.any fun p => match p.body with
    | .write loc _ _ => decide (loc / 65536 = f)
    | .modify loc _ _ _ _ => decide (loc / 65536 = f)
    | .signal _ loc _ => decide (loc / 65536 = f)
    | _ => false

/-- A move given up: its page is left in place. -/
def dropMove (s : State) (tag page : Nat) : State :=
  { s with moves := s.moves.filter fun m => !(decide (m.tag = tag) && decide (m.page = page)) }

/-- R192: a claimed page begins to move, once every access to it that has issued has been performed. -/
def execPageMove (tag page : Nat) (s : State) : Out :=
  match s.moves.find? fun m => decide (m.tag = tag) && decide (m.page = page) && m.moving.isNone with
  | none => .next s
  | some m =>
    match walk s (ctxOf s tag) (page * 65536) with
    | .error _ => .next (dropMove s tag page)
    | .ok e =>
      if frameBusy s (e.pa / 65536) then .next s
      else
        match freeFrame s (ctxOf s tag).partition m.die with
        | none => .next (dropMove s tag page)
        | some f => .next { s with moves := s.moves.map fun x =>
            if x.tag = tag ∧ x.page = page then { x with moving := some (f, e.pa / 65536) } else x }

/-- R192: the move ends, and the page has its new home; no die keeps a copy of its lines. -/
def execPageMoveComplete (tag page : Nat) (s : State) : Out :=
  match (s.moves.find? fun m => decide (m.tag = tag) && decide (m.page = page)).bind PageMove.moving with
  | none => .next s
  | some (f, old) =>
    .next { dropMove s tag page with rehomed := putPair old f s.rehomed,
                                     l2data := s.l2data.filter fun l => decide (l.line / 512 ≠ old) }

end Sys2Proof.Machine
end

