-- ==== Sys2Proof/Machine/Command.lean ====
section
/-! DEFINITION. How a command descriptor of Milliner ends (24 R384), and the fault queues with the dispositions of
their entries (21 R327 to R329). -/

namespace Sys2Proof.Machine

open Sys2Proof (Byte Word DWord Instr)

/-! ### Status of a command -/

/-- Done: status 0. -/
def done (s : State) : Out := .next { s with cmdStatus := 0 }

/-- Not executed, an operand being outside its range: status 1. -/
def badCommand (s : State) : Out := .next { s with cmdStatus := 1 }

/-- Refused: status 2. -/
def refused (s : State) : Out := .next { s with cmdStatus := 2 }

/-- A context that commands may name: it lives and is not being removed (R384: a REMOVE overtakes). -/
def namedCtx (s : State) (tag : Nat) : Option Context :=
  match ctxAt s tag with
  | none => none
  | some x => match x.run with
    | .removing _ => none
    | _ => some x

/-! ### Fault queues (21 R327, R328) -/

def faultQueueOf (s : State) (fdie : Nat) : Option FaultQueue := s.faultQueues.find? fun q => decide (q.fdie = fdie)

def putFaultQueue (s : State) (q : FaultQueue) : State :=
  { s with faultQueues := s.faultQueues.map fun x => if x.fdie = q.fdie then q else x }

/-- The 32 bytes of an entry. -/
def faultEntry (f : PendingFault) : List Byte :=
  bytesOfNat f.word.toNat 8 ++ bytesOfNat f.launch 4 ++ bytesOfNat (f.tag % 4096) 2 ++ bytesOfNat (f.peer % 4096) 2
    ++ bytesOfNat f.core 1 ++ List.replicate 15 0

/-- The queue's room as the command processor has seen its head. -/
def queueRoom (q : FaultQueue) : Bool := decide (q.tail - q.headSeen < 2 ^ q.log)

/-- The first of a list that satisfies a test, replaced. -/
def replaceFirst {α : Type} (p : α → Bool) (f : α → α) : List α → List α
  | [] => []
  | x :: xs => if p x then f x :: xs else x :: replaceFirst p f xs

/-- R327: the command processor of an F-die posts the oldest entry that waits, when its queue has room. -/
def execFaultQueuePost (fdie : Nat) (s : State) : Out :=
  match faultQueueOf s fdie, s.faults.find? fun f => decide (f.fdie = fdie) && !f.posted with
  | some q, some f =>
    if queueRoom q then
      let m1 := writeBytes s.mem (q.base + 32 * (q.tail % 2 ^ q.log)) (faultEntry f)
      let m2 := writeNat m1 (q.headPA + 8) 8 (q.tail + 1)
      .next { putFaultQueue s { q with tail := q.tail + 1 } with
        mem := m2,
        faults := replaceFirst (fun x => decide (x.fdie = fdie) && !x.posted) (fun x => { x with posted := true }) s.faults }
    else .next s
  | _, _ => .next s

/-- R328: the command processor reads the head word again. -/
def execFaultQueueHeadRead (fdie : Nat) (s : State) : Out :=
  match faultQueueOf s fdie with
  | none => .next s
  | some q => .next (putFaultQueue s { q with headSeen := readNat s.mem q.headPA 8 })

/-- A range of physical memory lies wholly within one HBM range of a partition. Which partition Milliner has reserved for itself
is its own knowledge (log 109). -/
def withinHbm (s : State) (base n : Nat) : Bool :=
  s.partitions.any fun p => p.hbm.any fun r => decide (r.1 * 2 ^ 30 ≤ base) && decide (base + n ≤ (r.1 + r.2) * 2 ^ 30)

/-- R328: SETFQ, refused while any context exists; the ring must lie within an HBM range of a partition, and the head word in
HBM4. -/
def execSetfq (fdie fqlog base head : Nat) (s : State) : Out :=
  if fdie ≠ 0 ∧ fdie ≠ 9 ∨ fqlog < 6 ∨ 16 < fqlog ∨ base % 4096 ≠ 0 ∨ head % 16 ≠ 0 ∨ withinHbm s base (32 * 2 ^ fqlog) = false
      ∨ 2 ^ 39 < head + 16 then badCommand s
  else if s.contexts ≠ [] then refused s
  else
    let q : FaultQueue := { fdie := fdie, log := fqlog, base := base, headPA := head }
    done { s with faultQueues := s.faultQueues.filter (fun x => !decide (x.fdie = fdie)) ++ [q] }

/-! ### Dispositions (21 R329) -/

/-- The fault word under which a record lies in a fault bin: also one that Milliner is to move from there (22 R347), until it
leaves. -/
def binWord (t : Thread) : Option DWord :=
  match t.place, t.fwd with
  | .faultBin v _, _ => some v
  | .forward, some f => if f.phase = .transit then none else match f.from_ with | some (.faultBin v _) => some v | _ => none
  | _, _ => none

/-- A thread's record lies in the bin of an entry. -/
def inFaultBin (launch core : Nat) (w : DWord) (t : Thread) : Bool :=
  decide (t.launch = launch) && decide (t.core = core) && (binWord t).any fun v => decide (faultPage v = faultPage w)

/-- A record as it leaves its fault bin, and where it goes: with TFWORD zero into a bin; one whose posted store, deferred load or
drain has faulted as it was, to the event that it awaited (log 39). Its failed stores drain again (21 R336). -/
def unparked (t0 : Thread) : Thread × Place :=
  let t : Thread := { t0 with sbuf := t0.sbuf.map fun (e : SbEntry) => { e with failed := false } }
  match t.parked with
  | some r =>
    ({ t with parked := none, forced := r.forced, trapRec := r.trapRec, latchesSaved := r.latchesSaved, tfword := r.tfword },
     r.place)
  | none => ({ t with tfword := 0 }, .unbinned)

/-- A wait that is over where the record now is: batches reported, a copy slot or a store-buffer entry there. -/
def waitOver (s : State) (t : Thread) : Place → Bool
  | .unbinned => true
  | .batchWait n => decide (unfinished t ≤ n)
  | .copySlot => decide (slotsUsed s t.core < Config.coreCopies)
  | .storeSlot => decide (t.sbuf.length < 8)
  | _ => false

/-- A record released: binned, or put back where it waits; one that Milliner is moving goes on from there. -/
def releaseRecord (s : State) (t : Thread) : State :=
  let x := unparked t
  if t.place = .forward then putThread s { x.1 with fwd := t.fwd.map fun f => { f with from_ := some x.2 } }
  else if waitOver s x.1 x.2 then binRecord s x.1
  else settleAt s x.1 x.2

/-- A parked copy of the entry goes on at its first unperformed access. -/
def releaseCopy (launch core : Nat) (w : DWord) (c : Copy) : Copy :=
  if c.launch = launch ∧ c.core = core then
    (match c.state with
      | .parked v _ => if faultPage v = faultPage w then { c with state := .waiting } else c
      | _ => c)
  else c

/-- The range of an operation is bound to an engine. -/
def rangeBound (s : State) (o : TileOp) : Bool := ((rangeAt s o.range).map TileRange.bound).getD false

/-- A suspended task or parked move of the entry goes on: on its engine, or, its range having been rebound since, when it
is dispatched again (10 R205). -/
def releaseOp (s : State) (launch core : Nat) (w : DWord) (o : TileOp) : TileOp :=
  if o.launch = launch ∧ o.core = core then
    (match o.state with
      | .suspended v =>
        if faultPage v = faultPage w then { o with state := if rangeBound s o then .dispatched else .queued } else o
      | _ => o)
  else o

/-- The pending entry that a disposition names. -/
def entryNamed (s : State) (tag launch core : Nat) (w : DWord) : Bool :=
  s.faults.any fun f => sameFault launch core w f && f.posted && decide (f.tag = tag)

/-- Every item of a page of a launch on a core released. -/
def releaseItems (s : State) (launch core : Nat) (w : DWord) : State :=
  let s1 := { s with faults := s.faults.filter (fun f => !sameFault launch core w f),
                     copies := s.copies.map (releaseCopy launch core w), tileOps := s.tileOps.map (releaseOp s launch core w) }
  (s1.threads.filter (inFaultBin launch core w)).foldl releaseRecord s1

/-- What a home has said of the entry's page is asked again (21 R329, R331). -/
def forgetPeerFault (s : State) (launch core : Nat) (w : DWord) : State :=
  match s.faults.find? (sameFault launch core w) with
  | none => s
  | some f => { s with peerFaults := s.peerFaults.filter fun x =>
      !(w.getLsbD 8 && decide (x.part = (ctxOfLaunch s launch).partition) && decide (x.peer = f.peer)
        && decide (x.page = w.toNat / 2 ^ 32) && (x.read == decide (w.toNat / 16 % 4 = 0))) }

/-- R329: RETRY: what Milliner wrote before it comes before every retried access, so the core's caches give up what they
hold. -/
def execDisposeRetry (tag launch core : Nat) (fault : BitVec 64) (s : State) : Out :=
  if 192 ≤ core then badCommand s
  else if (namedCtx s tag).isNone || !entryNamed s tag launch core fault then refused s
  else done (releaseItems (selfInvalidate (forgetPeerFault s launch core fault) core) launch core fault)

/-- The thread a disposition reports: that of the entry's first item. -/
def entryThread (s : State) (launch core : Nat) (w : DWord) : Nat :=
  match s.threads.find? (inFaultBin launch core w) with
  | some t => t.thread
  | none =>
    match s.copies.find? fun c => releaseCopy launch core w c != c with
    | some c => c.thread
    | none => ((s.tileOps.find? fun o => releaseOp s launch core w o != o).map TileOp.thread).getD 0

/-- R329: KILL. -/
def execDisposeKill (tag launch core : Nat) (fault : BitVec 64) (s : State) : Out :=
  if 192 ≤ core then badCommand s
  else
    match (namedCtx s tag), s.faults.find? (fun f => sameFault launch core fault f && f.posted && decide (f.tag = tag)) with
    | some _, some f =>
      let n := entryThread s launch core fault
      done (contextFault { s with faults := s.faults.filter fun x => !sameFault launch core fault x } tag launch n f.word)
    | _, _ => refused s

end Sys2Proof.Machine
end

