-- ==== Sys2Proof/Machine/Forward.lean ====
section
/-! DEFINITION. Continuation records as bytes (02 R22, R25; 12 R247), and forwards: request, refusal, grant, transfer
and acceptance (02 R41, R42; 22 R347 to R349), with the addition of `fwd.ack` (09 R199). -/

namespace Sys2Proof.Machine

open Sys2Proof (Byte Word DWord Instr)

/-! ### Records as bytes -/

/-- FLAGS (02 Table 2-5). -/
def flagsWord (t : Thread) : Nat :=
  (if t.forced then 1 else 0) + (if t.trapRec then 2 else 0) + (if t.latchesSaved then 4 else 0)
    + (if t.streams.isEmpty then 0 else 8) + (if t.detached then 16 else 0)

def roleCode : Role → Nat
  | .level => 0 | .append => 1 | .intersection => 2 | .union => 3 | .slave => 4

/-- SFLAGS (12 Table 12-4). -/
def streamFlags (x : Stream) : Nat :=
  1 + 2 * roleCode x.role + (if x.started then 16 else 0) + (if x.valid then 32 else 0) + (if x.done then 64 else 0)

/-- LINK (12 Table 12-3). -/
def streamLink (x : Stream) : Nat :=
  match x.role with
  | .intersection => x.linkA + 8 * x.linkB
  | .union => x.linkA + 8 * x.linkB
  | .slave => x.linkA + 8 * x.linkB
  | _ => 0

/-- The 48 bytes of a stream's state. -/
def streamBytes (x : Stream) : List Byte :=
  bytesOfNat x.entry.toNat 8 ++ bytesOfNat x.pos 8 ++ bytesOfNat x.fin 8 ++ bytesOfNat x.start 8 ++ bytesOfNat x.crd.toNat 4
    ++ bytesOfNat x.parent 4 ++ bytesOfNat (streamFlags x) 2 ++ bytesOfNat x.snum 1 ++ bytesOfNat (streamLink x) 1 ++ bytesOfNat 0 4

/-- The 16 bytes of a store-buffer entry (02 Table 2-6). -/
def storeBytes (e : SbEntry) : List Byte :=
  bytesOfNat e.data.toNat 8 ++ bytesOfNat e.vaddr 6
    ++ bytesOfNat (e.peer + (if e.peerf then 4096 else 0) + e.size * 8192) 2

/-- Registers that a mask names, ascending. -/
def maskRegs (m : DWord) : List Nat := (List.range 64).filter fun i => m.getLsbD i

def latchWord (l : Option Latch) : Nat := ((l.map Latch.val).getD 0).toNat

/-- A record's bytes (02 Table 2-4), under a launch's handle. A held record of a launch without a handler resumes nowhere
(22 R353). -/
def recordImage (t : Thread) (launch : Nat) : List Byte :=
  let resume := if t.trapRec && decide (t.packet = 0) then 0 else (codePointer t.packet).toNat + 4 * t.pos
  bytesOfNat resume 8 ++ bytesOfNat t.thread 4 ++ bytesOfNat t.gang 4 ++ bytesOfNat t.carry.toNat 8 ++ bytesOfNat launch 4
    ++ bytesOfNat (t.pred ||| 1).toNat 1 ++ bytesOfNat t.fpsm.toNat 1 ++ bytesOfNat t.streams.length 1 ++ bytesOfNat t.sbuf.length 1
    ++ bytesOfNat t.bsealed.toNat 2 ++ bytesOfNat t.boldest.toNat 2 ++ bytesOfNat t.peerAck 2 ++ bytesOfNat (flagsWord t) 2
    ++ bytesOfNat t.handle0.toNat 4 ++ bytesOfNat t.handle1.toNat 4 ++ bytesOfNat t.tfword.toNat 8 ++ bytesOfNat 0 8
    ++ (maskRegs t.carry).flatMap (fun i => bytesOfNat (regGet t.regs i).toNat 4)
    ++ t.streams.flatMap streamBytes ++ t.sbuf.flatMap storeBytes
    ++ (if t.latchesSaved then
          bytesOfNat (latchWord t.la) 4 ++ bytesOfNat (latchWord t.lb) 4 ++ bytesOfNat (latchWord t.lm) 4 ++ bytesOfNat (latchWord t.ls) 4
        else [])

def roleOf (n : Nat) : Role :=
  match n with | 0 => .level | 1 => .append | 2 => .intersection | 3 => .union | _ => .slave

/-- The state of a stream read back from its bytes; the kind it was bound under is not among them. -/
def parseStream (b : List Byte) : Stream :=
  let f := field b 0x28 2
  let link := field b 0x2B 1
  let role := roleOf (f / 2 % 8)
  { snum := field b 0x2A 1 % 8, entry := BitVec.ofNat 64 (field b 0 8), pos := field b 8 8, fin := field b 0x10 8,
    start := field b 0x18 8, crd := BitVec.ofNat 32 (field b 0x20 4), parent := field b 0x24 4, role := role,
    started := decide (f / 16 % 2 = 1), valid := decide (f / 32 % 2 = 1), done := decide (f / 64 % 2 = 1),
    linkA := link % 8, linkB := if role == .slave then link / 8 % 2 else link / 8 % 8, kind := 255 }

/-- Registers 0 to 63 with the carried ones at their numbers. -/
def spreadRegs : List Nat → List Word → List Word → List Word
  | i :: is, v :: vs, regs => spreadRegs is vs (regs.set i v)
  | _, _, regs => regs

/-- A record read back from its bytes, for a core of this package, under the launch it names. -/
def parseRecord (b : List Byte) (launch core : Nat) : Thread :=
  let m := BitVec.ofNat 64 (field b 0x10 8)
  let n := popMask m
  let c := field b 0 8 % 2 ^ 60
  let fl := field b 0x26 2
  { launch := launch, gang := field b 0x0C 4, thread := field b 0x08 4, core := core, place := .unbinned,
    carry := m, packet := (packetOfAddr c).getD 0, pos := 0, pred := BitVec.ofNat 8 (field b 0x1C 1 ||| 1),
    fpsm := BitVec.ofNat 8 (field b 0x1D 1),
    regs := spreadRegs (maskRegs m) ((List.range n).map fun i => BitVec.ofNat 32 (field b (0x40 + 4 * i) 4)) (List.replicate 64 0),
    streams := (List.range (field b 0x1E 1)).map fun i => parseStream ((b.drop (0x40 + 4 * n + 48 * i)).take 48),
    bsealed := BitVec.ofNat 16 (field b 0x20 2), boldest := BitVec.ofNat 16 (field b 0x22 2),
    detached := decide (fl / 16 % 2 = 1), handle0 := BitVec.ofNat 32 (field b 0x28 4), handle1 := BitVec.ofNat 32 (field b 0x2C 4) }

/-! ### Trap records out of issue -/

/-- A parked record becomes a trap record at its launch's handler, on the core where it lies; without a handler, or with
a retired one, the context takes a context fault (21 R332, R333). -/
def trapParked (s : State) (t : Thread) (k : Trap) (packet pos : Nat) : State :=
  let lr := launchOf s t.launch
  let w := trapWordOf k packet pos
  let t1 := trapRecord t lr.trappkt w lr.ctx
  if lr.trappkt = 0 || isRetired (ctxOf s lr.ctx) (packetAddr lr.trappkt) then
    contextFault (putThread s { t1 with place := .unbinned }) lr.ctx t.launch t.thread w
  else binRecord s t1

/-! ### Gangs at a destination -/

/-- The gang of a thread is resident on a core (02 R42). -/
def residentAt (s : State) (launch gang core : Nat) : Bool :=
  s.gangs.any fun g => decide (g.launch = launch) && decide (g.gang = gang) && decide (g.core = core) && !g.detached
    && !g.saved && !g.reserved

/-- The detached gang of a launch's gang on a core, formed where there is none: registers as the launch record gives them.
Records of different gangs of the launch share none (log 83). -/
def withDetachedGang (s : State) (launch gang core : Nat) : State :=
  if s.gangs.any fun g => decide (g.launch = launch) && decide (g.gang = gang) && decide (g.core = core) && g.detached then s
  else
    let lr := launchOf s launch
    { s with gangs := s.gangs ++ [{ launch := launch, gang := gang, core := core, detached := true, kregs := lr.kinit,
                                    segs := initialSegs lr true, resident := now s }] }

/-! ### Destinations -/

/-- The handles that a thread holds: slot and value. -/
def heldSlots (t : Thread) : List (Nat × Word) := [(0, t.handle0), (1, t.handle1)].filter fun x => x.2 != 0

/-- The core that a destination chooses (09 Table 9-6): most free slots of the record's class, the lower on a tie. -/
def chosenCore (s : State) (t : Thread) : Nat :=
  let cs := (((partOf s (partOfThread s t)).getD noPart).cores).filter fun c => (coreOf s c).inService
  (minBy (fun c => (2 ^ 32 - freeSlots (coreOf s c) (classOf (recordLength t))) * 256 + c) cs).getD t.core

def destOf (s : State) (t : Thread) (f : Forward) : Nat := if f.dest = 255 then chosenCore s t else f.dest

/-- A range at a core for every handle held, each with the contents of the range that it will replace. -/
def reserveRanges (d : Nat) (t : Thread) : State → List (Nat × Word) → Option (State × List Nat)
  | s, [] => some (s, [])
  | s, (slot, v) :: rest =>
    match grantTiles s d (handleCount v) t.launch t.thread slot true with
    | none => none
    | some (s1, r) =>
      let im := ((slotRange s t slot).map (rangeImage s)).getD []
      (reserveRanges d t (mapRange s1 r.id fun q => { q with image := im }) rest).map fun x => (x.1, r.id :: x.2)

/-- The record's own slot at a core, unreserved (22 R348). -/
def takeRecordSlot (s : State) (t : Thread) (d : Nat) : State :=
  let r := coreOf s d
  putCore s (takeSlots (classOf (recordLength t)) t.launch t.gang (some t.thread) 1 (poolRegions r) r)

/-- The destination has a slot of the record's class, and tiles for its handles. -/
def canTake (s : State) (t : Thread) (d : Nat) : Bool :=
  (coreOf s d).inService && decide (0 < freeSlots (coreOf s d) (classOf (recordLength t)))
    && (reserveRanges d t s (heldSlots t)).isSome

/-- An operation whose range has been replaced: one in hand is dispatched anew, on the engine that the new range then
binds to (10 R205). -/
def rerange (new : Nat) (o : TileOp) : TileOp :=
  { o with range := new, state := if o.state == .dispatched then .queued else o.state }

/-- A range given up for another, to which its operations go, the record of its last task among them. -/
def replaceRange (s : State) (old new : Nat) : State :=
  let s1 := dropRange s old
  { s1 with tileOps := s1.tileOps.map fun o => if o.range = old then rerange new o else o }

/-- A source range of a record that is sent: zeroed and free, but for one in the save area, which stays until the record
is accepted (22 R348, 25 R387). -/
def leaveRange (t : Thread) (s : State) (x : Nat × Nat) : State :=
  match slotRange s t x.1 with
  | none => s
  | some r => if r.saved || r.incoming then s else replaceRange (zeroTiles s r 0 r.count) r.id x.2

/-! ### The steps of a forward -/

/-- What a thread has sent is known at its homes, where causal delivery does not order it before what another die does for the
thread (05 R98, log 92). -/
def isKnown (s : State) (t : Thread) : Bool :=
  s.mode.causal || (decide (t.ownUnack = 0) && decide (t.dieUnack = 0) && decide (t.relUnack = 0))

/-- What must be over before the request (02 R41, 09 R199): every batch, and for a peer every store. The record's packet
carries what the thread has sent (05 R117); without causal delivery the homes have acknowledged it before, since the thread
still sees it from its new die (05 R98; log 92). -/
def forwardReady (s : State) (t : Thread) (f : Forward) : Bool :=
  t.batches.isEmpty && t.openBatch.ops.isEmpty && (!f.peerf || (t.sbuf.isEmpty && decide (t.peerAck = 0)))
    && isKnown s t

/-- The contents of a range, word after word. -/
def rangeWords (s : State) (r : TileRange) : List Word :=
  let im : List (Nat × Word) := rangeImage s r
  (List.range (1024 * r.count)).map fun i => ((im.find? fun (y : Nat × Word) => decide (y.1 = i)).map fun (y : Nat × Word) => y.2).getD 0

def rangeBytes (s : State) (r : TileRange) : List Byte := (rangeWords s r).flatMap fun w => bytesOfNat w.toNat 4

/-- The tiles of a thread's handles as packets to a peer carry them: per slot, their bytes. -/
def packedTiles (s : State) (t : Thread) : List (Nat × List Byte) :=
  (heldSlots t).filterMap fun x => (slotRange s t x.1).map fun (r : TileRange) => (x.1, rangeBytes s r)

/-- Bytes cut into lines of 128. -/
def cutLines (l : List Byte) : List (List Byte) := (List.range ((l.length + 127) / 128)).map fun i => (l.drop (128 * i)).take 128

/-- The packets of a record and of its tiles, of one line each (23 R370). -/
def recordPieces (s : State) (t : Thread) (f : Forward) : List RenharKind :=
  let ls : List (Option Nat × List Byte) :=
    (cutLines (recordImage t f.plaunch)).map (fun b => (none, b))
      ++ ((packedTiles s t).flatMap fun (y : Nat × List Byte) => (cutLines y.2).map fun b => (some y.1, b))
  ((List.range ls.length).zip ls).map fun (x : Nat × Option Nat × List Byte) =>
    RenharKind.record f.plaunch f.dest x.1 ls.length x.2.1 x.2.2

/-- The request made: to a peer it is the record's packets, for which a slot credit is needed (23 R373) and the way to the
F-die (log 71). -/
def makeRequest (s : State) (t : Thread) (f : Forward) : State :=
  let t1 := { t with fwd := some { f with phase := .requested } }
  if f.peerf then
    if 4 ≤ remoteSlots s (pathOf s (partOfThread s t) t.launch f.peer) then s
    else
      match messageOf (recordPieces s t f).length s (dieOfCore t.core) (fdieOf s t.launch) true t.efftag with
      | none => s
      | some s1 =>
        (recordPieces s t f).foldl (fun x k => renharPut x (partOfThread s t) t.launch t.thread t.core f.peer 0 k) (putThread s1 t1)
  else putThread s t1

/-- A forward goes on: its context runs, or stops and Milliner moves the record (22 R347). -/
def forwardMay (s : State) (t : Thread) (f : Forward) : Bool :=
  startsWork s t.launch || (f.byMove && (ctxOfLaunch s t.launch).run == .stopped)

/-- A thread whose forward is in hand: not one in the save area, unless it is being moved out of there (25 R387). -/
def forwardOf (s : State) (launch thread : Nat) : Option (Thread × Forward) :=
  match threadAt s launch thread with
  | none => none
  | some t => if t.place = .forward then (t.fwd.filter fun f => !t.saved || f.fromSave).map fun f => (t, f) else none

/-- R348: the source makes the request. -/
def execForwardRequest (launch thread : Nat) (s : State) : Out :=
  match forwardOf s launch thread with
  | none => .next s
  | some (t, f) =>
    if f.phase = .ready ∧ forwardReady s t f = true ∧ forwardMay s t f = true then .next (makeRequest s t f) else .next s

/-- A refusal: the count rises, and the retry is due after a delay drawn for it (22 R349). -/
def refuseForward (s : State) (t : Thread) (f : Forward) : State :=
  let a := f.refusals + 1
  let delay := Config.freeDraw s.fresh % (256 * 2 ^ min a 8)
  putThread { s with fresh := s.fresh + 1 } { t with fwd := some { f with refusals := a, phase := .backoff (now s + delay) } }

/-- R348: the destination, which has no slot or no tiles, refuses. -/
def execForwardNack (launch thread : Nat) (s : State) : Out :=
  match forwardOf s launch thread with
  | none => .next s
  | some (t, f) =>
    if f.phase = .requested ∧ f.peerf = false ∧ canTake s t (destOf s t f) = false ∧ forwardMay s t f = true then
      .next (refuseForward s t f) else .next s

/-- R349: the back-off is over, and the request is made again. -/
def execForwardRetry (launch thread : Nat) (s : State) : Out :=
  match forwardOf s launch thread with
  | none => .next s
  | some (t, f) =>
    match f.phase with
    | .backoff due => if due ≤ now s ∧ f.refusals < 16 ∧ forwardMay s t f = true then .next (makeRequest s t f) else .next s
    | _ => .next s

/-- Where a record goes that a move has ended for: into a bin, if it was in one or its awaited event has fired (25 R387,
R388), the event of a wait for an entry or a copy slot being that there is one where the record now is; else where it
waited. -/
def returnPlace (s : State) (t : Thread) (f : Forward) : Place :=
  match f.from_ with
  | none => .binned 0
  | some p => if waitOver s t p then .binned 0 else p

/-- R349: at the 16th refusal a `fwd` becomes a trap record, and a move ends where it began, in the save area if it was
    from there (25 R387). -/
def execPoolExhausted (launch thread : Nat) (s : State) : Out :=
  match forwardOf s launch thread with
  | none => .next s
  | some (t, f) =>
    if f.refusals < 16 || !forwardMay s t f then .next s
    else if f.byMove then
      let s1 := { s with log := s.log ++ [.moveRefused launch thread] }
      if t.saved then .next (putThread s1 { t with fwd := none, place := f.from_.getD .unbinned })
      else .next (releaseBarriers (settleAt s1 { t with fwd := none } (returnPlace s t f)))
    else .next (trapParked s { t with fwd := none } .poolExhausted f.packet 2)

/-- The record sent with its tiles: its slot and its ranges are taken at the destination and given up at the source, but
for what lies in the save area. -/
def transferRecord (s : State) (t : Thread) (f : Forward) (d : Nat) : State :=
  match reserveRanges d t s (heldSlots t) with
  | none => s
  | some (s1, rs) =>
    let s2 := takeRecordSlot (freeRecordSlot s1 t.launch t.thread) t d
    let s3 := (((heldSlots t).map (·.1)).zip rs).foldl (leaveRange t) s2
    threadPost (putThread s3 { t with fwd := some { f with phase := .transit, dest := d, ranges := rs } }) t (dieOfCore d) true
      (.record t.launch t.thread) none

/-- R348: the destination grants the request, and the source sends. -/
def execForwardGrant (launch thread : Nat) (s : State) : Out :=
  match forwardOf s launch thread with
  | none => .next s
  | some (t, f) =>
    let d := destOf s t f
    if f.phase = .requested ∧ f.peerf = false ∧ canTake s t d = true ∧ forwardMay s t f = true
        ∧ feltReady s (dieOfCore t.core) (dieOfCore d) = true ∧ isKnown s t = true then
      .next (transferRecord s t f d)
    else .next s

/-- A range that has arrived at the destination: its contents written, its handle in the slot; what the save area kept of
the range it replaces is discarded. -/
def landSlot (s : State) (t : Thread) (id : Nat) : State × Thread :=
  match rangeAt s id with
  | none => (s, t)
  | some q =>
    let s1 := match s.tileRanges.find? fun r => r.saved && !r.freeing && !r.incoming && decide (r.launch = t.launch)
      && decide (r.thread = t.thread) && decide (r.slot = q.slot) with
      | some r => replaceRange s r.id id
      | none => s
    (putImage q (mapRange s1 id fun r => { r with incoming := false, image := [] }) q.image, setSlot t q.slot (handleValue q))

/-- The record on its destination core: in its gang, or in a detached gang (02 R42). -/
def landThread (s : State) (t : Thread) (d : Nat) : State × Thread :=
  if residentAt s t.launch t.gang d then (s, { t with core := d, detachedHere := false })
  else (withDetachedGang s t.launch t.gang d, { t with core := d, detachedHere := true, detached := true })

/-- A thread's markers and the records of its tasks go with its handles, set aside no more (25 R387). -/
def opsWith (t : Thread) (d : Nat) (s : State) : State :=
  { s with tileOps := s.tileOps.map fun o =>
      if o.launch = t.launch ∧ o.thread = t.thread then { o with core := d, setAside := false } else o }

/-- A record accepted at a core: binned there, or put back where it waited; the core acquires for it (05 R106, R113). -/
def acceptAt (s : State) (t : Thread) (f : Forward) (d : Nat) : State :=
  let x := f.ranges.foldl (fun (y : State × Thread) id => landSlot y.1 y.2 id) (selfInvalidate s d, t)
  let y := landThread x.1 x.2 d
  let t1 := { y.2 with saved := false, fwd := none, fwdAcks := t.fwdAcks ++ f.ack.toList }
  releaseBarriers (dropDetached (settleAt (opsWith t d y.1) t1 (returnPlace y.1 t1 f)))

/-- The packet with a thread's record is still on the Felt. -/
def recordUnderway (s : State) (launch thread : Nat) : Bool :=
  s.felt.packets.any fun p => p.body == .record launch thread

/-- A record may be accepted: its packet has been delivered (23 R362), and its context is not held or being removed (21
R333). -/
def mayAccept (s : State) (t : Thread) (f : Forward) : Bool :=
  f.phase == .transit && !recordUnderway s t.launch t.thread && (startsWork s t.launch || (ctxOfLaunch s t.launch).run == .stopped)

/-- R42: the destination Teasel accepts the record. -/
def execRecordAccept (launch thread : Nat) (s : State) : Out :=
  match forwardOf s launch thread with
  | none => .next s
  | some (t, f) => if mayAccept s t f then .next (acceptAt s t f f.dest) else .next s

/-- A 32-bit word of a gang's local memory with 1 added. -/
def addGangWord (s : State) (launch gang off : Nat) : State :=
  let a := gangLoc launch gang off
  homePut s 10 a 4 ((readNat s.mem a 4 + 1) % 2 ^ 32)

/-- R199: the addition of an accepted `fwd.ack`, once the stores before it are performed; what the thread's die knows goes
with it to the gang's. -/
def execFwdAckAdd (launch thread : Nat) (s : State) : Out :=
  match threadAt s launch thread with
  | none => .next s
  | some t =>
    match t.fwdAcks with
    | [] => .next s
    | o :: rest =>
      if releaseReady s t then
        match tell s t.efftag [dieOfCore t.core] [cellDie s (gangLoc launch t.gang o)] with
        | none => .next s
        | some s1 => .next (releaseUnit (putThread (addGangWord s1 launch t.gang o) { t with fwdAcks := rest }) t)
      else .next s

end Sys2Proof.Machine
end

