-- ==== Sys2Proof/Machine/Queues.lean ====
section
/-! DEFINITION. User queues and their commands (20 R308 to R316), and what Milliner commands of them (24 R384: MAPQ,
UNMAPQ, SETAGE). -/

namespace Sys2Proof.Machine

open Sys2Proof (Byte Word DWord Instr)

/-! ### Kicks (20 R309, R315) -/

/-- A new tail taken, or the queue stopped by a bad one. -/
def takeKick (q : Queue) (v : Nat) : Queue :=
  let d := (v + 2 ^ 64 - q.tail) % 2 ^ 64
  if d = 0 then q
  else if d ≤ 2 ^ q.logn - queueFill q then { q with tail := v }
  else { q with qstate := 4 }

/-- The report of a stop by a bad kick (20 R310). -/
def kickReport (old new : Queue) : List LogLine :=
  if new.qstate = 4 ∧ old.qstate ≠ 4 then [.queueStop new.part new.idx 4 0] else []

/-- A queue that has never been mapped: nothing is known of it but its index (log 75). -/
def unknownQueue (part idx : Nat) : Queue := { part := part, idx := idx }

/-- R309: a host's write to a queue's kick page: at once where the queue is mapped, else recorded and a control core
woken, also for a queue that has not been mapped yet; ignored for one of a removed context (22 R352). -/
def execKick (part idx offset : Nat) (tail : BitVec 64) (s : State) : Out :=
  match queueAt s part idx with
  | none =>
    if offset ≠ 0 ∨ 65535 < idx ∨ (partOf s part).isNone ∨ s.deadQueues.contains (part, idx) = true then .next s
    else .next (noteWork { s with queues := s.queues ++ [{ unknownQueue part idx with kicked := [tail.toNat] }] } part idx)
  | some q =>
    if offset ≠ 0 ∨ q.devprod = true then .next s
    else if q.slot.isSome then
      let q1 := takeKick q tail.toNat
      let s1 := mapQueue s part idx fun _ => q1
      .next { s1 with log := s1.log ++ kickReport q q1 }
    else .next (noteWork (mapQueue s part idx fun x => { x with kicked := x.kicked ++ [tail.toNat] }) part idx)

/-- The ageing interval of a partition (20 R316). -/
def partAge (s : State) (part : Nat) : Nat := 2 ^ ((partOf s part).getD noPart).age

/-- The effective priority of a pending queue (20 R315). -/
def queuePriority (s : State) (q : Queue) : Nat :=
  match q.pendingSince with
  | none => q.qprio
  | some c => min 15 (q.qprio + (now s - c) / partAge s q.part)

/-- R315: a pending queue's effective priority has risen, and a control core is woken. -/
def execQueueAgeingWake (part idx : Nat) (s : State) : Out :=
  match queueAt s part idx with
  | none => .next s
  | some q =>
    if q.pendingSince.isSome && decide (max q.agedTo q.qprio < queuePriority s q) then
      let s1 := mapQueue s part idx fun x => { x with agedTo := queuePriority s q }
      .next { s1 with wakes := s1.wakes ++ [q.fdie] }
    else .next s

/-! ### Commands (20 Table 20-4) -/

/-- Some queue of a partition is pending. -/
def anyPending (s : State) (part : Nat) : Bool := s.queues.any fun q => decide (q.part = part) && q.pendingSince.isSome

/-- The command at HEAD consumed: HEAD advances, is written back where HEADWB asks, and an idle queue wakes a control
core while another is pending. None while the write cannot be delivered. -/
def consume (s : State) (q : Queue) (f : Queue → Queue) : Option State :=
  let h := (q.head + 1) % 2 ^ 64
  let s1 := mapQueue s q.part q.idx fun x => f { x with head := h, waitInProgress := false, waitArmed := true, fetched := none }
  let s2 := if h = q.tail ∧ anyPending s q.part = true then { s1 with wakes := s1.wakes ++ [q.fdie] } else s1
  if q.headwb = 0 then some s2
  else
    match writeSpace s2 q.fdie q.ctx q.headwb 8 h with
    | .ok s3 => s3
    | .error w => some (stopQueue s2 q 3 w)

/-- Bytes of a command outside the given fields are zero (20 R311): pairs of offset and size. -/
def onlyFields (b : List Byte) (fs : List (Nat × Nat)) : Bool :=
  (List.range 64).all fun i => decide (field b i 1 = 0) || fs.any fun f => decide (f.1 ≤ i) && decide (i < f.1 + f.2)

/-- A tag-0 pointer to a word or record, aligned. -/
def globalOk (v align : Nat) : Bool := decide (v < 2 ^ 48) && decide (v % align = 0)

/-- The local indices that DEP bytes name. -/
def depsOf (b : List Byte) : List Nat := ((List.range 8).map fun i => field b (0x10 + i) 1).filter (· != 0) |>.map (· - 1)

/-- A bad command: a reserved type, a nonzero unused field or a bad value (20 R311, R312). -/
def commandBad (q : Queue) (b : List Byte) : Bool :=
  match field b 0 1 with
  | 0 => !onlyFields b [(0, 1)]
  | 1 => !onlyFields b [(0, 1), (8, 8), (0x10, 8)] || !globalOk (field b 8 8) 64 || decide (255 ≤ q.jobLaunches)
      || (depsOf b).any fun d => decide (q.jobLaunches ≤ d)
  | 2 => !onlyFields b [(0, 1), (8, 8), (0x10, 8)] || !globalOk (field b 8 8) 8
  | 3 => !onlyFields b [(0, 1), (1, 1), (8, 8), (0x10, 8)] || decide (2 < field b 1 1) || !globalOk (field b 8 8) 8
  | 4 => !onlyFields b [(0, 1)]
  | _ => true

/-- Every launch accepted from a queue has completed (20 R311). -/
def earlierDone (s : State) (q : Queue) : Bool := !(s.launches.any fun l => decide (l.queue = some (q.part, q.idx)))

/-- The LAUNCH command at HEAD (20 R304, R312). -/
def cmdLaunch (s : State) (q : Queue) (b : List Byte) : Option State :=
  let va := field b 8 8
  match readSpace s q.ctx .write .plain va 4 with
  | .error w => some (stopQueue s q 3 w)
  | .ok _ =>
    match readSpace s q.ctx .read .plain va 4 with
    | .error w => some (stopQueue s q 3 w)
    | .ok r =>
      let x := { parseLaunch r q.ctx va with
        fdie := q.fdie, queue := some (q.part, q.idx), job := q.job, index := q.jobLaunches, deps := depsOf b }
      (readTrip s q.fdie q.ctx va 4).bind fun s0 => (acceptRecord s0 r x q.privq).bind fun y =>
        if y.2 then consume y.1 q fun z => { z with jobLaunches := z.jobLaunches + 1 } else some (stopQueue y.1 q 2 0)

/-- The SIGNAL command at HEAD: once every earlier command has completed, a release reduction. -/
def cmdSignal (s : State) (q : Queue) (b : List Byte) : Option State :=
  if !earlierDone s q then none
  else
    match walkTo s q.ctx (field b 8 8) .modify .atomic with
    | .error w => some (stopQueue s q 3 w)
    | .ok pa =>
      (releasePut s q.fdie q.ctx pa 8 ((readNat s.mem pa 8 + field b 0x10 8) % 2 ^ 64)).bind fun s1 => consume (armWaits s1 q.ctx pa) q id

/-- COND of a WAIT. -/
def waitHolds (cond v want : Nat) : Bool :=
  match cond with | 0 => decide (want ≤ v) | 1 => decide (v = want) | _ => decide (v ≠ want)

/-- The WAIT command at HEAD: read when it is reached and after each addition to its word, with what the word's home
knows. -/
def cmdWait (s : State) (q : Queue) (b : List Byte) : Option State :=
  if !q.waitArmed then none
  else
    match walkTo s q.ctx (field b 8 8) .read .plain with
    | .error w => some (stopQueue s q 3 w)
    | .ok pa =>
      (readTrip s q.fdie q.ctx (field b 8 8) 1).bind fun s1 =>
        if waitHolds (field b 1 1) (readNat s.mem pa 8) (field b 0x10 8) then consume s1 q id
        else some (mapQueue s1 q.part q.idx fun x => { x with waitInProgress := true, waitArmed := false, waitLoc := pa })

/-- The BARRIER-JOB command at HEAD. -/
def cmdBarrier (s : State) (q : Queue) : Option State :=
  if earlierDone s q then consume s q fun x => { x with job := x.job + 1, jobLaunches := 0 } else none

/-- A good command of a type performed; none while it waits. -/
def perform (s : State) (q : Queue) (b : List Byte) : Option State :=
  match field b 0 1 with
  | 0 => consume s q id
  | 1 => cmdLaunch s q b
  | 2 => cmdSignal s q b
  | 3 => cmdWait s q b
  | _ => cmdBarrier s q

/-- The command at HEAD as the queue read it when it reached it, or reads it now (20 R311). -/
def headCommand (s : State) (q : Queue) : Except DWord (List Byte) :=
  match q.fetched with
  | some b => .ok b
  | none => readSpace s q.ctx .read .plain (q.ring + 64 * (q.head % 2 ^ q.logn)) 1

/-- The command at the HEAD of a mapped, running queue, read once, if it is of the type named or bad. -/
def command (k part idx : Nat) (s : State) : Out :=
  match queueAt s part idx with
  | none => .next s
  | some q =>
    if q.slot.isNone || decide (q.qstate ≠ 0) || decide (queueFill q = 0) then .next s
    else
      match headCommand s q with
      | .error w => .next (stopQueue s q 3 w)
      | .ok b =>
        let q1 := { q with fetched := some b }
        let at_ := q.ring + 64 * (q.head % 2 ^ q.logn)
        match (if q.fetched.isSome then some s else readTrip s q.fdie q.ctx at_ 1) with
        | none => .next s
        | some s0 =>
          let s1 := mapQueue s0 part idx fun _ => q1
          if commandBad q b then .next (stopQueue s1 q1 1 0)
          else if field b 0 1 = k then .next ((perform s1 q1 b).getD s1)
          else .next s1

/-- R311: NOP. -/
def execCmdNop (part idx : Nat) (s : State) : Out := command 0 part idx s

/-- R311: LAUNCH. -/
def execCmdLaunch (part idx : Nat) (s : State) : Out := command 1 part idx s

/-- R311: SIGNAL. -/
def execCmdSignal (part idx : Nat) (s : State) : Out := command 2 part idx s

/-- R311, R313: WAIT. -/
def execCmdWait (part idx : Nat) (s : State) : Out := command 3 part idx s

/-- R311: BARRIER-JOB. -/
def execCmdBarrierJob (part idx : Nat) (s : State) : Out := command 4 part idx s

/-- R310: Milliner restarts a stopped queue; the command at HEAD is read again. -/
def execQueueRestart (part idx : Nat) (s : State) : Out :=
  match queueAt s part idx with
  | none => .next s
  | some q => .next (mapQueue (putQcb s q 0x0B 1 0) part idx fun x => { x with qstate := 0, waitArmed := true, fetched := none })

/-! ### Slots (20 R308, R315) -/

/-- A queue as its control block gives it; its job state stands in the bytes that are the device's. -/
def parseQueue (b : List Byte) (fdie part idx at_ : Nat) : Queue :=
  { part := part, idx := idx, fdie := fdie, ring := field b 0 8, logn := field b 8 1, qprio := field b 9 1 % 16,
    devprod := decide (field b 10 1 % 2 = 1), privq := decide (field b 10 1 / 2 % 2 = 1), qstate := field b 11 1,
    ctx := field b 12 4 % 4096, head := field b 0x10 8, tail := field b 0x18 8, headwb := field b 0x20 8,
    job := field b 0x40 8, jobLaunches := field b 0x48 8, qcbAt := some at_ }

/-- The control block of a queue. -/
def queueBytes (q : Queue) : List Byte :=
  bytesOfNat q.ring 8 ++ bytesOfNat q.logn 1 ++ bytesOfNat q.qprio 1
    ++ bytesOfNat ((if q.devprod then 1 else 0) + (if q.privq then 2 else 0)) 1 ++ bytesOfNat q.qstate 1 ++ bytesOfNat q.ctx 4
    ++ bytesOfNat q.head 8 ++ bytesOfNat q.tail 8 ++ bytesOfNat q.headwb 8 ++ List.replicate 24 0
    ++ bytesOfNat q.job 8 ++ bytesOfNat q.jobLaunches 8 ++ List.replicate 176 0

/-- A control block with a value that Table 20-3 does not allow. -/
def queueBad (b : List Byte) : Bool :=
  decide (field b 8 1 < 4) || decide (16 < field b 8 1) || decide (field b 0 8 % 4096 ≠ 0) || decide (2 ^ 48 ≤ field b 0 8)
    || decide (16 ≤ field b 9 1) || decide (4 ≤ field b 10 1) || decide (4096 ≤ field b 12 4) || decide (4 < field b 11 1)

def isFdie (d : Nat) : Bool := d == 0 || d == 9

/-- The queue that an F-die's slot maps. -/
def inSlot (s : State) (fdie slot : Nat) : Option Queue :=
  s.queues.find? fun q => decide (q.fdie = fdie) && decide (q.slot = some slot)

/-- The kicks recorded while a queue was unmapped, taken in their order; none by a queue that `enq` produces. -/
def takeKicks (q : Queue) (vs : List Nat) : Queue := if q.devprod then q else vs.foldl takeKick q

/-- R315: MAPQ loads a queue's control block into a slot of its partition; a kick recorded meanwhile is taken. -/
def execMapq (fdie slot qcb part idx : Nat) (s : State) : Out :=
  if isFdie fdie = false ∨ 31 < slot ∨ qcb % 256 ≠ 0 ∨ 2 ^ 39 < qcb + 256 ∨ 15 < part ∨ 65535 < idx then badCommand s
  else
    let b := readBytes s.mem qcb 256
    let q := parseQueue b fdie part idx qcb
    let old := queueAt s part idx
    if queueBad b || (inSlot s fdie slot).isSome || (old.bind Queue.slot).isSome
        || !((partOf s part).getD noPart).slots.contains slot
        || !((namedCtx s q.ctx).map fun x => decide (x.partition = part)).getD false then refused s
    else
      let q1 := { q with slot := some slot, mappedAt := now s }
      let q2 := takeKicks q1 ((old.map Queue.kicked).getD [])
      done { s with queues := s.queues.filter (fun x => !(decide (x.part = part) && decide (x.idx = idx))) ++ [q2],
                    deadQueues := s.deadQueues.filter fun x => !decide (x = (part, idx)),
                    log := s.log ++ kickReport q1 q2 }

/-- R315: UNMAPQ saves the control block; a queue with commands left or a WAIT in progress is pending again. -/
def execUnmapq (fdie slot save : Nat) (s : State) : Out :=
  if isFdie fdie = false ∨ 31 < slot ∨ save % 256 ≠ 0 ∨ 2 ^ 39 < save + 256 then badCommand s
  else
    match inSlot s fdie slot with
    | none => refused s
    | some q =>
      let again := decide (q.head ≠ q.tail) || q.waitInProgress
      done (mapQueue { s with mem := writeBytes s.mem save (queueBytes q) } q.part q.idx fun x =>
        { x with slot := none, qcbAt := some save, waitArmed := true, waitInProgress := false, kicked := [], fetched := none,
                 pendingSince := if again then some (now s) else none, agedTo := x.qprio })

/-- Pending queues of a partition whose control block Milliner has given, the one to be mapped first at the head: highest
effective priority, then the bit set earliest (20 R315). -/
def pendingQueues (s : State) (part : Nat) : List Queue :=
  sortBy (fun q => (15 - queuePriority s q) * 2 ^ 64 + q.pendingSince.getD 0)
    (s.queues.filter fun q => decide (q.part = part) && q.slot.isNone && q.pendingSince.isSome && q.qcbAt.isSome)

/-- Mapped queues of a partition on an F-die. -/
def mappedQueues (s : State) (part fdie : Nat) : List Queue :=
  s.queues.filter fun q => decide (q.part = part) && decide (q.fdie = fdie) && q.slot.isSome

/-- The mapped queue that gives up its slot to a pending one: an idle one, of several the first of the model's list (DESIGN
CHOICE, log 108), else the one of lowest QPRIO where the pending one's effective priority exceeds it, the one mapped longest
first (20 R315, steps 2 and 3). -/
def queueToUnmap (s : State) (q : Queue) : Option Queue :=
  let ms := mappedQueues s q.part q.fdie
  match ms.find? fun m => decide (m.head = m.tail) && !m.waitInProgress with
  | some m => some m
  | none => (minBy (fun m => m.qprio * 2 ^ 64 + m.mappedAt) ms).filter fun m => decide (m.qprio < queuePriority s q)

/-- The command by which a control core would map a pending queue, performed (20 R315, steps 1 to 3): of several free slots the
partition's first is given (DESIGN CHOICE, log 108). -/
def mapQueueNext (s : State) (q : Queue) : Option Out :=
  match ((partOf s q.part).getD noPart).slots.find? fun n => (inSlot s q.fdie n).isNone with
  | some n => some (execMapq q.fdie n (q.qcbAt.getD 0) q.part q.idx s)
  | none => (queueToUnmap s q).bind fun m => m.slot.map fun n => execUnmapq m.fdie n (m.qcbAt.getD 0) s

/-- The state after such a command, where it is not refused. -/
def accepted : Out → Option State
  | .next s => if s.cmdStatus = 0 then some s else none
  | _ => none

/-- A control core that has been woken maps what it can, one command after another: of each pending queue in order, what its
own F-die has room for; then its wake is served. -/
def serveWake (fdie : Nat) (s : State) : Out :=
  match s.partitions.findSome? fun p => (pendingQueues s p.num).findSome? fun q => (mapQueueNext s q).bind accepted with
  | some s1 => .next s1
  | none => .next { s with wakes := s.wakes.filter fun d => !decide (d = fdie) }

/-- A queue whose priority has fallen by a change of A wakes a control core with its next rise. -/
def agedUnder (s : State) (q : Queue) : Queue := { q with agedTo := min q.agedTo (queuePriority s q) }

/-- R316: SETAGE. -/
def execSetage (part a : Nat) (s : State) : Out :=
  if 15 < part ∨ a < 10 ∨ 30 < a then badCommand s
  else
    let s1 : State := { s with partitions := s.partitions.map fun p => if p.num = part then { p with age := a } else p }
    done { s1 with queues := s1.queues.map fun q => if q.part = part then agedUnder s1 q else q }

end Sys2Proof.Machine
end

