-- ==== Sys2Proof/Machine/Admission.lean ====
section
/-! DEFINITION. Admission of gangs by the work distributors and completion of launches (20 R306, R307, R312, R317 to
R320). -/

namespace Sys2Proof.Machine

open Sys2Proof (Byte Word DWord Instr)

/-! ### Units (20 R318) -/

/-- The gangs of the unit of a launch that begins at a gang: a cohort launch, a cluster. -/
def unitGangs (x : Launch) (g : Nat) : List Nat :=
  if x.cohort then List.range x.ngang else (List.range x.clsize).map (g / x.clsize * x.clsize + ·)

/-- The units of a launch that await admission, each by its lowest gang. -/
def waitingUnits (x : Launch) : List Nat :=
  (List.range x.ngang).filter fun g => !x.admitted.contains g && (if x.cohort then decide (g = 0) else decide (g % x.clsize = 0))

/-- A launch whose gangs a distributor may admit now: eligible, in a running context. -/
def mayAdmit (s : State) (fdie : Nat) (x : Launch) : Bool :=
  decide (x.fdie = fdie) && x.eligible.isSome && awaitsAdmission x && (ctxOf s x.ctx).run == .running

/-- The order of launches: higher effective priority, earlier eligibility, lower handle. -/
def launchRank (s : State) (x : Launch) : Nat :=
  ((15 - effectivePriority s x) * 2 ^ 64 + x.eligible.getD 0) * 2 ^ 32 + x.handle

/-- The launches a distributor may admit gangs of, in order. -/
def candidateLaunches (s : State) (fdie : Nat) : List Launch := sortBy (launchRank s) (s.launches.filter (mayAdmit s fdie))

/-- A launch that has held effective priority 15 for A cycles. -/
def isLocked (s : State) (x : Launch) : Bool :=
  x.locked || (x.top.any fun c => decide (ageingInterval s x ≤ now s - c))

/-- The launch of the unit that a distributor admits before all else. -/
def lockedLaunch (s : State) (fdie : Nat) : Option Launch := (candidateLaunches s fdie).find? (isLocked s)

/-- The attempts of a unit that have failed. -/
def unitTry (x : Launch) (g : Nat) : UnitTry := (x.tries.find? fun y => decide (y.gang = g)).getD { gang := g, fails := 0 }

/-- A unit waits for its next attempt (20 R320). -/
def backedOff (x : Launch) (g : Nat) : Bool := (unitTry x g).due.isSome

/-- A unit's failed attempts forgotten. -/
def forgetTry (s : State) (l g : Nat) : State :=
  mapLaunch s l fun x => { x with tries := x.tries.filter fun y => !decide (y.gang = g) }

/-- The units a distributor tries, in order, those left out that wait for their next attempt; with a unit locked, none
but that. -/
def candidateUnits (s : State) (fdie : Nat) : List (Launch × Nat) :=
  let units := fun (x : Launch) (gs : List Nat) => (gs.filter fun g => !backedOff x g).map fun g => (x, g)
  match lockedLaunch s fdie with
  | some x => units x ((waitingUnits x).take 1)
  | none => (candidateLaunches s fdie).flatMap fun x => units x (waitingUnits x)

/-! ### Plans (20 R320) -/

/-- A list of numbers without repeats, rising. -/
def risingSet (l : List Nat) : List Nat := sortBy id (l.foldl (fun a x => if a.contains x then a else a ++ [x]) [])

/-- A plan for gangs on cores. -/
def planFor (fdie : Nat) (k : PlanKind) (l : Nat) (gangs : List (Nat × Nat)) : AdmitPlan :=
  { fdie := fdie, kind := k, launch := l, gangs := gangs, todo := risingSet (gangs.map (·.2)) }

/-- The unit a distributor reserves next: the first that fits. -/
def choosePlan (s : State) (fdie : Nat) : Option AdmitPlan :=
  ((candidateUnits s fdie).filterMap fun u =>
    (placeUnit s u.1 (unitGangs u.1 u.2)).map (planFor fdie .newUnit u.1.handle)).head?

/-- The same reservation, however far it has come. -/
def samePlan (p q : AdmitPlan) : Bool :=
  decide (p.fdie = q.fdie) && p.kind == q.kind && decide (p.launch = q.launch) && p.gangs == q.gangs

/-- The unit of a plan, by its lowest gang. -/
def planUnit (p : AdmitPlan) : Nat := ((minBy id (p.gangs.map (·.1)))).getD 0

def dropPlan (s : State) (p : AdmitPlan) : State := { s with plans := s.plans.filter fun q => !samePlan p q }

/-! ### Reservation (20 R320) -/

/-- Another reservation holds a core. -/
def heldByOther (s : State) (p : AdmitPlan) (c : Nat) : Bool := s.plans.any fun q => !samePlan p q && q.held.contains c

/-- A gang is on a core and has its place there. -/
def isPlaced (s : State) (l g c : Nat) : Bool :=
  s.gangs.any fun y => decide (y.launch = l) && decide (y.gang = g) && decide (y.core = c) && !y.detached && !y.saved && !y.reserved

/-- A core's gangs of a plan held, one after another while the core fits. -/
def reserveCore (x : Launch) (c : Nat) : State → List (Nat × Nat) → Option State
  | s, [] => some s
  | s, (g, d) :: ps =>
    if d ≠ c ∨ isPlaced s x.handle g c = true then reserveCore x c s ps
    else if fits s x c then reserveCore x c (holdGang x s g c) ps
    else none

/-- Every place that a plan holds given up. -/
def giveUp (s : State) (p : AdmitPlan) : State :=
  let mine := fun (g c : Nat) => p.held.contains c && p.gangs.contains (g, c)
  let places := s.gangs.filter fun g => g.reserved && decide (g.launch = p.launch) && mine g.gang g.core
  { s with gangs := s.gangs.filter fun g => !places.contains g,
           cores := s.cores.map fun r => { r with pool := r.pool.filter fun b =>
             !(decide (b.launch = p.launch) && b.thread.isNone
               && places.any fun g => decide (g.gang = b.gang) && decide (g.core = r.core)) } }

/-- Every reservation of a plan released, and the plan with it. -/
def releasePlan (s : State) (p : AdmitPlan) : State := dropPlan (giveUp s p) p

/-- A failed attempt: every reservation is released, and the unit is retried after a delay drawn for it. A move keeps its
plan. -/
def failPlan (s : State) (p : AdmitPlan) : State :=
  let g := planUnit p
  let a := (unitTry (launchOf s p.launch) g).fails + 1
  let delay := Config.freeDraw s.fresh % (64 * 2 ^ min a 10)
  let s1 := mapLaunch { releasePlan s p with fresh := s.fresh + 1 } p.launch fun x =>
    { x with tries := x.tries.filter (fun y => !decide (y.gang = g)) ++ [{ gang := g, fails := a, due := some (now s + delay) }] }
  if p.kind = .move then { s1 with plans := s1.plans ++ [planFor p.fdie .move p.launch p.gangs] } else s1

/-- The next core of a plan reserved, or the attempt failed. -/
def reserveNext (s : State) (p : AdmitPlan) (c : Nat) (cs : List Nat) : State :=
  if heldByOther s p c then failPlan s p
  else
    match reserveCore (launchOf s p.launch) c s p.gangs with
    | none => failPlan s p
    | some s1 => { s1 with plans := s1.plans.map fun q => if samePlan p q then { q with todo := cs, held := q.held ++ [c] } else q }

/-! ### Commit of an admission -/

/-- The thread of an entry record (20 R320): every register zero, at ENTRY. -/
def entryThread_ (x : Launch) (g c t : Nat) : Thread :=
  { launch := x.handle, gang := g, thread := g * x.gsize + t, core := c, place := .unbinned, packet := x.entry,
    fpsm := BitVec.ofNat 8 (x.fpmode % 4 * 32), efftag := x.ctx }

/-- A gang admitted: its registers loaded, its records binned. -/
def admitGang (x : Launch) (s : State) (g c : Nat) : State :=
  let s1 := zeroLocal x.handle g { selfInvalidate s c with gangs := s.gangs.map fun y =>
    if y.launch = x.handle ∧ y.gang = g ∧ y.detached = false then
      { y with kregs := x.kinit, segs := initialSegs x false, resident := now s, reserved := false } else y }
  (List.range x.gsize).foldl (fun y i =>
    let t := entryThread_ x g c i
    binRecord { y with threads := y.threads ++ [t] } t) s1

/-- What the F-dies know, which the end of an earlier launch, a signal or `launch` has told them, comes to the cores' dies
before a unit starts there (05 R99, R102). -/
def tellCores (s : State) (p : AdmitPlan) : Option State :=
  tell s (launchOf s p.launch).ctx ([0, 9].filter (isLiveDie s)) (distinct (p.gangs.map fun q => dieOfCore q.2))

/-- A reserved unit admitted; STATE becomes 2 with the launch's first. While its messages cannot be delivered it waits. -/
def commitAdmission (s : State) (p : AdmitPlan) : State :=
  let x := launchOf s p.launch
  let enter := fun (s0 : State) =>
    let s1 := p.gangs.foldl (fun y q => admitGang x y q.1 q.2) (dropPlan s0 p)
    let s2 := mapLaunch (forgetTry (p.gangs.foldl (fun y q => fitCore y q.2) s1) p.launch (planUnit p)) p.launch fun y =>
      { y with admitted := y.admitted ++ p.gangs.map (·.1), state := .running, locked := false }
    if x.state = .accepted then writeStatus s2 x 2 else some s2
  ((tellCores s p).bind enter).getD s

/-- R320: the back-off after a failed attempt is over. -/
def execAdmissionRetry (launch : Nat) (s : State) : Out :=
  .next (mapLaunch s launch fun x =>
    { x with tries := x.tries.map fun y => { y with due := y.due.filter fun d => decide (now s < d) } })

/-- R318: a launch that has held effective priority 15 for A cycles is next, before every other. -/
def execAdmissionAgeingLock (launch : Nat) (s : State) : Out :=
  .next (mapLaunch s launch fun x =>
    match x.top with
    | some c => if awaitsAdmission x ∧ ageingInterval s x ≤ now s - c then { x with locked := true } else x
    | none => x)

/-! ### Completion (20 R307, 05 R102) -/

/-- A context runs, and nothing of it lies in its save area any more (22 R346). -/
def isResumed (s : State) (tag : Nat) : Bool :=
  (ctxOf s tag).run == .running
    && !(s.gangs.any fun g => g.saved && decide ((launchOf s g.launch).ctx = tag))
    && !(s.threads.any fun t => t.saved && t.place != .exited && decide ((launchOf s t.launch).ctx = tag))

/-- Launches whose dependences are met become eligible, in contexts that run and are wholly resumed (20 R312, 22 R343,
R346). -/
def wakeDependents (s : State) : State :=
  { s with launches := s.launches.map fun x =>
      if x.eligible.isNone && isResumed s x.ctx && depsMet s x then { x with eligible := some (now s) } else x }

/-- The launch's rows gone: its threads, its gangs and what they held. -/
def dropLaunch (s : State) (l : Nat) : State :=
  let s1 := releaseGangs s l fun _ => true
  { s1 with launches := s1.launches.filter fun x => !decide (x.handle = l),
            threads := s1.threads.filter fun t => !decide (t.launch = l),
            gangs := s1.gangs.filter fun g => !decide (g.launch = l) }

/-- R351: REMOVE has begun for the context. -/
def underRemoval (s : State) (tag : Nat) : Bool :=
  match (ctxOf s tag).run with
  | .removing _ => true
  | _ => false

/-- Every thread has exited, with all it issued complete and delivered (05 R102). A launch of a context that is being
removed reaches no completion (R352). -/
def isComplete (s : State) (x : Launch) : Bool :=
  decide (x.state = .running) && !underRemoval s x.ctx && !awaitsAdmission x
    && !(s.felt.packets.any fun p => p.sender.any fun y => decide (y.1 = x.handle))
    && s.threads.all fun t => decide (t.launch ≠ x.handle) || (t.place == .exited && t.fwdAcks.isEmpty)

/-- The addition to DONESIG at its home, a release of the F-die's; a fault there is a context fault. None while its
packet cannot be delivered. -/
def addDonesig (s : State) (x : Launch) : Option State :=
  if x.donesig = 0 then some s
  else
    match walkTo s x.ctx x.donesig .modify .atomic with
    | .error w => some (contextFault s x.ctx x.handle 0 w)
    | .ok pa => (releasePut s x.fdie x.ctx pa 8 ((readNat s.mem pa 8 + 1) % 2 ^ 64)).map fun s1 => armWaits s1 x.ctx pa

/-- R307: a launch completes: STATE 3, DONESIG, and then its dependents. -/
def execLaunchComplete (launch : Nat) (s : State) : Out :=
  match launchAt s launch with
  | none => .next s
  | some x =>
    if isComplete s x then
      match (writeStatus s x 3).bind fun s0 => addDonesig s0 x with
      | none => .next s
      | some s1 => .next (wakeDependents (dropLaunch s1 launch))
    else .next s

end Sys2Proof.Machine
end

