-- ==== Sys2Proof/Machine/Contexts.lean ====
section
/-! DEFINITION. Contexts: creation, pre-emption with its stop walk and save area, resumption, moves of records and gangs,
removal (22 R341 to R352), and the debugger's commands (22 R353 to R355). -/

namespace Sys2Proof.Machine

open Sys2Proof (Byte Word DWord Instr)

/-! ### Creation (22 R342) -/

/-- A range of bytes lies wholly in the HBM of a partition, 64 KiB by 64 KiB. -/
def regionInHbm (p : Partition) (base len : Nat) : Bool :=
  decide (base + len ≤ 2 ^ 39) && (List.range (len / 65536)).all fun i => inPartitionHbm p (base + 65536 * i)

def rangesMeet (a n b m : Nat) : Bool := decide (a < b + m) && decide (b < a + n)

/-- A save area meets a live one, a pool extension or a fault queue. -/
def saveTaken (s : State) (base len : Nat) : Bool :=
  (s.contexts.any fun x => rangesMeet base len x.savebase x.savelen)
    || (s.cores.any fun r => r.exts.any fun e => e.frames.any fun f => f.any fun n => rangesMeet base len (n * 65536) 65536)
    || s.faultQueues.any fun q => rangesMeet base len q.base (32 * 2 ^ q.log)

/-- Both F-dies have their fault queues (21 R328). -/
def queuesSet (s : State) : Bool := (faultQueueOf s 0).isSome && (faultQueueOf s 9).isSome

/-- R342: CREATECTX. Tag 0 is Milliner's (19 R294). -/
def execCreatectx (tag part savelen tbase savebase : Nat) (s : State) : Out :=
  if 4096 ≤ tag ∨ 15 < part ∨ tbase % 2048 ≠ 0 ∨ 2 ^ 39 ≤ tbase ∨ savebase % 65536 ≠ 0 ∨ 2 ^ 32 ≤ savelen then badCommand s
  else
    match partOf s part with
    | none => refused s
    | some p =>
      if tag = 0 || (ctxAt s tag).isSome || !queuesSet s || !regionInHbm p savebase (savelen * 65536)
          || saveTaken s savebase (savelen * 65536) then refused s
      else
        let x : Context := { tag := tag, partition := part, tbase := tbase, savebase := savebase, savelen := savelen * 65536 }
        done { s with contexts := insertBy Context.tag x s.contexts }

/-! ### Pre-emption (22 R341 to R345) -/

def launchesOf (s : State) (tag : Nat) : List Launch := s.launches.filter fun x => decide (x.ctx = tag)

def ofCtx (s : State) (tag launch : Nat) : Bool := (launchesOf s tag).any fun x => decide (x.handle = launch)

/-- Tiles that the threads of a gang have allocated. -/
def gangTiles (s : State) (x : Launch) (g : Nat) : Nat :=
  s.tileRanges.foldl (fun n r => if r.launch = x.handle ∧ r.thread / x.gsize = g then n + r.count else n) 0

/-- A gang is resident: on a core in its own right, not in the save area and no place that a reservation holds. -/
def isResident (g : Gang) : Bool := !g.detached && !g.saved && !g.reserved

/-- What the save area must hold for the gangs that are resident (22 R342). -/
def saveNeed (s : State) (tag : Nat) : Nat :=
  s.gangs.foldl (fun n g =>
    let x := launchOf s g.launch
    if x.ctx = tag ∧ isResident g = true then n + x.local_ + 1088 * x.gsize + 4096 * gangTiles s x g.gang + 4096 else n) 0

/-- The reservations of a context's launches released: none of its gangs is admitted, restored or moved. -/
def releasePlans (s : State) (tag : Nat) : State := (s.plans.filter fun p => ofCtx s tag p.launch).foldl releasePlan s

/-- R341: PREEMPT. -/
def execPreempt (tag : Nat) (s : State) : Out :=
  match namedCtx s tag with
  | none => refused s
  | some x =>
    if x.run ≠ .running ∨ x.savelen < saveNeed s tag then refused s
    else done (mapCtx (releasePlans s tag) tag fun y => { y with run := .stopping })

def noWindows (s : State) (l : Nat) : Bool := s.threads.all fun t => decide (t.launch ≠ l) || !holdsWindow t

/-- Every launch that the walk takes before another has stopped (22 R343): those of its job with lower indices, its
parent, and whichever has been reached. -/
def walkAllows (s : State) (x : Launch) : Bool :=
  (launchesOf s x.ctx).all fun y =>
    y.stopped || (!y.reached && some y.handle != x.parent
      && !(y.queue.isSome && decide (y.queue = x.queue) && decide (y.job = x.job) && decide (y.index < x.index)))

/-- R343: the stop walk reaches a launch: `preq`, and its deadline. -/
def execStopWalkReach (launch : Nat) (s : State) : Out :=
  match launchAt s launch with
  | none => .next s
  | some x =>
    let c := ctxOf s x.ctx
    if c.run == .stopping && !x.reached && walkAllows s x then
      .next (mapLaunch s launch fun y => { y with preq := true, reached := true, deadline := some (now s + c.pqdl) })
    else .next s

/-- A forced save (22 R344). A thread stalled on a full pool completes the end it was making. -/
def forceSave (s : State) (t : Thread) : State :=
  match t.place with
  | .window =>
    let t1 := formRecord t (wholeWindow t.window)
    putThread (recordWritten s t.core)
      { t1 with forced := true, trapRec := false, latchesSaved := true, tfword := 0, place := .unbinned }
  | .stalled p => settleAt (recordWritten s t.core) t p
  | _ => s

/-- R341, R344: at a launch's deadline every thread that still holds a window is force-saved, while its context stops: not in
one that is held (21 R333). -/
def execPreemptDeadline (launch : Nat) (s : State) : Out :=
  match launchAt s launch with
  | none => .next s
  | some x =>
    match x.deadline with
    | none => .next s
    | some d =>
      if d ≤ now s ∧ (ctxOf s x.ctx).run = .stopping then
        .next (mapLaunch ((s.threads.filter fun t => decide (t.launch = launch)).foldl forceSave s) launch fun y =>
          { y with deadline := none })
      else .next s

/-- A launch whose threads hold no window any more is stopped, its work in flight set aside (22 R341, R345). -/
def stopLaunch (s : State) (x : Launch) : State :=
  if x.reached && !x.stopped && noWindows s x.handle then
    { mapLaunch s x.handle fun y => { y with stopped := true, deadline := none } with
      copies := s.copies.map fun c => if c.launch = x.handle then { c with setAside := true } else c,
      tileOps := s.tileOps.map fun o => if o.launch = x.handle then { o with setAside := true } else o }
  else s

/-- Ranges of a context put into its save area with their contents, their tiles freed (22 R346). -/
def saveRange (tag : Nat) (s : State) (r : TileRange) : State :=
  if ofCtx s tag r.launch && !r.saved && !r.incoming then
    mapRange (zeroTiles s r 0 r.count) r.id fun q => { q with saved := true, image := rangeImage s r }
  else s

/-- A stopped context's gangs give up their cores; their records lie in the save area. -/
def saveContext (s : State) (tag : Nat) : State :=
  let s1 := s.tileRanges.foldl (saveRange tag) s
  mapCtx { s1 with
    gangs := s1.gangs.map fun g => if ofCtx s tag g.launch && !g.detached then { g with saved := true } else g,
    threads := s1.threads.map fun t => if ofCtx s tag t.launch && t.place != .exited then { t with saved := true } else t,
    cores := s1.cores.map fun r => { r with pool := r.pool.filter fun b => !ofCtx s tag b.launch } } tag fun x => { x with run := .stopped }

/-- A record may enter the save area: its stores have drained, or it lies in a fault bin because the oldest met an uncorrectable
error (22 R345).
An exiting thread has no record. -/
def storesSettled (s : State) (t : Thread) : Bool :=
  match t.sbuf with
  | [] => true
  | e :: _ => ((binWord t).isSome || t.place == .exiting) && isBad s e.loc

/-- A record whose way somewhere, or whose deferred `ldc` load, the save area waits for (22 R345). -/
def isUnderway (t : Thread) : Bool :=
  (!t.saved && t.place == .ldcWait && t.ldc.isSome) || t.fwd.any fun f => f.phase == .transit

/-- The context's launches are all stopped, and what they have issued is drained, delivered and arrived. -/
def allStopped (s : State) (tag : Nat) : Bool :=
  ((launchesOf s tag).all Launch.stopped)
    && (s.threads.all fun t => !ofCtx s tag t.launch || ((t.saved || storesSettled s t) && !isUnderway t))
    && !(s.felt.packets.any fun p => p.sender.any fun x => ofCtx s tag x.1)

def stopContext (s : State) (x : Context) : State :=
  if x.run = .stopping && allStopped s x.tag then saveContext s x.tag else s

/-- What of the stop walk has come about by the end of a cycle. -/
def settleStops (s : State) : State :=
  let s1 := (s.launches.filter fun x => (ctxOf s x.ctx).run == .stopping).foldl stopLaunch s
  s1.contexts.foldl stopContext s1

/-! ### Resumption (22 R346) -/

/-- A saved range back in its old place on its core; or on another core, in a new one, with a new handle. -/
def landRange (c : Nat) (s : State) (r : TileRange) : Option State :=
  if r.core = c then
    if tilesTaken s c r.engine r.base r.count || (coreOf s c).enginesOff.contains r.engine then none
    else some (putImage r (mapRange s r.id fun q => { q with saved := false, image := [] }) r.image)
  else
    match grantTiles s c r.count r.launch r.thread r.slot false with
    | none => none
    | some (s1, q) =>
      let s2 := putImage q (mapRange (replaceRange s1 r.id q.id) q.id fun x => { x with freeing := r.freeing }) r.image
      some (if r.freeing then s2 else mapThread s2 r.launch r.thread fun t => setSlot t r.slot (handleValue q))

/-- Ranges landed one after another. -/
def landRanges (c : Nat) : State → List TileRange → Option State
  | s, [] => some s
  | s, r :: rs => (landRange c s r).bind fun s1 => landRanges c s1 rs

/-- The saved ranges of a thread. -/
def savedRanges (s : State) (l t : Nat) : List TileRange :=
  s.tileRanges.filter fun r => decide (r.launch = l) && decide (r.thread = t) && r.saved

/-- The record is on its way out of the save area (25 R387). -/
def leavesSave (t : Thread) : Bool := t.fwd.any fun f => f.fromSave && f.phase == .transit

/-- A forward as it goes on from the pool after resumption: it begins anew, but for a request that a peer has (22 R349). -/
def resumedForward (f : Forward) : Forward :=
  if f.peerf ∧ f.phase = .requested then { f with refusals := 0 } else { f with phase := .ready, refusals := 0, fromSave := false }

/-- A record on a core that it has come to, where it waits: in the fault bin there (21 R327), or for an entry or a copy slot
only while there is none. -/
def settleMoved (s : State) (t : Thread) : State :=
  match t.place with
  | .faultBin w n => putFaultBin s t w n
  | .copySlot => if waitOver s t .copySlot then binRecord s t else putThread s t
  | .storeSlot => if waitOver s t .storeSlot then binRecord s t else putThread s t
  | _ => putThread s t

/-- A restored record binned with this cycle, in its fault bin, or waiting as it was. -/
def settleRestored (s : State) (t : Thread) : State :=
  match t.place with
  | .unbinned => binRecord s t
  | .binned _ => binRecord s t
  | _ => settleMoved s t

/-- A saved record back on a core, with a slot of its own where it needs one; none where there is no slot. -/
def restoreRecord (c : Nat) (s : State) (t : Thread) : Option State :=
  let t1 := { t with saved := false, core := c, fwd := t.fwd.map resumedForward }
  if t1.place = .exiting then some (putThread s t1)
  else (takeSlotOn s t1 c).map fun s1 => settleRestored s1 t1

/-- The records of threads restored one after another. -/
def restoreRecords (c : Nat) : State → List Thread → Option State
  | s, [] => some s
  | s, t :: ts => ((threadAt s t.launch t.thread).elim (some s) (restoreRecord c s)).bind fun s1 => restoreRecords c s1 ts

/-- A parked copy in the fault bin of the core that it has come to (21 R327). -/
def rebinCopy (c : Nat) (s : State) (k : Copy) : State :=
  match k.state with
  | .parked w n => if k.core = c then s else enterFault s k.launch c w n
  | _ => s

/-- A suspended task or parked tile move in the fault bin of the core that it has come to. -/
def rebinOp (c : Nat) (s : State) (o : TileOp) : State :=
  match o.state with
  | .suspended w => if o.core = c then s else enterFault s o.launch c w 0
  | _ => s

/-- The copies and tile operations of threads go on, on a core; what a fault has stopped lies in the fault bin there. -/
def resumeWork (c : Nat) (ts : List Thread) (s : State) : State :=
  let mine := fun (l t : Nat) => ts.any (isThread l t)
  let s1 := (s.copies.filter fun k => mine k.launch k.thread).foldl (rebinCopy c) s
  let s2 := (s.tileOps.filter fun o => mine o.launch o.thread).foldl (rebinOp c) s1
  { s2 with copies := s2.copies.map (fun k => if mine k.launch k.thread then { k with setAside := false, core := c } else k),
            tileOps := s2.tileOps.map (fun o => if mine o.launch o.thread then { o with setAside := false, core := c } else o) }

/-- The other cores on which copies of threads hold slots. -/
def slotCores (c : Nat) (ts : List Thread) (s : State) : List Nat :=
  distinct (((s.copies.filter fun k => ts.any (isThread k.launch k.thread)).map Copy.core).filter fun k => decide (k ≠ c))

/-- Threads back on a core with their ranges, records and work in flight; none where the core has no room for all. The slots
that their copies leave on other cores are there for the records that wait (02 R26). -/
def restoreThreads (c : Nat) (s : State) (ts : List Thread) : Option State :=
  (landRanges c s (ts.flatMap fun t => savedRanges s t.launch t.thread)).bind fun s1 =>
    let s2 := resumeWork c ts s1
    if Config.coreCopies < slotsUsed s2 c then none
    else (restoreRecords c s2 ts).map fun s3 => (slotCores c ts s1).foldl wakeCopySlots s3

/-- The threads of a gang that lie in the save area. -/
def savedThreads (s : State) (l g : Nat) : List Thread :=
  s.threads.filter fun t => decide (t.launch = l) && decide (t.gang = g) && t.saved && !t.detachedHere && !leavesSave t

/-- A gang's row where it is resident, or was. -/
def mapGang (s : State) (l g : Nat) (f : Gang → Gang) : State :=
  { s with gangs := s.gangs.map fun y =>
      if y.launch = l ∧ y.gang = g ∧ y.detached = false ∧ y.reserved = false then f y else y }

/-- A gang's reservation of pool slots on a core. -/
def takePool (x : Launch) (s : State) (g c : Nat) : State :=
  let r := coreOf s c
  putCore s (takeSlots (classBytes x.rclass) x.handle g none x.gsize (poolRegions r) r)

/-- A gang in the save area: its row is of its own, and it returns to the core that the row names. -/
def gangSaved (s : State) (l g : Nat) : Bool := s.gangs.any fun y => decide (y.launch = l) && decide (y.gang = g) && y.saved && !y.detached

/-- A gang re-admitted on a core, if it lies in the save area and fits there with its records and ranges. -/
def restoreGang (x : Launch) (s : State) (g c : Nat) : Option State :=
  if !fits s x c || !gangSaved s x.handle g then none
  else
    let ts := savedThreads s x.handle g
    (restoreThreads c (mapGang (takePool x (selfInvalidate s c) g c) x.handle g fun y =>
      { y with saved := false, core := c, resident := now s }) ts).map fun s1 => fitCore s1 c

/-- The gangs of a unit re-admitted on the cores given. -/
def restoreOn (x : Launch) : State → List (Nat × Nat) → Option State
  | s, [] => some s
  | s, (g, c) :: rest => (restoreGang x s g c).bind fun s1 => restoreOn x s1 rest

/-- The gangs of a launch that lie in the save area, each with the core it left. -/
def savedGangs (s : State) (l : Nat) : List (Nat × Nat) :=
  sortBy (·.1) ((s.gangs.filter fun g => decide (g.launch = l) && g.saved && !g.detached).map fun g => (g.gang, g.core))

/-- The units of a launch that lie in the save area, each with the cores it left. -/
def savedUnits (s : State) (x : Launch) : List (List (Nat × Nat)) :=
  let gs := savedGangs s x.handle
  (gs.filter fun p => !(gs.any fun q => decide (q.1 < p.1) && sameUnitGang x q.1 p.1)).map fun p =>
    gs.filter fun q => sameUnitGang x p.1 q.1

/-- Where a unit may return, in order of choice: the cores it left, where 20 R319 puts it, and where it would put it
without those cores. -/
def returnPlaces (s : State) (x : Launch) (unit : List (Nat × Nat)) : List (List (Nat × Nat)) :=
  let gs := unit.map (·.1)
  let others := (launchCores s x).filter fun c => !(unit.map (·.2)).contains c
  unit :: ((placeUnit s x gs).toList ++ (placeClusters x (hintHomes s x) others gs.length s gs).toList)

/-- The reservation for a saved unit, on the first place where all of it has room. -/
def planRestore (s : State) (x : Launch) (unit : List (Nat × Nat)) : Option AdmitPlan :=
  ((returnPlaces s x unit).find? fun ps => ps.all (fun p => (launchCores s x).contains p.2) && (restoreOn x s ps).isSome).map
    (planFor x.fdie .restore x.handle)

/-- A distributor's next reservation for a unit that returns from a save area (22 R346). -/
def chooseRestore (s : State) (fdie : Nat) : Option AdmitPlan :=
  ((s.launches.filter fun x => decide (x.fdie = fdie) && (ctxOf s x.ctx).run == .running).flatMap fun x =>
    ((savedUnits s x).filter fun u => !backedOff x ((u.head?.map (·.1)).getD 0)).filterMap (planRestore s x)).head?

/-- A reserved unit restored. -/
def commitRestore (s : State) (p : AdmitPlan) : State :=
  let x := launchOf s p.launch
  match restoreOn x (giveUp s p) p.gangs with
  | none => failPlan s p
  | some s1 => wakeDependents (forgetTry (dropPlan s1 p) p.launch (planUnit p))

/-- Another thread of a thread's detached gang is back on its core: the gang has been formed anew there since its context
resumed. -/
def isBack (t u : Thread) : Bool :=
  decide (u.launch = t.launch ∧ u.gang = t.gang ∧ u.core = t.core) && u.detachedHere && !u.saved && u.place != .exited

/-- Records of detached gangs, whose issues before count no more (02 R36), and those that a move left out of every bin, back
where they are. -/
def restoreLoose (s : State) (t : Thread) : State :=
  if (ctxOfLaunch s t.launch).run != .running || leavesSave t then s
  else if t.saved && t.detachedHere then
    match restoreThreads t.core s [t] with
    | none => s
    | some s1 =>
      if s.threads.any fun u => isBack t u then s1
      else { s1 with gangs := s1.gangs.map fun g => if isGangOf t g then { g with resident := now s } else g }
  else if !t.saved && t.place == .unbinned then binRecord s t
  else s

/-- A context resumed: its launches' requests withdrawn, its records outside gangs restored; its gangs return by
reservations of their own. -/
def resumeContext (s : State) (tag : Nat) : State :=
  let s1 := mapCtx { s with launches := s.launches.map fun x =>
    if x.ctx = tag then { x with preq := false, reached := false, stopped := false, deadline := none } else x } tag
    fun x => { x with run := .running }
  let s2 := (s1.threads.filter fun t => ofCtx s tag t.launch).foldl restoreLoose s1
  wakeDependents { s2 with queues := s2.queues.map fun q => if q.ctx = tag then { q with waitArmed := true } else q }

/-- R346: RESUME acts on a stopped context alone. -/
def execResume (tag : Nat) (s : State) : Out :=
  match namedCtx s tag with
  | none => refused s
  | some x => if x.run = .stopped then done (resumeContext s tag) else refused s

/-! ### Moves (22 R347, R350) -/

/-- A record that a move may take: it lies in a pool slot or in the save area, be it in a fault bin (21 R327, R330). -/
def movable (t : Thread) : Bool :=
  match t.place with
  | .binned _ => true
  | .unbinned => true
  | .held => true
  | .barrier _ _ => true
  | .ldcWait => true
  | .copySlot => true
  | .storeSlot => true
  | .faultBin _ _ => true
  | _ => false

/-- No copy, task or tile operation of the thread is unfinished. -/
def workDone (t : Thread) : Bool := t.batches.isEmpty && t.openBatch.ops.isEmpty

/-- R347: MOVEREC begins a forward of the record. -/
def execMoverec (tag launch thread core : Nat) (s : State) : Out :=
  if 192 ≤ core then badCommand s
  else
    match namedCtx s tag, threadAt s launch thread with
    | some x, some t =>
      if (launchOf s launch).ctx ≠ tag ∨ x.run = .held ∨ movable t = false ∨ workDone t = false ∨ t.core = core
          ∨ ((partOf s x.partition).getD noPart).cores.contains core = false
          ∨ (residentAt s launch t.gang core = false ∧ (launchOf s launch).detach = false) then refused s
      else
        let f : Forward := { dest := core, byMove := true, from_ := some t.place, source := t.core, fromSave := t.saved }
        done (putThread s { t with place := .forward, fwd := some f })
    | _, _ => refused s

/-- The places that MOVEGANG names: a cluster's gangs with their destination cores. -/
def moveTargets (x : Launch) (gang : Nat) (cs : List Nat) : List (Nat × Nat) :=
  ((List.range x.clsize).map (gang + ·)).zip cs

/-- Destination bytes outside their ranges (24 Table 24-3). -/
def moveBytesBad (x : Launch) (gang : Nat) (cs : List Nat) : Bool :=
  decide (gang % x.clsize ≠ 0) || (cs.take x.clsize).any (fun c => decide (191 < c)) || (cs.drop x.clsize).any fun c => decide (c ≠ 0xFF)

/-- Distinct cores of one group, or of two groups of adjacent dies with the first half on one (20 R319). -/
def clusterPlaceOk (cs : List Nat) : Bool :=
  let h := (cs.length + 1) / 2
  let g0 := (cs.take h).map groupOfCore
  let g1 := (cs.drop h).map groupOfCore
  let all1 := fun (l : List Nat) => l.all fun g => decide (some g = l.head?)
  decide ((risingSet cs).length = cs.length) && (all1 (g0 ++ g1)
    || (all1 g0 && all1 g1 && adjacentDies (g0.headD 0 / 4) (g1.headD 0 / 4)))

/-- A record has left its core. -/
def hasLeft (t : Thread) : Bool := t.fwd.any fun f => f.phase == .transit

/-- A gang may move: it is resident, or in the save area, its threads hold no window, have nothing unfinished, and none of their
records is on its way. -/
def gangMovable (s : State) (l g : Nat) : Bool :=
  (s.gangs.any fun y => decide (y.launch = l) && decide (y.gang = g) && (isResident y || (y.saved && !y.detached && !y.reserved)))
    && s.threads.all fun t => !(decide (t.launch = l) && decide (t.gang = g)) || (!holdsWindow t && workDone t && !hasLeft t)

/-- The conditions of R350 for gangs and the cores they go to. -/
def moveAllowed (s : State) (x : Launch) (ps : List (Nat × Nat)) : Bool :=
  let c := ctxOf s x.ctx
  c.run != .held && (ps.all fun p => gangMovable s x.handle p.1)
    && (ps.all fun p => ((partOf s c.partition).getD noPart).cores.contains p.2 && (coreOf s p.2).inService)
    && clusterPlaceOk (ps.map (·.2))

/-- Ranges of threads on a core, each with its contents in place of one on another core. -/
def rebindRanges (c : Nat) : State → List TileRange → Option State
  | s, [] => some s
  | s, r :: rs =>
    match grantTiles s c r.count r.launch r.thread r.slot false with
    | none => none
    | some (s1, q) =>
      let s2 := putImage q (replaceRange (zeroTiles s1 r 0 r.count) r.id q.id) (rangeImage s r)
      rebindRanges c (mapThread s2 r.launch r.thread fun t => setSlot t r.slot (handleValue q)) rs

/-- The threads of a gang that go with it. -/
def gangThreads (s : State) (l g : Nat) : List Thread :=
  s.threads.filter fun t => decide (t.launch = l) && decide (t.gang = g) && !t.detachedHere && t.place != .exited

/-- What a gang holds of a core's pool given back: its reservation and the slots of the threads that go with it. -/
def leavePool (s : State) (l g c : Nat) : State :=
  let ts := (gangThreads s l g).map Thread.thread
  mapCore s c fun r => { r with pool := r.pool.filter fun b =>
    !(decide (b.launch = l) && decide (b.gang = g) && (match b.thread with | none => true | some t => ts.contains t)) }

/-- A record sent to another core of its package, and settled there; one in a fault bin in that of the new core (21 R327). -/
def moveRecord (c : Nat) (s : State) (t : Thread) : Option State :=
  (message s (dieOfCore t.core) (dieOfCore c) true t.efftag).bind fun s1 =>
    let t1 := { t with core := c }
    if t1.place = .exiting then some (putThread s1 t1)
    else (takeSlotOn s1 t1 c).map fun s2 => settleMoved s2 t1

/-- Records moved one after another. -/
def moveRecords (c : Nat) : State → List Thread → Option State
  | s, [] => some s
  | s, t :: ts => ((threadAt s t.launch t.thread).elim (some s) (moveRecord c s)).bind fun s1 => moveRecords c s1 ts

/-- A gang on its new core: reservation, records, handles; its image and registers go with it. One in the save area is to
return there. -/
def moveGang (x : Launch) (s : State) (g c : Nat) : Option State :=
  let old := coreOfGang s x.handle g
  if old = c then some s
  else if gangSaved s x.handle g then some (mapGang s x.handle g fun y => { y with core := c })
  else
    let s0 := mapGang (leavePool s x.handle g old) x.handle g fun y => { y with core := c, saved := true }
    if !fits s0 x c then none
    else
      let ts := gangThreads s x.handle g
      let s1 := mapGang (takePool x (selfInvalidate s0 c) g c) x.handle g fun y => { y with saved := false }
      let rs := ts.flatMap fun t => s.tileRanges.filter fun q => decide (q.launch = t.launch) && decide (q.thread = t.thread) && !q.freeing
      (rebindRanges c s1 rs).bind fun s2 => (moveRecords c s2 ts).map fun s3 => fitCore s3 c

def moveGangs (x : Launch) : State → List (Nat × Nat) → Option State
  | s, [] => some s
  | s, (g, c) :: rest => (moveGang x s g c).bind fun s1 => moveGangs x s1 rest

/-- A reserved move made, if its conditions still hold; if not, Milliner is told. -/
def commitMove (s : State) (p : AdmitPlan) : State :=
  let x := launchOf s p.launch
  if moveAllowed s x p.gangs then
    if !(p.gangs.all fun q => (gangThreads s x.handle q.1).all (isKnown s)) then s
    else
    match moveGangs x (giveUp s p) p.gangs with
    | none => failPlan s p
    | some s1 => forgetTry (dropPlan s1 p) p.launch (planUnit p)
  else
    let s1 := releasePlan s p
    { s1 with log := s1.log ++ [.moveRefused p.launch (planUnit p)] }

/-- A move of a gang stands already. -/
def isBeingMoved (s : State) (l g : Nat) : Bool :=
  s.plans.any fun p => decide (p.launch = l) && p.kind == .move && p.gangs.any fun x => decide (x.1 = g)

/-- R350: MOVEGANG, whose destination cores Milliner then reserves. The first core is one for every size of cluster. -/
def execMovegang (tag launch gang c0 c1 c2 c3 : Nat) (s : State) : Out :=
  let cs := [c0, c1, c2, c3]
  if decide (191 < c0) || cs.any (fun c => decide (191 < c) && decide (c ≠ 0xFF)) then badCommand s
  else
    match namedCtx s tag, launchAt s launch with
    | some _, some lr =>
      let ps := moveTargets lr gang cs
      if moveBytesBad lr gang cs then badCommand s
      else if lr.ctx ≠ tag ∨ moveAllowed s lr ps = false ∨ (ps.any fun p => isBeingMoved s launch p.1) = true then refused s
      else done { s with plans := s.plans ++ [planFor 10 .move launch ps] }
    | _, _ => refused s

/-! ### Reservations carried out (20 R320, 22 R346, R350) -/

/-- The launch of a plan still is in a state for it: a move may also be made while the context is stopped. -/
def planStands (s : State) (p : AdmitPlan) : Bool :=
  (launchAt s p.launch).isSome && (p.kind != .restore || p.gangs.all fun q => gangSaved s p.launch q.1)
    && ((ctxOfLaunch s p.launch).run == .running || (p.kind == .move &&
      ((ctxOfLaunch s p.launch).run == .stopping || (ctxOfLaunch s p.launch).run == .stopped)))

/-- A plan whose cores are all reserved committed. -/
def commitPlan (s : State) (p : AdmitPlan) : State :=
  match p.kind with
  | .newUnit => commitAdmission s p
  | .restore => commitRestore s p
  | .move => commitMove s p

/-- A reservation taken one step on: the next core in rising order, or the commit. -/
def stepPlan (s : State) (p : AdmitPlan) : State :=
  if !planStands s p then releasePlan s p
  else
    match p.todo with
    | [] => commitPlan s p
    | c :: cs => reserveNext s p c cs

/-- A unit with priority over all else is to be placed, and this plan admits another (20 R318). -/
def isOvertaken (s : State) (p : AdmitPlan) : Bool :=
  p.kind == .newUnit && (lockedLaunch s p.fdie).any fun x => decide (x.handle ≠ p.launch)
    || decide ((waitingUnits x).head? ≠ some (planUnit p))

/-- A distributor's own plan. -/
def planOf (s : State) (fdie : Nat) : Option AdmitPlan := s.plans.find? fun p => decide (p.fdie = fdie)

/-- A move of Milliner's whose next attempt is due, of a launch of an F-die. -/
def movePlan (s : State) (fdie : Nat) : Option AdmitPlan :=
  s.plans.find? fun p => p.kind == .move && decide ((launchOf s p.launch).fdie = fdie) && !backedOff (launchOf s p.launch) (planUnit p)

/-- R320: a work distributor takes its reservation one step on, or begins one: for a unit that returns from a save area,
else for the first unit that fits. With the last record back, what the stop walk held is eligible (22 R346). The moves that
Milliner reserves go on with that of their launch's F-die. -/
def execAdmission (fdie : Nat) (s : State) : Out :=
  match planOf s fdie with
  | some p => .next (if isOvertaken s p then releasePlan s p else stepPlan s p)
  | none =>
    match movePlan s fdie with
    | some p => .next (stepPlan s p)
    | none =>
      match (chooseRestore s fdie).orElse fun _ => choosePlan s fdie with
      | some p => .next { s with plans := s.plans ++ [p] }
      | none => .next (wakeDependents ((s.threads.filter fun t => decide ((launchOf s t.launch).fdie = fdie)).foldl restoreLoose s))

/-! ### Removal (22 R351, R352) -/

/-- A context's tag in what other contexts' threads, copies and tasks act under, made that of a context that is gone (19
R294). -/
def deadTag (tag n : Nat) : Nat := if n = tag then tag + 4096 else n

/-- The tag of a removed context given up by whatever is not its own. -/
def killTag (s : State) (tag : Nat) : State :=
  { s with threads := s.threads.map fun t => if ofCtx s tag t.launch then t else { t with efftag := deadTag tag t.efftag },
           copies := s.copies.map fun c => if ofCtx s tag c.launch then c else { c with tag := deadTag tag c.tag },
           tileOps := s.tileOps.map fun o => if ofCtx s tag o.launch then o else { o with tag := deadTag tag o.tag } }

/-- Removal begins: admission, drains and issue stop, windows are freed, queues are unmapped and discarded. -/
def beginRemoval (s : State) (tag : Nat) : State :=
  if underRemoval s tag || (ctxAt s tag).isNone then s
  else
  let s1 := killTag (releasePlans s tag) tag
  mapCtx { s1 with
    queues := s1.queues.filter fun q => !decide (q.ctx = tag),
    deadQueues := s1.deadQueues ++ (s1.queues.filter fun q => decide (q.ctx = tag)).map fun q => (q.part, q.idx),
    threads := s1.threads.map fun t =>
      if ofCtx s tag t.launch && holdsWindow t then
        { t with place := .unbinned, window := 0, regs := [], carry := 0, waiting := none, sysWait := .none, loads := [] }
      else t } tag fun x => { x with run := .removing 0 }

/-- R351: REMOVE. -/
def execRemove (tag : Nat) (s : State) : Out :=
  match namedCtx s tag with
  | none => refused s
  | some _ => done (beginRemoval s tag)

/-- Cores on which the context's copies hold slots. -/
def copyCores (s : State) (tag : Nat) : List Nat := risingSet ((s.copies.filter fun c => ofCtx s tag c.launch).map Copy.core)

/-- Tensor copy units reset: copies and batch counters; the slots freed are another context's to take. -/
def resetCopies (tag : Nat) (s : State) : State :=
  (copyCores s tag).foldl wakeCopySlots
    { s with copies := s.copies.filter fun c => !ofCtx s tag c.launch,
             threads := s.threads.map fun t => if ofCtx s tag t.launch then
                { t with batches := [], openBatch := {}, boldest := t.bsealed + 1 } else t }

/-- Tile schedulers and engines reset: operations, ranges; tiles zeroed. -/
def resetTiles (tag : Nat) (s : State) : State :=
  let gone := s.tileRanges.filter fun r => ofCtx s tag r.launch && !r.saved
  let s1 := gone.foldl (fun y r => zeroTiles y r 0 r.count) s
  { s1 with tileOps := s1.tileOps.filter fun o => !ofCtx s tag o.launch,
            tileRanges := s1.tileRanges.filter fun r => !ofCtx s tag r.launch }

def resetCarders (tag : Nat) (s : State) : State :=
  { s with threads := s.threads.map fun t => if ofCtx s tag t.launch then { t with streams := [] } else t }

/-- Teasels reset: records wherever they lie, fault bins, pool slots, the module table. -/
def resetTeasels (tag : Nat) (s : State) : State :=
  mapCtx { s with threads := s.threads.filter fun t => !ofCtx s tag t.launch,
                  faults := s.faults.filter fun f => !ofCtx s tag f.launch,
                  cores := s.cores.map fun r => { r with pool := r.pool.filter fun b => !ofCtx s tag b.launch,
                                                         bins := r.bins.filter fun b => !ofCtx s tag b.launch } } tag
    fun x => { x with modules := [] }

/-- Cores reset: gang-local memory, pool extensions of the context. -/
def resetCores (tag : Nat) (s : State) : State :=
  let gone := s.gangs.filter fun g => ofCtx s tag g.launch && !g.detached
  let s1 := gone.foldl (fun y g => zeroLocal g.launch g.gang y) s
  { s1 with gangs := s1.gangs.filter fun g => !ofCtx s tag g.launch,
            cores := s1.cores.map fun r => { r with exts := r.exts.map fun e => if e.ctx = tag then { e with withdrawn := true } else e } }

/-- Translation reset, with the page moves of the context. -/
def resetTranslation (tag : Nat) (s : State) : State :=
  { invalidate tag 0 0 s with moves := s.moves.filter fun m => !decide (m.tag = tag) }

/-- A packet whose contents are discarded: it keeps its place in its source's count, so that those after it stay
deliverable, and nothing else (log 77). -/
def hollow (p : FeltPacket) : FeltPacket :=
  { p with trailer := none, tag := 0, joined := false, body := .message 0, sender := none, acks := none }

/-- A held packet of a removed context. -/
def hollowOf (tag : Nat) (p : FeltPacket) : FeltPacket := if p.tag = tag then hollow p else p

/-- The Felt reset: held packets of the context lose their contents, and its tag is free. -/
def resetFelt (tag : Nat) (s : State) : State :=
  { s with felt := { s.felt with packets := s.felt.packets.map (hollowOf tag), owed := s.felt.owed.filter fun o => !ofCtx s tag o.launch },
           renhar := { s.renhar with out := s.renhar.out.filter fun o => !ofCtx s tag o.launch },
           launches := s.launches.filter fun x => !decide (x.ctx = tag),
           contexts := s.contexts.filter fun x => !decide (x.tag = tag) }

/-- A packet of a thread's access, or its record, that is on its way. -/
def isRecordBody : FeltBody → Bool
  | .record _ _ => true
  | _ => false

/-- A context's packets on their way, of records or of accesses. -/
def tagUnderway (s : State) (tag : Nat) (records : Bool) : Bool :=
  s.felt.packets.any fun p => decide (p.tag = tag) && !p.arrived && isRecordBody p.body == records

/-- A piece of a record for a peer. -/
def isRecordKind : RenharKind → Bool
  | .record _ _ _ _ _ _ => true
  | _ => false

/-- A request of a context's threads that is not answered. -/
def isOfCtx (s : State) (tag : Nat) (o : RenharOut) : Bool := decide (o.launch ≠ 0) && ofCtx s tag o.launch

/-- Requests of a unit that carry the context's tag and are in flight (22 R351): reads and writes of copies to peers, records
of Teasels, accesses and requests of cores, posted stores of others through its translations, packets on their way. -/
def unitBusy (s : State) (tag : Nat) : Nat → Bool
  | 0 => s.copies.any fun c => (ofCtx s tag c.launch || decide (c.tag = tag))
      && (decide (c.unacked ≠ 0) || s.renhar.out.any (isRead 0 c.id))
  | 3 => tagUnderway s tag true || s.renhar.out.any fun o => isOfCtx s tag o && isRecordKind o.packet.kind
  | 4 => tagUnderway s tag false || s.renhar.out.any fun o => isOfCtx s tag o && !isRecordKind o.packet.kind
  | 5 => s.threads.any fun t => t.sbuf.any fun e => decide (e.tag = tag) && !(isBad s e.loc || windowLost s e.wpa)
  | 6 => s.felt.packets.any fun p => decide (p.tag = tag) && !p.arrived
  | _ => false

/-- The unit of a number discards what it holds of the context. -/
def resetUnit (tag n : Nat) (s : State) : State :=
  match n with
  | 0 => resetCopies tag s
  | 1 => resetTiles tag s
  | 2 => resetCarders tag s
  | 3 => resetTeasels tag s
  | 4 => resetCores tag s
  | 5 => resetTranslation tag s
  | _ => resetFelt tag s

/-- R351: the next unit of Table 22-1 resets, when nothing of the context is in flight from it. -/
def execRemovalUnitReset (tag : Nat) (s : State) : Out :=
  match ctxAt s tag with
  | none => .next s
  | some x =>
    match x.run with
    | .removing n =>
      if unitBusy s tag n then .next s
      else .next (mapCtx (resetUnit tag n s) tag fun c => { c with run := .removing (n + 1) })
    | _ => .next s

/-! ### The debugger (22 R353 to R355) -/

/-- A held record that goes on after the packet of its `brk`. -/
def continued (t : Thread) : Thread :=
  { t with packet := t.tfword.toNat / 65536 + 1, pos := 0, trapRec := false, forced := true, tfword := 0 }

def continueHeld (s : State) (t : Thread) : State := binRecord s (continued t)

/-- A record that is held, or stalls on its way to be, or has been taken from there by a fault or a move, continued. -/
def continueAwaiting (s : State) (t : Thread) : State :=
  match t.place, t.parked with
  | .held, _ => continueHeld s t
  | .stalled _, _ => putThread s { continued t with place := .stalled (.binned 0) }
  | .faultBin _ _, some r =>
    putThread s { t with packet := r.tfword.toNat / 65536 + 1, pos := 0,
                         parked := some { r with place := .unbinned, trapRec := false, forced := true, tfword := 0 } }
  | .forward, _ => eventCame s (continued t)
  | _, _ => s

/-- A held record of a context. -/
def heldRecord (s : State) (tag launch thread : Nat) : Option Thread :=
  match namedCtx s tag, threadAt s launch thread with
  | some _, some t => if t.place = .held ∧ (launchOf s launch).ctx = tag then some t else none
  | _, _ => none

/-- The carried registers and PRED of a record image in place of the record's own; no image leaves them. -/
def editRecord (s : State) (edit : Nat) (t : Thread) : Thread :=
  if edit = 0 then t
  else
    let u := parseRecord (readBytes s.mem edit 1024) t.launch t.core
    { t with pred := u.pred,
             regs := (List.range t.regs.length).map fun i =>
                if t.carry.getLsbD i && u.carry.getLsbD i then regGet u.regs i else regGet t.regs i }

/-- R353: a debugger attaches. -/
def execDebugAttach (tag : Nat) (s : State) : Out :=
  match namedCtx s tag with
  | none => refused s
  | some _ => done (mapCtx s tag fun x => { x with debug := true })

/-- R355: it detaches, and every held record is continued. -/
def execDebugDetach (tag : Nat) (s : State) : Out :=
  match namedCtx s tag with
  | none => refused s
  | some _ =>
    let s1 := mapCtx s tag fun x => { x with debug := false }
    done ((s1.threads.filter fun t => awaits t == .held && ofCtx s tag t.launch).foldl continueAwaiting s1)

/-- R355: a held record is continued. -/
def execReleaseContinue (tag launch thread edit : Nat) (s : State) : Out :=
  if 2 ^ 39 < edit + 1024 then badCommand s
  else
    match heldRecord s tag launch thread with
    | none => refused s
    | some t => done (continueHeld s (editRecord s edit t))

/-- R355: a held record is delivered to its handler; without one the context takes a context fault. -/
def execReleaseDeliver (tag launch thread edit : Nat) (s : State) : Out :=
  if 2 ^ 39 < edit + 1024 then badCommand s
  else
    match heldRecord s tag launch thread with
    | none => refused s
    | some t =>
      let lr := launchOf s launch
      let t1 := editRecord s edit t
      if lr.trappkt = 0 || isRetired (ctxOf s tag) (packetAddr lr.trappkt) then
        done (contextFault (putThread s { t1 with place := .unbinned }) tag launch thread t.tfword)
      else done (binRecord s t1)

/-- The steps of the last task of the handle in a slot. -/
def lastTaskSteps (s : State) (t : Thread) (slot : Nat) : Nat :=
  (((opsOf s (slotRangeId s t slot)).filter isTask).getLast?.map taskSteps).getD 0

/-- A slot's tiles as a query shows them: busy while an operation is pending, unless the context is stopped. -/
def shownTiles (s : State) (stopped : Bool) (t : Thread) (slot : Nat) : Option (List Word) :=
  if (progress s t slot).getLsbD 15 && !stopped then none else some (((slotRange s t slot).map (rangeWords s)).getD [])

/-- The view of 22 Table 22-2. -/
def debugView (s : State) (t : Thread) : DebugView :=
  let tag := (launchOf s t.launch).ctx
  let stopped := (ctxOf s tag).run == .stopped
  { launch := t.launch, thread := t.thread, record := recordImage t t.launch, bsealed := t.bsealed, boldest := t.boldest,
    pending := t.batches.map fun b => (b.num, b.bytes), openBytes := t.openBatch.bytes,
    copies := (s.copies.filter fun c => decide (c.launch = t.launch) && decide (c.thread = t.thread)).map fun c =>
      (c.kind, c.nominal, c.setAside || (match c.state with | .parked _ _ => true | _ => false)),
    handles := (heldSlots t).map fun x => (x.1, progress s t x.1, lastTaskSteps s t x.1),
    tiles := (heldSlots t).map fun x => (x.1, shownTiles s stopped t x.1),
    queues := (s.queues.filter fun q => decide (q.ctx = tag)).map fun q => (q.head, q.tail, q.qstate) }

/-- R354: a query of a halted thread, or of a held context's. -/
def execDebugQuery (launch thread : Nat) (s : State) : Out :=
  match threadAt s launch thread with
  | none => .next s
  | some t =>
    if t.place = .held || (ctxOfLaunch s launch).run = .held then .next { s with views := s.views ++ [debugView s t] } else .next s

end Sys2Proof.Machine
end

