-- ==== Sys2Proof/Machine/Residue.lean ====
section
/-! DEFINITION. The residue checks of pipes and engines (21 R337), with the two events that meet them: the issue of a
run (02 R35) and a task's step (10 R219). -/

namespace Sys2Proof.Machine

open Sys2Proof (Byte Word DWord Instr)

/-- Mismatches that a unit of a core has still to meet. -/
def pendingErrors (r : Core) (u : Nat) : Nat := ((r.errors.find? fun x => decide (x.1 = u)).map (·.2)).getD 0

/-- One of them met by a run or step, which is performed again. -/
def meetError (k : Retry) (r : Core) : Core :=
  { r with errors := putPair k.unit (pendingErrors r k.unit - 1) r.errors, retried := k :: r.retried }

/-- The unit out of service: the pipes with their core. -/
def retireUnit (u : Nat) (r : Core) : Core :=
  let r1 := { r with errors := r.errors.filter (fun x => !decide (x.1 = u)), retried := r.retried.filter fun x => !decide (x.unit = u) }
  if u = 4 then { r1 with inService := false } else { r1 with enginesOff := u :: r1.enginesOff }

/-- What a run or step leaves: its effect, or after a mismatch nothing, so that it comes again; a second mismatch in
the same run or step removes the context and takes the unit out of service. `spent` is what the attempt has used of the cycle
in either case. -/
def checkResidue (s : State) (core tag : Nat) (k : Retry) (spent : State → State) (effect : State) : State :=
  let r := coreOf s core
  if pendingErrors r k.unit = 0 then
    if r.retried.contains k then mapCore effect core fun x => { x with retried := x.retried.filter fun y => y != k } else effect
  else if r.retried.contains k then mapCore (beginRemoval (spent s) tag) core (retireUnit k.unit)
  else mapCore (spent s) core (meetError k)

/-- What a residue check marks a run by. -/
def runKey (iss : Issue) : Retry :=
  { unit := 4, owner := iss.launch, item := iss.lanes.headD 0, place := packetAddr iss.packet + iss.pos }

/-- What it marks a step by. -/
def stepKey (o : TileOp) (r : TileRange) : Retry := { unit := r.engine, owner := o.launch, item := o.id, place := o.step }

/-- An engine has worked in this cycle, and started for it. -/
def stepSpent (e : Nat) (s : State) : State :=
  let s1 := if isIdleLong s e then makeStart s e else s
  { s1 with engineLast := putPair e (now s) s1.engineLast }

/-- A step under its residue check, where it is executed. -/
def checkedStep (s : State) (o : TileOp) (r : TileRange) (maps : Option Bitmaps) : State :=
  let s1 := performStep s o r maps
  if executes maps && (opAt s1 o.id).any (fun p => decide (p.step = o.step + 1)) then
    checkResidue s o.core (launchOf s o.launch).ctx (stepKey o r) (stepSpent (o.core * 4 + r.engine)) s1
  else s1

/-- R219: an engine takes the next step of its task, unless its residue check fails. -/
def execTaskStep (op : Nat) (s : State) : Out :=
  match opAt s op with
  | none => .next s
  | some o =>
    match rangeAt s o.range with
    | none => .next s
    | some r =>
      if isTask o && atWork s o && decide (o.step < taskSteps o) then
        match maskRead s o with
        | .error x => .next (stopOp s o x)
        | .ok m =>
          let o1 := { o with rows := m }
          if o.kind = .sparseTask then
            match bitmapsRead s o1 with
            | .error x => .next (stopOp s o1 x)
            | .ok b => .next (checkedStep s o1 r (some b))
          else .next (checkedStep s o1 r none)
      else .next s

/-- R35, R36: in each cycle of a core at most one run issues; lines that its threads lack are asked for. -/
def execRunIssue (core : Nat) (s : State) : Out :=
  let s1 := mapCore s core (addFills (missingLines s core))
  if (coreOf s core).issued || !(coreOf s core).inService || s.issue.isSome then .next s1
  else
    let s2 := pick core s1
    match s2.issue with
    | none => .next s2
    | some iss => .next (checkResidue s1 core (launchOf s1 iss.launch).ctx (runKey iss)
      (fun x => mapCore x core fun r => { r with issued := true }) s2)

end Sys2Proof.Machine
end

