-- ==== Sys2Proof/Machine/Fabric.lean ====
section
/-! DEFINITION. The Felt's deliveries, beacons, removals and clock cuts (23 R358 to R368), and what Renhar brings
(23 R370 to R374). -/

namespace Sys2Proof.Machine

open Sys2Proof (Byte Word DWord Instr)

/-! ### A packet's flits (23 Table 23-2) -/

/-- The publication class, whose packets have a trailer (23 R361). -/
def isPublication (p : FeltPacket) : Bool := p.trailer.isSome

/-- The address that a header names. -/
def feltAddress : FeltBody → Option Nat
  | .write loc _ _ => some loc
  | .modify loc _ _ _ _ => some loc
  | .signal _ loc _ => some loc
  | .renhar _ _ _ _ _ va _ => some va
  | _ => none

/-- The bytes of its line that a packet for a peer carries, one bit each. -/
def renharMask : RenharKind → Nat
  | .postedWrite va bs => (bs.map fun b => 2 ^ (va % 128 + b.1)).sum
  | .releaseWrite va bs => (bs.map fun b => 2 ^ (va % 128 + b.1)).sum
  | .atomic va _ wide _ _ _ => (2 ^ (if wide then 8 else 4) - 1) * 2 ^ (va % 128)
  | .signal va _ => 255 * 2 ^ (va % 128)
  | .enqueue _ _ _ b => 2 ^ b.length - 1
  | .record _ _ _ _ _ b => 2 ^ b.length - 1
  | _ => 0

/-- The bytes of its line that a packet carries, one bit each. -/
def feltMask : FeltBody → Nat
  | .write loc n _ => (2 ^ n - 1) * 2 ^ (loc % 128)
  | .modify loc n _ _ _ => (2 ^ n - 1) * 2 ^ (loc % 128)
  | .signal _ loc _ => 255 * 2 ^ (loc % 128)
  | .enqueue _ _ b => 2 ^ b.length - 1
  | .renhar _ _ _ _ _ _ k => renharMask k
  | _ => 0

/-- Whether a packet for a peer carries data. -/
def carriesLine : RenharKind → Bool
  | .read _ _ => false
  | .acquire _ _ => false
  | .translate _ _ _ => false
  | .own _ => false
  | .invalidate _ => false
  | .fetch _ => false
  | .ack _ _ _ _ _ => false
  | .nack _ _ => false
  | .full _ _ => false
  | .accepted _ _ => false
  | .faulted _ _ _ _ => false
  | _ => true

/-- The tile extension of a forwarded record, in bytes: what its ranges at the destination hold. -/
def extensionBytesOf (s : State) (launch thread : Nat) : List Nat :=
  match (threadAt s launch thread).bind (·.fwd) with
  | some f => (s.tileRanges.filter fun r => f.ranges.contains r.id).map fun r => 4096 * r.count
  | none => []

/-- Data flits of a body: one for each line, or for each 128 bytes of a record or of a tile extension. -/
def dataFlits (s : State) : FeltBody → Nat
  | .message n => n
  | .record l t => ((((threadAt s l t).map recordLength).getD 0 :: extensionBytesOf s l t).map fun n => (n + 127) / 128).sum
  | .renhar _ _ _ _ _ _ k => if carriesLine k then 1 else 0
  | _ => 1

/-- Flits of a packet: its header, its data, its trailer. -/
def flitCount (s : State) (p : FeltPacket) : Nat := 1 + dataFlits s p.body + (if isPublication p then 1 else 0)

/-- Counters at their places in a stamp or a matrix, 12 bits each, the first lowest. -/
def packCounts : List Nat → Nat
  | [] => 0
  | c :: cs => c % 4096 + 4096 * packCounts cs

/-- The header of a packet (23 Table 23-2); its check, and every flit's CRC, is not modelled. -/
structure FeltHeader where
  source : Nat
  destination : Nat
  publication : Bool
  channel : Nat
  flits : Nat
  clkgen : BitVec 16
  tag : BitVec 12
  stamp : BitVec 120
  address : Nat
  mask : BitVec 128
  deriving DecidableEq, Repr

def feltHeader (s : State) (p : FeltPacket) : FeltHeader :=
  { source := p.src, destination := p.dst, publication := isPublication p, channel := Config.feltChannel (isPublication p),
    flits := flitCount s p, clkgen := BitVec.ofNat 16 p.clkgen, tag := BitVec.ofNat 12 p.tag,
    stamp := BitVec.ofNat 120 (packCounts p.stamp), address := (feltAddress p.body).getD 0,
    mask := BitVec.ofNat 128 (feltMask p.body) }

/-- The matrix that a trailer carries. -/
def trailerBits (p : FeltPacket) : BitVec 1200 := BitVec.ofNat 1200 (packCounts ((p.trailer.getD []).flatMap fun r => r))

/-! ### Deliveries (23 R360 to R362) -/

/-- What a delivered packet does at its destination. -/
def performBody (s : State) (p : FeltPacket) : State :=
  match p.body with
  | .message _ => s
  | .write loc n v =>
    let s1 := homePut s p.src loc n v
    if p.acks = some .ownership then noteOwner s1 p.src (loc / 128) else s1
  | .modify loc n op cmp v => modifyAt s p.src loc n op cmp v
  | .signal tag loc v => signalAt s p.src tag loc v
  | .record _ _ => s
  | .enqueue part idx b =>
    match queueAt s part idx with
    | none => s
    | some q => noteWork (putCommand s q b) part idx
  | .renhar part l t core peer va k => renharPut s part l t core peer va k

/-- The packets that are performed together with one that is next of its source: the reductions of the word's next lanes. -/
def followers (s : State) (p : FeltPacket) : List FeltPacket := ((feltQueue s p.src p.dst).drop 1).takeWhile fun q => q.joined

/-- The acknowledgement that a delivered packet makes its destination owe to its sender (05 R113). -/
def oweAck (s : State) (p : FeltPacket) : State :=
  match p.sender, p.acks with
  | some (l, t), some k =>
    { s with felt := { s.felt with owed := s.felt.owed ++ [{ die := p.dst, launch := l, thread := t, kind := k, tag := p.tag }] } }
  | _, _ => s

/-- A packet delivered: its hold-buffer entry, if it has one, and its credit are free, and it acts. -/
def deliverOne (s : State) (p : FeltPacket) : State := oweAck (performBody (deliver s p) p) p

/-- A packet delivered, and those joined to it, which nothing comes between (09 R188). -/
def deliverPacket (s : State) (p : FeltPacket) : State := (followers s p).foldl deliverOne (deliverOne s p)

/-- A packet can go: it is the next of its source in FIFO order, may be delivered, and has a route. -/
def canDeliver (s : State) (p : FeltPacket) : Bool :=
  (feltQueue s p.src p.dst).head? == some p && deliverable s p && (p.arrived || !(isLiveDie s p.src) || routed s p.src p.dst)

/-- R362: the next packet of a source arrives at its destination over a surviving route, and is delivered or held. -/
def execFeltPacketReceive (src dst : Nat) (s : State) : Out :=
  match (feltQueue s src dst).find? fun p => !p.arrived with
  | none => .next s
  | some p =>
    if isLiveDie s src && !routed s src dst then .next s
    else if canDeliver s p then .next (deliverPacket s p)
    else .next { s with felt := { s.felt with packets := replaceFirst (fun x => x == p) (fun x => { x with arrived := true }) s.felt.packets } }

/-- The held packets of a destination that may be delivered, lowest source first. -/
def heldDeliverable (s : State) (dst : Nat) : List FeltPacket :=
  ((List.range 10).filterMap fun k => (feltQueue s k dst).head?).filter fun p => p.arrived && deliverable s p

/-- R362: a held packet has become deliverable. -/
def execHeldPacketDeliver (dst : Nat) (s : State) : Out :=
  match heldDeliverable s dst with
  | [] => .next s
  | p :: _ => .next (deliverPacket s p)

/-- Every packet that can go delivered, in an order that lets each. -/
def drainFelt : Nat → State → State
  | 0, s => s
  | n + 1, s =>
    match s.felt.packets.find? (canDeliver s) with
    | none => s
    | some p => drainFelt n (deliverPacket s p)

/-! ### Links (23 R358, R359) -/

/-- Failed retransmissions of a link in a row. -/
def retriesOf (s : State) (l : Nat × Nat) : Nat :=
  ((s.felt.retries.find? fun x => decide ((x.1, x.2.1) = l)).map fun x => x.2.2).getD 0

/-- R359: a flit has failed its CRC, and is sent again with those after it, in order. -/
def execFlitRetransmit (a b : Nat) (s : State) : Out :=
  let l := linkEnds a b
  if linkUp s l then
    .next { s with felt := { s.felt with
      retries := s.felt.retries.filter (fun x => !decide ((x.1, x.2.1) = l)) ++ [(l.1, l.2, retriesOf s l + 1)] } }
  else .next s

/-- R359: after 64 failed retransmissions in a row the link has failed, and Milliner asks for a clock cut (R367). -/
def execLinkFailed (a b : Nat) (s : State) : Out :=
  let l := linkEnds a b
  if linkUp s l && decide (64 ≤ retriesOf s l) then
    .next { s with felt := { s.felt with failed := s.felt.failed ++ [l], cutWanted := true,
                                         retries := s.felt.retries.filter fun x => !decide ((x.1, x.2.1) = l) } }
  else .next s

/-! ### Beacons and acknowledgements (23 R364) -/

/-- A live die's clock as another's beacon leaves it, where a route leads to it: the sender's row, and its V vector as a
column. -/
def hearBeacon (s : State) (c : DieClock) (x : DieClock) : DieClock :=
  if x.die = c.die ∨ s.felt.live.contains x.die = false ∨ routed s c.die x.die = false then x
  else
    let row := (List.range 10).map fun l =>
      if s.felt.live.contains l then laterCount (matrixAt x.matrix c.die l) (matrixAt c.matrix c.die l) else matrixAt x.matrix c.die l
    { x with matrix := mergeColumn s.felt.live (x.matrix.set c.die row) c.die c.v, beacons := x.beacons.set c.die (now s) }

/-- R364: a die sends its beacon to every other live die. -/
def execClockBeacon (die : Nat) (s : State) : Out :=
  if isLiveDie s die then
    .next { s with felt := { s.felt with clocks := s.felt.clocks.map (hearBeacon s (clockOf s die)) } }
  else .next s

/-- A die's beacon is due: a live die that it reaches has not heard one for 255 cycles. -/
def beaconDue (s : State) (die : Nat) : Bool :=
  isLiveDie s die && s.felt.live.any fun e =>
    decide (e ≠ die) && decide (255 ≤ now s - (clockOf s e).beacons.getD die 0) && routed s die e

/-- Live dies of which a die has heard nothing for 1,024 cycles. -/
def silentDies (s : State) (die : Nat) : List Nat :=
  s.felt.live.filter fun e => decide (e ≠ die) && decide (1024 ≤ now s - (clockOf s die).beacons.getD e 0)

/-- R364: a destination acknowledges its V vector to every source. -/
def execVAck (die : Nat) (s : State) : Out :=
  if isLiveDie s die then
    let v := (clockOf s die).v
    let hear := fun (x : DieClock) =>
      if s.felt.live.contains x.die then { x with acked := x.acked.set die (v.getD x.die 0) } else x
    .next { s with felt := { s.felt with clocks := s.felt.clocks.map hear } }
  else .next s

/-- A source has not been told of all that a destination has delivered. -/
def ackDue (s : State) (die : Nat) : Bool :=
  s.felt.live.any fun e => decide ((clockOf s e).acked.getD die 0 ≠ (clockOf s die).v.getD e 0)

/-- R364: a die has heard no beacon of a live die for 1,024 cycles, and asks for a clock cut. -/
def execBeaconTimeout (die silent : Nat) (s : State) : Out :=
  if isLiveDie s die && isLiveDie s silent && decide (die ≠ silent) && decide (1024 ≤ now s - (clockOf s die).beacons.getD silent 0) then
    .next { s with felt := { s.felt with cutWanted := true } }
  else .next s

/-! ### Removal, splits and cuts (23 R366 to R368) -/

/-- A context's tables from one on have a page, or a table, homed on a die. -/
def tableHomed (s : State) (die : Nat) : List Nat → Nat → Bool
  | [], _ => false
  | lvl :: lvls, table =>
    decide (homeOf s table = die) || (List.range 256).any fun i =>
      let e := readNat s.mem (table + 8 * i) 8
      let addr := e / 2 ^ 11 % 2 ^ 37 * 2 ^ 11
      if e % 2 = 0 ∨ badEntry e lvl = true then false
      else if e / 2 % 2 = 1 then decide (addr < 2 ^ 39) && decide (homeOf s addr = die)
      else tableHomed s die lvls addr

/-- A record has come to a die, or is on its way there, and is not yet accepted (22 R348). -/
def comesTo (die : Nat) (t : Thread) : Bool := t.fwd.any fun f => f.phase == .transit && !f.peerf && decide (dieOfCore f.dest = die)

/-- Work of a context that stands on a die: gangs, threads and their records, operations, tiles, copies. What the save area
holds stands on none. -/
def workOn (s : State) (die tag : Nat) : Bool :=
  (s.gangs.any fun g => !g.saved && decide (dieOfCore g.core = die) && ofCtx s tag g.launch)
    || (s.threads.any fun t => ((!t.saved && decide (dieOfCore t.core = die)) || comesTo die t) && ofCtx s tag t.launch && t.place != .exited)
    || (s.tileOps.any fun o => !o.setAside && decide (dieOfCore o.core = die) && ofCtx s tag o.launch)
    || (s.tileRanges.any fun r => !r.saved && decide (dieOfCore r.core = die) && ofCtx s tag r.launch)
    || (s.copies.any fun c => !c.setAside && decide (dieOfCore c.core = die) && ofCtx s tag c.launch)

/-- Pages of a context homed on a die, and records saved there. -/
def pagesOn (s : State) (die : Nat) (x : Context) : Bool :=
  tableHomed s die [1, 2, 3, 4] x.tbase
    || (!(isResumed s x.tag) && (decide (homeDie x.savebase = die) || decide (homeDie (x.savebase + x.savelen - 1) = die)))

/-- A held packet whose stamp counts packets of a die that were never delivered. -/
def countsLost (s : State) (die : Nat) (p : FeltPacket) : Bool :=
  p.arrived && p.stamped && decide (p.src ≠ die) && !atLeast ((clockOf s p.dst).v.getD die 0) (p.stamp.getD die 0)

/-- A packet that the removal of a die drops (23 R366, steps 2 and 3): held from it, to it, or held for what it never sent. -/
def isDropped (s : State) (die : Nat) (p : FeltPacket) : Bool :=
  (decide (p.src = die) && p.arrived) || decide (p.dst = die) || countsLost s die p

/-- The host port lost: its connections in error, its windows unbound. -/
def losePort (s : State) : State :=
  { s with port := { s.port with connections := s.port.connections.map fun c => { c with error := true }, windows := [], inbound := [] } }

/-- The packets that a die's removal leaves: a dropped one of a live source keeps its place (log 77). -/
def packetsWithout (s : State) (die : Nat) : List FeltPacket :=
  s.felt.packets.filterMap fun p =>
    if !isDropped s die p then some p else if decide (p.src = die) || decide (p.dst = die) then none else some (hollow p)

/-- The Felt without a die: packets dropped, its row and column frozen, generations advanced. -/
def feltWithout (s : State) (die : Nat) : Felt :=
  { s.felt with
    live := s.felt.live.filter fun k => !decide (k = die),
    packets := packetsWithout s die,
    clocks := s.felt.clocks.map fun c => if c.die = die then c else { c with clkgen := (c.clkgen + 1) % 65536 } }

/-- A dropped packet of a context. -/
def dropsPacketOf (s : State) (die : Nat) (x : Context) : Bool :=
  s.felt.packets.any fun p => isDropped s die p && (decide (p.tag = x.tag) || p.sender.any fun y => ofCtx s x.tag y.1)

/-- Contexts that lose something with a die. -/
def lostWith (s : State) (die : Nat) : List Context :=
  s.contexts.filter fun x => workOn s die x.tag || pagesOn s die x || dropsPacketOf s die x

/-- A die removed (23 R366). -/
def removeDie (s : State) (die : Nat) : State :=
  if !isLiveDie s die then s
  else
    let lost := lostWith s die
    let s1 := { s with felt := feltWithout s die, log := s.log ++ [.dieLost die] }
    let s2 := lost.foldl (fun y x => beginRemoval y x.tag) s1
    let s3 := ((List.range 192).filter fun c => decide (dieOfCore c = die)).foldl
      (fun y c => mapCore y c fun r => { r with inService := false }) { s2 with l2data := s2.l2data.filter fun l => decide (l.die ≠ die) }
    if die = 0 then losePort s3 else s3

/-- R366: a die is removed. -/
def execDieRemove (die : Nat) (s : State) : Out := .next (removeDie s die)

/-- Live dies that one hop over working links adds. -/
def spread (s : State) (ds : List Nat) : List Nat :=
  s.felt.live.filter fun d => ds.contains d || ds.any fun e => linkUp s (linkEnds d e)

/-- Live dies that a die reaches. -/
def reached (s : State) : Nat → List Nat → List Nat
  | 0, ds => ds
  | n + 1, ds => reached s n (spread s ds)

def groupOfDie (s : State) (d : Nat) : List Nat := reached s 10 [d]

/-- The rank of a die's group: less survives. More C-dies come first, then F0's group. -/
def groupRank (s : State) (d : Nat) : Nat :=
  let g := groupOfDie s d
  (10 - (g.filter fun k => decide (1 ≤ k) && decide (k ≤ 8)).length) * 32 + (if g.contains 0 then 0 else 16) + d

/-- R368: the live dies are split, and the losing ones are fenced and removed. -/
def execNetworkSplit (s : State) : Out :=
  match minBy (groupRank s) s.felt.live with
  | none => .next s
  | some d => .next ((s.felt.live.filter fun k => !(groupOfDie s d).contains k).foldl removeDie s)

/-- The clocks after a cut: every count zero, generations advanced. -/
def zeroClocks (s : State) : State :=
  { s with felt := { s.felt with
      cutWanted := false,
      clocks := s.felt.clocks.map fun c =>
        { DieClock.reset c.die with clkgen := (c.clkgen + 1) % 65536, beacons := List.replicate 10 (now s) } } }

/-- A clock cut (23 R367): all sent is delivered, and then the clocks start anew. While something cannot be delivered the
cut is still wanted. -/
def cutClocks (s : State) : State :=
  let s1 := drainFelt s.felt.packets.length s
  if s1.felt.packets.isEmpty then zeroClocks s1 else { s1 with felt := { s1.felt with cutWanted := true } }

/-- R367: CLKCUT. -/
def execClkcut (s : State) : Out := done (cutClocks s)

/-- A cut that is wanted made, once all sent can be delivered. -/
def wantedCut (s : State) : Out := if s.felt.cutWanted then .next (cutClocks s) else .next s

/-- R384: SETMODE, while no context is resident (log 58) and within PLIMIT; a change of causal delivery makes a clock cut.
While packets cannot be delivered the cut cannot be made: the command is refused and changes nothing (log 90). -/
def execSetmode (value : BitVec 64) (s : State) : Out :=
  let v := value.toNat
  if modeBad v then badCommand s
  else
    let m := modeOf v
    if s.contexts ≠ [] ∨ s.plimit < clockWatts m.clk then refused s
    else if m.causal = s.mode.causal then done { s with mode := m }
    else
      let s1 := cutClocks s
      if s1.felt.packets.isEmpty then done { s1 with mode := m } else refused s

/-! ### Renhar: routers (23 R371) -/

/-- The virtual channel of a packet (23 Table 23-4): request, forward, response, remote enqueue. -/
def channelOf : RenharKind → Nat
  | .invalidate _ => 1
  | .fetch _ => 1
  | .response _ _ _ _ _ => 2
  | .ack _ _ _ _ _ => 2
  | .nack _ _ => 2
  | .full _ _ => 2
  | .accepted _ _ => 2
  | .faulted _ _ _ _ => 2
  | .enqueue _ _ _ _ => 3
  | .record _ _ _ _ _ _ => 3
  | _ => 0

/-- A plain posted write: its line's address and the bytes it covers, by offset in the line. -/
def lineBytes : RenharKind → Option (Nat × List (Nat × Byte))
  | .postedWrite va bs => some (va / 128, bs.map fun b => (va % 128 + b.1, b.2))
  | _ => none

/-- Two adjacent packets merged, where they are plain posted writes of one source to one line. -/
def mergeWrites (p q : RenharPacket) : Option RenharPacket :=
  match lineBytes p.kind, lineBytes q.kind with
  | some (a, x), some (b, y) =>
    if p.source = q.source ∧ p.destination = q.destination ∧ p.rctx = q.rctx ∧ a = b then
      some { p with kind := .postedWrite (128 * a) ((x.filter fun e => !(y.any fun f => decide (f.1 = e.1))) ++ y),
                    count := p.count + q.count }
    else none
  | _, _ => none

/-- The last packet of an F-die's channel. -/
def routerTail (s : State) (fdie ch : Nat) : Option RenharPacket :=
  ((s.renhar.router.filter fun x => decide (x.1 = fdie) && decide (channelOf x.2.kind = ch)).getLast?).map (·.2)

/-- A packet for another package queued at an F-die, merged with the one before it where R371 allows. -/
def routePacket (s : State) (fdie : Nat) (p : RenharPacket) : State :=
  let add := { s with renhar := { s.renhar with router := s.renhar.router ++ [(fdie, p)] } }
  match routerTail s fdie (channelOf p.kind) with
  | none => add
  | some q =>
    match mergeWrites q p with
    | none => add
    | some m => { s with renhar := { s.renhar with
        router := s.renhar.router.map fun x => if x = (fdie, q) then (fdie, m) else x } }

/-- The packet that a router passes on next: the oldest of a channel, and none behind the request channel (23 R373). -/
def nextRouted (s : State) : Option (Nat × RenharPacket) :=
  [2, 1, 3, 0].findSome? fun ch => s.renhar.router.find? fun x => decide (channelOf x.2.kind = ch)

/-- R369: the next packet of the routers goes on towards its destination. -/
def forwardRouted (s : State) : Out :=
  match nextRouted s with
  | none => .next s
  | some x =>
    .next { s with renhar := { s.renhar with router := s.renhar.router.erase x,
                                             out := s.renhar.out ++ [{ fdie := x.1, part := 0, packet := x.2 }] } }

/-! ### Renhar: this package as home (21 R331, 05 R118) -/

/-- A packet that this package sends as a home, or holds while the circuits are down (23 R374). -/
def homeOut (s : State) (dest rctx entropy sequence : Nat) (k : RenharKind) : State :=
  let part := (ctxOf s rctx).partition
  { s with renhar := { s.renhar with out := s.renhar.out ++
      [{ part := part, held := (peerEntry s part dest).reconf,
         packet := { source := s.ownPeer, destination := dest, rctx := rctx, entropy := entropy, sequence := sequence, kind := k } }] } }

/-- A request of this package as a home to a third one (23 R373), under a number of its own. -/
def homeForward (s : State) (dest rctx entropy : Nat) (k : RenharKind) : State :=
  let s1 := homeOut s dest rctx entropy s.renhar.sequence k
  { s1 with renhar := { s1.renhar with sequence := s.renhar.sequence + 1 } }

/-- An answer to a packet. -/
def reply (s : State) (p : RenharPacket) (k : RenharKind) : State := homeOut s p.source p.rctx p.entropy p.sequence k

/-- An acknowledgement, for every write that the packet stands for. -/
def replyAck (s : State) (p : RenharPacket) (va : Nat) : State := reply s p (.ack 0 0 va p.count false)

/-- The Translation unit has been reset for a context that is being removed: no access under its tag is performed (22 R352). -/
def translationGone (x : Context) : Bool := match x.run with | .removing n => decide (6 ≤ n) | _ => false

/-- An address of a peer's request translated at home, in the context of RCTX, which the page must allow to peers. -/
def homeTranslate (s : State) (tag va : Nat) (a : Acc) (u : Use) : Except DWord Nat :=
  match ctxAt s tag with
  | none => .error (faultWord 1 a 0 true 0 va)
  | some x =>
    if translationGone x then .error (faultWord 1 a 0 true 0 va)
    else match walk s x va with
    | .error (k, lv) => .error (faultWord k a 0 true lv va)
    | .ok e =>
      match leafCheck s x.partition e va a u false true with
      | .error (k, lv) => .error (faultWord k a 0 true lv va)
      | .ok pa => if isBad s pa && a != .write then .error (faultWord 7 a 0 true 0 va) else .ok pa

/-- An F-die that stands. -/
def liveFdie (s : State) : Nat := if isLiveDie s 9 then 9 else 0

/-- The bytes of a write within its line, performed. -/
def putLineBytes (s : State) (loc va : Nat) (bs : List (Nat × Byte)) : State :=
  (bs.filter fun b => decide (va % 128 + b.1 < 128)).foldl (fun y b => homePut y 10 (loc + b.1) 1 b.2.toNat) s

/-- A request of the publication class (23 R361). -/
def publishes : RenharKind → Bool
  | .releaseWrite _ _ => true
  | .atomic _ _ _ _ _ _ => true
  | .signal _ _ => true
  | _ => false

/-- The response to a request has a trailer: an acquire's, or an atomic's. -/
def answersWithTrailer : RenharKind → Bool
  | .acquire _ _ => true
  | .atomic _ _ _ returning _ _ => returning
  | _ => false

/-- A peer's request on its way from its F-die to the home, and the response back (23 R361): none while either cannot be
delivered. -/
def homeTrip (s : State) (fdie : Nat) (p : RenharPacket) (loc : Nat) : Option State :=
  (messageOf (if carriesLine p.kind then 1 else 0) s fdie (homeOf s loc) (publishes p.kind) p.rctx).bind fun s1 =>
    messageOf (if isAsking p.kind then 1 else 0) s1 (homeOf s loc) fdie (answersWithTrailer p.kind) p.rctx

/-- A line that a peer has read, whose package the home directory names among those with copies (04 R94). -/
def readAt (s : State) (p : RenharPacket) (loc va n : Nat) : State :=
  reply (notePackage s p.source p.rctx va (loc / 128)) p (.response 0 0 va (readBytes s.mem loc (min n (128 - va % 128))) false)

/-- The copies that packages other than the requester hold of a line are to go, on behalf of a request that writes it (23 R373,
log 110). -/
def invalidateOthers (s : State) (p : RenharPacket) (loc : Nat) : State :=
  let e := dirEntry s (loc / 128)
  let others := e.names.filter fun x => decide (x.1 ≠ p.source)
  let keep := fun (n : Nat) => decide (n = p.source)
  others.foldl (fun y x => homeForward y x.1 x.2.1 p.entropy (.invalidate (128 * x.2.2)))
    (if others.isEmpty then s else putDir s { e with packages := e.packages.filter keep, names := e.names.filter fun x => keep x.1 })

/-- A request that writes, or that registers ownership. -/
def takesLine : RenharKind → Bool
  | .postedWrite _ _ => true
  | .releaseWrite _ _ => true
  | .atomic _ _ _ _ _ _ => true
  | .signal _ _ => true
  | .own _ => true
  | _ => false

/-- A peer's request at its translated location: a write, a modification, a read, a registration of ownership; whether the
address translates is known by now. -/
def homePerform (s0 : State) (p : RenharPacket) (loc : Nat) : State :=
  let s := if takesLine p.kind then invalidateOthers s0 p loc else s0
  match p.kind with
  | .translate va _ _ => reply s p (.response 0 0 va [] false)
  | .postedWrite va bs => replyAck (putLineBytes s loc va bs) p va
  | .releaseWrite va bs => replyAck (putLineBytes s loc va bs) p va
  | .atomic va n wide returning cmp v =>
    let b := if wide then 8 else 4
    let s1 := modifyAt s 10 loc b n cmp.toNat v.toNat
    if returning then reply s1 p (.response 0 0 va (readBytes s.mem loc b) false) else replyAck s1 p va
  | .signal va v => replyAck (signalAt s 10 p.rctx loc v.toNat) p va
  | .read va n => readAt s p loc va n
  | .acquire va n => readAt s p loc va n
  | .own va => replyAck (putDir s { dirEntry s (loc / 128) with owner := none, ownerPackage := some p.source }) p va
  | _ => s

/-- A kind of access by its code (21 Table 21-3). -/
def accOf : Nat → Acc
  | 0 => .read
  | 1 => .write
  | 2 => .fetch
  | _ => .modify

/-- What a request does to its word, for its translation: kind of access and use. -/
def requestAccess : RenharKind → Acc × Use
  | .postedWrite _ _ => (.write, .plain)
  | .releaseWrite _ _ => (.write, .atomic)
  | .atomic _ _ _ _ _ _ => (.modify, .atomic)
  | .signal _ _ => (.modify, .atomic)
  | .own _ => (.write, .plain)
  | .acquire _ _ => (.read, .atomic)
  | .translate _ a atomic => (accOf a, if atomic then .atomic else .plain)
  | _ => (.read, .plain)

/-- The address that a request names. -/
def requestAddress : RenharKind → Nat
  | .postedWrite va _ => va
  | .releaseWrite va _ => va
  | .atomic va _ _ _ _ _ => va
  | .signal va _ => va
  | .read va _ => va
  | .acquire va _ => va
  | .translate va _ _ => va
  | .own va => va
  | _ => 0

/-- A request for a line that another package owns waits, and the line is fetched from its owner (23 R373). -/
def awaitOwner (s : State) (p : RenharPacket) (owner va : Nat) : State :=
  let s1 := homeForward s owner p.rctx p.entropy (.fetch (va / 128 * 128))
  { s1 with renhar := { s1.renhar with waiting := s1.renhar.waiting ++ [(owner, p)] } }

/-- A peer's request, translated and performed at its home; none while it cannot reach it (log 91), or its page moves (09
R192). -/
def homeRequest (s : State) (fdie : Nat) (p : RenharPacket) : Option State :=
  let va := requestAddress p.kind
  match homeTranslate s p.rctx va (requestAccess p.kind).1 (requestAccess p.kind).2 with
  | .error w => some (reply s p (.faulted 0 0 va w))
  | .ok loc =>
    if isMoving s loc then none
    else
      match (dirEntry s (loc / 128)).ownerPackage.filter (fun n => decide (n ≠ p.source)) with
      | some n => some (awaitOwner s p n va)
      | none => (homeTrip s fdie p loc).map fun s1 => homePerform s1 p loc

/-- A peer's `enq`: a queue of the context's partition that devices may fill, no privileged one, with room. Its command goes
to the queue's F-die; none while it cannot. -/
def homeEnqueue (s : State) (fdie : Nat) (p : RenharPacket) (l t idx : Nat) (b : List Byte) : Option State :=
  match queueAt s (ctxOf s p.rctx).partition idx with
  | none => some (reply s p (.nack l t))
  | some q =>
    if (ctxAt s p.rctx).isNone || !q.devprod || q.privq || decide (b.length ≠ 64) then some (reply s p (.nack l t))
    else if 2 ^ q.logn ≤ queueFill q + enqueueing s q then some (reply s p (.full l t))
    else (messageOf 1 s fdie q.fdie true p.rctx).map fun s1 => reply (noteWork (putCommand s1 q b) q.part q.idx) p (.accepted l t)

/-- The words that the bytes of a slot make, by offset. -/
def tileWords (b : List Byte) : List (Nat × Word) :=
  (List.range (b.length / 4)).map fun i => (i, BitVec.ofNat 32 (natOfBytes ((b.drop (4 * i)).take 4)))

/-- The contents of its slots given to the ranges reserved for a record. -/
def fillRanges (tiles : List (Nat × List Byte)) (s : State) (id : Nat) : State :=
  mapRange s id fun r => { r with image := tileWords (((tiles.find? fun x => decide (x.1 = r.slot)).map (·.2)).getD []) }

/-- A record from a peer taken in under a running launch of the context, where a core of its partition has room for it. -/
def takeRemote (s : State) (p : RenharPacket) (launch core : Nat) (b : List Byte) (tiles : List (Nat × List Byte)) : Option State :=
  match launchAt s launch with
  | none => none
  | some x =>
    let t0 := parseRecord b launch 0
    let d := if core = 255 then chosenCore s t0 else core
    let t := { t0 with core := d, efftag := x.ctx }
    let absent := match threadAt s launch t.thread with | none => true | some u => u.place == .exited
    if x.ctx ≠ p.rctx ∨ x.state ≠ .running ∨ (ctxOf s x.ctx).run ≠ .running ∨ absent = false
        ∨ ((partOf s (ctxOf s x.ctx).partition).getD noPart).cores.contains d = false ∨ canTake s t d = false then none
    else
      (reserveRanges d t s (heldSlots t)).map fun x =>
        let s2 := takeRecordSlot (x.2.foldl (fillRanges tiles) x.1) t d
        let s3 := { s2 with threads := s2.threads.filter (fun u => !isThread launch t.thread u) ++ [t] }
        acceptAt s3 t { dest := d, ranges := x.2 } d

/-- The pieces of one record: of one source, under consecutive numbers. -/
def sameRecord (p q : RenharPacket) : Bool :=
  match p.kind, q.kind with
  | .record l _ i n _ _, .record k _ j m _ _ =>
    decide (p.source = q.source) && decide (l = k) && decide (n = m) && decide (p.sequence + j = q.sequence + i)
  | _, _ => false

/-- A piece's number, slot and bytes. -/
def pieceOf (p : RenharPacket) : Nat × Option Nat × List Byte :=
  match p.kind with
  | .record _ _ i _ slot b => (i, slot, b)
  | _ => (0, none, [])

/-- The bytes that pieces bring of a record, or of a slot. -/
def pieceBytes (ps : List RenharPacket) (slot : Option Nat) : List Byte :=
  ((sortBy (fun (x : Nat × Option Nat × List Byte) => x.1) (ps.map pieceOf)).filter fun x => decide (x.2.1 = slot)).flatMap fun x => x.2.2

/-- The record of so many pieces, a thread's of this launch now, on its way from the F-die to its core; none while it
cannot be delivered. -/
def bringRecord (s : State) (fdie pieces launch thread : Nat) : Option State :=
  match threadAt s launch thread with
  | none => some s
  | some t => messageOf pieces s fdie (dieOfCore t.core) true t.efftag

/-- A piece of a peer's record: with the last of them the record is accepted, or refused (23 R370, 22 R348). -/
def homeRecord (s : State) (fdie : Nat) (p : RenharPacket) (launch core pieces : Nat) : Option State :=
  let ps := s.renhar.pieces.filter (sameRecord p) ++ [p]
  if ps.length < pieces then some { s with renhar := { s.renhar with pieces := s.renhar.pieces ++ [p] } }
  else
    let s0 := { s with renhar := { s.renhar with pieces := s.renhar.pieces.filter fun q => !sameRecord p q } }
    let b := pieceBytes ps none
    match takeRemote s0 p launch core b [(0, pieceBytes ps (some 0)), (1, pieceBytes ps (some 1))] with
    | some s1 => (bringRecord s1 fdie pieces launch (field b 8 4)).map fun s2 => reply s2 p (.accepted launch (field b 8 4))
    | none => some (reply s0 p (.nack launch (field b 8 4)))

/-- The lines that a peer's address names here, as each partition numbers the peer. -/
def peerLines (s : State) (peer rctx va : Nat) : List Nat := s.partitions.map fun x => peerLoc s x.num peer rctx va / 128

/-- The bytes of a peer's line as this package has it, under the partition that reaches the peer's context. -/
def peerLineBytes (s : State) (peer rctx va : Nat) : List Byte :=
  let part := (s.partitions.find? fun x => decide ((peerEntry s x.num peer).state = 3 ∧ (peerEntry s x.num peer).rctx = rctx)).map
    Partition.num
  readBytes s.mem (peerLoc s (part.getD 0) peer rctx (va / 128 * 128)) 128

/-- Dies that hold a copy of one of these lines. -/
def diesWith (s : State) (lines : List Nat) : List Nat :=
  (List.range 10).filter fun d =>
    (s.l2data.any fun l => decide (l.die = d) && lines.contains l.line)
      || s.cores.any fun r => decide (dieOfCore r.core = d) && r.dcache.any fun l => lines.contains l.line

/-- A home's invalidation: no die and no core keeps a copy of the peer's line. None while a die cannot be told. -/
def dropPeerLine (s : State) (fdie peer rctx va : Nat) : Option State :=
  let lines := peerLines s peer rctx va
  (diesWith s lines).foldlM (fun y d => message y fdie d false rctx)
    { s with l2data := s.l2data.filter (fun l => !lines.contains l.line),
             cores := s.cores.map fun r => { r with dcache := r.dcache.filter fun l => !lines.contains l.line } }

/-! ### Renhar: answers to this package -/

/-- A request of this package to a peer for a line. -/
def isRequestTo (own peer va : Nat) (o : RenharOut) : Bool :=
  decide (o.packet.source = own) && decide (o.packet.destination = peer) && decide (requestLine o.packet.kind = some (va / 128)) && !o.held

/-- A request that its result answers. -/
def isAnswered (own peer va : Nat) (o : RenharOut) : Bool :=
  isRequestTo own peer va o && isAsking o.packet.kind

/-- A congestion mark moves the offset that the F-die of the request keeps for its peer (23 R372). -/
def takeCongestion (s : State) (o : RenharOut) (congested : Bool) : State :=
  if congested then
    { s with renhar := { s.renhar with offsets :=
        (s.renhar.offsets.filter fun x => decide (x.1 ≠ wayOf o)) ++ [(wayOf o, (entropyOffset s (wayOf o) + 0x35) % 256)] } }
  else s

/-- A packet that this home has sent to a third one, and that this packet answers. -/
def thirdOf (s : State) (p : RenharPacket) (k : RenharKind) : Option RenharOut :=
  s.renhar.out.find? fun o =>
    decide (o.packet.source = s.ownPeer ∧ o.packet.destination = p.source ∧ o.packet.sequence = p.sequence ∧ o.packet.kind = k)

/-- A packet of the books, gone from them. -/
def dropThird (s : State) (o : RenharOut) : State := { s with renhar := { s.renhar with out := s.renhar.out.erase o } }

/-- Requests that waited for an owner stand before the others that wait at the F-die. -/
def requeue (s : State) (fdie : Nat) (mine : List (Nat × RenharPacket)) : State :=
  { s with renhar := { s.renhar with waiting := s.renhar.waiting.filter fun x => !mine.contains x,
                                     inbound := mine.map (fun x => (fdie, x.2)) ++ s.renhar.inbound } }

/-- The line that its owner sends to this home, written there; the requests that waited for it go on. -/
def takeLine (s : State) (fdie owner va : Nat) (b : List Byte) : State :=
  let mine := s.renhar.waiting.filter fun x => decide (x.1 = owner) && decide (requestAddress x.2.kind / 128 = va / 128)
  let put := fun (y : State) (x : Nat × RenharPacket) =>
    match homeTranslate y x.2.rctx (va / 128 * 128) .read .plain with
    | .error _ => y
    | .ok loc =>
      let e := dirEntry y (loc / 128)
      if e.ownerPackage = some owner then putDir (homePutBytes y 10 2 loc (b.take 128)) { e with ownerPackage := none } else y
  requeue (mine.foldl put s) fdie mine

/-- The line that a prefetch has asked for, over the Felt to its core's die, and into its caches; none while it cannot be
delivered. -/
def takePrefetch (s : State) (o : RenharOut) : Option State :=
  match o.fill with
  | none => some s
  | some (core, inner, loc) =>
    (messageOf 1 s o.fdie (dieOfCore core) false 0).map fun s1 =>
      if inner then fillCore s1 core (loc / 128) else fillDie s1 (dieOfCore core) (loc / 128 * 128)

/-- A response: the request it answers leaves the books; a line that this home has fetched is taken; one of a context that is
gone is dropped (22 R352). -/
def takeResponse (s : State) (fdie : Nat) (p : RenharPacket) (l t va : Nat) (b : List Byte) (congested : Bool) : Option State :=
  match thirdOf s p (.fetch (va / 128 * 128)) with
  | some o => some (takeLine (dropThird s o) fdie p.source va b)
  | none =>
    match s.renhar.out.find? fun o => isAnswered s.ownPeer p.source va o && (decide (l = 0) || isRead l t o) with
    | some o => takePrefetch (dropRequest (takeCongestion s o congested) o) o
    | none => some s

/-- One posted request acknowledged: of a copy, or of a thread (05 R118). -/
def ackRequest (s : State) (o : RenharOut) : State :=
  let s1 := dropRequest s o
  if o.launch = 0 then { s1 with copies := s1.copies.map fun c => if c.id = o.thread then { c with unacked := c.unacked - 1 } else c }
  else mapThread s1 o.launch o.thread fun t => { t with peerAck := t.peerAck - 1 }

/-- The oldest posted requests for a line acknowledged. -/
def ackLine (peer va : Nat) : Nat → State → State
  | 0, s => s
  | n + 1, s =>
    match s.renhar.out.find? fun o => isRequestTo s.ownPeer peer va o && isPostedKind o.packet.kind with
    | none => s
    | some o => ackLine peer va n (ackRequest s o)

/-- An acknowledgement: of a thread's requests where it names one, else of those for its line. -/
def takeAck (s : State) (peer l t va n : Nat) (congested : Bool) : State :=
  let s1 := match s.renhar.out.find? fun o => isRequestTo s.ownPeer peer va o with
    | some o => takeCongestion s o congested
    | none => s
  if l = 0 then ackLine peer va n s1 else peerAcked s1 l t n

/-- A command or record of the remote-enqueue channel to a peer; those of a thread. -/
def isEnqueueTo (peer : Nat) (o : RenharOut) : Bool :=
  decide (o.packet.destination = peer) && (match o.packet.kind with | .enqueue _ _ _ _ => true | _ => false)

def isEnqueueOf (peer l t : Nat) (o : RenharOut) : Bool :=
  isEnqueueTo peer o && decide (o.launch = l) && decide (o.thread = t)

def isRecordOf (peer : Nat) (t : Thread) (o : RenharOut) : Bool :=
  decide (o.packet.destination = peer) && decide (o.launch = t.launch) && decide (o.thread = t.thread)
    && (match o.packet.kind with | .record _ _ _ _ _ _ => true | _ => false)

/-- The thread whose record a peer answers. -/
def forwardedTo (s : State) (peer launch thread : Nat) : Option (Thread × Forward) :=
  s.threads.findSome? fun t =>
    match t.fwd with
    | some f => if t.thread = thread ∧ f.peerf ∧ f.peer = peer ∧ f.plaunch = launch ∧ f.phase = .requested then some (t, f) else none
    | none => none

/-- Packets of the books that satisfy a test, gone. -/
def dropOut (f : RenharOut → Bool) (s : State) : State := { s with renhar := { s.renhar with out := s.renhar.out.filter fun o => !f o } }

/-- The answer to a thread's `enq`: its slot is free again, and the thread goes on with it (09 R200). -/
def answerEnqueue (s : State) (peer l t : Nat) (a : RemoteEnq) : State :=
  mapThread (dropOut (isEnqueueOf peer l t) s) l t fun x => { x with remoteEnq := if x.remoteEnq = some .sent then some a else x.remoteEnq }

/-- A refusal of an `enq`, or of a forward (22 R349). -/
def takeNack (s : State) (peer launch thread : Nat) : State :=
  if s.renhar.out.any (isEnqueueOf peer launch thread) then answerEnqueue s peer launch thread .refused
  else
    match forwardedTo s peer launch thread with
    | none => s
    | some (t, f) => refuseForward (dropOut (isRecordOf peer t) s) t f

/-- The ranges of a thread that has left the package, freed and zeroed. -/
def freeRanges (s : State) (t : Thread) : State :=
  (s.tileRanges.filter fun r => decide (r.launch = t.launch) && decide (r.thread = t.thread)).foldl (fun y r =>
    let y1 := dropRange (if r.saved then y else zeroTiles y r 0 r.count) r.id
    { y1 with tileOps := y1.tileOps.filter fun o => decide (o.range ≠ r.id) }) s

/-- An acceptance of an `enq`; or a forwarded thread has left, and counts here as exited. -/
def takeAccepted (s : State) (peer launch thread : Nat) : State :=
  if s.renhar.out.any (isEnqueueOf peer launch thread) then answerEnqueue s peer launch thread .accepted
  else
    match forwardedTo s peer launch thread with
    | none => s
    | some (t, f) =>
      let s1 := freeRecordSlot (freeRanges (dropOut (isRecordOf peer t) s) t) t.launch t.thread
      countExit s1 { t with fwd := none, saved := false, handle0 := 0, handle1 := 0, regs := [], carry := 0, streams := [],
                            fwdAcks := t.fwdAcks ++ f.ack.toList }

/-- A request is a deferred load's (09 R185). -/
def isDeferred (s : State) (o : RenharOut) : Bool :=
  (threadAt s o.launch o.thread).any fun t => t.remoteLoad.isNone && t.ldc.isSome

/-- The kind of access that a request makes, and the source that a fault word names (21 Table 21-3). -/
def failedAccess (s : State) (o : RenharOut) : Acc × Nat :=
  let a := (requestAccess o.packet.kind).1
  (a, if o.launch = 0 then 1 else if isPostedKind o.packet.kind || isDeferred s o then 3 else 0)

/-- A page of a peer that has failed at its home for a request: later accesses of that kind to it fault, until Milliner
retries them (21 R331). -/
def notePeerFault (s : State) (o : RenharOut) (va : Nat) (w : DWord) : State :=
  let f : PeerFault := { part := o.part, peer := o.packet.destination, page := va / 65536, read := (requestAccess o.packet.kind).1 == .read,
                         kind := w.toNat % 16, level := w.toNat / 512 % 4 }
  { s with peerFaults := s.peerFaults.filter (fun x => x != f) ++ [f] }

/-- The work that a failed request belongs to, in its fault bin: a copy parked; a thread's record at its oldest unexecuted
run. A posted request stays among those unanswered, and RETRY sends it again (log 6); what asks is asked again, and a
prefetch is forgotten. -/
def parkRequest (s : State) (o : RenharOut) (w : DWord) : State :=
  let s1 := if isAsking o.packet.kind then dropRequest s o else s
  if o.launch = 0 then
    match copyAt s1 o.thread with
    | none => s1
    | some c => enterFault (setCopy s1 { c with state := .parked w o.packet.destination, asked := none })
        c.launch c.core w o.packet.destination
  else
    match threadAt s1 o.launch o.thread with
    | none => s1
    | some t => drainFault s1 t w o.packet.destination

/-- A request has faulted at its home: the fault is the requester's (21 R331). -/
def takeFaulted (s : State) (peer l t va : Nat) (w : DWord) : State :=
  match s.renhar.out.find? fun o => isRequestTo s.ownPeer peer va o
    && (decide (l = 0) || (decide (o.launch = l) && decide (o.thread = t))) with
  | none => s
  | some o =>
    let a := failedAccess s o
    parkRequest (notePeerFault s o va w) o (faultWord (w.toNat % 16) a.1 a.2 true (w.toNat / 512 % 4) va)

/-- What a packet for this package does; none while what it needs of the Felt cannot be delivered. -/
def takePacket (s : State) (fdie : Nat) (p : RenharPacket) : Option State :=
  match p.kind with
  | .invalidate va => (dropPeerLine s fdie p.source p.rctx va).map fun s1 => replyAck s1 p va
  | .fetch va =>
    (dropPeerLine s fdie p.source p.rctx va).map fun s1 => reply s1 p (.response 0 0 va (peerLineBytes s p.source p.rctx va) false)
  | .response l t va b congested => takeResponse s fdie p l t va b congested
  | .faulted l t va w => some (takeFaulted s p.source l t va w)
  | .ack l t va n congested =>
    match thirdOf s p (.invalidate (va / 128 * 128)) with
    | some o => some (dropThird s o)
    | none => some (takeAck s p.source l t va n congested)
  | .nack l t => some (takeNack s p.source l t)
  | .full l t => some (answerEnqueue s p.source l t .full)
  | .accepted l t => some (takeAccepted s p.source l t)
  | .enqueue l t q b => homeEnqueue s fdie p l t q b
  | .record l c _ n _ _ => homeRecord s fdie p l c n
  | _ => homeRequest s fdie p

/-- A packet stands behind an earlier one of its source and channel that waits at the F-dies. -/
def waitsBehind (s : State) (p : RenharPacket) : Bool :=
  s.renhar.inbound.any fun x => decide (x.2.source = p.source) && decide (channelOf x.2.kind = channelOf p.kind)

/-- R370: a packet arrives, at an F-die whose router passes it on, or at its destination. One that cannot be taken yet waits
at the F-die (log 91). -/
def execRenharPacketReceive (fdie : Nat) (packet : RenharPacket) (s : State) : Out :=
  if packet.destination ≠ s.ownPeer then .next (routePacket s fdie packet)
  else
    match if waitsBehind s packet then none else takePacket s fdie packet with
    | some s1 => .next s1
    | none => .next { s with renhar := { s.renhar with inbound := s.renhar.inbound ++ [(fdie, packet)] } }

/-- The first packet that waits at an F-die and can be taken now, none of its source and channel standing before it: what it
does, without it there. -/
def serveFirst (s : State) : List (Nat × RenharPacket) → List (Nat × RenharPacket) → Option State
  | _, [] => none
  | before, x :: rest =>
    let s0 := { s with renhar := { s.renhar with inbound := before ++ rest } }
    if before.any fun y => decide (y.2.source = x.2.source) && decide (channelOf y.2.kind = channelOf x.2.kind) then
      serveFirst s (before ++ [x]) rest
    else
      match takePacket s0 x.1 x.2 with
      | some s1 => some s1
      | none => serveFirst s (before ++ [x]) rest

/-- R373: a packet that waited at an F-die is taken. -/
def serveInbound (s : State) : Out := .next ((serveFirst s [] s.renhar.inbound).getD s)

/-! ### Circuits (23 R374) -/

/-- The peer-map entry of a partition with its low three bits replaced. -/
def putPeerBits (s : State) (part peer v : Nat) : State :=
  let a := ((partOf s part).getD noPart).peermap + 8 * peer
  { s with mem := writeNat s.mem a 1 (readNat s.mem a 1 / 8 * 8 + v) }

/-- Whether a partition's packets to a peer are held at their source. -/
def holdPackets (part peer : Nat) (h : Bool) (s : State) : State :=
  { s with renhar := { s.renhar with out := s.renhar.out.map fun o =>
      if o.part = part ∧ o.packet.destination = peer then { o with held := h } else o } }

/-- R374: the circuits to a peer go down: RECONF is set, and packets to it are held. -/
def execCircuitReconfiguration (part peer : Nat) (s : State) : Out :=
  match partOf s part with
  | none => .next s
  | some _ =>
    if 4096 ≤ peer then .next s
    else .next (holdPackets part peer true (putPeerBits s part peer ((peerEntry s part peer).state + 4)))

/-- R374: they return. -/
def execCircuitRestored (part peer : Nat) (s : State) : Out :=
  match partOf s part with
  | none => .next s
  | some _ =>
    if 4096 ≤ peer then .next s
    else .next (holdPackets part peer false (putPeerBits s part peer (peerEntry s part peer).state))

/-- A pointer of a copy to a peer. -/
def isPeerPointer (peer : Nat) (p : DWord) : Bool := decide (p.toNat / 2 ^ 48 = 2 ^ 12 + peer)

/-- A read that waits for a peer. -/
def readsPeer (peer : Nat) : Option RemoteLoad → Bool
  | some (.wanted r) => decide (r.peer = some peer)
  | some (.sent r _) => decide (r.peer = some peer)
  | none => false

/-- A request of a thread to a peer, sent or on its way to its F-die; of a copy where the launch is 0. -/
def hasRequest (s : State) (peer launch thread : Nat) : Bool :=
  (s.renhar.out.any fun o =>
      decide (o.packet.destination = peer) && decide (o.launch = launch) && decide (o.thread = thread) && decide (o.packet.source = s.ownPeer))
    || s.felt.packets.any fun p => match p.body with
      | .renhar _ l t _ n _ _ => decide (n = peer) && decide (l = launch) && decide (t = thread)
      | _ => false

/-- A thread awaits something of a peer: a store's acknowledgement, data, or a record's answer. -/
def awaitsPeer (s : State) (peer : Nat) (t : Thread) : Bool :=
  (t.sbuf.any fun e => e.peerf && decide (e.peer = peer))
    || readsPeer peer t.remoteLoad
    || (match t.ldc with | some d => d.peerf && decide (d.peer = peer) | none => false)
    || (match t.fwd with | some f => f.peerf && decide (f.peer = peer) && f.phase == .requested | none => false)
    || hasRequest s peer t.launch t.thread

/-- A request of a peer to a context that has not been answered. -/
def isPeerRequest (peer tag : Nat) (p : RenharPacket) : Bool := decide (p.source = peer ∧ p.rctx = tag)

/-- A response of a context to a peer is owed, or held. -/
def owesPeer (s : State) (peer tag : Nat) : Bool :=
  (s.renhar.waiting.any fun x => isPeerRequest peer tag x.2) || (s.renhar.inbound.any fun x => isPeerRequest peer tag x.2)
    || s.renhar.out.any fun o => o.held && decide (o.packet.source = s.ownPeer ∧ o.packet.destination = peer ∧ o.packet.rctx = tag)
        && decide (o.launch = 0) && decide (channelOf o.packet.kind = 2)

/-- Work of a context that a lost peer takes with it: its launch and thread, or neither where it is a response that is owed. -/
def peerVictim (s : State) (peer : Nat) (x : Context) : Option (Nat × Nat) :=
  match s.threads.find? fun t => decide ((launchOf s t.launch).ctx = x.tag) && awaitsPeer s peer t with
  | some t => some (t.launch, t.thread)
  | none =>
    match s.copies.find? fun c => decide ((launchOf s c.launch).ctx = x.tag)
      && (hasRequest s peer 0 c.id || isPeerPointer peer c.src || isPeerPointer peer c.dst || isPeerPointer peer c.index) with
    | some c => some (c.launch, c.thread)
    | none => if owesPeer s peer x.tag then some (0, 0) else none

/-- No line is owned by a package any more: the requests of others that waited for it go on with the home's bytes, and its own
to this partition's contexts are forgotten. -/
def disown (s : State) (part peer : Nat) : State :=
  let gone := fun (p : RenharPacket) => decide (p.source = peer) && decide ((ctxOf s p.rctx).partition = part)
  let mine := s.renhar.waiting.filter fun x => decide (x.1 = peer)
  let s1 := requeue { s with directory := s.directory.map fun e => if e.ownerPackage = some peer then { e with ownerPackage := none } else e }
    (liveFdie s) mine
  let asked := fun (o : RenharOut) => decide (o.packet.source = s.ownPeer) && decide (o.packet.destination = peer)
    && decide (channelOf o.packet.kind = 1)
  { s1 with renhar := { s1.renhar with out := s1.renhar.out.filter (fun o => !asked o),
                                       waiting := s1.renhar.waiting.filter (fun x => !gone x.2),
                                       inbound := s1.renhar.inbound.filter fun x => !gone x.2 } }

/-- R374: a peer is declared lost: its entry is disabled, and contexts that depend on it take a context fault. -/
def execPeerLost (part peer : Nat) (s : State) : Out :=
  match partOf s part with
  | none => .next s
  | some _ =>
    if 4096 ≤ peer then .next s
    else
      .next ((s.contexts.filter fun x => decide (x.partition = part)).foldl (fun y x =>
        match peerVictim s peer x with
        | some (l, t) => contextFault y x.tag l t 0
        | none => y) (disown (putPeerBits s part peer 1) part peer))

end Sys2Proof.Machine
end

