-- ==== Sys2Proof/Machine/Port.lean ====
section
/-! DEFINITION. The host port: connections, congestion, incoming RDMA and the binding of windows (23 R375 to R378). -/

namespace Sys2Proof.Machine

open Sys2Proof (Byte Word DWord Instr)

/-- The port stands while F0 does (23 R368). -/
def portUp (s : State) : Bool := isLiveDie s 0

def connAt (s : State) (n : Nat) : Option Connection := s.port.connections.find? fun c => decide (c.num = n)

/-- A connection that carries traffic. -/
def liveConn (s : State) (n : Nat) : Option Connection :=
  if portUp s then (connAt s n).filter fun c => !c.error else none

def mapConn (s : State) (n : Nat) (f : Connection → Connection) : State :=
  { s with port := { s.port with connections := s.port.connections.map fun c => if c.num = n then f c else c } }

/-- Cycles of a time given in units of 50 µs, at the clock in force (24 Table 24-1). -/
def cyclesOf50us (s : State) : Nat := match s.mode.clk.toNat with | 0 => 165000 | 1 => 150000 | _ => 130000

/-! ### Connections (23 R375, R378) -/

/-- R375: a request for a reliable connection, refused below a path MTU of 4,096 and beyond 1,024 connections. -/
def execConnectionRequest (conn mtu : Nat) (reliable : Bool) (s : State) : Out :=
  let others := s.port.connections.filter fun c => !decide (c.num = conn)
  if !portUp s then .next s
  else if !reliable || decide (mtu < 4096) || (liveConn s conn).isSome || decide (1024 ≤ others.length) then .next (sendPort s (.refused conn))
  else .next (sendPort { s with port := { s.port with connections := others ++ [{ num := conn }] } } (.accepted conn))

/-- R378: a connection enters the error state, and its windows are unbound. -/
def execConnectionError (conn : Nat) (s : State) : Out :=
  let s1 := mapConn s conn fun c => { c with error := true }
  .next { s1 with port := { s1.port with windows := s1.port.windows.filter (fun h => !decide (h.conn = conn)),
                                         inbound := s1.port.inbound.filter fun x => !decide (x.1 = conn) } }

/-- R375: a CNP cuts a connection's rate by a quarter, at most once in 50 µs. -/
def execCnpReceive (conn : Nat) (s : State) : Out :=
  match liveConn s conn with
  | none => .next s
  | some c =>
    let cut := match c.lastCut with | none => true | some k => decide (cyclesOf50us s ≤ now s - k)
    .next (mapConn s conn fun x =>
      if cut then { x with rate := x.rate * 3 / 4, lastCut := some (now s), lastCnp := some (now s) }
      else { x with lastCnp := some (now s) })

/-- R375: each marked packet is answered by a CNP. -/
def execEcnPacket (conn : Nat) (s : State) : Out :=
  match liveConn s conn with
  | none => .next s
  | some _ => .next (sendPort s (.cnp conn))

/-- R375: after 100 µs without a CNP an eighth of line rate comes back. -/
def execRateRestore (conn : Nat) (s : State) : Out :=
  match liveConn s conn with
  | none => .next s
  | some c =>
    match c.lastCnp with
    | none => .next s
    | some k =>
      if c.rate < 1048576 ∧ 2 * cyclesOf50us s ≤ now s - k then
        .next (mapConn s conn fun x => { x with rate := min 1048576 (x.rate + 131072), lastCnp := some (now s) })
      else .next s

/-- R375: a pause frame holds RoCE on its priority, or lets it go on. -/
def execPriorityFlowControlFrame (priority : Nat) (pause : Bool) (s : State) : Out :=
  if portUp s && decide (priority = s.port.roceprio) then
    .next { s with port := if pause then { s.port with paused := true }
                           else { s.port with paused := false, replies := s.port.replies ++ s.port.queued, queued := [] } }
  else .next s

/-! ### Incoming RDMA (23 R375, R376) -/

/-- A registered region that holds a range. -/
def regionFor (s : State) (rkey va n : Nat) : Option Region :=
  s.port.regions.find? fun r => decide (r.rkey = rkey) && decide (r.va ≤ va) && decide (va + n ≤ r.va + r.length)

/-- The location of every byte of a range in a context's space, if all translate. -/
def bytePlaces (s : State) (tag : Nat) (a : Acc) : Nat → Nat → Except DWord (List Nat)
  | _, 0 => .ok []
  | va, n + 1 =>
    match walkTo s tag va a .plain with
    | .error w => .error w
    | .ok pa =>
      match bytePlaces s tag a (va + 1) n with
      | .error w => .error w
      | .ok rest => .ok (pa :: rest)

/-- The packets between F0 and the homes of locations, one for each line (23 R361): what the host writes goes there, what it
reads is asked for and comes back. None while one of them cannot be delivered (log 91). -/
def portTrips (s : State) (tag : Nat) (write : Bool) (ps : List Nat) : Option State :=
  (distinct (ps.map fun p => p / 128)).foldlM (fun y line =>
    let home := homeOf y (128 * line)
    if write then messageOf 1 y 0 home false tag else roundTrip y 0 home false false tag) s

/-- `n` bytes that the spec does not give, from a number on. -/
def freeBytes (from_ n : Nat) : List Byte := (List.range n).map fun i => (Config.freeReading (from_ + i)).setWidth 8

/-- An RDMA WRITE: to a region of a context's space, or to a kick page (23 R376). None while its packets cannot be delivered. -/
def portWriteIn (s : State) (conn rkey va : Nat) (data : List Byte) : Option State :=
  match regionFor s rkey va data.length with
  | none => some (sendPort s (.remoteAccessNak conn))
  | some r =>
    match r.kick with
    | some (part, idx) =>
      let s1 := sendPort s (.ack conn)
      if data.length = 8 then
        match execKick part idx (va - r.va) (BitVec.ofNat 64 (natOfBytes data)) s1 with
        | .next s2 => some s2
        | _ => some s1
      else some s1
    | none =>
      match bytePlaces s r.ctx .write va data.length with
      | .error _ => some (sendPort s (.remoteAccessNak conn))
      | .ok ps =>
        if ps.any (isMoving s) then none
        else
          (portTrips s r.ctx true ps).map fun s1 =>
            sendPort ((ps.zip data).foldl (fun y x => homePut y 0 x.1 1 x.2.toNat) s1) (.ack conn)

/-- An RDMA READ (23 R376); none while its packets cannot be delivered. What a kick page reads as is not stated. -/
def portReadIn (s : State) (conn rkey va length : Nat) : Option State :=
  match regionFor s rkey va length with
  | none => some (sendPort s (.remoteAccessNak conn))
  | some r =>
    if r.kick.isSome then some (sendPort { s with fresh := s.fresh + length } (.data conn (freeBytes s.fresh length)))
    else
      match bytePlaces s r.ctx .read va length with
      | .error _ => some (sendPort s (.remoteAccessNak conn))
      | .ok ps =>
        if ps.any (isMoving s) then none
        else (portTrips s r.ctx false ps).map fun s1 => sendPort s1 (.data conn (ps.map fun p => readByte s.mem p))

/-- What a request of a connection does: a WRITE, a READ, a SEND, which goes to Milliner, an atomic, which is turned away (23
R375, R376). None while it waits at the port. -/
def portPerform (s : State) (conn : Nat) : PortRequest → Option State
  | .write rkey va data => portWriteIn s conn rkey va data
  | .read rkey va length => portReadIn s conn rkey va length
  | .send data => some (sendPort (sendPort s (.toMilliner conn data)) (.ack conn))
  | .atomic => some (sendPort s (.invalidRequestNak conn))

/-- The first request that waits of a connection is performed, in packet-sequence order (23 R376), if it can be. -/
def servePort (conn : Nat) (s : State) : Out :=
  match s.port.inbound.find? fun x => decide (x.1 = conn) with
  | none => .next s
  | some x =>
    .next ((portPerform { s with port := { s.port with inbound := s.port.inbound.erase x } } conn x.2).getD s)

/-- A request comes in on a connection that carries traffic: it stands behind those of the connection that wait, and the first
of them is performed. -/
def portReceive (s : State) (conn : Nat) (r : PortRequest) : Out :=
  match liveConn s conn with
  | none => .next s
  | some _ => servePort conn { s with port := { s.port with inbound := s.port.inbound ++ [(conn, r)] } }

/-- R376: an RDMA WRITE. -/
def execRdmaWrite (conn rkey va : Nat) (data : List Byte) (s : State) : Out := portReceive s conn (.write rkey va data)

/-- R376: an RDMA READ. -/
def execRdmaRead (conn rkey va length : Nat) (s : State) : Out := portReceive s conn (.read rkey va length)

/-- R376: a SEND goes to Milliner. -/
def execRdmaSend (conn : Nat) (data : List Byte) (s : State) : Out := portReceive s conn (.send data)

/-- R375: an atomic request is turned away. -/
def execRdmaAtomic (conn : Nat) (s : State) : Out := portReceive s conn .atomic

end Sys2Proof.Machine
end

