-- ==== Sys2Proof/Machine/Signature.lean ====
section
/-! DEFINITION. The hash and the signature check that bring-up, attestation and management name (24 R379, R381, R385):
SHA-256 and SHA-512 of FIPS 180-4, and the verification of SLH-DSA-SHA2-192s of FIPS 205, which the spec cites (log 93). -/

namespace Sys2Proof.Machine

open Sys2Proof (Byte)

/-! ### SHA-2 -/

/-- A number as so many bytes, the highest first. -/
def bigEndian (n v : Nat) : List Byte := (List.range n).map fun i => BitVec.ofNat 8 (v / 2 ^ (8 * (n - 1 - i)))

/-- The number that bytes write, the highest first. -/
def numberOf (b : List Byte) : Nat := b.foldl (fun v x => 256 * v + x.toNat) 0

/-- The primes below 410: the first eighty. -/
def primes : List Nat :=
  (List.range 410).filter fun p => decide (1 < p) && [2, 3, 5, 7, 11, 13, 17, 19].all fun d => p == d || p % d != 0

/-- The whole part of the k-th root of `x`, found bit by bit: `n` bits are still to be found below `r`. -/
def rootFrom (k x : Nat) : Nat → Nat → Nat
  | 0, r => r
  | n + 1, r => rootFrom k x n (if (r + 2 ^ n) ^ k ≤ x then r + 2 ^ n else r)

/-- The first `w` bits of the fraction of a prime's k-th root: the constants of both hashes are such fractions. -/
def rootFraction (w k p : Nat) : BitVec w := BitVec.ofNat w (rootFrom k (p * 2 ^ (w * k)) (w + 5) 0)

/-- One mixing function: the word turned right by each distance and, for the functions of the schedule, once shifted. -/
structure Mixing where
  turns : List Nat
  shift : Option Nat := none

def Mixing.of {w : Nat} (m : Mixing) (x : BitVec w) : BitVec w :=
  (m.turns.map x.rotateRight).foldl (· ^^^ ·) ((m.shift.map (x >>> ·)).getD 0)

/-- One hash of the family on words of `w` bits: how many rounds it makes, its mixing functions of A, of E, and of the words two and
fifteen places before a new one of the schedule. -/
structure Hash (w : Nat) where
  rounds : Nat
  ofA : Mixing
  ofE : Mixing
  two : Mixing
  fifteen : Mixing

def hash256 : Hash 32 :=
  { rounds := 64, ofA := ⟨[2, 13, 22], none⟩, ofE := ⟨[6, 11, 25], none⟩, two := ⟨[17, 19], some 10⟩, fifteen := ⟨[7, 18], some 3⟩ }

def hash512 : Hash 64 :=
  { rounds := 80, ofA := ⟨[28, 34, 39], none⟩, ofE := ⟨[14, 18, 41], none⟩, two := ⟨[19, 61], some 6⟩, fifteen := ⟨[1, 8], some 7⟩ }

/-- The last four values of A and of E, the newest first: each round makes one of either and reads no older. -/
structure Working (w : Nat) where
  a : List (BitVec w)
  e : List (BitVec w)

/-- The round that takes word `x` and the constant of prime `p`. -/
def Hash.round {w : Nat} (h : Hash w) (v : Working w) (p : Nat) (x : BitVec w) : Working w :=
  let a := fun i => v.a.getD i 0
  let e := fun i => v.e.getD i 0
  let fresh := x + rootFraction w 3 p + e 3 + h.ofE.of (e 0) + (e 2 ^^^ (e 0 &&& (e 1 ^^^ e 2)))
  { a := (fresh + h.ofA.of (a 0) + (a 0 &&& (a 1 ||| a 2) ||| a 1 &&& a 2)) :: v.a.take 3, e := (a 3 + fresh) :: v.e.take 3 }

/-- The rounds over the primes left. The window holds the next sixteen words of the schedule, and each round takes its first and
puts a new one at its end. -/
def Hash.run {w : Nat} (h : Hash w) : List Nat → List (BitVec w) → Working w → Working w
  | [], _, v => v
  | p :: ps, window, v =>
    let x := fun i => window.getD i 0
    h.run ps (window.drop 1 ++ [x 0 + h.fifteen.of (x 1) + x 9 + h.two.of (x 14)]) (h.round v p (x 0))

/-- The hash value after one block of bytes. -/
def Hash.take {w : Nat} (h : Hash w) (value : List (BitVec w)) (block : List Byte) : List (BitVec w) :=
  let window := (List.range 16).map fun i => BitVec.ofNat w (numberOf ((block.drop (w / 8 * i)).take (w / 8)))
  let v := h.run (primes.take h.rounds) window { a := value.take 4, e := value.drop 4 }
  List.zipWith (· + ·) value (v.a ++ v.e)

/-- The message with the bit that ends it, zeros, and its length in bits, as whole blocks of 2w bytes. -/
def padded (w : Nat) (m : List Byte) : List Byte :=
  let blocks := (m.length + w / 4) / (2 * w) + 1
  m ++ 0x80 :: bigEndian (2 * w * blocks - m.length - 1) (8 * m.length)

/-- The digest: the hash value starts from the square roots of the first eight primes. -/
def Hash.digest {w : Nat} (h : Hash w) (m : List Byte) : List Byte :=
  let bytes := padded w m
  let blocks := (List.range (bytes.length / (2 * w))).map fun i => (bytes.drop (2 * w * i)).take (2 * w)
  (blocks.foldl h.take ((primes.take 8).map (rootFraction w 2))).flatMap fun x => bigEndian (w / 8) x.toNat

def sha256 (m : List Byte) : List Byte := hash256.digest m

def sha512 (m : List Byte) : List Byte := hash512.digest m

/-- A SHA-256 digest as one number. -/
def digest256 (m : List Byte) : BitVec 256 := BitVec.ofNat 256 (numberOf (sha256 m))

/-! ### SLH-DSA-SHA2-192s: n = 24, h = 63, d = 7, h' = 9, a = 14, k = 17, w = 16 -/

/-- An address of the scheme (FIPS 205, section 4.2): layer, tree, type, key pair, and its last two words. -/
structure SlhAddress where
  layer : Nat := 0
  tree : Nat := 0
  kind : Nat := 0
  keyPair : Nat := 0
  height : Nat := 0
  index : Nat := 0
  deriving DecidableEq, Repr

/-- The compressed form that the SHA-2 functions take, of 22 bytes. -/
def SlhAddress.bytes (x : SlhAddress) : List Byte :=
  bigEndian 1 x.layer ++ bigEndian 8 x.tree ++ bigEndian 1 x.kind ++ bigEndian 4 x.keyPair ++ bigEndian 4 x.height ++ bigEndian 4 x.index

/-- F: 24 bytes to 24 bytes. -/
def slhF (seed : List Byte) (x : SlhAddress) (m : List Byte) : List Byte :=
  (sha256 (seed ++ List.replicate 40 0 ++ x.bytes ++ m)).take 24

/-- H and T: several nodes to 24 bytes. -/
def slhH (seed : List Byte) (x : SlhAddress) (m : List Byte) : List Byte :=
  (sha512 (seed ++ List.replicate 104 0 ++ x.bytes ++ m)).take 24

/-- The i-th node of 24 bytes of a part of a signature. -/
def slhNode (b : List Byte) (i : Nat) : List Byte := (b.drop (24 * i)).take 24

/-- The i-th of the numbers of `width` bits that bytes write, the highest first. -/
def slhDigit (b : List Byte) (width i : Nat) : Nat :=
  numberOf b / 2 ^ (8 * b.length - width * (i + 1)) % 2 ^ width

/-- A chain carried on for `n` steps. -/
def slhChain (seed : List Byte) (x : SlhAddress) : Nat → Nat → List Byte → List Byte
  | _, 0, m => m
  | i, n + 1, m => slhChain seed x (i + 1) n (slhF seed { x with index := i } m)

/-- The digits that a one-time signature signs: those of the node, and those of their checksum. -/
def wotsDigits (m : List Byte) : List Nat :=
  let ds := (List.range 48).map (slhDigit m 4)
  let sum := bigEndian 2 (16 * (ds.map fun d => 15 - d).sum)
  ds ++ (List.range 3).map (slhDigit sum 4)

/-- The one-time public key that a signature leads to. -/
def wotsKey (seed : List Byte) (x : SlhAddress) (sig m : List Byte) : List Byte :=
  let ds := wotsDigits m
  let ends := (List.range 51).map fun i => slhChain seed { x with height := i } (ds.getD i 0) (15 - ds.getD i 0) (slhNode sig i)
  slhH seed { x with kind := 1, height := 0, index := 0 } ends.flatten

/-- The root that a node and its authentication path of `n` nodes, from the j-th on, lead to. -/
def slhClimb (seed path : List Byte) (x : SlhAddress) : Nat → Nat → Nat → List Byte → List Byte
  | _, 0, _, node => node
  | j, n + 1, index, node =>
    let y := { x with height := j + 1, index := index / 2 }
    let other := slhNode path j
    slhClimb seed path x (j + 1) n (index / 2) (slhH seed y (if index % 2 = 0 then node ++ other else other ++ node))

/-- The root of a tree of one-time keys: 51 nodes of signature, 9 of path. -/
def xmssRoot (seed : List Byte) (layer tree leaf : Nat) (sig m : List Byte) : List Byte :=
  let key := wotsKey seed { layer := layer, tree := tree, keyPair := leaf } sig m
  slhClimb seed (sig.drop (24 * 51)) { layer := layer, tree := tree, kind := 2 } 0 9 leaf key

/-- The root that the `n` layers from one on lead to. -/
def hyperRoot (seed : List Byte) : Nat → Nat → Nat → Nat → List Byte → List Byte → List Byte
  | _, 0, _, _, _, node => node
  | layer, n + 1, tree, leaf, sig, node =>
    hyperRoot seed (layer + 1) n (tree / 2 ^ 9) (tree % 2 ^ 9) (sig.drop (24 * 60)) (xmssRoot seed layer tree leaf (sig.take (24 * 60)) node)

/-- The key of the few-time signature: 17 trees of height 14. -/
def forsKey (seed : List Byte) (tree leaf : Nat) (sig md : List Byte) : List Byte :=
  let x : SlhAddress := { tree := tree, kind := 3, keyPair := leaf }
  let root := fun i =>
    let part := sig.drop (24 * 15 * i)
    let index := i * 2 ^ 14 + slhDigit md 14 i
    slhClimb seed (part.drop 24) x 0 14 index (slhF seed { x with index := index } (part.take 24))
  slhH seed { x with kind := 4 } ((List.range 17).flatMap root)

/-- The message digest of 39 bytes. -/
def slhDigest (r seed root m : List Byte) : List Byte :=
  (sha512 (r ++ seed ++ sha512 (r ++ seed ++ root ++ m) ++ bigEndian 4 0)).take 39

/-- A signature of a message verifies under a public key (FIPS 205, Algorithms 20 and 24), with no context string. -/
def slhVerify (key m sig : List Byte) : Bool :=
  let seed := key.take 24
  let digest := slhDigest (sig.take 24) seed (key.drop 24) ([0, 0] ++ m)
  let tree := numberOf ((digest.drop 30).take 7) % 2 ^ 54
  let leaf := numberOf ((digest.drop 37).take 2) % 2 ^ 9
  let fors := forsKey seed tree leaf ((sig.drop 24).take (24 * 255)) (digest.take 30)
  decide (key.length = 48) && decide (sig.length = 16224)
    && decide (hyperRoot seed 0 7 tree leaf (sig.drop (24 * 256)) fors = key.drop 24)

end Sys2Proof.Machine
end

