-- ==== Sys2Proof/Machine/Power.lean ====
section
/-! DEFINITION. Bring-up, attestation, management and power (24 R379 to R385), freeze and read-out (22 R356, R357). -/

namespace Sys2Proof.Machine

open Sys2Proof (Byte Word DWord Instr)

/-! ### Bring-up (24 R379, R380) -/

/-- The images with the steps that verify them. -/
def imageSteps (x : BootImages) : List (Nat × BootImage) := [(1, x.milliner), (2, x.f1), (3, x.microcode)]

/-- Why an image does not verify, if it does not: its public key is not the fused one, its signature does not verify, its
version is below the fused one. -/
def imageFailure (b : Boot) (i : BootImage) : Option BootFailure :=
  if digest256 i.key ≠ b.keyDigest then some .key
  else if !slhVerify i.key i.bytes i.signature then some .signature
  else if i.version < b.minVersion then some .version
  else none

/-- Bring-up from a list of images on: each measured into its step's entry, stopping where one fails. -/
def bringUp (b : Boot) : List (Nat × BootImage) → Boot
  | [] => { b with step := 6 }
  | (k, i) :: rest =>
    let b1 := { b with step := k, log := b.log ++ [(k, digest256 i.bytes)] }
    match imageFailure b i with
    | none => bringUp b1 rest
    | some why => { b1 with failed := some k, failure := why }

/-- The package after a reset and the bring-up of these images: what the fuses, the pins and the security root hold
stays. -/
def resetPackage (s : State) (x : BootImages) : State :=
  { State.reset with
    agenda := s.agenda, fresh := s.fresh, ownPeer := s.ownPeer, freezePin := s.freezePin,
    security := { lastSequence := s.security.lastSequence, ownerKey := s.security.ownerKey },
    boot := bringUp { step := 0, minVersion := s.boot.minVersion, keyDigest := s.boot.keyDigest } (imageSteps x) }

/-- R379: package reset. -/
def execPackageReset (images : BootImages) (s : State) : Out := .next (resetPackage s images)

/-! ### Freeze (22 R356, R357) -/

/-- R356: the FREEZE pin. -/
def execFreeze (asserted : Bool) (s : State) : Out := .next { s with freezePin := asserted, frozen := s.frozen || asserted }

/-- An answer of the security root. -/
def answer (s : State) (r : MgmtReply) : State := { s with security := { s.security with replies := s.security.replies ++ [r] } }

/-- An answer with a value that the spec does not give. -/
def answerFree (s : State) (f : DWord → MgmtReply) : State :=
  answer { s with fresh := s.fresh + 1 } (f (Config.freeReading s.fresh))

/-- What a read-out names (log 78): a kind of storage and two numbers within it. -/
def readItem (address : Nat) : Nat × Nat × Nat := (address / 2 ^ 56 % 2 ^ 8, address / 2 ^ 32 % 2 ^ 24, address % 2 ^ 32)

/-- An entry of the clocks of a die: V, then the matrix row by row. -/
def clockBits (c : DieClock) (n : Nat) : Nat := if n < 10 then c.v.getD n 0 else matrixAt c.matrix ((n - 10) / 10) ((n - 10) % 10)

/-- The k-th 8 bytes of a storage of bytes. -/
def eightAt (b : List Byte) (k : Nat) : DWord := BitVec.ofNat 64 (natOfBytes ((b.drop (8 * k)).take 8))

/-- The k-th of several registers. -/
def registerAt (l : List Nat) (k : Nat) : DWord := BitVec.ofNat 64 (l.getD k 0)

def segWords (x : Seg) : List Nat := [x.base.toNat, x.limit.toNat, x.pshift.toNat]

/-- A thread's state beside its registers, streams and store buffer. -/
def threadWords (t : Thread) : List Nat :=
  [t.launch, t.gang, t.thread, t.packet, t.pos, t.carry.toNat, t.pred.toNat, t.fpsm.toNat, latchWord t.la, latchWord t.lb,
   latchWord t.lm, latchWord t.ls, t.peerAck, t.bsealed.toNat, t.boldest.toNat, t.handle0.toNat, t.handle1.toNat, flagsWord t,
   t.tfword.toNat, t.trapWord.toNat, t.efftag, t.sysstat.toNat, t.barN, t.barcN, t.barxN, t.relUnack, t.ownUnack, t.dieUnack,
   t.passed] ++ t.openBatch.ops ++ t.batches.flatMap (fun b => [b.num, b.bytes] ++ b.ops)
    ++ t.ldc.toList.flatMap fun d => [d.loc, d.size, d.dest, d.va, d.tag]

def tlbWords (e : TlbEntry) : List Nat := [e.tag, e.base, e.size, e.pa, e.w.toNat, e.x.toNat, e.peer.toNat]

def queueWords (q : Queue) : List Nat :=
  [q.part, q.idx, q.ring, q.logn, q.qprio, q.devprod.toNat, q.privq.toNat, q.qstate, q.ctx, q.head, q.tail, q.headwb, q.job, q.qcbAt.getD 0]

def copyWords (c : Copy) : List Nat := [c.launch, c.thread, c.src.toNat, c.dst.toNat, c.index.toNat, c.len, c.count, c.progress, c.unacked, c.id, c.core, c.gang,
   c.rtype, c.nominal, c.tag, c.toTensor.toNat, c.started.toNat] ++ c.segs.flatMap segWords ++ c.indices.map BitVec.toNat

def opWords (o : TileOp) : List Nat := [o.launch, o.thread, o.pa.toNat, o.pb.toNat, o.shape.toNat, o.fmt.toNat, o.step, o.order, o.id, o.core, o.gang, o.range,
   o.sa.toNat, o.sb.toNat, o.psa.toNat, o.psb.toNat, o.pm.toNat, o.ctl.toNat, o.tag, o.progress] ++ o.segs.flatMap segWords
    ++ (o.rows.getD []).map BitVec.toNat

/-- What a packet in a hold buffer or on a link carries. -/
def bodyWords : FeltBody → List Nat
  | .message n => [0, n]
  | .write loc n v => [1, loc, n, v]
  | .modify loc n op cmp v => [2, loc, n, op, cmp, v]
  | .signal tag loc v => [3, tag, loc, v]
  | .record l t => [4, l, t]
  | .enqueue part idx b => [5, part, idx, natOfBytes b]
  | .renhar part l t core peer va _ => [6, part, l, t, core, peer, va]

/-- A packet on a link or in a hold buffer: stamp, trailer, body. -/
def packetWords (p : FeltPacket) : List Nat :=
  (List.range 10).map (p.stamp.getD · 0) ++ bodyWords p.body ++ [p.src, p.dst, p.tag, p.clkgen]
    ++ (p.trailer.getD []).flatMap id

/-- A line of a die's L2 beside its data: its tag, and its byte masks in two halves each. -/
def dieLineWords (l : DieLine) : List Nat :=
  [l.line, l.valid.toNat % 2 ^ 64, l.valid.toNat / 2 ^ 64, l.owned.toNat % 2 ^ 64, l.owned.toNat / 2 ^ 64, l.since]

def runWords : CtxRun → List Nat
  | .running => [0]
  | .stopping => [1]
  | .stopped => [2]
  | .held => [3]
  | .removing n => [4, n]

/-- A context's control state, CTREN, PQDL and its module table among it. -/
def contextWords (x : Context) : List Nat :=
  [x.tag, x.partition, x.tbase, x.savebase, x.savelen, x.ctren.toNat, x.pqdl, (if x.debug then 1 else 0)] ++ runWords x.run
    ++ x.modules.flatMap fun m => [m.num, (if m.state = .live then 1 else 2), m.start, m.length]

/-- A launch's control state, its pre-emption deadline among it. -/
def launchWords (x : Launch) : List Nat :=
  [x.handle, x.ctx, x.fdie, x.job, x.index, x.recordVA, x.entry, x.ngang, x.gsize, x.clsize, x.local_, x.rclass, x.prio,
   x.fpmode, x.stoseed.toNat, x.donesig, x.trappkt, x.exitedCount, x.preq.toNat, x.reached.toNat, x.stopped.toNat,
   x.locked.toNat, x.deadline.getD 0, x.eligible.getD 0] ++ x.seginit.flatMap segWords ++ x.kinit.map BitVec.toNat ++ x.deps
    ++ x.admitted

/-- A gang's words beside its k and segment registers. -/
def gangWords (g : Gang) : List Nat :=
  [g.launch, g.gang, g.core, g.detached.toNat, g.resident, g.lastIssue, g.saved.toNat, g.reserved.toNat]

/-- An entry of a home directory. -/
def dirWords (e : DirEntry) : List Nat :=
  [e.line, e.owner.getD 10, (e.ownerPackage.map (· + 1)).getD 0, e.dies.length] ++ e.dies ++ e.packages
    ++ e.names.flatMap fun x => [x.1, x.2.1, x.2.2]

/-- A core's control state: its counter of tile generations, its marks, its bins, its lines in flight. -/
def coreWords (r : Core) : List Nat :=
  [r.gen, r.inService.toNat, r.issued.toNat, r.drained.toNat, r.zeroed.toNat] ++ r.enginesOff ++ r.fills
    ++ r.bins.flatMap fun b => [b.launch, b.gang, b.packet, b.pos, b.ready.toNat, b.deferredSince.getD 0]

def poolWords (r : Core) : List Nat :=
  (r.pool.flatMap fun b => [b.region, b.off, b.size, b.launch, b.gang, b.thread.getD 0])
    ++ r.exts.flatMap fun e => [e.region, e.length, e.ctx, e.withdrawn.toNat] ++ e.frames.map fun f => f.getD 0

/-- The state of the F-dies on Renhar: the sequence number, and the entropy offset of every peer (23 R372). -/
def renharWords (r : Renhar) : List Nat :=
  r.sequence :: (r.offsets.flatMap fun x => [x.1.fdie, x.1.part, x.1.peer, x.2])
    ++ r.lines.flatMap fun x => [x.1.fdie, x.1.part, x.1.peer, x.2.1, x.2.2.1, x.2.2.2]

def portWords (p : HostPort) : List Nat :=
  [p.roceprio, p.paused.toNat] ++ (p.connections.flatMap fun c => [c.num, c.mtu, c.error.toNat, c.rate])
    ++ (p.regions.flatMap fun r => [r.rkey, r.ctx, r.va, r.length]) ++ p.windows.flatMap fun h => [h.win, h.conn, h.remote, h.rkey, h.length]

def rangeWordsOf (r : TileRange) : List Nat :=
  [r.core, r.engine, r.base, r.count, r.gen, r.launch, r.thread, r.slot, r.bound.toNat, r.freeing.toNat]

/-- Stored bits of the control of contexts, launches, cores, partitions, fabrics and the port; tags of lines. -/
def controlBits (s : State) : Nat × Nat × Nat → Option DWord
  | (27, c, k) => some (registerAt (coreWords (coreOf s c)) k)
  | (28, c, k) => some (registerAt ((coreOf s c).dcache.flatMap fun l => [l.line, l.since]) k)
  | (29, c, k) => some (registerAt ((coreOf s c).icache.map (·.1)) k)
  | (30, i, k) => (s.contexts[i]?).map fun x => registerAt (contextWords x) k
  | (31, i, k) => (s.launches[i]?).map fun x => registerAt (launchWords x) k
  | (32, 0, k) => some (registerAt (renharWords s.renhar) k)
  | (33, i, k) => (s.partitions[i]?).map fun p => registerAt ([p.num, p.peermap, p.age] ++ p.cores ++ p.slots ++ p.hostwin ++ p.hbm.flatMap fun r => [r.1, r.2]) k
  | (34, i, k) => (s.faultQueues[i]?).map fun q => registerAt [q.fdie, q.log, q.base, q.headPA, q.tail, q.headSeen] k
  | (35, c, k) => some (registerAt (poolWords (coreOf s c)) k)
  | (36, i, k) => (s.icache2[i]?).map fun l => registerAt [l.1, l.2.1] k
  | (37, i, k) => (s.icache3[i]?).map fun l => registerAt [l.1, l.2.1] k
  | (38, 0, k) => some (registerAt (portWords s.port) k)
  | (39, i, k) => (s.tileRanges[i]?).map fun r => registerAt (rangeWordsOf r) k
  | (40, 0, k) => some (registerAt (s.rehomed.flatMap fun x => [x.1, x.2]) k)
  | (41, d, k) => some (registerAt ([(clockOf s d).clkgen] ++ (clockOf s d).acked ++ (clockOf s d).beacons) k)
  | (42, 0, k) => some (registerAt (s.engineLast.flatMap fun x => [x.1, x.2]) k)
  | (43, i, k) => (s.gangs[i]?).map fun g => registerAt (gangWords g) k
  | (44, f, k) => (s.rings.find? fun r => decide (r.fdie = f)).map fun r => registerAt ([r.next, r.fin] ++ r.early) k
  | (45, 0, k) => some (registerAt (s.felt.live ++ s.felt.failed.flatMap fun x => [x.1, x.2]) k)
  | (46, 0, k) => some (registerAt [s.ownPeer, s.cmdStatus, s.frozen.toNat, s.security.lastSequence, s.boot.step] k)
  | (47, i, k) => (s.moves[i]?).map fun m => registerAt [m.tag, m.page, m.die] k
  | _ => none

/-- Stored bits of what is not of a core's, a thread's or a gang's own: caches, translations, queues, rings, hold buffers. -/
def packageBits (s : State) : Nat × Nat × Nat → Option DWord
  | (0, 0, 0) => some s.timeBase
  | (0, 0, 1) => some (BitVec.ofNat 64 (modeWord s.mode))
  | (0, 0, 2) => some (BitVec.ofNat 64 s.plimit)
  | (5, e, k) => some ((tileGet s (e * 65536 + k)).setWidth 64)
  | (6, d, n) => some (BitVec.ofNat 64 (clockBits (clockOf s d) n))
  | (7, i, k) => (s.felt.packets[i]?).map fun p => registerAt (packetWords p) k
  | (16, i, k) => (s.icache2[i]?).map fun l => eightAt l.2.2 k
  | (17, i, k) => (s.icache3[i]?).map fun l => eightAt l.2.2 k
  | (18, i, k) => (s.l2data[i]?).map fun l => if k < 16 then eightAt l.bytes k else registerAt (dieLineWords l) (k - 16)
  | (20, i, k) => (s.walkCache[i]?).map fun w => registerAt [w.1, w.2.tag, w.2.level, w.2.base, w.2.table] k
  | (21, i, k) => (s.directory[i]?).map fun e => registerAt (dirWords e) k
  | (22, i, k) => (s.queues[i]?).map fun q => registerAt (queueWords q) k
  | (23, f, k) => (s.rings.find? fun r => decide (r.fdie = f)).map fun r =>
    eightAt (((r.slots.find? fun x => decide (x.1 = k / 4)).map (·.2)).getD []) (k % 4)
  | (24, i, k) => (s.copies[i]?).map fun c => registerAt (copyWords c) k
  | (25, i, k) => (s.tileOps[i]?).map fun o => registerAt (opWords o) k
  | (26, i, k) => (s.faults[i]?).map fun f => registerAt [f.word.toNat, f.launch, f.tag, f.peer, f.core] k
  | item => controlBits s item

/-- The stored bits that State holds of an item: of a core, a thread or a gang, or of the rest of the package. -/
def storedBits (s : State) (address : Nat) : Option DWord :=
  match readItem address with
  | (1, c, 0) => some (coreOf s c).cycles
  | (2, c, k) => some (readCounter (coreOf s c) k)
  | (3, i, r) => (s.threads[i]?).map fun t => (regGet t.regs r).setWidth 64
  | (4, i, o) => (s.gangs[i]?).map fun g => BitVec.ofNat 64 (readNat s.mem (gangLoc g.launch g.gang o) 8)
  | (8, i, r) => (s.gangs[i]?).map fun g => (regGet g.kregs r).setWidth 64
  | (9, i, k) => (s.gangs[i]?).map fun g => registerAt (g.segs.flatMap segWords) k
  | (10, i, k) => (s.threads[i]?).map fun t => registerAt (threadWords t) k
  | (11, i, k) => (s.threads[i]?).map fun t => eightAt (t.streams.flatMap streamBytes) k
  | (12, i, k) => (s.threads[i]?).map fun t => eightAt (t.sbuf.flatMap storeBytes) k
  | (13, i, k) => (s.threads[i]?).map fun t => eightAt (recordImage t t.launch) k
  | (14, c, k) => some (eightAt ((coreOf s c).dcache.flatMap DataLine.bytes) k)
  | (15, c, k) => some (eightAt ((coreOf s c).icache.flatMap (·.2)) k)
  | (19, c, k) => some (registerAt ((coreOf s c).tlb.flatMap tlbWords) k)
  | item => packageBits s item

/-- Stored bits and check bits of frozen state (22 R356). What State does not hold, and the check bits, are free. -/
def readOut (s : State) (address : Nat) : State :=
  answer { s with fresh := s.fresh + 2 }
    (.bits address ((storedBits s address).getD (Config.freeReading s.fresh)) (Config.freeReading (s.fresh + 1)))

/-- R356: a read over the test access port, while frozen. -/
def execTapReadout (address : Nat) (s : State) : Out := if s.frozen then .next (readOut s address) else .next s

/-! ### Clocks and power (24 R382, R383) -/

/-- The fastest mode within a limit, or Cool. -/
def fastestWithin (watts : Nat) : BitVec 2 := if 2000 ≤ watts then 0 else if 1750 ≤ watts then 1 else 2

/-- Threads that wait for a clock that is in force now complete. -/
def clockArrived (s : State) : State :=
  { s with clockWanted := none, tripLimit := none,
           threads := s.threads.map fun t => if t.sysWait == .clock then { t with sysWait := .clockDone } else t }

/-- The clock changed at once to the fastest within a limit where it exceeds it; a waiting request for it, or for a
faster one, is over. -/
def imposeClock (watts : Nat) (s : State) : State :=
  if clockWatts s.mode.clk ≤ watts then s
  else
    let s1 := { s with mode := { s.mode with clk := fastestWithin watts } }
    match s1.clockWanted with
    | none => s1
    | some w => if clockWatts s1.mode.clk ≤ clockWatts w then clockArrived s1 else s1

/-- The power that PLIMIT and a trip allow. -/
def powerLimit (s : State) : Nat := min s.plimit (s.tripLimit.getD s.plimit)

/-- R383: a thermal trip; a request that waits for its clock meets it. -/
def execThermalTrip (watts : Nat) (s : State) : Out :=
  let s1 := { s with tripLimit := if s.clockWanted.isSome then some (min watts (s.tripLimit.getD watts)) else none }
  .next (imposeClock (min s.plimit watts) s1)

/-- R383: the clock asked for comes into force, or the fastest that PLIMIT and a trip still allow. -/
def execClockChangeDone (s : State) : Out :=
  match s.clockWanted with
  | none => .next s
  | some w =>
    let k := if clockWatts w ≤ powerLimit s then w else fastestWithin (powerLimit s)
    .next (clockArrived { s with mode := { s.mode with clk := k } })

/-! ### Management (24 R385) -/

/-- The operations of management (24 R385) with their operands. -/
inductive MgmtOp where
  | readStatus (item : Nat) | setPlimit (watts : Nat) | freeze | thaw | readout (address : Nat) | packageReset
  deriving DecidableEq, Repr

/-- An operation as numbers. -/
def MgmtOp.words : MgmtOp → List Nat
  | .readStatus i => [0, i]
  | .setPlimit w => [1, w]
  | .freeze => [2]
  | .thaw => [3]
  | .readout a => [4, a]
  | .packageReset => [5]

/-- A request that the port brings (23 R378), whose signature by the owner key verifies and whose sequence number is above the
last accepted. -/
def authentic (s : State) (r : MgmtRequest) (op : MgmtOp) : Bool :=
  portUp s && decide (s.security.lastSequence < r.sequence) && decide (r.sequence < 2 ^ 64)
    && slhVerify s.security.ownerKey (Config.requestBytes (op.words ++ [r.sequence])) r.signature

/-- The sequence number taken. -/
def takeSequence (s : State) (r : MgmtRequest) : State := { s with security := { s.security with lastSequence := r.sequence } }

/-- An authentic request acts; any other is dropped. After a failed bring-up it is answered by the step that failed
(24 R379). -/
def manage (r : MgmtRequest) (op : MgmtOp) (s : State) (f : State → State) : Out :=
  if authentic s r op then
    match s.boot.failed with
    | some k => .next (answer (takeSequence s r) (.bootFailure k s.boot.failure))
    | none => .next (f (takeSequence s r))
  else .next s

/-- Corrected errors of a die (21 R335). -/
def correctedOf (s : State) (die : Nat) : Nat := ((s.security.corrected.find? fun x => decide (x.1 = die)).map (·.2)).getD 0

/-- R385: items 0 to 9 are the dies' error counters, the others temperatures and rail currents. -/
def execMgmtReadStatus (request : MgmtRequest) (item : Nat) (s : State) : Out :=
  manage request (.readStatus item) s fun y => if item < 10 then
    answer y (.counters item (correctedOf y item)) else answerFree y (.reading item)

/-- R383: PLIMIT, from 1,400 to 2,000 W; not during a freeze, in which no state changes (22 R356). -/
def execMgmtSetPlimit (request : MgmtRequest) (watts : Nat) (s : State) : Out :=
  manage request (.setPlimit watts) s fun y =>
    if y.frozen then answer y .error
    else if 1400 ≤ watts ∧ watts ≤ 2000 then answer (imposeClock watts { y with plimit := watts }) (.limit watts true)
    else answer y (.limit watts false)

/-- R356: a freeze. -/
def execMgmtFreeze (request : MgmtRequest) (s : State) : Out := manage request .freeze s fun y => { y with frozen := true }

/-- R357: a thaw, while the pin is not asserted. -/
def execMgmtThaw (request : MgmtRequest) (s : State) : Out :=
  manage request .thaw s fun y => if y.freezePin then answer y .error else { y with frozen := false }

/-- R356: a read-out, while frozen. -/
def execMgmtReadout (request : MgmtRequest) (address : Nat) (s : State) : Out :=
  manage request (.readout address) s fun y => if y.frozen then readOut y address else answer y .error

/-- R385: a package reset, which also a package whose bring-up failed accepts. -/
def execMgmtPackageReset (request : MgmtRequest) (images : BootImages) (s : State) : Out :=
  if authentic s request .packageReset then .next (resetPackage (takeSequence s request) images) else .next s

/-! ### Attestation (24 R381) -/

/-- A message of the SPDM responder, where its predecessor has been exchanged; after a failed bring-up it is answered by
the step that failed. -/
def attest (s : State) (allowed : Bool) (f : State → State) : Out :=
  if !portUp s then .next s
  else
  match s.boot.failed with
  | some k => .next (answer s (.bootFailure k s.boot.failure))
  | none => if allowed then .next (f s) else .next (answer s .error)

/-- R381: GET_VERSION begins an exchange. -/
def execGetVersion (s : State) : Out :=
  attest s true fun y =>
    answer { y with security := { y.security with spdmVersioned := true, spdmCapable := false, spdmNegotiated := false } } (.version 1 3)

/-- What the responder supports, and what not. -/
def supportedFeatures : List SpdmFeature := [.certificates, .challenge, .measurements]

def refusedFeatures : List SpdmFeature := [.keyExchange, .pskExchange, .secureSessions, .mutualAuthentication, .setCertificate]

/-- R381: GET_CAPABILITIES. -/
def execGetCapabilities (s : State) : Out :=
  attest s s.security.spdmVersioned fun y => answer { y with security := { y.security with spdmCapable := true } }
    (.capabilities supportedFeatures refusedFeatures)

/-- R381: NEGOTIATE_ALGORITHMS. -/
def execNegotiateAlgorithms (s : State) : Out :=
  attest s s.security.spdmCapable fun y => answer { y with security := { y.security with spdmNegotiated := true } }
      (.algorithms .sha256 .slhDsaSha2_192s)

/-- R381: GET_DIGESTS. -/
def execGetDigests (s : State) : Out := attest s s.security.spdmNegotiated fun y => answerFree y .digests

/-- R381: GET_CERTIFICATE, of the one slot. -/
def execGetCertificate (slot : Nat) (s : State) : Out :=
  attest s (s.security.spdmNegotiated && decide (slot = 0)) fun y => answerFree y (.certificate slot)

/-- R381: CHALLENGE. -/
def execChallenge (nonce : Nat) (s : State) : Out := attest s s.security.spdmNegotiated fun y => answerFree y (.challenge nonce)

/-- A partition descriptor as numbers. -/
def descriptorWords (p : Partition) : List Nat :=
  [p.num, p.age, p.peermap] ++ p.cores ++ p.slots ++ p.hbm.flatMap (fun r => [r.1, r.2]) ++ p.hostwin

/-- The measurement of an index: of an image, of fuse and mode state, of the partition descriptors (24 R381). -/
def measurement (s : State) (index : Nat) : BitVec 256 :=
  if index = 4 then digest256 (Config.stateBytes [s.boot.keyDigest.toNat, s.boot.minVersion, modeWord s.mode, s.plimit])
  else if index = 5 then digest256 (Config.stateBytes (s.partitions.flatMap descriptorWords))
  else ((s.boot.log.find? fun x => decide (x.1 = index)).map (·.2)).getD (Config.imageDigest index)

/-- R381: GET_MEASUREMENTS: indices 1 to 3 are the measurements of the images, 4 and 5 those of other state. -/
def execGetMeasurements (index : Nat) (s : State) : Out :=
  attest s (s.security.spdmNegotiated && decide (1 ≤ index) && decide (index ≤ 5)) fun y =>
    answer y (.measurement index (measurement y index))

end Sys2Proof.Machine
end

