-- ==== Sys2Proof/Machine/Ring.lean ====
section
/-! DEFINITION. The command rings of the F-dies: descriptors of 32 bytes, executed one after another, each with its status in
its byte 1 (24 R384, Tables 24-2 and 24-3). -/

namespace Sys2Proof.Machine

open Sys2Proof (Byte Word DWord Instr)

/-- `n` bytes of a descriptor are zero. -/
def zeroBytes (b : List Byte) (o n : Nat) : Bool := decide (field b o n = 0)

/-- A bit in a byte whose other bits are zero. -/
def onlyBit (b : List Byte) (o : Nat) : Bool := decide (field b o 1 < 2)

/-- The unused bytes of a descriptor are zero (24 Table 24-3). -/
def unusedZero (b : List Byte) : Bool :=
  match field b 0 1 with
  | 0x04 => zeroBytes b 17 15
  | 0x05 => zeroBytes b 20 12
  | 0x06 => zeroBytes b 9 7 && zeroBytes b 24 8
  | 0x07 => zeroBytes b 9 7 && zeroBytes b 24 8
  | 0x08 => zeroBytes b 10 22
  | 0x09 => zeroBytes b 16 16
  | 0x0B => onlyBit b 8 && zeroBytes b 9 23
  | 0x0C => onlyBit b 16 && zeroBytes b 17 7
  | 0x0D => onlyBit b 21 && zeroBytes b 22 10
  | 0x0E => zeroBytes b 9 3
  | 0x0F => zeroBytes b 9 7
  | _ => zeroBytes b 8 24

/-- The tag that a descriptor names: bits above it are zero, and all of it in a command that names no context. -/
def tagOk (b : List Byte) : Bool :=
  let tag := field b 4 2
  match field b 0 1 with
  | 0x06 => decide (tag = 0)
  | 0x07 => decide (tag = 0)
  | 0x08 => decide (tag = 0)
  | 0x09 => decide (tag = 0)
  | 0x0A => decide (tag = 0)
  | 0x0F => decide (tag = 0)
  | _ => decide (tag < 4096)

/-- The queue whose control block lies at an address: its partition and index; for one not mapped before, the partition of its
context and the lowest index not in use (log 79). -/
def queueNamed (s : State) (qcb : Nat) : Nat × Nat :=
  match s.queues.find? fun q => decide (q.qcbAt = some qcb) with
  | some q => (q.part, q.idx)
  | none =>
    let part := (ctxOf s (field (readBytes s.mem qcb 256) 12 4 % 4096)).partition
    (part, ((List.range 65536).find? fun i => (queueAt s part i).isNone).getD 0)

/-- The command of a good descriptor of an F-die's ring. -/
def ringCommand (fdie : Nat) (b : List Byte) (s : State) : Out :=
  let tag := field b 4 2
  let launch := field b 8 4
  let thread := field b 12 4
  match field b 0 1 with
  | 0x01 => execPreempt tag s
  | 0x02 => execResume tag s
  | 0x03 => execRemove tag s
  | 0x04 => execMoverec tag launch thread (field b 16 1) s
  | 0x05 => execMovegang tag launch thread (field b 16 1) (field b 17 1) (field b 18 1) (field b 19 1) s
  | 0x06 => execMapq fdie (field b 8 1) (field b 16 8) (queueNamed s (field b 16 8)).1 (queueNamed s (field b 16 8)).2 s
  | 0x07 => execUnmapq fdie (field b 8 1) (field b 16 8) s
  | 0x08 => execSetage (field b 8 1) (field b 9 1) s
  | 0x09 => execSetmode (BitVec.ofNat 64 (field b 8 8)) s
  | 0x0A => execClkcut s
  | 0x0B => if field b 8 1 = 1 then execDebugAttach tag s else execDebugDetach tag s
  | 0x0C =>
    if field b 16 1 = 0 then execReleaseContinue tag launch thread (field b 24 8) s
    else execReleaseDeliver tag launch thread (field b 24 8) s
  | 0x0D =>
    if field b 21 1 = 0 then execDisposeRetry tag (field b 16 4) (field b 20 1) (BitVec.ofNat 64 (field b 8 8)) s
    else execDisposeKill tag (field b 16 4) (field b 20 1) (BitVec.ofNat 64 (field b 8 8)) s
  | 0x0E => execCreatectx tag (field b 8 1) (field b 12 4) (field b 16 8) (field b 24 8) s
  | 0x0F => execSetfq fdie (field b 8 1) (field b 16 8) (field b 24 8) s
  | _ => badCommand s

/-- A descriptor: executed, unless it is bad. -/
def descriptor (fdie : Nat) (b : List Byte) (s : State) : Out :=
  if zeroBytes b 2 2 && zeroBytes b 6 2 && unusedZero b && tagOk b then ringCommand fdie b s else badCommand s

/-- The descriptor in a slot. -/
def ringSlot (r : CommandRing) (n : Nat) : List Byte :=
  ((r.slots.find? fun x => decide (x.1 = n)).map (·.2)).getD (List.replicate 32 0)

/-- A ring whose next descriptor has been executed, with its status in byte 1. -/
def ringDone (r : CommandRing) (status : Nat) : CommandRing :=
  let b := (ringSlot r r.next).set 1 (BitVec.ofNat 8 status)
  { r with slots := r.slots.filter (fun x => decide (x.1 ≠ r.next)) ++ [(r.next, b)], next := (r.next + 1) % 256 }

/-- Slots of a ring whose descriptors are to be executed, in order. -/
def ringPending (r : CommandRing) : List Nat :=
  ((List.range 256).map fun i => (r.next + i) % 256).takeWhile fun n => decide (n ≠ r.fin)

/-- The REMOVE of a context that waits in a ring. -/
def pendingRemove (r : CommandRing) (tag : Nat) : Option Nat :=
  (ringPending r).find? fun n =>
    !r.early.contains n && decide (field (ringSlot r n) 0 1 = 0x03) && decide (field (ringSlot r n) 4 2 = tag)

/-- The context that a command other than REMOVE names. -/
def namedContext (b : List Byte) : Option Nat :=
  if [0x01, 0x02, 0x04, 0x05, 0x0B, 0x0C, 0x0D, 0x0E].contains (field b 0 1) then some (field b 4 2) else none

/-- A REMOVE in either ring that overtakes a command of its context: ring and slot. -/
def overtaking (s : State) (b : List Byte) : Option (CommandRing × Nat) :=
  (namedContext b).bind fun tag =>
    s.rings.findSome? fun r => if isLiveDie s r.fdie then (pendingRemove r tag).map fun n => (r, n) else none

/-- A slot whose REMOVE has been executed before its turn, with its status. -/
def ringEarly (n status : Nat) (r : CommandRing) : CommandRing :=
  let b := (ringSlot r n).set 1 (BitVec.ofNat 8 status)
  { r with slots := r.slots.filter (fun x => decide (x.1 ≠ n)) ++ [(n, b)], early := r.early ++ [n] }

/-- A descriptor executed, and its ring changed as its status says. -/
def runSlot (s : State) (r : CommandRing) (n : Nat) (f : Nat → CommandRing → CommandRing) : Out :=
  match descriptor r.fdie (ringSlot r n) s with
  | .next s1 => .next { s1 with rings := s1.rings.map fun x => if x.fdie = r.fdie then f s1.cmdStatus x else x }
  | o => o

/-- R384: the next descriptor of an F-die's ring; a REMOVE of its context goes first. -/
def serveRing (fdie : Nat) (s : State) : Out :=
  match s.rings.find? fun r => decide (r.fdie = fdie) && decide (r.next ≠ r.fin) with
  | none => .next s
  | some r =>
    if !isLiveDie s fdie then .next s
    else if r.early.contains r.next then
      .next { s with rings := s.rings.map fun x =>
        if x.fdie = fdie then { x with next := (x.next + 1) % 256, early := x.early.erase x.next } else x }
    else
      match overtaking s (ringSlot r r.next) with
      | some (q, n) => runSlot s q n (ringEarly n)
      | none => runSlot s r r.next fun st x => ringDone x st

end Sys2Proof.Machine
end

