-- ==== Sys2Proof/Machine/Cycle.lean ====
section
/-! DEFINITION. A core cycle: the one counter that it adds to on each core (13 R266), the engines' counters, the time
base (R269), and what a cycle brings to an end. -/

namespace Sys2Proof.Machine

open Sys2Proof (Byte Word DWord Instr)

/-! ### Where a cycle went (13 R266) -/

/-- The level that a line is filled from: 1 I-L2, 2 the die's L2, 3 memory or another die. -/
def fillLevel (s : State) (core line : Nat) : Nat :=
  if s.icache2.any fun l => decide (l.1 = groupOfCore core) && decide (l.2.1 = line) then 1
  else if s.icache3.any fun l => decide (l.1 = dieOfCore core) && decide (l.2.1 = line) then 2
  else 3

/-- The deepest level that the core's threads wait for with their packets. -/
def deepestFill (s : State) (c : Nat) : Nat := (stallLines s c).foldl (fun n l => max n (fillLevel s c l)) 0

/-- Some thread of a core that holds a window satisfies a test. -/
def someWindow (s : State) (c : Nat) (f : Thread → Bool) : Bool :=
  s.threads.any fun t => decide (t.core = c) && holdsWindow t && f t

/-- The first cause in the order of the table that holds for a thread with a window; with none, whether a bin is ready. -/
def waitSelector (s : State) (c : Nat) : Nat :=
  if (someWindow s c fun t => t.waiting == some .data || !t.loads.isEmpty) || !(literalLines s c).isEmpty then 0x0108
  else if someWindow s c fun t => t.waiting == some .sync || inSysWait t || mateWaits s t then 0x0109
  else if someWindow s c fun t => t.waiting == some .stream then 0x010A
  else if someWindow s c fun _ => true then 0x010B
  else if (readyBins s c).isEmpty then 0x010D
  else 0x010C

/-- The counter that a cycle of a core adds to. -/
def cycleSelector (s : State) (c : Nat) : Nat :=
  if (coreOf s c).issued then 0x0100
  else
    match deepestFill s c with
    | 0 => if (formGroup s c).isSome then 0x0104 else waitSelector s c
    | n => 0x0100 + n

/-! ### Engines (13 Table 13-1) -/

/-- The tasks of an engine. -/
def engineTasks (s : State) (core e : Nat) : List TileOp :=
  s.tileOps.filter fun o => isTask o && decide (o.core = core)
    && (match rangeAt s o.range with | some r => r.bound && !r.saved && decide (r.engine = e) | none => false)

/-- A read of operands that waits. -/
def isWaiting {α : Type} : Except EngineStop α → Bool
  | .error .wait => true
  | _ => false

/-- A task's next step waits for its operands. -/
def awaitsOperands (s : State) (o : TileOp) : Bool :=
  isWaiting (maskRead s o)
    || (if o.kind = .sparseTask then
          isWaiting (bitmapsRead s o)
            || (match bitmapsRead s o with | .ok b => executes (some b) && isWaiting (panelsRead s o (some b)) | .error _ => false)
        else isWaiting (panelsRead s o none))

/-- The counter of an engine that a cycle adds to, if any: the first in the order of the table. -/
def engineSelector (s : State) (core e : Nat) : Option Nat :=
  let k := core * 4 + e
  let working := (engineTasks s core e).filter (atWork s)
  if s.engineLast.any fun x => decide (x = (k, now s)) then some (0x0300 + 16 * e)
  else if working.any (awaitsOperands s) then some (0x0301 + 16 * e)
  else if wantsStep s k && s.startWaits.any (fun x => decide (x.1 = k)) then some (0x0302 + 16 * e)
  else if !working.isEmpty then some (0x0301 + 16 * e)
  else if (engineTasks s core e).any fun o => !o.setAside && (match o.state with | .suspended _ => true | _ => false) then
    some (0x0303 + 16 * e)
  else none

/-! ### Errors of the hardware (21 R335, R336) -/

/-- A corrected error counted for a die. -/
def countCorrected (s : State) (die : Nat) : State :=
  { s with security := { s.security with corrected := putPair die (correctedOf s die + 1) s.security.corrected } }

/-- What an error leads to: a clean line is discarded, to be fetched again, and counted as corrected; data stay in error until
they are rewritten; what is a context's own takes the context with it, a die's control state the die. -/
def meetHardError (s : State) : HardError → State
  | .corrected d => countCorrected s d
  | .dataLine c l => countCorrected (dropLine1 s c l) (dieOfCore c)
  | .codeLine c l => countCorrected (mapCore s c fun r => { r with icache := r.icache.filter fun x => decide (x.1 ≠ l) }) (dieOfCore c)
  | .groupLine g l => countCorrected { s with icache2 := s.icache2.filter fun x => !(decide (x.1 = g) && decide (x.2.1 = l)) } (g / 4)
  | .cleanLine d l => countCorrected { s with icache3 := s.icache3.filter (fun x => !(decide (x.1 = d) && decide (x.2.1 = l))),
                                              l2data := s.l2data.filter fun x => !isCopy d l x } d
  | .data l => if s.badLines.contains l then s else { s with badLines := s.badLines ++ [l] }
  | .window l _ => beginRemoval s (launchOf s l).ctx
  | .gangLocal l _ => beginRemoval s (launchOf s l).ctx
  | .tiles r =>
    match rangeAt s r with
    | some q => beginRemoval s (launchOf s q.launch).ctx
    | none => s
  | .queueBlock p i =>
    match queueAt s p i with
    | some q => beginRemoval s q.ctx
    | none => s
  | .contextState tag => beginRemoval s tag
  | .die d => removeDie s d

/-! ### The cycle -/

/-- A withdrawn extension gives back each frame in which no record lies any more (19 R300). -/
def freeFrames (r : Core) (e : PoolExt) : PoolExt :=
  if e.withdrawn then
    { e with frames := ((List.range e.frames.length).zip e.frames).map fun x =>
        if r.pool.any fun b => decide (b.region = e.region) && decide (b.off < 65536 * (x.1 + 1)) && decide (65536 * x.1 < b.off + b.size)
        then x.2 else none }
  else e

/-- Extensions after a cycle: those that have given everything back are gone. -/
def dropExts (r : Core) : List PoolExt := (r.exts.map (freeFrames r)).filter fun e => !e.withdrawn || e.frames.any Option.isSome

/-- A bin's marks are kept while its context runs and it holds records: that it is ready by age, while it is (02 R26, R28). -/
def keepMark (s : State) (c : Nat) (m : BinMark) : Option BinMark :=
  let k : BinKey := { launch := m.launch, gang := m.gang, packet := m.packet, pos := m.pos }
  if drains s m.launch && binReady s c k then some { m with ready := m.ready && binOld s c k } else none

/-- A core after a cycle: its cycle counted, unless its counters were zeroed in it, and what one cycle allows allowed again. Out
of service it stands still. -/
def cycleCore (s : State) (c : Nat) : Core :=
  let r := coreOf s c
  if r.inService then
    let r1 := bumpCounter (cycleSelector s c) 1 r
    let r2 := ([0, 1, 2, 3].filterMap (engineSelector s c)).foldl (fun x k => bumpCounter k 1 x) r1
    { r2 with cycles := r.cycles + 1, issued := false, drained := false, zeroed := false, exts := dropExts r,
              bins := r.bins.filterMap (keepMark s c), dcache := ageLines s c r.dcache }
  else r

/-- Since when a launch has held effective priority 15 while it awaits admission (20 R318). -/
def holdTop (s : State) (x : Launch) : Launch :=
  if awaitsAdmission x && x.eligible.isSome && decide (effectivePriority s x = 15) then { x with top := some (x.top.getD (now s)) }
  else { x with top := none }

/-- R266, R269: a core cycle. -/
def execCoreClockCycle (s : State) : Out :=
  let s1 := { s with
    cores := (List.range Config.cores).map (cycleCore s),
    launches := s.launches.map (holdTop s),
    threads := s.threads.map fun t => { t with waiting := none },
    starts := [],
    startWaits := s.startWaits.filter fun x => wantsStep s x.1,
    l2data := ageCopies s,
    hardErrors := [],
    timeBase := s.timeBase + 1 }
  .next (settleStops (s.hardErrors.foldl meetHardError s1))

end Sys2Proof.Machine
end

