-- ==== Sys2Proof/Machine/Dispatch.lean ====
section
/-! DEFINITION. One arm per instruction. -/

namespace Sys2Proof.Machine

open Sys2Proof (Instr)

def exec (i : Instr) (s : State) : Host.Outcome State Fault Refusal :=
  match i with
  | .iadd _ g d a b w => Sys2Proof.Machine.execIadd g d a b w s
  | .isub _ g d a b w => Sys2Proof.Machine.execIsub g d a b w s
  | .imul _ g d a b w => Sys2Proof.Machine.execImul g d a b w s
  | .imulhS32 _ g d a b w => Sys2Proof.Machine.execImulhS32 g d a b w s
  | .imulhN32 _ g d a b w => Sys2Proof.Machine.execImulhN32 g d a b w s
  | .imad _ g d a b w => Sys2Proof.Machine.execImad g d a b w s
  | .iadd64 _ g d a b w => Sys2Proof.Machine.execIadd64 g d a b w s
  | .isub64 _ g d a b w => Sys2Proof.Machine.execIsub64 g d a b w s
  | .and _ g d a b w => Sys2Proof.Machine.execAnd g d a b w s
  | .or _ g d a b w => Sys2Proof.Machine.execOr g d a b w s
  | .xor _ g d a b w => Sys2Proof.Machine.execXor g d a b w s
  | .andn _ g d a b w => Sys2Proof.Machine.execAndn g d a b w s
  | .shl _ g d a b w => Sys2Proof.Machine.execShl g d a b w s
  | .shr _ g d a b w => Sys2Proof.Machine.execShr g d a b w s
  | .sar _ g d a b w => Sys2Proof.Machine.execSar g d a b w s
  | .rot _ g d a b w => Sys2Proof.Machine.execRot g d a b w s
  | .iminS32 _ g d a b w => Sys2Proof.Machine.execIminS32 g d a b w s
  | .iminN32 _ g d a b w => Sys2Proof.Machine.execIminN32 g d a b w s
  | .imaxS32 _ g d a b w => Sys2Proof.Machine.execImaxS32 g d a b w s
  | .imaxN32 _ g d a b w => Sys2Proof.Machine.execImaxN32 g d a b w s
  | .iabs _ g d a w => Sys2Proof.Machine.execIabs g d a w s
  | .iaddsS32 _ g d a b w => Sys2Proof.Machine.execIaddsS32 g d a b w s
  | .iaddsN32 _ g d a b w => Sys2Proof.Machine.execIaddsN32 g d a b w s
  | .isubsS32 _ g d a b w => Sys2Proof.Machine.execIsubsS32 g d a b w s
  | .isubsN32 _ g d a b w => Sys2Proof.Machine.execIsubsN32 g d a b w s
  | .idivS32 _ g d a b w => Sys2Proof.Machine.execIdivS32 g d a b w s
  | .idivN32 _ g d a b w => Sys2Proof.Machine.execIdivN32 g d a b w s
  | .iremS32 _ g d a b w => Sys2Proof.Machine.execIremS32 g d a b w s
  | .iremN32 _ g d a b w => Sys2Proof.Machine.execIremN32 g d a b w s
  | .popc _ g d a w => Sys2Proof.Machine.execPopc g d a w s
  | .clz _ g d a w => Sys2Proof.Machine.execClz g d a w s
  | .ctz _ g d a w => Sys2Proof.Machine.execCtz g d a w s
  | .brev _ g d a w => Sys2Proof.Machine.execBrev g d a w s
  | .bfeS32 _ g d a b w => Sys2Proof.Machine.execBfeS32 g d a b w s
  | .bfeN32 _ g d a b w => Sys2Proof.Machine.execBfeN32 g d a b w s
  | .bfi _ g d a b w => Sys2Proof.Machine.execBfi g d a b w s
  | .bmsk _ g d a b w => Sys2Proof.Machine.execBmsk g d a b w s
  | .sel _ z d a b w => Sys2Proof.Machine.execSel z d a b w s
  | .kmov _ g d a => Sys2Proof.Machine.execKmov g d a s
  | .cmp _ g k p a b w => Sys2Proof.Machine.execCmp g k p a b w s
  | .cmpPair _ g k p a b w => Sys2Proof.Machine.execCmpPair g k p a b w s
  | .fcmp _ g k p a b w => Sys2Proof.Machine.execFcmp g k p a b w s
  | .fcmpPair _ g k p a b w => Sys2Proof.Machine.execFcmpPair g k p a b w s
  | .pand _ g d a b w => Sys2Proof.Machine.execPand g d a b w s
  | .por _ g d a b w => Sys2Proof.Machine.execPor g d a b w s
  | .pxor _ g d a b w => Sys2Proof.Machine.execPxor g d a b w s
  | .pnot _ g d a w => Sys2Proof.Machine.execPnot g d a w s
  | .pget _ g d w => Sys2Proof.Machine.execPget g d w s
  | .pset _ g a b w => Sys2Proof.Machine.execPset g a b w s
  | .faddF32 _ g d a b w => Sys2Proof.Machine.execFaddF32 g d a b w s
  | .faddBf16x2 _ g d a b w => Sys2Proof.Machine.execFaddBf16x2 g d a b w s
  | .faddF16x2 _ g d a b w => Sys2Proof.Machine.execFaddF16x2 g d a b w s
  | .fsubF32 _ g d a b w => Sys2Proof.Machine.execFsubF32 g d a b w s
  | .fsubBf16x2 _ g d a b w => Sys2Proof.Machine.execFsubBf16x2 g d a b w s
  | .fsubF16x2 _ g d a b w => Sys2Proof.Machine.execFsubF16x2 g d a b w s
  | .fmulF32 _ g d a b w => Sys2Proof.Machine.execFmulF32 g d a b w s
  | .fmulBf16x2 _ g d a b w => Sys2Proof.Machine.execFmulBf16x2 g d a b w s
  | .fmulF16x2 _ g d a b w => Sys2Proof.Machine.execFmulF16x2 g d a b w s
  | .ffmaF32 _ g d a b w => Sys2Proof.Machine.execFfmaF32 g d a b w s
  | .ffmaBf16x2 _ g d a b w => Sys2Proof.Machine.execFfmaBf16x2 g d a b w s
  | .ffmaF16x2 _ g d a b w => Sys2Proof.Machine.execFfmaF16x2 g d a b w s
  | .fminF32 _ g d a b w => Sys2Proof.Machine.execFminF32 g d a b w s
  | .fminBf16x2 _ g d a b w => Sys2Proof.Machine.execFminBf16x2 g d a b w s
  | .fminF16x2 _ g d a b w => Sys2Proof.Machine.execFminF16x2 g d a b w s
  | .fmaxF32 _ g d a b w => Sys2Proof.Machine.execFmaxF32 g d a b w s
  | .fmaxBf16x2 _ g d a b w => Sys2Proof.Machine.execFmaxBf16x2 g d a b w s
  | .fmaxF16x2 _ g d a b w => Sys2Proof.Machine.execFmaxF16x2 g d a b w s
  | .fnegF32 _ g d a w => Sys2Proof.Machine.execFnegF32 g d a w s
  | .fnegX2 _ g d a w => Sys2Proof.Machine.execFnegX2 g d a w s
  | .fabsF32 _ g d a w => Sys2Proof.Machine.execFabsF32 g d a w s
  | .fabsX2 _ g d a w => Sys2Proof.Machine.execFabsX2 g d a w s
  | .qtsh _ g d a b w => Sys2Proof.Machine.execQtsh g d a b w s
  | .lxAt _ g d a b w => Sys2Proof.Machine.execLxAt g d a b w s
  | .lxBelow _ g d a b w => Sys2Proof.Machine.execLxBelow g d a b w s
  | .lxAbove _ g d a b w => Sys2Proof.Machine.execLxAbove g d a b w s
  | .lxMirror _ g d a b w => Sys2Proof.Machine.execLxMirror g d a b w s
  | .sisect _ g d a b => Sys2Proof.Machine.execSisect g d a b s
  | .sunion _ g d a b => Sys2Proof.Machine.execSunion g d a b s
  | .sbind _ g d a b => Sys2Proof.Machine.execSbind g d a b s
  | .iaddi _ g d a imm => Sys2Proof.Machine.execIaddi g d a imm s
  | .movi _ g d imm => Sys2Proof.Machine.execMovi g d imm s
  | .imuli _ g d a imm => Sys2Proof.Machine.execImuli g d a imm s
  | .andi _ g d a imm => Sys2Proof.Machine.execAndi g d a imm s
  | .ori _ g d a imm => Sys2Proof.Machine.execOri g d a imm s
  | .xori _ g d a imm => Sys2Proof.Machine.execXori g d a imm s
  | .shfiShl _ g d a n => Sys2Proof.Machine.execShfiShl g d a n s
  | .shfiShr _ g d a n => Sys2Proof.Machine.execShfiShr g d a n s
  | .shfiSar _ g d a n => Sys2Proof.Machine.execShfiSar g d a n s
  | .shfiRot _ g d a n => Sys2Proof.Machine.execShfiRot g d a n s
  | .cmpi _ g k p a imm => Sys2Proof.Machine.execCmpi g k p a imm s
  | .cmpiPair _ g k p a imm => Sys2Proof.Machine.execCmpiPair g k p a imm s
  | .faddiF32 _ g d a imm => Sys2Proof.Machine.execFaddiF32 g d a imm s
  | .faddiBf16x2 _ g d a imm => Sys2Proof.Machine.execFaddiBf16x2 g d a imm s
  | .faddiF16x2 _ g d a imm => Sys2Proof.Machine.execFaddiF16x2 g d a imm s
  | .fmuliF32 _ g d a imm => Sys2Proof.Machine.execFmuliF32 g d a imm s
  | .fmuliBf16x2 _ g d a imm => Sys2Proof.Machine.execFmuliBf16x2 g d a imm s
  | .fmuliF16x2 _ g d a imm => Sys2Proof.Machine.execFmuliF16x2 g d a imm s
  | .ldl32 _ g d imm => Sys2Proof.Machine.execLdl32 g d imm s
  | .ldl64 _ g d imm => Sys2Proof.Machine.execLdl64 g d imm s
  | .brl g imm => Sys2Proof.Machine.execBrl g imm s
  | .calll g imm => Sys2Proof.Machine.execCalll g imm s
  | .fcvt _ g d a k r => Sys2Proof.Machine.execFcvt g d a k r s
  | .frcp _ g d a t => Sys2Proof.Machine.execFrcp g d a t s
  | .frsq _ g d a t => Sys2Proof.Machine.execFrsq g d a t s
  | .fsqrt _ g d a t => Sys2Proof.Machine.execFsqrt g d a t s
  | .fexp2 _ g d a t => Sys2Proof.Machine.execFexp2 g d a t s
  | .flog2 _ g d a t => Sys2Proof.Machine.execFlog2 g d a t s
  | .fsin _ g d a t => Sys2Proof.Machine.execFsin g d a t s
  | .fcos _ g d a t => Sys2Proof.Machine.execFcos g d a t s
  | .ftanh _ g d a t => Sys2Proof.Machine.execFtanh g d a t s
  | .lany _ g p q => Sys2Proof.Machine.execLany g p q s
  | .lall _ g p q => Sys2Proof.Machine.execLall g p q s
  | .lmask _ g d q => Sys2Proof.Machine.execLmask g d q s
  | .lsum _ g d a => Sys2Proof.Machine.execLsum g d a s
  | .lminS32 _ g d a => Sys2Proof.Machine.execLminS32 g d a s
  | .lminN32 _ g d a => Sys2Proof.Machine.execLminN32 g d a s
  | .lmaxS32 _ g d a => Sys2Proof.Machine.execLmaxS32 g d a s
  | .lmaxN32 _ g d a => Sys2Proof.Machine.execLmaxN32 g d a s
  | .cdet _ g d a => Sys2Proof.Machine.execCdet g d a s
  | .lfirst _ g p => Sys2Proof.Machine.execLfirst g p s
  | .atom _ g d a o w n => Sys2Proof.Machine.execAtom g d a o w n s
  | .red _ g d a o w n => Sys2Proof.Machine.execRed g d a o w n s
  | .nop _ g => Sys2Proof.Machine.execNop g s
  | .seal _ g d => Sys2Proof.Machine.execSeal g d s
  | .batchBytes _ g d a => Sys2Proof.Machine.execBatchBytes g d a s
  | .ctr _ g d a => Sys2Proof.Machine.execCtr g d a s
  | .tick _ g d => Sys2Proof.Machine.execTick g d s
  | .mtileAlloc _ g d a => Sys2Proof.Machine.execMtileAlloc g d a s
  | .mprog _ g d a => Sys2Proof.Machine.execMprog g d a s
  | .callx g d a => Sys2Proof.Machine.execCallx g d a s
  | .speek _ g d a => Sys2Proof.Machine.execSpeek g d a s
  | .scrd _ g d a => Sys2Proof.Machine.execScrd g d a s
  | .spos _ g d a => Sys2Proof.Machine.execSpos g d a s
  | .sin _ g d a => Sys2Proof.Machine.execSin g d a s
  | .sdone _ g p a => Sys2Proof.Machine.execSdone g p a s
  | .sysrd _ g d a => Sys2Proof.Machine.execSysrd g d a s
  | .ldS8 _ g d a o => Sys2Proof.Machine.execLdS8 g d a o s
  | .ldN8 _ g d a o => Sys2Proof.Machine.execLdN8 g d a o s
  | .ldS16 _ g d a o => Sys2Proof.Machine.execLdS16 g d a o s
  | .ldN16 _ g d a o => Sys2Proof.Machine.execLdN16 g d a o s
  | .ldB32 _ g d a o => Sys2Proof.Machine.execLdB32 g d a o s
  | .ldB64 _ g d a o => Sys2Proof.Machine.execLdB64 g d a o s
  | .ldB128 _ g d a o => Sys2Proof.Machine.execLdB128 g d a o s
  | .stB8 _ g d a o => Sys2Proof.Machine.execStB8 g d a o s
  | .stB16 _ g d a o => Sys2Proof.Machine.execStB16 g d a o s
  | .stB32 _ g d a o => Sys2Proof.Machine.execStB32 g d a o s
  | .stB64 _ g d a o => Sys2Proof.Machine.execStB64 g d a o s
  | .stB128 _ g d a o => Sys2Proof.Machine.execStB128 g d a o s
  | .ldcS8 g d a o => Sys2Proof.Machine.execLdcS8 g d a o s
  | .ldcN8 g d a o => Sys2Proof.Machine.execLdcN8 g d a o s
  | .ldcS16 g d a o => Sys2Proof.Machine.execLdcS16 g d a o s
  | .ldcN16 g d a o => Sys2Proof.Machine.execLdcN16 g d a o s
  | .ldcB32 g d a o => Sys2Proof.Machine.execLdcB32 g d a o s
  | .ldcB64 g d a o => Sys2Proof.Machine.execLdcB64 g d a o s
  | .ldcB128 g d a o => Sys2Proof.Machine.execLdcB128 g d a o s
  | .ldAcqB32 _ g d a o => Sys2Proof.Machine.execLdAcqB32 g d a o s
  | .ldAcqB64 _ g d a o => Sys2Proof.Machine.execLdAcqB64 g d a o s
  | .stRelB32 _ g d a o => Sys2Proof.Machine.execStRelB32 g d a o s
  | .stRelB64 _ g d a o => Sys2Proof.Machine.execStRelB64 g d a o s
  | .br g x => Sys2Proof.Machine.execBr g x s
  | .call g x => Sys2Proof.Machine.execCall g x s
  | .ret g a => Sys2Proof.Machine.execRet g a s
  | .jmpx g a => Sys2Proof.Machine.execJmpx g a s
  | .ipf _ g a b => Sys2Proof.Machine.execIpf g a b s
  | .trap g => Sys2Proof.Machine.execTrap g s
  | .tretRedo g a b => Sys2Proof.Machine.execTretRedo g a b s
  | .tretSkip g a b => Sys2Proof.Machine.execTretSkip g a b s
  | .brk g => Sys2Proof.Machine.execBrk g s
  | .bar g => Sys2Proof.Machine.execBar g s
  | .barc g => Sys2Proof.Machine.execBarc g s
  | .barx g => Sys2Proof.Machine.execBarx g s
  | .waitBatch g n => Sys2Proof.Machine.execWaitBatch g n s
  | .yield g => Sys2Proof.Machine.execYield g s
  | .fwd g a b => Sys2Proof.Machine.execFwd g a b s
  | .fwdAck g a b => Sys2Proof.Machine.execFwdAck g a b s
  | .enq _ g a b => Sys2Proof.Machine.execEnq g a b s
  | .exit g => Sys2Proof.Machine.execExit g s
  | .launch _ g a => Sys2Proof.Machine.execLaunch g a s
  | .signal _ g a b => Sys2Proof.Machine.execSignal g a b s
  | .cpT _ g n m => Sys2Proof.Machine.execCpT g n m s
  | .cpG _ g n b => Sys2Proof.Machine.execCpG g n b s
  | .cpS _ g n b => Sys2Proof.Machine.execCpS g n b s
  | .cpL _ g n => Sys2Proof.Machine.execCpL g n s
  | .cpPf _ g a b => Sys2Proof.Machine.execCpPf g a b s
  | .cpRed _ g n => Sys2Proof.Machine.execCpRed g n s
  | .mtask _ g a n => Sys2Proof.Machine.execMtask g a n s
  | .mtaskSb _ g a n => Sys2Proof.Machine.execMtaskSb g a n s
  | .mtileFree _ g a => Sys2Proof.Machine.execMtileFree g a s
  | .mtileLd _ g a n => Sys2Proof.Machine.execMtileLd g a n s
  | .mtileSt _ g a n => Sys2Proof.Machine.execMtileSt g a n s
  | .mtileZero _ g a n => Sys2Proof.Machine.execMtileZero g a n s
  | .mtileCvt _ g a n => Sys2Proof.Machine.execMtileCvt g a n s
  | .mfence _ g a => Sys2Proof.Machine.execMfence g a s
  | .sfree _ g a => Sys2Proof.Machine.execSfree g a s
  | .sskip _ g a b => Sys2Proof.Machine.execSskip g a b s
  | .sskipn _ g a b => Sys2Proof.Machine.execSskipn g a b s
  | .fence _ g => Sys2Proof.Machine.execFence g s
  | .pfd _ g a b => Sys2Proof.Machine.execPfd g a b s
  | .claim _ g a b => Sys2Proof.Machine.execClaim g a b s
  | .syswr _ g a b => Sys2Proof.Machine.execSyswr g a b s
  | .modeRequest _ g a b => Sys2Proof.Machine.execModeRequest g a b s
  | .ctrzero _ g a b => Sys2Proof.Machine.execCtrzero g a b s
  | .segld _ g a b => Sys2Proof.Machine.execSegld g a b s
  | .icinv _ g a b => Sys2Proof.Machine.execIcinv g a b s
  | .tlbinv _ g a b => Sys2Proof.Machine.execTlbinv g a b s
  | .ctxtag _ g a => Sys2Proof.Machine.execCtxtag g a s
  | .halt _ g => Sys2Proof.Machine.execHalt g s
  | .modPub _ g a b => Sys2Proof.Machine.execModPub g a b s
  | .modRet _ g a b => Sys2Proof.Machine.execModRet g a b s
  | .poolx _ g a b => Sys2Proof.Machine.execPoolx g a b s
  | .pqSet _ g a b => Sys2Proof.Machine.execPqSet g a b s
  | .runIssue core => Sys2Proof.Machine.execRunIssue core s
  | .codeLineFill core => Sys2Proof.Machine.execCodeLineFill core s
  | .loadDataReturn launch thread => Sys2Proof.Machine.execLoadDataReturn launch thread s
  | .tlbMissWalk core tag va => Sys2Proof.Machine.execTlbMissWalk core tag va s
  | .storeBufferDrain launch thread => Sys2Proof.Machine.execStoreBufferDrain launch thread s
  | .peerAck launch thread count => Sys2Proof.Machine.execPeerAck launch thread count s
  | .releaseAck launch thread kind => Sys2Proof.Machine.execReleaseAck launch thread kind s
  | .binReadyByAge core launch gang packet pos => Sys2Proof.Machine.execBinReadyByAge core launch gang packet pos s
  | .drain core => Sys2Proof.Machine.execDrain core s
  | .compactorMove core => Sys2Proof.Machine.execCompactorMove core s
  | .poolSlotFreed launch thread => Sys2Proof.Machine.execPoolSlotFreed launch thread s
  | .barrierArrival launch thread => Sys2Proof.Machine.execBarrierArrival launch thread s
  | .ldcLoad launch thread => Sys2Proof.Machine.execLdcLoad launch thread s
  | .threadExit launch thread => Sys2Proof.Machine.execThreadExit launch thread s
  | .copyStart copy => Sys2Proof.Machine.execCopyStart copy s
  | .copyComplete copy => Sys2Proof.Machine.execCopyComplete copy s
  | .taskDispatch core => Sys2Proof.Machine.execTaskDispatch core s
  | .taskStep op => Sys2Proof.Machine.execTaskStep op s
  | .tileOpComplete op => Sys2Proof.Machine.execTileOpComplete op s
  | .tileRangeRelease core gen => Sys2Proof.Machine.execTileRangeRelease core gen s
  | .pageMove tag page => Sys2Proof.Machine.execPageMove tag page s
  | .pageMoveComplete tag page => Sys2Proof.Machine.execPageMoveComplete tag page s
  | .forwardRequest launch thread => Sys2Proof.Machine.execForwardRequest launch thread s
  | .forwardNack launch thread => Sys2Proof.Machine.execForwardNack launch thread s
  | .forwardRetry launch thread => Sys2Proof.Machine.execForwardRetry launch thread s
  | .poolExhausted launch thread => Sys2Proof.Machine.execPoolExhausted launch thread s
  | .forwardGrant launch thread => Sys2Proof.Machine.execForwardGrant launch thread s
  | .recordAccept launch thread => Sys2Proof.Machine.execRecordAccept launch thread s
  | .fwdAckAdd launch thread => Sys2Proof.Machine.execFwdAckAdd launch thread s
  | .faultQueuePost fdie => Sys2Proof.Machine.execFaultQueuePost fdie s
  | .faultQueueHeadRead fdie => Sys2Proof.Machine.execFaultQueueHeadRead fdie s
  | .kick part idx offset tail => Sys2Proof.Machine.execKick part idx offset tail s
  | .queueAgeingWake part idx => Sys2Proof.Machine.execQueueAgeingWake part idx s
  | .cmdNop part idx => Sys2Proof.Machine.execCmdNop part idx s
  | .cmdLaunch part idx => Sys2Proof.Machine.execCmdLaunch part idx s
  | .cmdSignal part idx => Sys2Proof.Machine.execCmdSignal part idx s
  | .cmdWait part idx => Sys2Proof.Machine.execCmdWait part idx s
  | .cmdBarrierJob part idx => Sys2Proof.Machine.execCmdBarrierJob part idx s
  | .admission fdie => Sys2Proof.Machine.execAdmission fdie s
  | .admissionRetry launch => Sys2Proof.Machine.execAdmissionRetry launch s
  | .admissionAgeingLock launch => Sys2Proof.Machine.execAdmissionAgeingLock launch s
  | .launchComplete launch => Sys2Proof.Machine.execLaunchComplete launch s
  | .preempt tag => Sys2Proof.Machine.execPreempt tag s
  | .stopWalkReach launch => Sys2Proof.Machine.execStopWalkReach launch s
  | .preemptDeadline launch => Sys2Proof.Machine.execPreemptDeadline launch s
  | .resume tag => Sys2Proof.Machine.execResume tag s
  | .remove tag => Sys2Proof.Machine.execRemove tag s
  | .removalUnitReset tag => Sys2Proof.Machine.execRemovalUnitReset tag s
  | .moverec tag launch thread core => Sys2Proof.Machine.execMoverec tag launch thread core s
  | .movegang tag launch gang c0 c1 c2 c3 => Sys2Proof.Machine.execMovegang tag launch gang c0 c1 c2 c3 s
  | .mapq fdie slot qcb part idx => Sys2Proof.Machine.execMapq fdie slot qcb part idx s
  | .unmapq fdie slot save => Sys2Proof.Machine.execUnmapq fdie slot save s
  | .setage part a => Sys2Proof.Machine.execSetage part a s
  | .setmode value => Sys2Proof.Machine.execSetmode value s
  | .clkcut => Sys2Proof.Machine.execClkcut s
  | .debugAttach tag => Sys2Proof.Machine.execDebugAttach tag s
  | .debugDetach tag => Sys2Proof.Machine.execDebugDetach tag s
  | .releaseContinue tag launch thread edit => Sys2Proof.Machine.execReleaseContinue tag launch thread edit s
  | .releaseDeliver tag launch thread edit => Sys2Proof.Machine.execReleaseDeliver tag launch thread edit s
  | .disposeRetry tag launch core fault => Sys2Proof.Machine.execDisposeRetry tag launch core fault s
  | .disposeKill tag launch core fault => Sys2Proof.Machine.execDisposeKill tag launch core fault s
  | .createctx tag part savelen tbase savebase => Sys2Proof.Machine.execCreatectx tag part savelen tbase savebase s
  | .setfq fdie fqlog base head => Sys2Proof.Machine.execSetfq fdie fqlog base head s
  | .debugQuery launch thread => Sys2Proof.Machine.execDebugQuery launch thread s
  | .freeze asserted => Sys2Proof.Machine.execFreeze asserted s
  | .tapReadout address => Sys2Proof.Machine.execTapReadout address s
  | .packageReset images => Sys2Proof.Machine.execPackageReset images s
  | .thermalTrip watts => Sys2Proof.Machine.execThermalTrip watts s
  | .clockChangeDone => Sys2Proof.Machine.execClockChangeDone s
  | .mgmtReadStatus request item => Sys2Proof.Machine.execMgmtReadStatus request item s
  | .mgmtSetPlimit request watts => Sys2Proof.Machine.execMgmtSetPlimit request watts s
  | .mgmtFreeze request => Sys2Proof.Machine.execMgmtFreeze request s
  | .mgmtThaw request => Sys2Proof.Machine.execMgmtThaw request s
  | .mgmtReadout request address => Sys2Proof.Machine.execMgmtReadout request address s
  | .mgmtPackageReset request images => Sys2Proof.Machine.execMgmtPackageReset request images s
  | .getVersion => Sys2Proof.Machine.execGetVersion s
  | .getCapabilities => Sys2Proof.Machine.execGetCapabilities s
  | .negotiateAlgorithms => Sys2Proof.Machine.execNegotiateAlgorithms s
  | .getDigests => Sys2Proof.Machine.execGetDigests s
  | .getCertificate slot => Sys2Proof.Machine.execGetCertificate slot s
  | .challenge nonce => Sys2Proof.Machine.execChallenge nonce s
  | .getMeasurements index => Sys2Proof.Machine.execGetMeasurements index s
  | .feltPacketReceive src dst => Sys2Proof.Machine.execFeltPacketReceive src dst s
  | .heldPacketDeliver dst => Sys2Proof.Machine.execHeldPacketDeliver dst s
  | .flitRetransmit a b => Sys2Proof.Machine.execFlitRetransmit a b s
  | .linkFailed a b => Sys2Proof.Machine.execLinkFailed a b s
  | .clockBeacon die => Sys2Proof.Machine.execClockBeacon die s
  | .vAck die => Sys2Proof.Machine.execVAck die s
  | .beaconTimeout die silent => Sys2Proof.Machine.execBeaconTimeout die silent s
  | .dieRemove die => Sys2Proof.Machine.execDieRemove die s
  | .networkSplit => Sys2Proof.Machine.execNetworkSplit s
  | .renharPacketReceive fdie packet => Sys2Proof.Machine.execRenharPacketReceive fdie packet s
  | .circuitRestored part peer => Sys2Proof.Machine.execCircuitRestored part peer s
  | .peerLost part peer => Sys2Proof.Machine.execPeerLost part peer s
  | .rdmaWrite conn rkey va data => Sys2Proof.Machine.execRdmaWrite conn rkey va data s
  | .rdmaRead conn rkey va length => Sys2Proof.Machine.execRdmaRead conn rkey va length s
  | .rdmaSend conn data => Sys2Proof.Machine.execRdmaSend conn data s
  | .rdmaAtomic conn => Sys2Proof.Machine.execRdmaAtomic conn s
  | .cnpReceive conn => Sys2Proof.Machine.execCnpReceive conn s
  | .ecnPacket conn => Sys2Proof.Machine.execEcnPacket conn s
  | .rateRestore conn => Sys2Proof.Machine.execRateRestore conn s
  | .connectionError conn => Sys2Proof.Machine.execConnectionError conn s
  | .coreClockCycle => Sys2Proof.Machine.execCoreClockCycle s
  | .icinvComplete launch thread => Sys2Proof.Machine.execIcinvComplete launch thread s
  | .tlbinvComplete launch thread => Sys2Proof.Machine.execTlbinvComplete launch thread s
  | .queueRestart part idx => Sys2Proof.Machine.execQueueRestart part idx s
  | .circuitReconfiguration part peer => Sys2Proof.Machine.execCircuitReconfiguration part peer s
  | .connectionRequest conn mtu reliable => Sys2Proof.Machine.execConnectionRequest conn mtu reliable s
  | .priorityFlowControlFrame priority pause => Sys2Proof.Machine.execPriorityFlowControlFrame priority pause s

end Sys2Proof.Machine
end

