-- ==== Sys2Proof/Machine/Run.lean ====
section
/-! DEFINITION. How a run of words issues (02 R35): the words in order over what each lane held before the run, then
the run's end; the events that the package raises by itself, in the order in which this model lets them happen when
nothing else is chosen; and the state in which one word is fetched next. -/

namespace Sys2Proof.Machine

open Sys2Proof (Byte Word DWord Instr)

/-! ### A run of several words -/

/-- What the words of the run read, kept (02 R35). -/
def snapshot (t : Thread) : Thread :=
  { t with before := some { regs := t.regs, pred := t.pred, fpsm := t.fpsm, la := t.la, lb := t.lb, lm := t.lm, ls := t.ls,
                            sysstat := t.sysstat } }

/-- Streams that an operand position reads as values. -/
def operandStream : Operand → List Nat
  | .s32 c => if isStream c then [c.toNat - 68] else []
  | _ => []

/-- Streams that a query looks at. -/
def queriedStream : Instr → List Nat
  | .scrd _ _ _ a => [streamNo a]
  | .spos _ _ _ a => [streamNo a]
  | .sin _ _ _ a => [streamNo a]
  | .sdone _ _ _ a => [streamNo a]
  | _ => []

/-- Streams whose value a word looks at. -/
def peekedStream : Instr → List Nat
  | .speek _ _ _ a => [streamNo a]
  | _ => []

/-- Words that read their operands in the elected lane alone: `kmov`, tile moves, `mfence` and the privileged words that act
once (07 R152, 10 R207, 19 R288). -/
def electedReads : Instr → Bool
  | .kmov _ _ _ _ => true
  | .mtileLd _ _ _ _ => true
  | .mtileSt _ _ _ _ => true
  | .mtileZero _ _ _ _ => true
  | .mtileCvt _ _ _ _ => true
  | .mfence _ _ _ => true
  | .syswr _ _ _ _ => true
  | .modeRequest _ _ _ _ => true
  | .ctrzero _ _ _ _ => true
  | .segld _ _ _ _ => true
  | .icinv _ _ _ _ => true
  | .tlbinv _ _ _ _ => true
  | .modPub _ _ _ _ => true
  | .modRet _ _ _ _ => true
  | .poolx _ _ _ _ => true
  | .pqSet _ _ _ _ => true
  | _ => false

/-- What a look at streams leaves in the thread: those it materialises, and the copies of their entries. -/
def afterLook {α : Type} (r : Except LaneEnd (α × Thread)) (t : Thread) : Thread :=
  match r with
  | .ok x => { t with streams := x.2.streams }
  | .error _ => t

/-- A stream's value read for the run: of the thread `t0` as it was before, with what it materialises left in `t`. What goes
wrong is met by the word that reads it. -/
def readAhead (s : State) (t0 t : Thread) (n : Nat) : Thread :=
  if t.readS.any (fun x => decide (x.1 = n)) || t.readErr.any (fun x => decide (x.1 = n)) then t
  else
    match peekStream s t0 n with
    | .ok (v, _) => { afterLook (peekStream s t n) t with readS := t.readS ++ [(n, v)] }
    | .error e => { t with readErr := t.readErr ++ [(n, e)] }

/-- A stream materialised for a query. -/
def lookAhead (s : State) (t0 t : Thread) (n : Nat) : Thread :=
  if t.looked.any (fun x => decide (x.1 = n)) || t.lookErr.any (fun x => decide (x.1 = n)) then t
  else
    match lookAt s t0 n with
    | .ok (x, _) => { afterLook (lookAt s t n) t with looked := t.looked ++ [(n, x)] }
    | .error e => { t with lookErr := t.lookErr ++ [(n, e)] }

/-- A stream's value as a read before the run would give it. -/
def peekAhead (s : State) (t0 t : Thread) (n : Nat) : Thread :=
  if t.peeked.any (fun x => decide (x.1 = n)) || t.readErr.any (fun x => decide (x.1 = n)) then t
  else
    match peekStream s t0 n with
    | .ok (v, _) => { afterLook (peekStream s t n) t with peeked := (n, v) :: t.peeked }
    | .error e => { t with readErr := t.readErr ++ [(n, e)] }

/-- A lane reads a word's operands: it is guarded on, and elected where only the elected lane reads. -/
def readsWord (s : State) (iss : Issue) (t : Thread) (i : Instr) : Bool :=
  isLive iss (instrInfo i).guard t
    && (!electedReads i || (electedLane s iss (instrInfo i).guard).any fun u => isThread u.launch u.thread t)

/-- What one word reads of streams, read before the run acts. -/
def aheadFor (s : State) (iss : Issue) (t0 t : Thread) (i : Instr) : Thread :=
  if readsWord s iss t i then
    let t1 := ((instrInfo i).operands.flatMap operandStream).foldl (readAhead s t0) t
    (peekedStream i).foldl (peekAhead s t0) ((queriedStream i).foldl (lookAhead s t0) t1)
  else t

/-- A lane before the run: snapshot taken, stream operands read. -/
def prepareLane (s : State) (iss : Issue) (t : Thread) : Thread :=
  if inGroup iss t then (iss.words.foldl (fun x w => aheadFor s iss t x w.2) (snapshot t)) else t

/-- Registers that a later word of the run writes, taken from the writes of load data on its way: the later word
stands (02 R35). -/
def dropLoadWrites (iss : Issue) (i : Instr) (t : Thread) : Thread :=
  if isLive iss (instrInfo i).guard t then
    let ds := (instrInfo i).operands.flatMap destRegs
    { t with loads := t.loads.map fun p => { p with writes := p.writes.filter fun w => !ds.contains w.1 } }
  else t

/-- A word is the second of class A/B in its run. -/
def isSecond (ws : List (Nat × Instr)) (pos : Nat) : Bool := ws.any fun w => decide (w.1 < pos) && decide ((instrInfo w.2).pipe = .ab)

/-- A lane that of the run makes only the word at a position. -/
def makesOnly (pos : Nat) (t : Thread) : Bool := t.posting.any fun p => decide (p.1 = pos)

/-- Lanes of a group that make the word at a position and no other. -/
def postingLanes (s : State) (iss : Issue) (pos : Nat) : List Nat :=
  (s.threads.filter fun t => decide (t.launch = iss.launch) && makesOnly pos t).map Thread.thread

/-- One word of a run. A lane that waits in issue is away, but for the one word that it makes. -/
def runWord (iss : Issue) (s : State) (w : Nat × Instr) : State :=
  let iss0 := s.issue.getD iss
  let iss1 := { iss0 with pos := w.1, second := isSecond iss.words w.1,
                          away := iss0.away.filter fun l => !(postingLanes s iss w.1).contains l }
  match exec w.2 { s with issue := some iss1, threads := s.threads.map (dropLoadWrites iss1 w.2) } with
  | .next s1 => { s1 with issue := s1.issue.map fun i => { i with away := iss0.away } }
  | _ => s

/-- The words of a run in order. -/
def runBody (iss : Issue) (s : State) : State :=
  iss.words.foldl (runWord iss) { s with threads := s.threads.map (prepareLane s (s.issue.getD iss)) }

/-- The issue in progress, run to its end. -/
def runIssued (iss : Issue) (s : State) : Host.Outcome State Fault Refusal :=
  match iss.words with
  | [(pos, i)] =>
    match exec i { s with issue := some { iss with pos := pos } } with
    | .next s1 => .next (finishRun iss s1)
    | o => o
  | _ => .next (finishRun iss (conduct (runBody iss) 33 s))

/-- After an event, the run that it has issued is run to its end. -/
def finishEvent (o : Host.Outcome State Fault Refusal) : Host.Outcome State Fault Refusal :=
  match o with
  | .next s1 =>
    match s1.issue with
    | some iss => runIssued iss s1
    | none => .next s1
  | o => o

/-! ### What may happen -/

/-- Attestation messages. -/
def isAttestation : Instr → Bool
  | .getVersion | .getCapabilities | .negotiateAlgorithms | .getDigests | .getCertificate _ | .challenge _ | .getMeasurements _ => true
  | _ => false

/-- What the management port takes (24 R381, R385), and package reset. -/
def isManagement : Instr → Bool
  | .mgmtReadStatus _ _ | .mgmtSetPlimit _ _ | .mgmtFreeze _ | .mgmtThaw _ | .mgmtReadout _ _ | .mgmtPackageReset _ _
  | .packageReset _ => true
  | i => isAttestation i

/-- What a freeze lets through (22 R356, R357). -/
def passesFreeze : Instr → Bool
  | .tapReadout _ | .freeze _ => true
  | i => isManagement i

/-- The event may act in this state: nothing else does in a freeze, or after a failed bring-up. -/
def admits (s : State) (i : Instr) : Bool :=
  (!s.frozen || passesFreeze i) && (s.boot.failed.isNone || isManagement i)

/-! ### The scheduler -/

/-- Cores on which a thread holds a window. -/
def busyCores (s : State) : List Nat := distinct ((s.threads.filter holdsWindow).map Thread.core)

/-- Cores of which a thread's record is in a bin. -/
def binCores (s : State) : List Nat := distinct ((s.threads.filter fun t => (binnedAt t).isSome).map Thread.core)

/-- Events of one thread. -/
def threadEvents (t : Thread) : List (State → Out) :=
  [execLoadDataReturn, execStoreBufferDrain, execPoolSlotFreed, execBarrierArrival, execLdcLoad, execForwardRequest,
   execForwardGrant, execForwardNack, execForwardRetry, execPoolExhausted, execRecordAccept, execFwdAckAdd, execThreadExit,
   execIcinvComplete, execTlbinvComplete].map (fun f => f t.launch t.thread)
    ++ [AckKind.release, .ownership, .otherDie].map fun k => execReleaseAck t.launch t.thread k

/-- Events of a core. -/
def coreEvents (s : State) (c : Nat) : List (State → Out) :=
  [execCodeLineFill c, execRunIssue c] ++ ((binKeys s c).map fun k => execBinReadyByAge c k.launch k.gang k.packet k.pos)
    ++ [execDrain c]

/-- Events of a launch. -/
def launchEvents (x : Launch) : List (State → Out) :=
  [execAdmissionAgeingLock, execAdmissionRetry, execLaunchComplete, execStopWalkReach, execPreemptDeadline].map fun f => f x.handle

/-- Events of a tile operation. -/
def tileEvents (o : TileOp) : List (State → Out) := [execTaskDispatch o.core, execTaskStep o.id, execTileOpComplete o.id]

/-- Events of a queue: what stands at its head decides which command acts. -/
def queueEvents (q : Queue) : List (State → Out) :=
  [execQueueAgeingWake, execCmdNop, execCmdLaunch, execCmdSignal, execCmdWait, execCmdBarrierJob].map fun f => f q.part q.idx

/-- Events of the Felt: packets, acknowledgements, beacons that are due, and what failing links lead to. -/
def feltEvents (s : State) : List (State → Out) :=
  (s.felt.packets.map fun p => execFeltPacketReceive p.src p.dst) ++ s.felt.live.map execHeldPacketDeliver
    ++ (s.felt.live.filter (ackDue s)).map execVAck
    ++ (s.felt.live.filter (beaconDue s)).map execClockBeacon
    ++ s.felt.retries.map (fun x => execLinkFailed x.1 x.2.1)
    ++ (if s.felt.failed.isEmpty then [] else [execNetworkSplit])
    ++ (if s.felt.cutWanted then [] else s.felt.live.flatMap fun d => (silentDies s d).map (execBeaconTimeout d))

/-- The events that the package raises by itself, in this model's order (log 2). -/
def ownEvents (s : State) : List (State → Out) :=
  (busyCores s).flatMap (coreEvents s) ++ (binCores s).flatMap (coreEvents s)
    ++ s.threads.flatMap threadEvents
    ++ (s.copies.flatMap fun c => [execCopyStart c.id, execCopyComplete c.id]) ++ s.tileOps.flatMap tileEvents
    ++ (s.tileRanges.map fun r => execTileRangeRelease r.core r.gen)
    ++ (s.moves.flatMap fun m => [execPageMove m.tag m.page, execPageMoveComplete m.tag m.page])
    ++ [execFaultQueuePost 0, execFaultQueuePost 9, execFaultQueueHeadRead 0, execFaultQueueHeadRead 9]
    ++ s.queues.flatMap queueEvents ++ [execAdmission 0, execAdmission 9] ++ s.launches.flatMap launchEvents
    ++ (s.contexts.map fun x => execRemovalUnitReset x.tag) ++ feltEvents s
    ++ (if s.clockWanted.isSome then [execClockChangeDone] else [])
    ++ (s.port.connections.map fun c => execRateRestore c.num)
    ++ (distinct (s.port.inbound.map fun x => x.1)).map servePort
    ++ [serveRing 0, serveRing 9, forwardRouted, serveInbound, wantedCut] ++ (distinct s.wakes).map serveWake

/-- The event has an effect. -/
def hasEffect (s : State) (f : State → Out) : Bool :=
  match f s with
  | .next s1 => s1 != s
  | _ => true

/-- What happens when nothing is chosen: the first event with an effect, else the end of the cycle. -/
def schedule (s : State) : Out :=
  match (ownEvents s).find? (hasEffect s) with
  | some f => f s
  | none => execCoreClockCycle s

/-! ### Fetching one word -/

/-- A word that ends a run must stand at word 2 of its packet (06 R121). -/
def mustEnd (w : Word) : Bool :=
  match decodeWord w with
  | .ok i => (instrInfo i).ends != .none
  | .error _ => false

/-- A word of class A/B that writes only a latch, for a chained word to end in. -/
def followWord : Word := encode (.iadd 0 0 0 0 0 1)

/-- The code line that holds a word at word 0, or an ending word at word 2, of packet 0, with a resume descriptor of
the smallest window class behind it. -/
def lineOf (w : Word) : List Byte :=
  let nop : Word := encode (.nop 0 0)
  let ws : List Word := (if mustEnd w then [nop, nop, w] else [w, followWord, nop]) ++ [0x7F000005, 0, 0, 0, 0, 0]
  (ws.flatMap fun x => bytesOfNat x.toNat 4) ++ List.replicate 92 0

/-- Where the code of `fetchState` lies. -/
def fetchPA : Nat := 0x8000

/-- One kernel thread with a full window about to fetch a word, and the event that issues it: what stands for the
loading of a program (log 14). -/
def fetchState (s : State) (w : Word) : State :=
  let line := lineOf w
  let code : Seg := { base := BitVec.ofNat 48 fetchPA, limit := 0x1000, pshift := 0 }
  let glob : Seg := { base := 0, limit := 0x10000, pshift := 0 }
  let x : Launch := { handle := 1, ctx := 1, kernel := true, state := .running, admitted := [0], local_ := 4096,
                      seginit := [glob, glob, {}, code] }
  let e : TlbEntry := { tag := 1, base := 0, size := 65536, pa := 0, w := true, x := true, peer := true, level := 3 }
  let r : Core := { core := 0, tlb := [e], icache := [(fetchPA / 128, line)] }
  let t : Thread := { launch := 1, gang := 0, thread := 0, core := 0, window := 64, regs := List.replicate 64 0,
                      pos := if mustEnd w then 2 else 0, efftag := 1 }
  { s with
    agenda := [.runIssue 0], issue := none, frozen := false, boot := { s.boot with failed := none },
    partitions := [Partition.whole], contexts := [{ tag := 1 }], launches := [x], queues := [],
    gangs := [{ launch := 1, gang := 0, core := 0, kregs := List.replicate 32 0, segs := initialSegs x false }],
    threads := [t], cores := [r], moves := [], badLines := [], mem := writeBytes s.mem fetchPA line }

end Sys2Proof.Machine
end

