-- ==== Sys2Proof/Machine/Step.lean ====
section
/-! DEFINITION. The step of the package: the issue in progress, else the event that stands first on the agenda, else the
one the scheduler chooses. -/

namespace Sys2Proof.Machine

open Sys2Proof (Word)

/-- One step. -/
def step (s : State) : Host.Outcome State Fault Refusal :=
  match s.issue with
  | some iss => runIssued iss s
  | none =>
    match s.agenda with
    | i :: rest => if admits s i then finishEvent (exec i { s with agenda := rest }) else .next { s with agenda := rest }
    | [] =>
      if s.frozen then .fault .frozen
      else if s.boot.failed.isSome then .fault .bringUpFailed
      else finishEvent (schedule s)

/-- The state whose next step fetches and runs the instruction with these bits (log 14). -/
def State.withFetchWord (s : State) (nbits w : Nat) : State := fetchState s (BitVec.ofNat 32 (w % 2 ^ nbits))

end Sys2Proof.Machine
end

