-- ==== Sys2Proof/Safety.lean ====
section
/-! DEFINITION. The terms in which claims are made: what a running package is, the canonical form of its tables, a word
that is a whole run, and what such a run leaves where every lane goes on. -/

namespace Sys2Proof.Machine

open Sys2Proof (Byte Word DWord Instr)

/-- The package runs: it is not frozen, and its bring-up has succeeded. -/
def Running (s : State) : Prop := s.frozen = false ∧ s.boot.failed = none

/-- Memory and the accumulator store are in canonical form. -/
def Canonical (s : State) : Prop := Memory.wf s.mem = true ∧ cellsFrom 0 s.tiles = true

/-- What names a thread's row. -/
def rowKey (t : Thread) : Nat × Nat := (t.launch, t.thread)

/-- A lane before the words of its run act. -/
def Idle (t : Thread) : Prop :=
  t.readS = [] ∧ t.acts = [] ∧ t.laneEnd = none ∧ t.next = .fall ∧ t.posted = none ∧ t.ask = none ∧ t.posting = none
    ∧ t.readErr = [] ∧ t.advanced = []

/-- The issue in progress is a run of one word: its lanes are distinct, each thread has one row, nothing has acted yet. -/
structure Alone (s : State) (iss : Issue) : Prop where
  issue : s.issue = some iss
  chained : iss.chained = false
  words : ∀ w ∈ iss.words, w.1 = iss.pos
  after : iss.after = []
  away : iss.away = []
  lanes : iss.lanes.Nodup
  rows : (s.threads.map rowKey).Nodup
  idle : ∀ t ∈ s.threads, inGroup iss t = true → Idle t

/-- A lane that goes on after its run: its bookkeeping cleared, its flags made, its program counter moved. -/
def landed (iss : Issue) (t : Thread) : Thread :=
  match t.next with
  | .jump p q => { clearRun t with packet := p, pos := q }
  | _ => { clearRun t with packet := iss.fall.1, pos := iss.fall.2 }

/-- The end of a run in which every lane goes on: streams that were read advance, and every lane lands. -/
def closed (iss : Issue) (s : State) : State :=
  { s with issue := none, threads := s.threads.map fun t => if inGroup iss t then landed iss (advanceRead t) else t }

/-- A word's effect on its lanes: each active one changed by itself. -/
def act (iss : Issue) (g : BitVec 2) (h : Thread → Thread) (s : State) : State :=
  { s with threads := s.threads.map fun t => if isActive iss g t then h t else t }

/-- A lane goes on: it has met no end and asks for nothing, its word transfers at most. -/
def GoesOn (t : Thread) : Prop :=
  t.laneEnd = none ∧ t.acts = [] ∧ (t.next = .fall ∨ ∃ p q, t.next = .jump p q) ∧ t.ask = none ∧ t.posting = none
    ∧ t.posted = none

/-- `p` holds of every active lane. -/
def EachActive (s : State) (iss : Issue) (g : BitVec 2) (p : Thread → Prop) : Prop :=
  ∀ t ∈ s.threads, isActive iss g t = true → p t

/-- The active lanes read a 32-bit source: `x` of each, which leaves it `r`. -/
def Reads1 (s : State) (iss : Issue) (g : BitVec 2) (a : BitVec 7) (x : Thread → Word) (r : Thread → Thread) : Prop :=
  ∀ t ∈ s.threads, isActive iss g t = true → src32 s iss t a = .ok (x t, r t)

/-- They read two sources, one after the other. -/
def Reads2 (s : State) (iss : Issue) (g : BitVec 2) (a b : BitVec 7) (x y : Thread → Word) (r : Thread → Thread) : Prop :=
  ∀ t ∈ s.threads, isActive iss g t = true → ∃ u, src32 s iss t a = .ok (x t, u) ∧ src32 s iss u b = .ok (y t, r t)

/-- They read three. -/
def Reads3 (s : State) (iss : Issue) (g : BitVec 2) (a b c : BitVec 7) (x y z : Thread → Word) (r : Thread → Thread) : Prop :=
  ∀ t ∈ s.threads, isActive iss g t = true → ∃ u v, src32 s iss t a = .ok (x t, u) ∧ src32 s iss u b = .ok (y t, v)
    ∧ src32 s iss v c = .ok (z t, r t)

/-- A result goes to a register, or with W = 1 to its latch alone. -/
def ToRegister (d : BitVec 7) (w : BitVec 1) : Prop := isStream d = false ∨ w = 1

/-- The instruction changes each active lane by `h`, every lane of the group goes on, and nothing else changes. -/
def Does (i : Instr) (s : State) (iss : Issue) (g : BitVec 2) (h : Thread → Thread) : Prop :=
  exec i s = .next (closed iss (act iss g h s))

/-- The same where streams act after the run or lanes end: where nothing goes wrong then, the outcome is the lanes
changed by `h`, their stream effects, and the settling of each. -/
def Leads (i : Instr) (s : State) (iss : Issue) (g : BitVec 2) (h : Thread → Thread) : Prop :=
  endedLanes (runEffects iss (act iss g h s)) iss = [] → exec i s = .next (settle (runEffects iss (act iss g h s)))

/-- One lane's turn in a word whose lanes act one after another. -/
def turn (iss : Issue) (g : BitVec 2) (f : State → Thread → State) (s : State) (l : Nat) : State :=
  match threadAt s iss.launch l with
  | none => s
  | some t => if isActive iss g t then f s t else s

/-- The lanes' turns, in lane order. -/
def turns (iss : Issue) (g : BitVec 2) (f : State → Thread → State) (s : State) : State := iss.lanes.foldl (turn iss g f) s

/-- `p` holds of each active lane of a list when its turn comes. -/
def AtEachTurn (iss : Issue) (g : BitVec 2) (p : State → Thread → Prop) (f : State → Thread → State) : List Nat → State → Prop
  | [], _ => True
  | l :: ls, s => (∀ t, threadAt s iss.launch l = some t → isActive iss g t = true → p s t)
      ∧ AtEachTurn iss g p f ls (turn iss g f s l)

/-- The active lanes act in turn, each turn from `u` to a state that `r u t` allows, and nothing else changes; `fin` is what
the word does for them together afterwards. -/
def DoesInTurn (i : Instr) (s : State) (iss : Issue) (g : BitVec 2) (r : State → Thread → State → Prop) (s1 : State)
    (fin : State → State := id) : Prop :=
  ∀ f : State → Thread → State, AtEachTurn iss g (fun u t => r u t (f u t)) f iss.lanes s1 →
    exec i s = .next (closed iss (fin (turns iss g f s1)))

/-- The same where lanes append to streams after the run. -/
def LeadsInTurn (i : Instr) (s : State) (iss : Issue) (g : BitVec 2) (r : State → Thread → State → Prop) (s1 : State)
    (fin : State → State := id) : Prop :=
  ∀ f : State → Thread → State, AtEachTurn iss g (fun u t => r u t (f u t)) f iss.lanes s1 →
    endedLanes (runEffects iss (fin (turns iss g f s1))) iss = [] →
    exec i s = .next (settle (runEffects iss (fin (turns iss g f s1))))

/-- Each active lane changed by `h` in a state where the word's events are counted, and every lane goes on. -/
def DoesFrom (i : Instr) (s : State) (iss : Issue) (g : BitVec 2) (h : Thread → Thread) (s1 : State) : Prop :=
  exec i s = .next (closed iss (act iss g h s1))

/-- The same where streams act after the run. -/
def LeadsFrom (i : Instr) (s : State) (iss : Issue) (g : BitVec 2) (h : Thread → Thread) (s1 : State) : Prop :=
  endedLanes (runEffects iss (act iss g h s1)) iss = [] → exec i s = .next (settle (runEffects iss (act iss g h s1)))

/-- The word changes each active lane by `h`, whatever becomes of the lanes then: nothing voids the run. -/
def EndsFrom (i : Instr) (s : State) (iss : Issue) (g : BitVec 2) (h : Thread → Thread) (s1 : State) : Prop :=
  exec i s = .next (settle (runEffects iss (act iss g h s1)))

def Ends (i : Instr) (s : State) (iss : Issue) (g : BitVec 2) (h : Thread → Thread) : Prop := EndsFrom i s iss g h s

/-- The run in progress, as a word's lanes go on: one row for each thread, and every lane of the group goes on. -/
structure Going (s : State) (iss : Issue) : Prop where
  issue : s.issue = some iss
  rows : (s.threads.map rowKey).Nodup
  lanes : ∀ t ∈ s.threads, inGroup iss t = true → GoesOn t

/-! ### Runs of two words -/

/-- The issue in progress is a run of several words: as for one, and no lane has data on its way. -/
structure Chained (s : State) (iss : Issue) : Prop where
  issue : s.issue = some iss
  chained : iss.chained = true
  after : iss.after = []
  away : iss.away = []
  lanes : iss.lanes.Nodup
  rows : (s.threads.map rowKey).Nodup
  idle : ∀ t ∈ s.threads, inGroup iss t = true → Idle t ∧ t.before = none ∧ t.loads = []

/-- A word of class A/B with two sources: its constructor, and its result with the flags it sets. -/
abbrev PairWord := (BitVec 1 → BitVec 2 → BitVec 7 → BitVec 7 → BitVec 7 → BitVec 1 → Instr) × (Rounding → Word → Word → Word × BitVec 8)

/-- Words of two sources of several families. -/
def pairWords : List PairWord :=
  [(.iadd, fun _ x y => (x + y, 0)), (.isub, fun _ x y => (x - y, 0)), (.imul, fun _ x y => (x * y, 0)),
   (.and, fun _ x y => (x &&& y, 0)), (.or, fun _ x y => (x ||| y, 0)), (.xor, fun _ x y => (x ^^^ y, 0)),
   (.andn, fun _ x y => (x &&& ~~~y, 0)),
   (.faddF32, fun r x y => single (fun u v _ => fAdd fmtF32 r u v) x y 0),
   (.fsubF32, fun r x y => single (fun u v _ => fSub fmtF32 r u v) x y 0),
   (.fmulF32, fun r x y => single (fun u v _ => fMul fmtF32 r u v) x y 0),
   (.faddBf16x2, fun r x y => packed (fun u v _ => fAdd fmtBf16 r u v) x y 0),
   (.fmulF16x2, fun r x y => packed (fun u v _ => fMul fmtF16 r u v) x y 0)]

/-- What such a word leaves of a lane that is guarded on: `t` is the lane before the run, which gives the operands, and `u`
the lane as the words before have left it (02 R35, 06 R123). -/
def pairLane (f : Rounding → Word → Word → Word × BitVec 8) (s : State) (iss : Issue) (g : BitVec 2) (d a b : BitVec 7) (w : BitVec 1)
    (t u : Thread) : Thread :=
  if guardOn g t then resultF iss .ab d w (f (laneRounding t) (plain32 s iss t a) (plain32 s iss t b)) u else u

/-! ### Shapes of words -/

/-- A word with one source and a 32-bit result on a pipe. -/
def Word1 (i : Instr) (p : Pipe) (g : BitVec 2) (d a : BitVec 7) (w : BitVec 1) (f : Word → Word) : Prop :=
  ∀ (s : State) (iss : Issue) (x : Thread → Word) (r : Thread → Thread), Alone s iss → Reads1 s iss g a x r →
    (ToRegister d w → Does i s iss g fun t => result32 iss p d w (f (x t)) (r t))
      ∧ Leads i s iss g fun t => result32 iss p d w (f (x t)) (r t)

/-- A word with two sources and a 32-bit result on a pipe; `f` may look at the lane's thread. -/
def Word2 (i : Instr) (p : Pipe) (g : BitVec 2) (d a b : BitVec 7) (w : BitVec 1) (f : Thread → Word → Word → Word) : Prop :=
  ∀ (s : State) (iss : Issue) (x y : Thread → Word) (r : Thread → Thread), Alone s iss → Reads2 s iss g a b x y r →
    (ToRegister d w → Does i s iss g fun t => result32 iss p d w (f t (x t) (y t)) (r t))
      ∧ Leads i s iss g fun t => result32 iss p d w (f t (x t) (y t)) (r t)

/-- A word with three sources, D the third, and a 32-bit result. -/
def Word3 (i : Instr) (p : Pipe) (g : BitVec 2) (d a b : BitVec 7) (w : BitVec 1) (f : Word → Word → Word → Word) : Prop :=
  ∀ (s : State) (iss : Issue) (x y z : Thread → Word) (r : Thread → Thread), Alone s iss → Reads3 s iss g a b d x y z r →
    (ToRegister d w → Does i s iss g fun t => result32 iss p d w (f (x t) (y t) (z t)) (r t))
      ∧ Leads i s iss g fun t => result32 iss p d w (f (x t) (y t) (z t)) (r t)

/-- A word with two 64-bit sources and a 64-bit result. -/
def Word64 (i : Instr) (p : Pipe) (g : BitVec 2) (d a b : BitVec 7) (w : BitVec 1) (f : DWord → DWord → DWord) : Prop :=
  ∀ (s : State) (iss : Issue), Alone s iss →
    Does i s iss g fun t => result64 iss p d w (f (src64 s iss t a) (src64 s iss t b)) t

/-- A floating-point word with one source: its result, and the flags that it sets. -/
def FWord1 (i : Instr) (p : Pipe) (g : BitVec 2) (d a : BitVec 7) (w : BitVec 1) (f : Rounding → Word → Word × BitVec 8) : Prop :=
  ∀ (s : State) (iss : Issue) (x : Thread → Word) (r : Thread → Thread), Alone s iss → Reads1 s iss g a x r →
    (ToRegister d w → Does i s iss g fun t => resultF iss p d w (f (laneRounding t) (x t)) (r t))
      ∧ Leads i s iss g fun t => resultF iss p d w (f (laneRounding t) (x t)) (r t)

/-- A floating-point word with two sources. -/
def FWord2 (i : Instr) (p : Pipe) (g : BitVec 2) (d a b : BitVec 7) (w : BitVec 1)
    (f : Rounding → Word → Word → Word × BitVec 8) : Prop :=
  ∀ (s : State) (iss : Issue) (x y : Thread → Word) (r : Thread → Thread), Alone s iss → Reads2 s iss g a b x y r →
    (ToRegister d w → Does i s iss g fun t => resultF iss p d w (f (laneRounding t) (x t) (y t)) (r t))
      ∧ Leads i s iss g fun t => resultF iss p d w (f (laneRounding t) (x t) (y t)) (r t)

/-- A floating-point word with three sources. -/
def FWord3 (i : Instr) (p : Pipe) (g : BitVec 2) (d a b : BitVec 7) (w : BitVec 1)
    (f : Rounding → Word → Word → Word → Word × BitVec 8) : Prop :=
  ∀ (s : State) (iss : Issue) (x y z : Thread → Word) (r : Thread → Thread), Alone s iss → Reads3 s iss g a b d x y z r →
    (ToRegister d w → Does i s iss g fun t => resultF iss p d w (f (laneRounding t) (x t) (y t) (z t)) (r t))
      ∧ Leads i s iss g fun t => resultF iss p d w (f (laneRounding t) (x t) (y t) (z t)) (r t)

/-- A word with one source that writes a predicate, or with `pair` a predicate and its negation. -/
def Test1 (i : Instr) (g : BitVec 2) (pair : Bool) (p : BitVec 3) (a : BitVec 7) (w : BitVec 1) (f : Word → Bool) : Prop :=
  ∀ (s : State) (iss : Issue) (x : Thread → Word) (r : Thread → Thread), Alone s iss → Reads1 s iss g a x r →
    Does i s iss g fun t =>
      if pair then resultPair iss .ab p.toNat w (f (x t)) (r t) else resultPred iss .ab p.toNat w (f (x t)) (r t)

/-- A word with two sources that writes a predicate or a pair, and the flags it sets. -/
def Test2 (i : Instr) (g : BitVec 2) (pair : Bool) (p : BitVec 3) (a b : BitVec 7) (w : BitVec 1)
    (f : Word → Word → Bool × BitVec 8) : Prop :=
  ∀ (s : State) (iss : Issue) (x y : Thread → Word) (r : Thread → Thread), Alone s iss → Reads2 s iss g a b x y r →
    Does i s iss g fun t => addFlags (f (x t) (y t)).2
      (if pair then resultPair iss .ab p.toNat w (f (x t) (y t)).1 (r t)
       else resultPred iss .ab p.toNat w (f (x t) (y t)).1 (r t))

/-- A word without 32-bit sources whose lanes each change by `f`. -/
def Plain (i : Instr) (g : BitVec 2) (f : State → Issue → Thread → Thread) : Prop :=
  ∀ (s : State) (iss : Issue), Alone s iss → Does i s iss g (f s iss)

/-- Such a word whose result goes to a 32-bit destination. -/
def PlainResult (i : Instr) (g : BitVec 2) (d : BitVec 7) (w : BitVec 1) (f : State → Issue → Thread → Thread) : Prop :=
  ∀ (s : State) (iss : Issue), Alone s iss → (ToRegister d w → Does i s iss g (f s iss)) ∧ Leads i s iss g (f s iss)

/-- The ten conditions of `cmp` and `cmpi` (06 Table 6-3). -/
def conditionMeant (k : BitVec 4) (x y : Word) : Bool :=
  [x == y, x != y, x.slt y, x.sle y, y.slt x, y.sle x, x.ult y, x.ule y, y.ult x].getD k.toNat (y.ule x)

/-- The active lanes' displaced targets: packets inside the code segment that are no literal (06 R130). -/
def TargetsAt (s : State) (iss : Issue) (g : BitVec 2) (disp : Thread → Int) (p : Thread → Nat) : Prop :=
  ∀ t ∈ s.threads, isActive iss g t = true → (iss.packet : Int) + disp t = p t
    ∧ packetAddr (p t) + 12 ≤ (segAt (gangOf s t).segs 5).limit.toNat ∧ markedAt s t (p t) = false

/-- A displaced target of one lane: a packet inside the code segment that is no literal (06 R130). -/
def TargetAt (s : State) (t : Thread) (target : Int) (p : Nat) : Prop :=
  target = p ∧ packetAddr p + 12 ≤ (segAt (gangOf s t).segs 5).limit.toNat ∧ markedAt s t p = false

/-! ### One lane -/

/-- A word that is a whole run, of a group of one thread, guarded on. -/
structure OneLane (s : State) (iss : Issue) (g : BitVec 2) (t : Thread) : Prop where
  alone : Alone s iss
  lanes : iss.lanes = [t.thread]
  launch : t.launch = iss.launch
  row : t ∈ s.threads
  on : guardOn g t = true

/-- Threads keep what they are, but for one. -/
def ThreadsKept (s s' : State) (l n : Nat) : Prop := ∀ l' n', (l', n') ≠ (l, n) → threadAt s' l' n' = threadAt s l' n'

/-- The issue is over, and nothing else has changed but one thread's row and, on its core, the record pool and the
counters. -/
def OthersKept (s s' : State) (t : Thread) : Prop :=
  ThreadsKept s s' t.launch t.thread ∧ s' = { s with issue := none, threads := s'.threads, cores := s'.cores }
    ∧ (∀ c, c ≠ t.core → coreOf s' c = coreOf s c)
    ∧ coreOf s' t.core = { coreOf s t.core with pool := (coreOf s' t.core).pool, counters := (coreOf s' t.core).counters }

/-- A record that a thread leaves with a mask fits its gang's reservation, its context runs, and the code it resumes at
is in no retired module. -/
structure CanEnd (s : State) (t : Thread) (m : DWord) (packet : Nat) : Prop where
  here : t.detachedHere = false
  fits : classOf (0x40 + 4 * popMask m + 48 * t.streams.length + 16 * t.sbuf.length) ≤ classBytes (launchOf s t.launch).rclass
  runs : (ctxOfLaunch s t.launch).run = .running
  code : isRetired (ctxOfLaunch s t.launch) (packetAddr packet) = false

/-- A voluntary end (02 Table 2-3): the record resumes at word 0 of the packet after the descriptor, the mask's
registers carried and the others zero, latches dead, flags made, trap and fault words zero. -/
def LeavesRecord (i : Instr) (s : State) (t : Thread) (place : Place) (packet : Nat) (m : DWord) : Prop :=
  ∃ s' r, exec i s = .next s' ∧ threadAt s' t.launch t.thread = some r ∧ OthersKept s s' t
    ∧ r.place = place ∧ r.packet = packet ∧ r.pos = 0 ∧ r.carry = m
    ∧ (∀ n, n < 64 → regGet r.regs n = if m.getLsbD n then regGet (flushLoads t).regs n else 0) ∧ r.loads = []
    ∧ r.pred = t.pred ∧ r.fpsm = fpsmAfter t ∧ r.sbuf = t.sbuf ∧ r.la = none ∧ r.lb = none ∧ r.lm = none ∧ r.ls = none
    ∧ r.sysstat = 0 ∧ r.trapWord = 0 ∧ r.trapRec = false ∧ r.forced = false ∧ r.tfword = 0
    ∧ r.efftag = (launchOf s t.launch).ctx

/-- A trap (02 R39, R25): a trap record at the launch's handler entry with the whole window, its latches dead and its
trap word made of the code, the word's place and its packet, binned at once. -/
def TrapsTo (i : Instr) (s : State) (t : Thread) (code packet pos : Nat) : Prop :=
  ∃ s' r, exec i s = .next s' ∧ threadAt s' t.launch t.thread = some r ∧ OthersKept s s' t
    ∧ r.place = .binned (now s) ∧ r.packet = (launchOf s t.launch).trappkt ∧ r.pos = 0
    ∧ r.trapRec = true ∧ r.tfword = BitVec.ofNat 64 (code + pos % 4 * 256 + packet % 2 ^ 48 * 65536)
    ∧ r.carry = BitVec.ofNat 64 (2 ^ t.window - 1)
    ∧ (∀ n, n < 64 → n < t.window → regGet r.regs n = regGet (flushLoads t).regs n)
    ∧ r.la = none ∧ r.lb = none ∧ r.lm = none ∧ r.ls = none ∧ r.forced = false ∧ r.sbuf = t.sbuf

/-! ### Memory -/

/-- The target's memory is a peer's or the host's. -/
def isRemote (g : Target) (loc : Nat) : Bool :=
  match g with
  | .peer _ _ => true
  | .virt _ _ => isHostLoc loc
  | _ => false

/-- The answer to the lane's request `r` has come; an atomic's brings the old value. -/
def Answered (t : Thread) (r : RemoteRead) (old : Nat) : Prop := answerTo t r = some old

/-- The request of `n` bytes at a location that a lane sends: to the peer, or to the host through its window. -/
def requestFor (s : State) (t : Thread) (g : Target) (loc n : Nat) (kind : RenharKind) (acquire : Bool) : RemoteRead :=
  { peer := match g with | .peer k _ => some k | _ => none, va := targetVa g, loc := loc, size := n,
    wpa := match g with | .peer _ _ => 0 | _ => hostPa s t.core t.efftag g, kind := kind, acquire := acquire }

/-- What a lane asks a peer before a write there: whether the access translates at its home (09 R180; log 97). -/
def translation (k va loc n : Nat) (a : Acc) (u : Use) : RemoteRead :=
  { peer := some k, va := va, loc := loc, size := n, kind := .translate va (accCode a) (u == .atomic) }

/-- Where the access is a peer's, its home has answered that it translates. -/
def Translates (t : Thread) (g : Target) (loc n : Nat) (a : Acc) (u : Use) : Prop :=
  match g with
  | .peer k va => (answerTo t (translation k va loc n a u)).isSome = true
  | _ => True

/-- Where it has asked for nothing and `r` is not answered, the one lane of the run leaves the request `r` to be sent, and waits
in issue for the answer; nothing else changes. -/
def Asks (i : Instr) (s : State) (t : Thread) (r : RemoteRead) : Prop :=
  t.remoteLoad = none → answerTo t r = none →
    exec i s = .next (putThread { s with issue := none }
      { clearRun t with waiting := some .data, remoteLoad := some (.wanted r), answers := t.answers, kept := t.kept })

/-- Where a plain load of `n` bytes still reads: nowhere in the thread's own window. -/
def readsAt (g : Target) (loc n : Nat) : Option (Nat × Nat) :=
  match g with
  | .window _ => none
  | _ => some (loc, n)

/-- A load of `n` bytes on its way: to registers from x(d), or to a stream that takes it after the run; `read` says where
its data is still to come from, `acks` that it acknowledges a release. -/
def loaded (iss : Issue) (d : BitVec 7) (n v : Nat) (read : Option (Nat × Nat)) (acks : Bool) (t : Thread) : Thread :=
  let t1 := if isStream d then addAppend iss.pos (d.toNat - 68) (BitVec.ofNat 32 v) t else t
  let k := (n + 3) / 4
  { t1 with loads := t1.loads ++ [{ writes := if isStream d then [] else ((List.range k).map (· + d.toNat)).zip (wordsOf v k),
                                    latch := some ⟨BitVec.ofNat 32 v, iss.lanes⟩, loc := read, acks := acks }] }

/-- A store of `n` bytes can be taken now: a posted one has its entries, and a peer's its credit; one to the other die's
cell store has a slot on the Felt. -/
def CanStore (s : State) (t : Thread) (g : Target) (loc n : Nat) : Prop :=
  match g with
  | .window _ => True
  | .cell l other => loc = l ∧ (other = true → feltReady s (dieOfCore t.core) (cellDie s l) = true)
  | .virt _ _ => t.sbuf.length + entriesFor n ≤ 8
  | .peer _ _ => t.sbuf.length + entriesFor n ≤ 8 ∧ peerRoom t (entriesFor n) = true

/-- A store of `n` bytes of `v`: at once in a window or the own die's cell store; to the other die's as a packet that writes
when it is delivered; to global memory and to peers as posted entries, those through the code segment under the launch's
own tag. -/
def stored (s : State) (t : Thread) (g : Target) (loc n v : Nat) : State :=
  match g with
  | .window off => putThread s { t with regs := windowSet t.regs off n v }
  | .cell l false => putThread { s with mem := writeNat s.mem l n v } t
  | .cell l true =>
    putThread (threadPost s t (cellDie s l) false (.write l n v) (some .otherDie)) { t with dieUnack := t.dieUnack + 1 }
  | .virt va code => putThread s
      { t with sbuf := t.sbuf ++ entriesOf va loc n v false 0 (if code then 0 else t.efftag) (hostPa s t.core t.efftag g) }
  | .peer p va => putThread s { t with sbuf := t.sbuf ++ entriesOf va loc n v true p t.efftag 0 }

/-- What a release waits for (05 Table 5-3): no posted store, no unacknowledged peer write, and without causal delivery
nothing of its own on the way. -/
def Released (s : State) (t : Thread) : Prop :=
  t.sbuf = [] ∧ t.peerAck = 0 ∧ (s.mode.causal = true ∨ (t.ownUnack = 0 ∧ t.dieUnack = 0 ∧ t.relUnack = 0))

/-- A write performed at its home at once finds its packet taken: the peer's credit, a slot on the Felt. -/
def CanSend (s : State) (t : Thread) (g : Target) (loc : Nat) : Prop :=
  (targetPeerf g = true → peerRoom t 1 = true) ∧ feltReady s (dieOfCore t.core) (targetDie s t g loc) = true

/-- A copy entered with its slot: numbered, with the segments and the tag of its thread, in its open batch. -/
def copyEntered (s : State) (t : Thread) (c : Copy) (rs : List (AccessClass × DWord × Nat)) : State :=
  let c1 := { c with id := s.nextOp, core := t.core, launch := t.launch, gang := t.gang, thread := t.thread,
                     cls := classOfRanges s t rs, segs := (gangOf s t).segs, tag := t.efftag, detachedHere := t.detachedHere }
  let b := t.openBatch
  putThread { s with nextOp := s.nextOp + 1, copies := s.copies ++ [c1] }
    { t with openBatch := { issued := true, ops := b.ops ++ [s.nextOp], bytes := b.bytes + c.nominal } }

/-! ### Steps -/

/-- A thread stands at one word that is a run by itself and passes the checks of a run (06 R121, R135): the word, its
instruction, and where a lane goes on that the word does not move. -/
structure StandsAt (s : State) (t : Thread) (l : List Byte) (w : Word) (i : Instr) (fall : Nat × Nat) (mask : DWord) : Prop where
  fetch : fetchLine s t (packetAddr t.packet) = .line l
  code : isLiteral l (t.packet % 10) = false
  pos : t.pos < 3
  word : w = lineWord l (t.packet % 10 * 12 + 4 * t.pos)
  single : w.getLsbD 31 = false
  decoded : decodeWord w = .ok i
  place : (instrInfo i).ends = .none ∨ t.pos = 2
  allowed : (instrInfo i).privileged = true → (launchOf s t.launch).kernel = true
  operands : (instrInfo i).operands.all operandOk = true
  literal : literalView s t t.packet t.pos i = none
  inner : t.pos < 2 → fall = (t.packet, t.pos + 1) ∧ mask = 0
  after : t.pos = 2 → (instrInfo i).ends ≠ .segment true → fall = (t.packet + 1, 0) ∧ mask = 0
  record : t.pos = 2 → (instrInfo i).ends = .segment true →
    fall = (resumePacket t.packet, 0) ∧ descriptorView s t l t.packet = .ok mask

/-- A core may issue: it is in service, has issued nothing in this cycle, and its pipes have no error to show. -/
structure MayIssue (s : State) (c : Nat) : Prop where
  issue : s.issue = none
  fresh : (coreOf s c).issued = false
  inService : (coreOf s c).inService = true
  errors : pendingErrors (coreOf s c) 4 = 0
  retried : ∀ k ∈ (coreOf s c).retried, k.unit ≠ 4

/-- The state in which a core picks: the lines that its threads lack are asked for. -/
def asking (s : State) (c : Nat) : State := mapCore s c (addFills (missingLines s c))

/-- A record that has reached its place (02 Table 2-3): at once in its bin, where its context runs. -/
def Reaches (s s' : State) (t : Thread) (p : Place) : Prop :=
  match p with
  | .binned _ => (ctxOfLaunch s t.launch).run = .running → isRetired (ctxOfLaunch s t.launch) (codeAddr t) = false →
      threadAt s' t.launch t.thread = some { t with place := .binned (now s) }
  | .faultBin w n => threadAt s' t.launch t.thread = some { t with place := .faultBin w n }
      ∧ s'.faults.any (sameFault t.launch t.core w) = true
  | p => threadAt s' t.launch t.thread = some { t with place := p }

/-- A die can send a message to any die: in every state with this Felt under this mode. -/
def CanMessage (s : State) (src tag : Nat) : Prop :=
  ∀ (u : State) (dst : Nat), u.felt = s.felt → u.mode = s.mode → (message u src dst true tag).isSome = true

/-- The instruction answers a next state in which `p` holds. -/
def Leaves (i : Instr) (s : State) (p : State → Prop) : Prop := ∃ s', exec i s = .next s' ∧ p s'

/-- A command of Milliner is done, with status 0 (24 R384), and leaves `p`. -/
def Succeeds (i : Instr) (s : State) (p : State → Prop) : Prop := ∃ s', exec i s = .next s' ∧ s'.cmdStatus = 0 ∧ p s'

/-- The operation leaves what its thread waits for (11 R238, R239). -/
def Reported (s' : State) (l n id : Nat) : Prop :=
  ∀ u, threadAt s' l n = some u → id ∉ u.openBatch.ops ∧ ∀ b ∈ u.batches, id ∉ b.ops

/-! ### Numbers -/

/-- The magnitude that a code below the sign stands for, in units of the format's smallest subnormal, the exponents going
on beyond its largest finite value (03 R47, R49). -/
def Fmt.count (f : Fmt) (c : Nat) : Nat :=
  if c < 2 ^ f.fbits then c else (2 ^ f.fbits + c % 2 ^ f.fbits) * 2 ^ (c / 2 ^ f.fbits - 1)

def Fmt.isNegative (f : Fmt) (x : Nat) : Bool := decide (x / f.signBit % 2 = 1)

/-- A finite code's number in those units. -/
def Fmt.number (f : Fmt) (x : Nat) : Int := signed (f.isNegative x) (f.count (x % f.signBit))

/-- A code of the format, its sign included, that is finite; an infinity; a NaN; a NaN that is signalling (08 R165). -/
def Fmt.Finite (f : Fmt) (x : Nat) : Prop := x < 2 * f.signBit ∧ x % f.signBit ≤ f.top

def Fmt.Infinite (f : Fmt) (x : Nat) : Prop := x < 2 * f.signBit ∧ f.hasInf = true ∧ x % f.signBit = f.top + 1

def Fmt.NotNumber (f : Fmt) (x : Nat) : Prop :=
  x < 2 * f.signBit ∧ (if f.hasInf then f.top + 1 else f.top) < x % f.signBit

def Fmt.signals (f : Fmt) (x : Nat) : Bool :=
  decide ((if f.hasInf then f.top + 1 else f.top) < x % f.signBit) && decide (x / 2 ^ (f.fbits - 1) % 2 = 0)

/-- NV where a signalling NaN is among the operands. -/
def invalidIf (b : Bool) : BitVec 8 := if b then flagNV else 0

/-- The number above the magnitude is taken (03 R49, R50): `lo` and `hi` are adjacent values of the format around `m`, over
one denominator, and `odd` the lowest bit of the lower one's code. -/
def takesUpper (r : Rounding) (neg odd : Bool) (lo hi m : Nat) : Bool :=
  match r with
  | .rne => decide (lo + hi < 2 * m) || (decide (lo + hi = 2 * m) && odd)
  | .rz => false
  | .ru => !neg && decide (lo < m)
  | .rd => neg && decide (lo < m)
  | .sto k => decide ((k + 1) * (hi - lo) ≤ 65536 * (m - lo))

/-- A stochastic rounding beyond the largest finite magnitude is that magnitude (03 R50). -/
def isSto : Rounding → Bool
  | .sto _ => true
  | _ => false

/-- An overflow gives an infinity (03 R51). -/
def overflowsUp (r : Rounding) (neg : Bool) : Bool :=
  match r with
  | .rne => true
  | .ru => !neg
  | .rd => neg
  | _ => false

/-- The magnitude m / q × 2^e of a sign, rounded once to a format: the code and the flags (03 R49 to R52). All magnitudes
are compared over the denominator q × 2^d; `l` is the code of the value just below, `tiny` says that the magnitude stays
below the smallest normal also when it is rounded as if exponents had no bound. -/
def RoundedTo (f : Fmt) (r : Rounding) (neg : Bool) (m q : Nat) (e : Int) (y : Nat × BitVec 8) : Prop :=
  let d := (f.low - e).toNat
  let value := fun c => f.count c * q * 2 ^ d
  let v := m * 2 ^ (e - f.low).toNat
  let unit := value 1
  let least := value (2 ^ f.fbits)
  let tiny := decide (v < least) && !(takesUpper r neg true (2 * least - unit) (2 * least) (2 * v))
  ∃ l, value l ≤ v ∧ v < value (l + 1) ∧
    let c := if takesUpper r neg (decide (l % 2 = 1)) (value l) (value (l + 1)) v then l + 1 else l
    if f.top < c ∨ (isSto r = true ∧ value f.top < v) then
      y = (f.withSign neg (if f.hasInf && overflowsUp r neg then f.top + 1 else f.top), flagOF ||| flagNX)
    else
      y = (f.withSign neg c, (if value l = v then 0 else flagNX) ||| (if value l ≠ v ∧ tiny = true then flagUF else 0))

/-- An exact number v × 2^e delivered in a format: rounded once, and a zero with the sign given. -/
def Delivers (f : Fmt) (r : Rounding) (zeroNeg : Bool) (v e : Int) (y : Nat × BitVec 8) : Prop :=
  if v = 0 then y = (f.withSign zeroNeg 0, 0) else RoundedTo f r (decide (v < 0)) v.natAbs 1 e y

/-- The sign of an exact zero sum of numbers of two signs (03 R49). -/
def zeroSign (r : Rounding) (a b : Bool) : Bool := if a = b then a else decide (r = .rd)

/-- The integer that v / 2^k is rounded to (08 R173). -/
def roundedInteger (r : Rounding) (v : Int) (k : Nat) : Int :=
  let n := v.natAbs / 2 ^ k
  let up := takesUpper r (decide (v < 0)) (decide (n % 2 = 1)) (n * 2 ^ k) ((n + 1) * 2 ^ k) v.natAbs
  signed (decide (v < 0)) (if up then n + 1 else n)

/-! ### Folds (03 R65 to R72) -/

/-- What a matrix element, a product or a sum amounts to: a number in units of some power of two, an infinity, or a NaN. -/
inductive Amount where
  | number (v : Int)
  | infinite (neg : Bool)
  | nan
  deriving DecidableEq, Repr

/-- A code's amount, in units of its format's smallest subnormal. -/
def Fmt.amount (f : Fmt) (x : Nat) : Amount :=
  if (if f.hasInf then f.top + 1 else f.top) < x % f.signBit then .nan
  else if f.top < x % f.signBit then .infinite (f.isNegative x)
  else .number (f.number x)

/-- An element's amount by its type (10 Table 10-2), and the exponent of its unit. -/
def typeAmount (ty x : Nat) : Amount × Int :=
  match ty with
  | 0 => (fmtBf16.amount x, fmtBf16.low)
  | 1 => (fmtF16.amount x, fmtF16.low)
  | 2 => (fmtE4m3.amount x, fmtE4m3.low)
  | 3 => (fmtE5m2.amount x, fmtE5m2.low)
  | 4 => (fmtE2m1.amount x, fmtE2m1.low)
  | 5 => (.number (tshValue x), -6)
  | _ => (fmtF32.amount x, fmtF32.low)

/-- A product: an infinity times a zero is a NaN. -/
def Amount.times : Amount → Amount → Amount
  | .number u, .number v => .number (u * v)
  | .infinite m, .infinite n => .infinite (m != n)
  | .infinite n, .number v => if v = 0 then .nan else .infinite (n != decide (v < 0))
  | .number v, .infinite n => if v = 0 then .nan else .infinite (n != decide (v < 0))
  | _, _ => .nan

def Amount.value : Amount → Int
  | .number v => v
  | _ => 0

/-- The exact sum of a group's products: infinities of both signs make a NaN. -/
def Amount.total (l : List Amount) : Amount :=
  if l.contains .nan || (l.contains (.infinite true) && l.contains (.infinite false)) then .nan
  else if l.contains (.infinite true) then .infinite true
  else if l.contains (.infinite false) then .infinite false
  else .number (l.map Amount.value).sum

/-- A group's sum `t`, in units of 2^unit, taken into an FP32 accumulator under a scale exponent, or a scale that is a NaN, with one
rounding (03 R66). -/
def TakesIn (scale : Option Int) (unit : Int) (acc : Nat) (t : Amount) (z : Nat) : Prop :=
  match scale, t with
  | none, _ => z = fmtF32.quiet
  | some _, .nan => z = fmtF32.quiet
  | some _, .infinite n =>
    (match fmtF32.amount acc with
      | .nan => z = fmtF32.quiet
      | .infinite m => z = if m = n then acc else fmtF32.quiet
      | .number _ => z = fmtF32.infinity n)
  | some e, .number v =>
    if v = 0 then z = acc
    else
      match fmtF32.amount acc with
      | .nan => z = fmtF32.quiet
      | .infinite _ => z = acc
      | .number a =>
        let low := min fmtF32.low (unit + e)
        ∃ flags, Delivers fmtF32 .rne false (a * 2 ^ (fmtF32.low - low).toNat + v * 2 ^ (unit + e - low).toNat) low (z, flags)

/-- Sums taken in one after another. -/
def FoldsTo (scale : Option Int) (unit : Int) : Nat → List Amount → Nat → Prop
  | acc, [], z => z = acc
  | acc, t :: ts, z => ∃ c, TakesIn scale unit acc t c ∧ FoldsTo scale unit c ts z

/-- The pairs of elements whose products enter a sum: those that no bitmap leaves out. -/
def pairsIn (a b : List (Option Nat)) : List (Nat × Nat) :=
  (a.zip b).filterMap fun x => match x with | (some u, some v) => some (u, v) | _ => none

/-- The exponent of an E8M0 scale of a block: 255 is a NaN, none is 2^0 (03 R57). -/
def scaleMeant (c : Option Nat) : Option Int :=
  match c with
  | none => some 0
  | some x => if x = 255 then none else some ((x : Int) - 127)

/-! ### What engines move -/

/-- An engine's target that is on its own die: no peer's, no host's, no window. -/
def Near (s : State) (u : EngineUser) (g : Target) (loc : Nat) : Prop :=
  accessDie s u.who.launch u.who.core g loc = dieOfCore u.who.core ∧ targetPeerf g = false ∧ enginePa s u g = 0
    ∧ ∀ off, g ≠ .window off

/-- The conversion of an FP32 code to a format, rounded to nearest (03 R48, R51, R55). -/
def Narrows (t : Fmt) (x y : Nat) : Prop :=
  (fmtF32.Finite x → ∃ flags, RoundedTo t .rne (fmtF32.isNegative x) (fmtF32.count (x % fmtF32.signBit)) 1 fmtF32.low (y, flags))
  ∧ (fmtF32.Infinite x → y = if t.hasInf then t.infinity (fmtF32.isNegative x) else t.quiet)
  ∧ (fmtF32.NotNumber x → y = t.quiet)

end Sys2Proof.Machine
end

