-- ==== Sys2Proof/Certificates/Slice0/Obligations.lean ====
section
/-! DEFINITION. The statements for the provers. -/

open Sys2Proof Sys2Proof.Machine

set_option Elab.async false

/-! ### Integer words (07) -/

/-- 07 R143, R144, R149: sums, differences and products modulo 2^32, the high halves of products, and sums and differences
of register pairs modulo 2^64. -/
def Obligations.IntegerSumsAndProducts : Prop :=
  ∀ (c : BitVec 1) (g : BitVec 2) (d a b : BitVec 7) (w : BitVec 1) (i : BitVec 8),
    Word2 (.iadd c g d a b w) .ab g d a b w (fun _ x y => x + y)
    ∧ Word2 (.isub c g d a b w) .ab g d a b w (fun _ x y => x - y)
    ∧ Word2 (.imul c g d a b w) .ab g d a b w (fun _ x y => x * y)
    ∧ Word2 (.imulhS32 c g d a b w) .ab g d a b w
        (fun _ x y => BitVec.extractLsb' 32 32 (x.signExtend 64 * y.signExtend 64))
    ∧ Word2 (.imulhN32 c g d a b w) .ab g d a b w (fun _ x y => BitVec.extractLsb' 32 32 (x.setWidth 64 * y.setWidth 64))
    ∧ Word3 (.imad c g d a b w) .ab g d a b w (fun x y z => x * y + z)
    ∧ Word1 (.iaddi c g d a i) .ab g d a 0 (fun x => x + i.signExtend 32)
    ∧ Word1 (.imuli c g d a i) .ab g d a 0 (fun x => x * i.signExtend 32)
    ∧ PlainResult (.movi c g d i) g d 0 (fun _ iss t => result32 iss .ab d 0 (i.signExtend 32) t)
    ∧ Word64 (.iadd64 c g d a b w) .ab g d a b w (fun x y => x + y)
    ∧ Word64 (.isub64 c g d a b w) .ab g d a b w (fun x y => x - y)

/-- 07 R143, R145, R149: bitwise words and counts of bits; a shift takes the whole of its amount, so that 32 or more
shifts everything out, and a rotation takes it modulo 32. -/
def Obligations.BitwiseWordsAndShifts : Prop :=
  ∀ (c : BitVec 1) (g : BitVec 2) (d a b : BitVec 7) (w : BitVec 1) (i : BitVec 8) (n : BitVec 5),
    Word2 (.and c g d a b w) .ab g d a b w (fun _ x y => x &&& y)
    ∧ Word2 (.or c g d a b w) .ab g d a b w (fun _ x y => x ||| y)
    ∧ Word2 (.xor c g d a b w) .ab g d a b w (fun _ x y => x ^^^ y)
    ∧ Word2 (.andn c g d a b w) .ab g d a b w (fun _ x y => x &&& ~~~y)
    ∧ Word1 (.andi c g d a i) .ab g d a 0 (fun x => x &&& i.signExtend 32)
    ∧ Word1 (.ori c g d a i) .ab g d a 0 (fun x => x ||| i.signExtend 32)
    ∧ Word1 (.xori c g d a i) .ab g d a 0 (fun x => x ^^^ i.signExtend 32)
    ∧ Word1 (.popc c g d a w) .ab g d a w (fun x => BitVec.ofNat 32 ((List.range 32).countP fun k => x.getLsbD k))
    ∧ Word1 (.clz c g d a w) .ab g d a w (fun x => x.clz)
    ∧ Word1 (.ctz c g d a w) .ab g d a w (fun x => x.reverse.clz)
    ∧ Word1 (.brev c g d a w) .ab g d a w (fun x => x.reverse)
    ∧ Word2 (.shl c g d a b w) .ab g d a b w (fun _ x y => x <<< y.toNat)
    ∧ Word2 (.shr c g d a b w) .ab g d a b w (fun _ x y => x >>> y.toNat)
    ∧ Word2 (.sar c g d a b w) .ab g d a b w (fun _ x y => x.sshiftRight y.toNat)
    ∧ Word2 (.rot c g d a b w) .ab g d a b w (fun _ x y => x.rotateLeft (y.toNat % 32))
    ∧ Word1 (.shfiShl c g d a n) .ab g d a 0 (fun x => x <<< n.toNat)
    ∧ Word1 (.shfiShr c g d a n) .ab g d a 0 (fun x => x >>> n.toNat)
    ∧ Word1 (.shfiSar c g d a n) .ab g d a 0 (fun x => x.sshiftRight n.toNat)
    ∧ Word1 (.shfiRot c g d a n) .ab g d a 0 (fun x => x.rotateLeft n.toNat)

/-- 07 R143, R146, R147: minima, maxima and the absolute value; sums and differences that saturate; division truncates
toward zero, by zero it gives all ones and the dividend as remainder, and the one overflow gives the dividend and
remainder 0. -/
def Obligations.ExtremesSaturationDivision : Prop :=
  ∀ (c : BitVec 1) (g : BitVec 2) (d a b : BitVec 7) (w : BitVec 1),
    Word2 (.iminS32 c g d a b w) .ab g d a b w (fun _ x y => if y.slt x then y else x)
    ∧ Word2 (.iminN32 c g d a b w) .ab g d a b w (fun _ x y => if y.ult x then y else x)
    ∧ Word2 (.imaxS32 c g d a b w) .ab g d a b w (fun _ x y => if x.slt y then y else x)
    ∧ Word2 (.imaxN32 c g d a b w) .ab g d a b w (fun _ x y => if x.ult y then y else x)
    ∧ Word1 (.iabs c g d a w) .ab g d a w (fun x => if x.msb then 0 - x else x)
    ∧ Word2 (.iaddsS32 c g d a b w) .ab g d a b w (fun _ x y =>
        if 2 ^ 31 ≤ x.toInt + y.toInt then 0x7FFFFFFF else if x.toInt + y.toInt < -2 ^ 31 then 0x80000000 else x + y)
    ∧ Word2 (.iaddsN32 c g d a b w) .ab g d a b w (fun _ x y => if 2 ^ 32 ≤ x.toNat + y.toNat then 0xFFFFFFFF else x + y)
    ∧ Word2 (.isubsS32 c g d a b w) .ab g d a b w (fun _ x y =>
        if 2 ^ 31 ≤ x.toInt - y.toInt then 0x7FFFFFFF else if x.toInt - y.toInt < -2 ^ 31 then 0x80000000 else x - y)
    ∧ Word2 (.isubsN32 c g d a b w) .ab g d a b w (fun _ x y => if x.ult y then 0 else x - y)
    ∧ Word2 (.idivS32 c g d a b w) .ab g d a b w (fun _ x y => if y = 0 then 0xFFFFFFFF else x.sdiv y)
    ∧ Word2 (.idivN32 c g d a b w) .ab g d a b w (fun _ x y => if y = 0 then 0xFFFFFFFF else x.udiv y)
    ∧ Word2 (.iremS32 c g d a b w) .ab g d a b w (fun _ x y => if y = 0 then x else x.srem y)
    ∧ Word2 (.iremN32 c g d a b w) .ab g d a b w (fun _ x y => if y = 0 then x else x.umod y)

/-- 07 R148, 06 R128: bit fields by position and width, and `sel` by its selector predicate, which is no guard. -/
def Obligations.BitFieldsAndSelect : Prop :=
  ∀ (c : BitVec 1) (g : BitVec 2) (d a b : BitVec 7) (w : BitVec 1),
    let width := fun (y : Word) => min (y.toNat / 256 % 64) (32 - y.toNat % 32)
    let ones := fun (y : Word) => (1#32 <<< width y) - 1#32
    Word2 (.bfeN32 c g d a b w) .ab g d a b w (fun _ x y => (x >>> (y.toNat % 32)) &&& ones y)
    ∧ Word2 (.bfeS32 c g d a b w) .ab g d a b w
        (fun _ x y => if width y = 0 then 0 else (x <<< (32 - y.toNat % 32 - width y)).sshiftRight (32 - width y))
    ∧ Word3 (.bfi c g d a b w) .ab g d a b w
        (fun x y z => (z &&& ~~~(ones y <<< (y.toNat % 32))) ||| ((x &&& ones y) <<< (y.toNat % 32)))
    ∧ Word2 (.bmsk c g d a b w) .ab g d a b w
        (fun _ x y => ((1#32 <<< min y.toNat (32 - x.toNat % 32)) - 1#32) <<< (x.toNat % 32))
    ∧ Word2 (.sel c g d a b w) .ab 0 d a b w (fun t x y => if predBit (oldPred t) g.toNat then x else y)

/-- 07 R150, R149, 06 R127: compares write a predicate, or a predicate and its negation. -/
def Obligations.Compares : Prop :=
  ∀ (c : BitVec 1) (g : BitVec 2) (k : BitVec 4) (p : BitVec 3) (a b : BitVec 7) (w : BitVec 1) (i : BitVec 8),
    Test2 (.cmp c g k p a b w) g false p a b w (fun x y => (conditionMeant k x y, 0))
    ∧ Test2 (.cmpPair c g k p a b w) g true p a b w (fun x y => (conditionMeant k x y, 0))
    ∧ Test1 (.cmpi c g k p a i) g false p a 0 (fun x => conditionMeant k x (i.signExtend 32))
    ∧ Test1 (.cmpiPair c g k p a i) g true p a 0 (fun x => conditionMeant k x (i.signExtend 32))

/-- 07 R151: predicate words read the predicates before the run; `pget` reads p0 as 1, and `pset` writes the predicates
p1 to p7 that its second operand selects. -/
def Obligations.PredicateWords : Prop :=
  ∀ (c : BitVec 1) (g : BitVec 2) (d a b : BitVec 3) (e x y : BitVec 7) (w : BitVec 1),
    let p := fun (t : Thread) (n : BitVec 3) => predBit (oldPred t) n.toNat
    Plain (.pand c g d a b w) g (fun _ iss t => resultPred iss .ab d.toNat w (p t a && p t b) t)
    ∧ Plain (.por c g d a b w) g (fun _ iss t => resultPred iss .ab d.toNat w (p t a || p t b) t)
    ∧ Plain (.pxor c g d a b w) g (fun _ iss t => resultPred iss .ab d.toNat w (p t a != p t b) t)
    ∧ Plain (.pnot c g d a w) g (fun _ iss t => resultPred iss .ab d.toNat w (!p t a) t)
    ∧ PlainResult (.pget c g e w) g e w (fun _ iss t => result32 iss .ab e w ((oldPred t ||| 1).setWidth 32) t)
    ∧ ∀ (s : State) (iss : Issue) (u v : Thread → Word) (r : Thread → Thread), Alone s iss → Reads2 s iss g x y u v r →
        Does (.pset c g x y w) s iss g fun t =>
          let m := (v t).setWidth 8 &&& 0xFE
          setLatch iss .ab (((oldPred t &&& ~~~m ||| (u t).setWidth 8 &&& m) ||| 1).setWidth 32)
            (if w = 1 then r t else { r t with pred := (r t).pred &&& ~~~m ||| (u t).setWidth 8 &&& m })

/-! ### Floating point (08) -/

/-- 08 R164, R165, 03 R49 to R52: sums, differences, products and fused products under ARND, element by element, the flags
of a packed word's elements ORed; the immediates are E4M3 codes widened (03 R64). An element is the exact value rounded
once; a NaN, or an infinity met by its opposite or by zero, gives the canonical NaN. -/
def Obligations.FloatArithmetic : Prop :=
  ∀ (c : BitVec 1) (g : BitVec 2) (d a b : BitVec 7) (w : BitVec 1) (i : BitVec 8),
    FWord2 (.faddF32 c g d a b w) .ab g d a b w (fun r x y => single (fun u v _ => fAdd fmtF32 r u v) x y 0)
    ∧ FWord2 (.faddBf16x2 c g d a b w) .ab g d a b w (fun r x y => packed (fun u v _ => fAdd fmtBf16 r u v) x y 0)
    ∧ FWord2 (.faddF16x2 c g d a b w) .ab g d a b w (fun r x y => packed (fun u v _ => fAdd fmtF16 r u v) x y 0)
    ∧ FWord2 (.fsubF32 c g d a b w) .ab g d a b w (fun r x y => single (fun u v _ => fSub fmtF32 r u v) x y 0)
    ∧ FWord2 (.fsubBf16x2 c g d a b w) .ab g d a b w (fun r x y => packed (fun u v _ => fSub fmtBf16 r u v) x y 0)
    ∧ FWord2 (.fsubF16x2 c g d a b w) .ab g d a b w (fun r x y => packed (fun u v _ => fSub fmtF16 r u v) x y 0)
    ∧ FWord2 (.fmulF32 c g d a b w) .ab g d a b w (fun r x y => single (fun u v _ => fMul fmtF32 r u v) x y 0)
    ∧ FWord2 (.fmulBf16x2 c g d a b w) .ab g d a b w (fun r x y => packed (fun u v _ => fMul fmtBf16 r u v) x y 0)
    ∧ FWord2 (.fmulF16x2 c g d a b w) .ab g d a b w (fun r x y => packed (fun u v _ => fMul fmtF16 r u v) x y 0)
    ∧ FWord3 (.ffmaF32 c g d a b w) .ab g d a b w (fun r x y z => single (fFma fmtF32 r) x y z)
    ∧ FWord3 (.ffmaBf16x2 c g d a b w) .ab g d a b w (fun r x y z => packed (fFma fmtBf16 r) x y z)
    ∧ FWord3 (.ffmaF16x2 c g d a b w) .ab g d a b w (fun r x y z => packed (fFma fmtF16 r) x y z)
    ∧ FWord1 (.faddiF32 c g d a i) .ab g d a 0 (fun r x =>
        single (fun u v _ => fAdd fmtF32 r u v) x (BitVec.ofNat 32 (immCode fmtF32 i)) 0)
    ∧ FWord1 (.faddiBf16x2 c g d a i) .ab g d a 0 (fun r x =>
        packed (fun u v _ => fAdd fmtBf16 r u v) x (immPair fmtBf16 i) 0)
    ∧ FWord1 (.faddiF16x2 c g d a i) .ab g d a 0 (fun r x =>
        packed (fun u v _ => fAdd fmtF16 r u v) x (immPair fmtF16 i) 0)
    ∧ FWord1 (.fmuliF32 c g d a i) .ab g d a 0 (fun r x =>
        single (fun u v _ => fMul fmtF32 r u v) x (BitVec.ofNat 32 (immCode fmtF32 i)) 0)
    ∧ FWord1 (.fmuliBf16x2 c g d a i) .ab g d a 0 (fun r x =>
        packed (fun u v _ => fMul fmtBf16 r u v) x (immPair fmtBf16 i) 0)
    ∧ FWord1 (.fmuliF16x2 c g d a i) .ab g d a 0 (fun r x =>
        packed (fun u v _ => fMul fmtF16 r u v) x (immPair fmtF16 i) 0)
    ∧ ∀ f ∈ [fmtF32, fmtBf16, fmtF16], ∀ (r : Rounding) (x y z : Nat), isSto r = false →
        let neg := f.isNegative
        let nan := fun (flag : Bool) => (f.quiet, invalidIf flag)
        (f.Finite x → f.Finite y →
          Delivers f r (zeroSign r (neg x) (neg y)) (f.number x + f.number y) f.low (fAdd f r x y)
          ∧ Delivers f r (zeroSign r (neg x) (!neg y)) (f.number x - f.number y) f.low (fSub f r x y)
          ∧ Delivers f r (neg x != neg y) (f.number x * f.number y) (2 * f.low) (fMul f r x y)
          ∧ (f.Finite z → Delivers f r (zeroSign r (neg x != neg y) (neg z))
              (f.number x * f.number y + f.number z * 2 ^ (-f.low).toNat) (2 * f.low) (fFma f r x y z))
          ∧ (f.Infinite z → fFma f r x y z = (z, 0)) ∧ (f.NotNumber z → fFma f r x y z = nan (f.signals z)))
        ∧ (f.NotNumber x ∧ y < 2 * f.signBit ∨ x < 2 * f.signBit ∧ f.NotNumber y →
          fAdd f r x y = nan (f.signals x || f.signals y) ∧ fSub f r x y = nan (f.signals x || f.signals y)
          ∧ fMul f r x y = nan (f.signals x || f.signals y)
          ∧ (z < 2 * f.signBit → fFma f r x y z = nan (f.signals x || f.signals y || f.signals z)))
        ∧ (f.Infinite x → f.Finite y → fAdd f r x y = (x, 0) ∧ fAdd f r y x = (x, 0) ∧ fSub f r x y = (x, 0)
          ∧ fSub f r y x = (f.infinity (!neg x), 0)
          ∧ (f.number y ≠ 0 → fMul f r x y = (f.infinity (neg x != neg y), 0) ∧ fMul f r y x = (f.infinity (neg x != neg y), 0)
              ∧ (f.Finite z → fFma f r x y z = (f.infinity (neg x != neg y), 0)))
          ∧ (f.number y = 0 → fMul f r x y = nan true ∧ fMul f r y x = nan true
              ∧ (z < 2 * f.signBit → fFma f r x y z = nan true ∧ fFma f r y x z = nan true)))
        ∧ (f.Infinite x → f.Infinite y → fAdd f r x y = (if neg x = neg y then (x, 0) else nan true)
          ∧ fSub f r x y = (if neg x = neg y then nan true else (x, 0)) ∧ fMul f r x y = (f.infinity (neg x != neg y), 0)
          ∧ (f.Infinite z → fFma f r x y z = if (neg x != neg y) = neg z then (z, 0) else nan true))

/-- 08 R166 to R168, R175, 03 R62: minima and maxima, -0 below +0 and a number before a NaN; signs flipped and cleared without
a flag; compares, unordered where there is a NaN; and `qtsh`, the quantisation of an FP32 value under a scale to the nearest
canonical TSH8 code. -/
def Obligations.FloatPicksAndCompares : Prop :=
  ∀ (c : BitVec 1) (g : BitVec 2) (k : BitVec 4) (p : BitVec 3) (d a b : BitVec 7) (w : BitVec 1),
    FWord2 (.fminF32 c g d a b w) .ab g d a b w (fun _ x y => single (fun u v _ => fPick fmtF32 true u v) x y 0)
    ∧ FWord2 (.fminBf16x2 c g d a b w) .ab g d a b w (fun _ x y => packed (fun u v _ => fPick fmtBf16 true u v) x y 0)
    ∧ FWord2 (.fminF16x2 c g d a b w) .ab g d a b w (fun _ x y => packed (fun u v _ => fPick fmtF16 true u v) x y 0)
    ∧ FWord2 (.fmaxF32 c g d a b w) .ab g d a b w (fun _ x y => single (fun u v _ => fPick fmtF32 false u v) x y 0)
    ∧ FWord2 (.fmaxBf16x2 c g d a b w) .ab g d a b w (fun _ x y => packed (fun u v _ => fPick fmtBf16 false u v) x y 0)
    ∧ FWord2 (.fmaxF16x2 c g d a b w) .ab g d a b w (fun _ x y => packed (fun u v _ => fPick fmtF16 false u v) x y 0)
    ∧ Word1 (.fnegF32 c g d a w) .ab g d a w (fun x => x ^^^ 0x80000000)
    ∧ Word1 (.fnegX2 c g d a w) .ab g d a w (fun x => x ^^^ 0x80008000)
    ∧ Word1 (.fabsF32 c g d a w) .ab g d a w (fun x => x &&& 0x7FFFFFFF)
    ∧ Word1 (.fabsX2 c g d a w) .ab g d a w (fun x => x &&& 0x7FFF7FFF)
    ∧ Test2 (.fcmp c g k p a b w) g false p a b w (fun x y => fCompare k x.toNat y.toNat)
    ∧ Test2 (.fcmpPair c g k p a b w) g true p a b w (fun x y => fCompare k x.toNat y.toNat)
    ∧ FWord2 (.qtsh c g d a b w) .ab g d a b w (fun _ x y => (BitVec.ofNat 32 (qtshWord x y).1, (qtshWord x y).2))
    ∧ (∀ f ∈ [fmtF32, fmtBf16, fmtF16], ∀ x y : Nat, x < 2 * f.signBit → y < 2 * f.signBit →
        let nv := invalidIf (f.signals x || f.signals y)
        let less := f.number x < f.number y ∨ (f.number x = f.number y ∧ f.isNegative x = true)
        (f.Finite x → f.Finite y → fPick f true x y = (if less then x else y, 0) ∧ fPick f false x y = (if less then y else x, 0))
        ∧ (f.Infinite x → ¬ f.NotNumber y → fPick f true x y = (if f.isNegative x then x else y, 0)
            ∧ fPick f false x y = (if f.isNegative x then y else x, 0) ∧ fPick f true y x = fPick f true x y
            ∧ fPick f false y x = fPick f false x y)
        ∧ (∀ b, (f.NotNumber x → f.NotNumber y → fPick f b x y = (f.quiet, nv))
            ∧ (f.NotNumber x → ¬ f.NotNumber y → fPick f b x y = (y, nv) ∧ fPick f b y x = (y, nv))))
    ∧ (∀ x y : Nat, x < 2 ^ 32 → y < 2 ^ 32 →
        let f := fmtF32
        let nv := invalidIf (f.signals x || f.signals y)
        let conds := fun (l : List (Bool × BitVec 8)) => (List.range 8).map (fun k => fCompare (BitVec.ofNat 4 k) x y) = l
        (f.Finite x → f.Finite y →
          let lt := decide (f.number x < f.number y)
          let gt := decide (f.number y < f.number x)
          conds [(!lt && !gt, 0), (lt || gt, 0), (lt, 0), (!gt, 0), (gt, 0), (!lt, 0), (true, 0), (false, 0)])
        ∧ (f.NotNumber x ∨ f.NotNumber y →
          conds [(false, nv), (true, nv), (false, flagNV), (false, flagNV), (false, flagNV), (false, flagNV), (false, nv), (true, nv)])
        ∧ (f.Infinite x → ¬ f.NotNumber y →
          let n := f.isNegative x
          let same := decide (x = y)
          conds [(same, 0), (!same, 0), (n && !same, 0), (n || same, 0), (!n && !same, 0), (!n || same, 0), (true, 0), (false, 0)])
        ∧ (f.Finite x → f.Infinite y →
          let n := f.isNegative y
          conds [(false, 0), (true, 0), (!n, 0), (!n, 0), (n, 0), (n, 0), (true, 0), (false, 0)]))
    ∧ ∀ a b : Word,
        let s := b.toNat % 256
        let v := fmtF32.number a.toNat
        let den : Nat := 2 ^ (16 + s)
        let far := fun (k : Nat) => (tshValue k * den - v).natAbs
        let y := qtshWord a b
        (s = 255 ∨ fmtF32.NotNumber a.toNat → y = (0x77, flagNV))
        ∧ (s ≠ 255 → fmtF32.Infinite a.toNat → y = (if fmtF32.isNegative a.toNat then 0x88 else 0x00, flagNV))
        ∧ (s ≠ 255 → fmtF32.Finite a.toNat → 128 * den < v.natAbs → y = (if v < 0 then 0x88 else 0x00, flagNX))
        ∧ (s ≠ 255 → fmtF32.Finite a.toNat → v.natAbs ≤ 128 * den → y.1 < 256 ∧ tshCanonical y.1 = true
            ∧ y.2 = (if tshValue y.1 * den = v then 0 else flagNX)
            ∧ ∀ k, k < 256 → tshCanonical k = true → far y.1 < far k ∨ (far y.1 = far k ∧
                ((tshValue y.1).natAbs < (tshValue k).natAbs ∨ ((tshValue y.1).natAbs = (tshValue k).natAbs ∧ y.1 ≤ k))))

/-- 08 R169 to R174, 03 R49 to R55: special functions on the S pipe by their type, and conversions under the word's own
rounding, which for `sto` draws from the launch's seed. Reciprocals, roots and conversions are the exact value rounded once;
the other functions have the values of Table 8-3. -/
def Obligations.SpecialFunctionsAndConversions : Prop :=
  ∀ (c : BitVec 1) (g : BitVec 2) (d a : BitVec 7) (ty : BitVec 2) (k : BitVec 5) (m : BitVec 3),
    let fn := fun (f : Special) (_ : Rounding) (x : Word) =>
      if ty = 0 then single (fun u _ _ => specialCode fmtF32 f u) x 0 0
      else if ty = 1 then packed (fun u _ _ => specialCode fmtBf16 f u) x 0 0
      else packed (fun u _ _ => specialCode fmtF16 f u) x 0 0
    FWord1 (.frcp c g d a ty) .s g d a 0 (fn .rcp)
    ∧ FWord1 (.frsq c g d a ty) .s g d a 0 (fn .rsq)
    ∧ FWord1 (.fsqrt c g d a ty) .s g d a 0 (fn .sqrt)
    ∧ FWord1 (.fexp2 c g d a ty) .s g d a 0 (fn .exp2)
    ∧ FWord1 (.flog2 c g d a ty) .s g d a 0 (fn .log2)
    ∧ FWord1 (.fsin c g d a ty) .s g d a 0 (fn .sin)
    ∧ FWord1 (.fcos c g d a ty) .s g d a 0 (fn .cos)
    ∧ FWord1 (.ftanh c g d a ty) .s g d a 0 (fn .tanh)
    ∧ (∀ (s : State) (iss : Issue) (x : Thread → Word) (r : Thread → Thread), Alone s iss → Reads1 s iss g a x r →
        let h := fun t => let y := convert k.toNat (rndOf s iss t m) (x t)
          resultF iss .ab d 0 (BitVec.ofNat 32 y.1, y.2) (r t)
        (ToRegister d 0 → Does (.fcvt c g d a k m) s iss g h) ∧ Leads (.fcvt c g d a k m) s iss g h)
    ∧ (∀ (r : Nat → Nat → Rounding) (a : Word),
        let x := a.toNat
        let lo := x % 2 ^ 16
        let hi := x / 2 ^ 16
        let narrows := fun (f t : Fmt) (u : Nat) (e : Nat) (y : Nat × BitVec 8) =>
          (f.Finite u → RoundedTo t (r u e) (f.isNegative u) (f.count (u % f.signBit)) 1 f.low y)
          ∧ (f.Infinite u → y = if t.hasInf then (t.infinity (f.isNegative u), 0)
              else if t.nan.isSome then (t.quiet, flagNV) else (t.withSign (f.isNegative u) t.top, flagNV))
          ∧ (f.NotNumber u → y = (t.quiet, invalidIf (f.signals u || t.nan.isNone)))
        let widens := fun (f : Fmt) (u : Nat) (y : Nat × BitVec 8) =>
          (f.Finite u → y.2 = 0 ∧ fmtF32.Finite y.1 ∧ fmtF32.isNegative y.1 = f.isNegative u
            ∧ fmtF32.number y.1 = f.number u * 2 ^ (f.low - fmtF32.low).toNat)
          ∧ (f.Infinite u → y = (fmtF32.infinity (f.isNegative u), 0))
          ∧ (f.NotNumber u → y = (fmtF32.quiet, invalidIf (f.signals u)))
        let both := fun (f t : Fmt) (y : Nat × BitVec 8) => ∃ u v, narrows f t lo 0 u ∧ narrows f t hi 1 v
          ∧ y = (u.1 + 2 ^ 16 * v.1, u.2 ||| v.2)
        let whole := fun (least most : Int) (y : Nat × BitVec 8) =>
          (fmtF32.Finite x → let n := roundedInteger (r x 0) (fmtF32.number x) 149
            y = ((BitVec.ofInt 32 (max least (min most n))).toNat,
              if n < least ∨ most < n then flagNV else if fmtF32.number x % 2 ^ 149 = 0 then 0 else flagNX))
          ∧ (fmtF32.Infinite x → y = ((BitVec.ofInt 32 (if fmtF32.isNegative x then least else most)).toNat, flagNV))
          ∧ (fmtF32.NotNumber x → y = (0, flagNV))
        narrows fmtF32 fmtBf16 x 0 (convert 0 r a) ∧ narrows fmtF32 fmtF16 x 0 (convert 1 r a)
        ∧ widens fmtBf16 lo (convert 2 r a) ∧ widens fmtF16 lo (convert 3 r a)
        ∧ narrows fmtF32 fmtE4m3 x 0 (convert 4 r a) ∧ narrows fmtF32 fmtE5m2 x 0 (convert 5 r a)
        ∧ widens fmtE4m3 (x % 256) (convert 6 r a) ∧ widens fmtE5m2 (x % 256) (convert 7 r a)
        ∧ narrows fmtF32 fmtE2m1 x 0 (convert 8 r a) ∧ widens fmtE2m1 (x % 16) (convert 9 r a)
        ∧ whole (-2 ^ 31) (2 ^ 31 - 1) (convert 10 r a) ∧ whole 0 (2 ^ 32 - 1) (convert 11 r a)
        ∧ Delivers fmtF32 (r x 0) false a.toInt 0 (convert 12 r a) ∧ Delivers fmtF32 (r x 0) false x 0 (convert 13 r a)
        ∧ both fmtBf16 fmtF16 (convert 14 r a) ∧ both fmtF16 fmtBf16 (convert 15 r a))
    ∧ ∀ f ∈ [fmtF32, fmtBf16, fmtF16], ∀ x : Nat,
        let neg := f.isNegative x
        let n := (f.number x).natAbs
        let nan : Nat × BitVec 8 := (f.quiet, flagNV)
        let one := f.bias * 2 ^ f.fbits
        let k := (-f.low).toNat
        let root := fun (scale : Nat) (v : Nat) (y : Nat × BitVec 8) => y.1 ≤ f.top
          ∧ y.2 = (if f.count y.1 ^ 2 * scale = v then 0 else flagNX)
          ∧ (f.count (y.1 - 1) + f.count y.1) ^ 2 * scale ≤ 4 * v ∧ 4 * v ≤ (f.count y.1 + f.count (y.1 + 1)) ^ 2 * scale
        (f.NotNumber x → ∀ h, specialCode f h x = (f.quiet, invalidIf (f.signals x)))
        ∧ (f.Finite x → n = 0 → specialCode f .rcp x = (f.infinity neg, flagDZ) ∧ specialCode f .rsq x = (f.infinity neg, flagDZ)
            ∧ specialCode f .sqrt x = (x, 0) ∧ specialCode f .exp2 x = (one, 0) ∧ specialCode f .log2 x = (f.infinity true, flagDZ)
            ∧ specialCode f .sin x = (x, 0) ∧ specialCode f .cos x = (one, 0) ∧ specialCode f .tanh x = (x, 0))
        ∧ (f.Finite x → n ≠ 0 → RoundedTo f .rne neg 1 n (-f.low) (specialCode f .rcp x)
            ∧ (neg = true → specialCode f .rsq x = nan ∧ specialCode f .sqrt x = nan ∧ specialCode f .log2 x = nan)
            ∧ (neg = false → root 1 (n * 2 ^ k) (specialCode f .sqrt x) ∧ root n (2 ^ (3 * k)) (specialCode f .rsq x)
                ∧ (x = one → specialCode f .log2 x = (0, 0))))
        ∧ (f.Infinite x → specialCode f .rcp x = (f.zero neg, 0) ∧ specialCode f .rsq x = (if neg then nan else (0, 0))
            ∧ specialCode f .sqrt x = (if neg then nan else (x, 0)) ∧ specialCode f .exp2 x = (if neg then 0 else x, 0)
            ∧ specialCode f .log2 x = (if neg then nan else (x, 0)) ∧ specialCode f .sin x = nan ∧ specialCode f .cos x = nan
            ∧ specialCode f .tanh x = (f.withSign neg one, 0))

/-! ### Lane words (08 R176 to R179) -/

/-- 08 R177: a lane receives the value of its source lane where that lane is active, else its own, or 0 where bit 5 of
its operand is set. -/
def Obligations.LaneExchanges : Prop :=
  ∀ (c : BitVec 1) (g : BitVec 2) (d a b : BitVec 7) (w : BitVec 1) (s : State) (iss : Issue) (x y : Thread → Word)
    (r : Thread → Thread), Alone s iss → Reads2 s iss g a b x y r →
    let heard := fun (src : Nat → Nat → Option Nat) (t : Thread) =>
      let got := match (src (laneNo iss t) ((y t).toNat % 32)).bind fun j => (laneValues g a s iss).lookup j with
        | some v => v
        | none => if (y t).getLsbD 5 then 0 else x t
      result32 iss .s d w got (r t)
    let does := fun (i : Instr) (src : Nat → Nat → Option Nat) =>
      (ToRegister d w → Does i s iss g (heard src)) ∧ Leads i s iss g (heard src)
    does (.lxAt c g d a b w) (fun _ n => some n)
    ∧ does (.lxBelow c g d a b w) (fun l n => if n ≤ l then some (l - n) else none)
    ∧ does (.lxAbove c g d a b w) (fun l n => if l + n ≤ 31 then some (l + n) else none)
    ∧ does (.lxMirror c g d a b w) (fun l n => some (l ^^^ n))

/-- 08 R178, R179: votes, masks, sums and extremes over the active lanes, and `cdet`: bit by bit what a mask, a conflict mask,
the leader and the rank are, and which value is an extreme. -/
def Obligations.LaneReductions : Prop :=
  (∀ (l : List Nat) (i : Nat), (laneMask l).getLsbD i = true ↔ i < 32 ∧ i ∈ l)
  ∧ (∀ l : List Word, l ≠ [] →
    let least := fun (lt : Word → Word → Bool) (v : Word) => v ∈ l ∧ ∀ u ∈ l, lt u v = false
    least BitVec.slt (extreme (fun u v => if v.slt u then v else u) l) ∧ least BitVec.ult (extreme (fun u v => if v.ult u then v else u) l)
    ∧ least (fun u v => v.slt u) (extreme (fun u v => if u.slt v then v else u) l)
    ∧ least (fun u v => v.ult u) (extreme (fun u v => if u.ult v then v else u) l))
  ∧ (∀ (vals : List (Nat × Word)) (l : Nat) (v : Word), (vals.map (·.1)).Nodup → (∀ x ∈ vals, x.1 < 32) →
    let r := conflicts vals l v
    (∀ j, j < 32 → (r.getLsbD j = true ↔ j < l ∧ (j, v) ∈ vals))
    ∧ (r.getLsbD 32 = true ↔ ∀ j, l < j → (j, v) ∉ vals)
    ∧ r.toNat / 2 ^ 33 = ((List.range 32).filter fun j => r.getLsbD j).length)
  ∧ ∀ (c : BitVec 1) (g : BitVec 2) (p q : BitVec 3) (d a : BitVec 7) (s : State) (iss : Issue), Alone s iss →
    let votes := (activeThreads s iss g).map fun t => (laneNo iss t, predBit (oldPred t) q.toNat)
    let values := (laneValues g a s iss).map (·.2)
    let both := fun (i : Instr) (h : Thread → Thread) => (ToRegister d 0 → Does i s iss g h) ∧ Leads i s iss g h
    Does (.lany c g p q) s iss g (fun t => resultPred iss .s p.toNat 0 (votes.any (·.2)) t)
    ∧ Does (.lall c g p q) s iss g (fun t => resultPred iss .s p.toNat 0 (votes.all (·.2)) t)
    ∧ Does (.lfirst c g p) s iss g (fun t => resultPred iss .s p.toNat 0
        (((activeThreads s iss g).head?.map fun u => laneNo iss u) == some (laneNo iss t)) t)
    ∧ both (.lmask c g d q) (fun t => result32 iss .s d 0 (laneMask ((votes.filter (·.2)).map (·.1))) t)
    ∧ ∀ (x : Thread → Word) (r : Thread → Thread), Reads1 s iss g a x r →
        let all := fun (v : Word) (t : Thread) => result32 iss .s d 0 v (r t)
        laneValues g a s iss = (activeThreads s iss g).map (fun t => (laneNo iss t, x t))
        ∧ both (.lsum c g d a) (all (values.foldl (· + ·) 0))
        ∧ both (.lminS32 c g d a) (all (extreme (fun u v => if v.slt u then v else u) values))
        ∧ both (.lminN32 c g d a) (all (extreme (fun u v => if v.ult u then v else u) values))
        ∧ both (.lmaxS32 c g d a) (all (extreme (fun u v => if u.slt v then v else u) values))
        ∧ both (.lmaxN32 c g d a) (all (extreme (fun u v => if u.ult v then v else u) values))
        ∧ Does (.cdet c g d a) s iss g fun t =>
            result64 iss .s d 0 (conflicts (laneValues g a s iss) (laneNo iss t) (x t)) (r t)

/-! ### Literals, uniform registers, transfers (07 R152 to R160) -/

/-- 07 R152, R157, 06 R134: literals, `kmov` by the elected lane, `nop`, and code prefetch, which asks for lines. A stream
operand of `kmov` is read and advanced for the elected lane alone (log 66). -/
def Obligations.LiteralsAndUniforms : Prop :=
  ∀ (c : BitVec 1) (g : BitVec 2) (e : BitVec 5) (d a b : BitVec 7) (i : BitVec 8) (s : State) (iss : Issue), Alone s iss →
    (∀ v : Thread → Nat, (∀ t ∈ s.threads, isActive iss g t = true → literalAt s t iss.packet i false = .value (v t)) →
      (isStream d = false → Does (.ldl32 c g d i) s iss g fun t => put32 iss d (BitVec.ofNat 32 (v t)) t)
        ∧ Leads (.ldl32 c g d i) s iss g fun t => put32 iss d (BitVec.ofNat 32 (v t)) t)
    ∧ (∀ v : Thread → Nat, (∀ t ∈ s.threads, isActive iss g t = true → literalAt s t iss.packet i true = .value (v t)) →
      Does (.ldl64 c g d i) s iss g fun t => put64 d (BitVec.ofNat 64 (v t)) t)
    ∧ (∀ (t u : Thread) (v : Word), electedLane s iss g = some t → src32 s iss t a = .ok (v, u) →
      exec (.kmov c g e a) s = .next (closed iss (mapGangOf (putThread s u) t fun x =>
        { x with kregs := regSet x.kregs e.toNat v })))
    ∧ Does (.nop c g) s iss g (fun t => t)
    ∧ (∀ (n : Thread → Word) (r : Thread → Thread), Reads1 s iss g b n r →
      let s1 := act iss g r s
      let lines := (activeThreads s1 iss g).foldl (fun l t =>
        match src32 s1 iss t b with
        | .ok (n, _) => mergeLines l (laneIpf s1 t (src64 s1 iss t a) n.toNat)
        | .error _ => l) []
      exec (.ipf c g a b) s =
        .next (closed iss (count iss.core 0x0207 lines.length (mapCore s1 iss.core (addFills (linesToFill s1 iss.core lines))))))

/-- 07 R153 to R155: transfers to displaced targets and to code pointers; the link is the pointer of the next packet. -/
def Obligations.Transfers : Prop :=
  ∀ (g : BitVec 2) (d a : BitVec 7) (x : BitVec 22) (i : BitVec 8) (s : State) (iss : Issue) (p : Thread → Nat),
    Alone s iss →
    let link := BitVec.ofNat 64 (0x5000000000000000 + packetAddr (iss.packet + 1))
    let go := fun (t : Thread) => { t with next := .jump (p t) 0 }
    let linked := fun (r : BitVec 7) (t : Thread) => { put64 r link t with next := .jump (p t) 0 }
    (TargetsAt s iss g (fun _ => x.toInt) p → Does (.br g x) s iss g go ∧ Does (.call g x) s iss g (linked 62))
    ∧ (∀ v : Thread → Nat, (∀ t ∈ s.threads, isActive iss g t = true → literalAt s t iss.packet i true = .value (v t)) →
        TargetsAt s iss g (fun t => sextInt 64 (v t)) p →
        Does (.brl g i) s iss g go ∧ Does (.calll g i) s iss g (linked 62))
    ∧ ((∀ t ∈ s.threads, isActive iss g t = true → src64 s iss t a = BitVec.ofNat 64 (0x5000000000000000 + packetAddr (p t))
          ∧ packetAddr (p t) + 12 ≤ (segAt (gangOf s t).segs 5).limit.toNat ∧ markedAt s t (p t) = false) →
        (activeThreads s iss g ≠ []) →
        exec (.ret g a) s = .next (closed iss (count iss.core 0x0205 1 (act iss g go s)))
        ∧ exec (.jmpx g a) s = .next (closed iss (count iss.core 0x0206 1 (act iss g go s)))
        ∧ exec (.callx g d a) s = .next (closed iss (count iss.core 0x0206 1 (act iss g (linked d) s))))

/-- 07 R158, R160: `trap` and `brk` end their lanes' segments, each with its trap; `tret` sends its lanes to the trapping
word's run, or to the packet after it, by the trap word in its two sources. -/
def Obligations.TrapsAndReturns : Prop :=
  ∀ (g : BitVec 2) (a b : BitVec 7) (s : State) (iss : Issue), Alone s iss →
    let trapped := fun (k : Trap) (t : Thread) => if isActive iss g t then { t with laneEnd := some (.trap k, iss.pos) } else t
    exec (.trap g) s = .next (settle { s with threads := s.threads.map (trapped .userTrap) })
    ∧ exec (.brk g) s = .next (settle { s with threads := s.threads.map (trapped .breakpoint) })
    ∧ ∀ (x y : Thread → Word) (r : Thread → Thread) (p : Thread → Nat), Reads2 s iss g a b x y r →
        let word := fun t => (x t).toNat + 2 ^ 32 * (y t).toNat
        EachActive s iss g (fun t => word t / 2 ^ 8 % 4 ≠ 3) →
        (∀ l : Thread → List Byte,
          EachActive s iss g (fun t => TargetAt s (r t) (word t / 2 ^ 16 : Nat) (p t) ∧ codeLine s (r t) (p t) = .ok (l t)) →
          Ends (.tretRedo g a b) s iss g fun t =>
            { r t with next := .handlerReturn (p t) (runStart (l t) (p t) (word t / 2 ^ 8 % 4)) })
        ∧ (EachActive s iss g (fun t => TargetAt s (r t) ((word t / 2 ^ 16 : Nat) + 1) (p t)) →
          Ends (.tretSkip g a b) s iss g fun t => { r t with next := .handlerReturn (p t) 0 })

/-- 02 R39, R25, 07 R160: a trap ends the segment of its lane's thread only, in a trap record at the launch's handler
entry; `tret` ends it without a record: the window and its registers stay, latches die, the trap word reads zero. -/
def Obligations.TrapEntryAndReturn : Prop :=
  ∀ (g : BitVec 2) (s : State) (iss : Issue) (t : Thread), OneLane s iss g t →
    ((launchOf s t.launch).trappkt ≠ 0 →
      CanEnd s t (BitVec.ofNat 64 (2 ^ t.window - 1)) (launchOf s t.launch).trappkt →
      TrapsTo (.trap g) s t 0x11 iss.packet iss.pos
      ∧ ((ctxOfLaunch s t.launch).debug = false → TrapsTo (.brk g) s t 0x10 iss.packet iss.pos))
    ∧ ∀ (a b : BitVec 7) (p : Nat), isStream a = false → isStream b = false →
      let word := (plain32 s iss t a).toNat + 2 ^ 32 * (plain32 s iss t b).toNat
      word / 2 ^ 8 % 4 ≠ 3 → TargetAt s t ((word / 2 ^ 16 : Nat) + 1) p →
      ∃ s' r, exec (.tretSkip g a b) s = .next s' ∧ threadAt s' t.launch t.thread = some r
        ∧ OthersKept s s' t ∧ r.place = t.place ∧ r.packet = p ∧ r.pos = 0
        ∧ r.window = t.window ∧ r.regs = (flushLoads t).regs ∧ r.trapWord = 0 ∧ r.sysstat = 0
        ∧ r.la = none ∧ r.lb = none ∧ r.lm = none ∧ r.ls = none ∧ r.pred = t.pred

/-! ### Memory words (09) -/

/-- 09 R180 to R183: a load reads what the caches or the home and the thread's own posted stores hold, extends it, and
puts it on its way to its registers or its stream; REPLAY is counted. A load of a peer's memory or of the host's that no
held line serves asks for the data first, and is made when the answer has come (log 6). -/
def Obligations.Loads : Prop :=
  ∀ (c : BitVec 1) (g : BitVec 2) (d a : BitVec 7) (o : BitVec 5) (s : State) (iss : Issue), Alone s iss →
    let load := fun (n : Nat) (v : Nat → Nat) (i : Instr) =>
      let s1 := countReplay .load false n g (fun u j t => effective u j t a o n) s
      (∀ (tg : Thread → Target) (loc : Thread → Nat),
        let away := fun t => isRemote (tg t) (loc t) && !isHeld s1 t.core (loc t) n
        EachActive s1 iss g (fun t =>
          access s1 t .load (effective s1 iss t a o n) n .read .plain = .ok (tg t, loc t)
            ∧ if away t then ∃ old, Answered t (requestFor s1 t (tg t) (loc t) n (.read (targetVa (tg t)) n) false) old
              else canFetch s1 t (tg t) (loc t) n = true) →
        let h := fun t =>
          let x := v (loadValue s1 t (tg t) (loc t) n)
          loaded iss d n x (if away t then none else readsAt (tg t) (loc t) n) false t
        (isStream d = false → DoesFrom i s iss g h s1) ∧ LeadsFrom i s iss g h s1)
      ∧ ∀ (t : Thread) (va loc : Nat), OneLane s iss g t → isHeld s t.core loc n = false →
        let p := effective s iss t a o n
        (∀ k, access s t .load p n .read .plain = .ok (.peer k va, loc) →
          Asks i s t { peer := some k, va := va, loc := loc, size := n, kind := .read va n })
        ∧ ∀ k, access s t .load p n .read .plain = .ok (.virt va k, loc) → isHostLoc loc = true →
          Asks i s t { peer := none, va := va, loc := loc, size := n, wpa := hostPa s t.core t.efftag (.virt va k),
                       kind := .read va n }
    load 1 (fun v => ((BitVec.ofNat 8 v).signExtend 32).toNat) (.ldS8 c g d a o)
    ∧ load 1 (fun v => v) (.ldN8 c g d a o)
    ∧ load 2 (fun v => ((BitVec.ofNat 16 v).signExtend 32).toNat) (.ldS16 c g d a o)
    ∧ load 2 (fun v => v) (.ldN16 c g d a o)
    ∧ load 4 (fun v => v) (.ldB32 c g d a o)
    ∧ load 8 (fun v => v) (.ldB64 c g d a o)
    ∧ load 16 (fun v => v) (.ldB128 c g d a o)

/-- 09 R180, R182, 05 R110, R111, 02 R23, 12 R253: stores, one lane after another, all lanes' stream data being read before.
A store to a peer asks first whether it translates there (log 97). -/
def Obligations.Stores : Prop :=
  ∀ (c : BitVec 1) (g : BitVec 2) (d a : BitVec 7) (o : BitVec 5) (s : State) (iss : Issue) (x : Thread → Word)
    (r : Thread → Thread), Alone s iss → (isStream d = true → Reads1 s iss g d x r) →
    let store := fun (n : Nat) (i : Instr) =>
      DoesInTurn i s iss g (fun u t u' => ∃ v w tg loc, storeData n d u iss t = .ok (v, w)
          ∧ access u w .store (effective u iss t a o n) n .write .plain = .ok (tg, loc)
          ∧ Translates w tg loc n .write .plain ∧ CanStore u w tg loc n ∧ u' = stored u w tg loc n v)
        (countReplay .store false n g (fun u j t => effective u j t a o n) (if isStream d then act iss g r s else s))
      ∧ ∀ (t : Thread) (k va loc : Nat), OneLane s iss g t → isStream d = false →
        access s t .store (effective s iss t a o n) n .write .plain = .ok (.peer k va, loc) →
        Asks i s t (translation k va loc n .write .plain)
    store 1 (.stB8 c g d a o) ∧ store 2 (.stB16 c g d a o) ∧ store 4 (.stB32 c g d a o) ∧ store 8 (.stB64 c g d a o)
    ∧ store 16 (.stB128 c g d a o)

/-- 09 R184, R190, 05 R100, R106, R113: acquire loads complete once the thread's release writes are acknowledged, reading
at their home, and invalidate the core's copies; release stores write at their home once what comes before has been done;
a fence ends when nothing of its thread is on the way, and invalidates as an acquire does. The round trip to a home on
another die is folded into the step (log 71); a peer's word comes with its answer (log 6); a fence passes on what its die
knows (log 91). -/
def Obligations.AcquiresAndReleases : Prop :=
  ∀ (c : BitVec 1) (g : BitVec 2) (d a : BitVec 7) (o : BitVec 5) (s : State) (iss : Issue) (x : Thread → Word)
    (r : Thread → Thread), Alone s iss →
    let acquire := fun (n : Nat) (i : Instr) =>
      let s1 := countReplay .sync false n g (fun u j t => effective u j t a o n) s
      let takes := fun (u : State) (t : Thread) (u' : State) => t.relUnack = 0 ∧ ∃ tg loc,
        access u t .sync (effective u iss t a o n) n .read .atomic = .ok (tg, loc)
        ∧ let v := acquireValue u t tg loc n
          (isRemote tg loc = true ∧ (∃ old, Answered t (requestFor u t tg loc n (.acquire (targetVa tg) n) true) old)
            ∧ u' = putThread (selfInvalidate u t.core) (loaded iss d n v none false t))
          ∨ (isRemote tg loc = false ∧ ∃ u1, acquireTrip u t tg loc n = some u1
            ∧ u' = putThread (selfInvalidate u1 t.core) (loaded iss d n v none false t))
      (isStream d = false → DoesInTurn i s iss g takes s1) ∧ LeadsInTurn i s iss g takes s1
      ∧ ∀ (t : Thread) (k va loc : Nat), OneLane s iss g t → t.relUnack = 0 →
        access s t .sync (effective s iss t a o n) n .read .atomic = .ok (.peer k va, loc) →
        Asks i s t { peer := some k, va := va, loc := loc, size := n, kind := .acquire va n, acquire := true }
    let release := fun (n : Nat) (i : Instr) => (isStream d = true → Reads1 s iss g d x r) →
      DoesInTurn i s iss g (fun u t u' => ∃ v w tg loc, storeData n d u iss t = .ok (v, w)
          ∧ access u w .sync (effective u iss t a o n) n .write .atomic = .ok (tg, loc)
          ∧ Translates w tg loc n .write .atomic ∧ Released u t ∧ CanSend u t tg loc
          ∧ u' = homeWrite u w tg loc n v true true (writeKind n v))
        (countReplay .sync false n g (fun u j t => effective u j t a o n) (if isStream d then act iss g r s else s))
    acquire 4 (.ldAcqB32 c g d a o) ∧ acquire 8 (.ldAcqB64 c g d a o)
    ∧ release 4 (.stRelB32 c g d a o) ∧ release 8 (.stRelB64 c g d a o)
    ∧ DoesInTurn (.fence c g) s iss g (fun u t u' => Released u t ∧ t.relUnack = 0 ∧ t.ownUnack = 0 ∧ t.dieUnack = 0
        ∧ ∃ u1, fenceTell u t = some u1 ∧ u' = selfInvalidate u1 t.core) s

/-- 09 R186 to R188, 05 R110, R113: an atomic is one read-modify-write at its home, once its waits are over. One that
returns a value has it on its way, its round trip to another die folded into the step (log 71), or takes a peer's from the
answer (log 6); a reduction goes to its home, on another die as a packet, those of one word to one die together. -/
def Obligations.Atomics : Prop :=
  ∀ (c : BitVec 1) (g : BitVec 2) (d a : BitVec 7) (o : BitVec 2) (k w : BitVec 1) (n : BitVec 4) (s : State) (iss : Issue)
    (y : Thread → Word) (r : Thread → Thread), Alone s iss → (isStream d = true → Reads1 s iss g d y r) →
    let wide := w == 1
    let bytes := if w = 1 then 8 else 4
    let s1 := countReplay .sync true bytes g (fun u j t => src64 u j t a) (if isStream d then act iss g r s else s)
    let modified := fun (u : State) (core loc cmp v : Nat) =>
      let old := readNat u.mem loc bytes
      homePut u (dieOfCore core) loc bytes ((atomicNew n.toNat (8 * bytes) old v cmp).getD old)
    let ready := fun (release acquire : Bool) (u : State) (t : Thread) (cmp v : Nat) (x : Thread) (tg : Target) (loc : Nat) =>
      atomicData n.toNat wide d u iss t = .ok (cmp, v, x) ∧ access u x .sync (src64 u iss t a) bytes .modify .atomic = .ok (tg, loc)
      ∧ (release = true → Released u t) ∧ (acquire = true → t.relUnack = 0) ∧ overlaps t loc bytes = false
      ∧ feltReady u (dieOfCore t.core) (targetDie u t tg loc) = true
    let waiting := fun (release : Bool) (x : Thread) => { x with relUnack := if release then x.relUnack + 1 else x.relUnack }
    let release := decide (o = 2 ∨ o = 3)
    let acquire := decide (o = 1 ∨ o = 3)
    let atom := fun (u : State) (t : Thread) (u' : State) => ∃ cmp v x tg loc, ready release acquire u t cmp v x tg loc
      ∧ ((isRemote tg loc = true ∧ ∃ old,
          Answered x (requestFor u x tg loc bytes
            (.atomic (targetVa tg) n.toNat wide true (BitVec.ofNat 64 cmp) (BitVec.ofNat 64 v)) acquire) old
          ∧ u' = putThread (if acquire then selfInvalidate u x.core else u) (loaded iss d bytes old none false x))
        ∨ (isRemote tg loc = false ∧ ∃ u1, atomicTrip u t tg loc acquire = some u1
          ∧ let u2 := modified (dropWords u1 x.core loc bytes) x.core loc cmp v
            u' = putThread (if acquire then selfInvalidate u2 x.core else u2)
              (waiting release (loaded iss d bytes (readNat u1.mem loc bytes) none release x))))
    let red := fun (u : State) (t : Thread) (u' : State) =>
      let release := decide (k = 1)
      ∃ cmp v x tg loc, ready release false u t cmp v x tg loc ∧ Translates x tg loc bytes .modify .atomic
        ∧ (targetPeerf tg = true → peerRoom t 1 = true)
        ∧ let u1 := disownOthers (dropWords u x.core loc bytes) (dieOfCore x.core) loc bytes
          match tg with
          | .peer p va => u' = putThread (peerSend (modified (dropWords u x.core loc bytes) x.core loc cmp v) x true p va
              (.atomic va n.toNat wide false (BitVec.ofNat 64 cmp) (BitVec.ofNat 64 v)))
              { waiting release x with peerAck := x.peerAck + 1 }
          | .cell _ false => u' = putThread (modified u x.core loc cmp v) x
          | _ =>
            (targetDie u x tg loc = dieOfCore x.core ∧ u' = putThread (modified u1 x.core loc cmp v) (waiting release x))
            ∨ (targetDie u x tg loc ≠ dieOfCore x.core
              ∧ u' = putThread (threadPost u1 x (targetDie u x tg loc) true (.modify loc bytes n.toNat cmp v)
                  (some (if release then .release else .otherDie)))
                  (if release then { x with relUnack := x.relUnack + 1 } else { x with dieUnack := x.dieUnack + 1 }))
    (isStream d = false → DoesInTurn (.atom c g d a o w n) s iss g atom s1 (joinPackets s))
    ∧ LeadsInTurn (.atom c g d a o w n) s iss g atom s1 (joinPackets s)
    ∧ DoesInTurn (.red c g d a k w n) s iss g red s1 (joinPackets s)
    ∧ ∀ (t x : Thread) (cmp v p va loc : Nat), OneLane s iss g t → isStream d = false →
      ready release acquire s t cmp v x (.peer p va) loc →
      Asks (.atom c g d a o w n) s t
        { peer := some p, va := va, loc := loc, size := bytes, acquire := acquire, lanes := [t.thread],
          kind := .atomic va n.toNat wide true (BitVec.ofNat 64 cmp) (BitVec.ofNat 64 v) }

/-- 09 R187: what the atomics compute, on 32 bits and on 64; a failed `cas` writes nothing. A floating sum is rounded to
nearest even, element by element in `fadd.bf16x2`. -/
def Obligations.AtomicResults : Prop :=
  (∀ (old v cmp : DWord),
    let new := fun n => atomicNew n 64 old.toNat v.toNat cmp.toNat
    new 0 = some (old + v).toNat ∧ new 1 = some (if old.sle v then old else v).toNat
    ∧ new 2 = some (if old.ule v then old else v).toNat ∧ new 3 = some (if v.sle old then old else v).toNat
    ∧ new 4 = some (if v.ule old then old else v).toNat ∧ new 5 = some (old &&& v).toNat ∧ new 6 = some (old ||| v).toNat
    ∧ new 7 = some (old ^^^ v).toNat ∧ new 8 = some v.toNat ∧ new 9 = (if old = cmp then some v.toNat else none))
  ∧ (∀ (f : Fmt) (x y : Nat), f = fmtF32 ∨ f = fmtBf16 → x < 2 * f.signBit → y < 2 * f.signBit →
    let sum := if f = fmtF32 then atomicNew 10 32 x y 0 else (atomicNew 11 32 x y 0).map (· % 2 ^ 16)
    ∃ z flags, sum = some z
      ∧ (f.Finite x → f.Finite y →
          Delivers f .rne (zeroSign .rne (f.isNegative x) (f.isNegative y)) (f.number x + f.number y) f.low (z, flags))
      ∧ (f.NotNumber x ∨ f.NotNumber y → z = f.quiet) ∧ (f.Infinite x → f.Finite y → z = x)
      ∧ (f.Finite x → f.Infinite y → z = y)
      ∧ (f.Infinite x → f.Infinite y → z = if f.isNegative x = f.isNegative y then x else f.quiet))
  ∧ (∀ old v : Word, ∃ lo hi, atomicNew 11 32 (old.toNat % 2 ^ 16) (v.toNat % 2 ^ 16) 0 = some lo
      ∧ atomicNew 11 32 (old.toNat / 2 ^ 16) (v.toNat / 2 ^ 16) 0 = some hi
      ∧ atomicNew 11 32 old.toNat v.toNat 0 = some (lo % 2 ^ 16 + 2 ^ 16 * (hi % 2 ^ 16)))
  ∧ ∀ (old v cmp : Word),
    let new := fun n => atomicNew n 32 old.toNat v.toNat cmp.toNat
    new 0 = some (old + v).toNat
    ∧ new 1 = some (if old.sle v then old else v).toNat
    ∧ new 2 = some (if old.ule v then old else v).toNat
    ∧ new 3 = some (if v.sle old then old else v).toNat
    ∧ new 4 = some (if v.ule old then old else v).toNat
    ∧ new 5 = some (old &&& v).toNat ∧ new 6 = some (old ||| v).toNat ∧ new 7 = some (old ^^^ v).toNat
    ∧ new 8 = some v.toNat
    ∧ new 9 = (if old = cmp then some v.toNat else none)

/-- 09 R180, R185, R181: a continuation load ends the segment; its load is made while the record waits, under the tag in effect.
The passes of a gang-local one are counted; one to a peer asks first whether it translates there (log 97). -/
def Obligations.ContinuationLoads : Prop :=
  ∀ (g : BitVec 2) (d a : BitVec 7) (o : BitVec 5) (s : State) (iss : Issue), Alone s iss →
    let ldc := fun (n : Nat) (signed : Bool) (i : Instr) =>
      let s1 := countReplay .ldc false n g (fun u j t => effective u j t a o n) s
      (∀ (t : Thread) (k va loc : Nat), OneLane s iss g t →
        access s t .ldc (effective s iss t a o n) n .read .plain = .ok (.peer k va, loc) →
        Asks i s t (translation k va loc n .read .plain))
      ∧ ∀ (tg : Thread → Target) (loc : Thread → Nat),
        EachActive s1 iss g (fun t => access s1 t .ldc (effective s1 iss t a o n) n .read .plain = .ok (tg t, loc t)
          ∧ Translates t (tg t) (loc t) n .read .plain) →
        isStream d = false → (∀ k, k < (n + 3) / 4 → iss.mask.getLsbD (d.toNat + k) = true) →
        EndsFrom i s iss g (fun t =>
          { t with ldc := some { loc := loc t, size := n, signed := signed, dest := d.toNat, va := targetVa (tg t),
                                 peerf := targetPeerf (tg t), peer := targetPeer (tg t),
                                 wpa := hostPa s1 t.core t.efftag (tg t), tag := t.efftag },
                   next := .segment .ldcWait (resumePacket iss.packet) iss.mask }) s1
    ldc 1 true (.ldcS8 g d a o) ∧ ldc 1 false (.ldcN8 g d a o) ∧ ldc 2 true (.ldcS16 g d a o)
    ∧ ldc 2 false (.ldcN16 g d a o) ∧ ldc 4 false (.ldcB32 g d a o) ∧ ldc 8 false (.ldcB64 g d a o)
    ∧ ldc 16 false (.ldcB128 g d a o)

/-- 09 R191, R192, 11 R236: prefetches change no register and no byte of memory: the lines of the range, at most 64 or 4,096
of them, come into caches, each that its checks and its translation allow, and no lane waits or traps for one; a
peer's line is asked for, and cell space is left alone. `claim` asks for the pages of its range one lane after another. -/
def Obligations.DataHints : Prop :=
  (∀ (c : BitVec 1) (g : BitVec 2) (a b : BitVec 7) (s : State) (iss : Issue), Alone s iss →
    let fetches := fun (inner : Bool) (lines : Nat) (u : State) (t : Thread) (u' : State) => ∃ n w,
      src32 u iss t b = .ok (n, w) ∧ u' = prefetchLines inner w lines (src64 u iss t a) n.toNat (putThread u w)
    DoesInTurn (.pfd c g a b) s iss g (fetches true 64) s ∧ DoesInTurn (.cpPf c g a b) s iss g (fetches false 4096) s
    ∧ DoesInTurn (.claim c g a b) s iss g (fun u t u' => ∃ n w, src32 u iss t b = .ok (n, w)
        ∧ let p := (src64 u iss t a).toNat
          u' = if p / 2 ^ 48 ≠ 0 ∨ (ctxAt u t.efftag).isNone then putThread u w
            else claimPages w (pageSpan p n.toNat) p (putThread u w)) s)
  ∧ ∀ (s : State) (t : Thread) (p : DWord) (inner : Bool) (lines n : Nat),
    (let s' := prefetchLines inner t lines p n s
     s' = { s with cores := s'.cores, l2data := s'.l2data, directory := s'.directory, felt := s'.felt, renhar := s'.renhar })
    ∧ (∀ off, decodePointer s (accessorOf s t) .load p 1 1 = .ok (.window off) → prefetchAt inner t s p = s)
    ∧ ∀ g loc, decodePointer s (accessorOf s t) .load p 1 1 = .ok g → (∀ off, g ≠ .window off) →
      locateFor s t.core t.efftag (launchOf s t.launch).ctx g .read .plain 0 = .ok loc → cacheable loc = true →
      isMoving s loc = false → readsBad s t.core .plain (loc / 128 * 128) 128 = false →
      ((∀ k va, g ≠ .peer k va) → targetDie s t g loc = dieOfCore t.core → 0 < coreLines s t.core →
        (coreLine (prefetchAt true t s p) t.core (loc / 128)).isSome = true
          ∨ ∀ i, i < 128 → holdsByte s (dieOfCore t.core) (loc / 128 * 128 + i) = true)
      ∧ ∀ k va s1, g = .peer k va → isHeld s t.core (loc / 128 * 128) 128 = false → asksPrefetch s t.core loc = false →
        message s (dieOfCore t.core) (fdieOf s t.launch) false t.efftag = some s1 →
        prefetchAt inner t s p = renharAsk s1 (pathOf s (partOfThread s t) t.launch k) 0 0 t.core va (.read (va / 128 * 128) 128)
          (some (t.core, inner, loc))

/-! ### Segment words (09) -/

/-- 09 R194 to R198: the words that end segments. -/
def Obligations.SegmentEnds : Prop :=
  ∀ (g : BitVec 2) (n : BitVec 7) (s : State) (iss : Issue), Alone s iss →
    let ending := fun (p : Place) (t : Thread) => { t with next := .segment p (resumePacket iss.packet) iss.mask }
    let attached := EachActive s iss g fun t => t.detached = false
    (attached → Ends (.bar g) s iss g (ending (.barrier .gang false)))
    ∧ (attached → Ends (.barc g) s iss g (ending (.barrier .cluster false)))
    ∧ (attached → EachActive s iss g (fun t => (launchOf s t.launch).cohort = true) →
        Ends (.barx g) s iss g (ending (.barrier .launch false)))
    ∧ Ends (.waitBatch g n) s iss g
        (fun t => if (t.bsealed + 1 - t.boldest).toNat ≤ n.toNat then t else ending (.batchWait n.toNat) t)
    ∧ Ends (.yield g) s iss g (ending (.binned 0))
    ∧ Ends (.exit g) s iss g (fun t => { t with next := .exit })

/-- 02 R20, R33, 09 R194: the record that a voluntary end leaves, and where it waits. -/
def Obligations.VoluntaryRecords : Prop :=
  ∀ (g : BitVec 2) (n : BitVec 7) (s : State) (iss : Issue) (t : Thread), OneLane s iss g t →
    CanEnd s t iss.mask (resumePacket iss.packet) →
    let leaves := fun (i : Instr) (p : Place) => LeavesRecord i s t p (resumePacket iss.packet) iss.mask
    leaves (.yield g) (.binned (now s))
    ∧ (n.toNat < (t.bsealed + 1 - t.boldest).toNat → leaves (.waitBatch g n) (.batchWait n.toNat))
    ∧ (t.detached = false →
        leaves (.bar g) (.barrier .gang false) ∧ leaves (.barc g) (.barrier .cluster false)
        ∧ ((launchOf s t.launch).cohort = true → leaves (.barx g) (.barrier .launch false)))

/-- 09 R198: at `exit` the thread's window, streams and latches are free, and an open batch that holds an operation is
sealed. -/
def Obligations.ExitFrees : Prop :=
  ∀ (g : BitVec 2) (s : State) (iss : Issue) (t : Thread), OneLane s iss g t →
    ∃ s' r, exec (.exit g) s = .next s' ∧ threadAt s' t.launch t.thread = some r
      ∧ OthersKept s s' t ∧ r.place = .exiting ∧ r.window = 0 ∧ r.regs = []
      ∧ r.streams = [] ∧ r.la = none ∧ r.lb = none ∧ r.lm = none ∧ r.ls = none ∧ r.sbuf = t.sbuf
      ∧ r.bsealed = (if t.openBatch.issued then t.bsealed + 1 else t.bsealed)

/-- 09 R199, 02 R41: a forward ends the segment, an open batch that holds an operation sealed; the record resumes after
its descriptor or at the displaced entry, with that entry's mask. -/
def Obligations.Forwards : Prop :=
  ∀ (g : BitVec 2) (a b : BitVec 7) (s : State) (iss : Issue) (x : Thread → Word) (r : Thread → Thread)
    (away : Thread → Bool), Alone s iss → Reads1 s iss g b x r →
    EachActive s iss g (fun t => fwdChecks s (r t) (fwdTarget (src64 s iss t a)) = .ok (away t)) →
    let forward := fun (ack : Option Nat) (p : Nat) (m : DWord) (t : Thread) =>
      let f := fwdTarget (src64 s iss t a)
      { (if (r t).openBatch.issued then sealBatch (r t) else r t) with
        fwd := some { dest := f.core, peerf := away t, peer := f.peer, plaunch := f.plaunch, ack := ack,
                      packet := iss.packet, source := (r t).core },
        next := .segment .forward p m }
    (b = 80 → Ends (.fwd g a b) s iss g (forward none (resumePacket iss.packet) iss.mask))
    ∧ (b ≠ 80 → ∀ (p : Thread → Nat) (m : Thread → DWord),
        EachActive s iss g (fun t => TargetAt s (r t) (iss.packet + (x t).toInt) (p t)
          ∧ maskBefore s (r t) (p t) = .ok (some (m t))) →
        Ends (.fwd g a b) s iss g fun t => forward none (p t) (m t) t)
    ∧ (EachActive s iss g (fun t => (x t).toNat + 4 ≤ (segAt (gangOf s (r t)).segs 2).limit.toNat ∧ (x t).toNat % 4 = 0) →
        Ends (.fwdAck g a b) s iss g fun t => forward (some (x t).toNat) (resumePacket iss.packet) iss.mask t)

/-- 09 R200, 20 R309, R314: `enq` sends its command to its queue's F-die; to a peer's queue it leaves the command to be sent
and waits in issue, and goes on once the peer has accepted it (log 73). `launch` has its record accepted or refused, its die's
knowledge going to the launch's F-die (log 91); `signal` adds to a word as a release. -/
def Obligations.QueueWords : Prop :=
  ∀ (c : BitVec 1) (g : BitVec 2) (a b : BitVec 7) (s : State) (iss : Issue), Alone s iss →
    let away := fun (u : State) (h : Word) => h.toNat / 2 ^ 28 % 2 = 1 ∧ h.toNat / 2 ^ 16 % 4096 ≠ u.ownPeer
    let command := fun (u : State) (t : Thread) (h : Word) (w : Thread) (cmd : List Byte) => src32 u iss t b = .ok (h, w)
        ∧ (∃ tg, checkCommand u w (src64 u iss t a) = .ok tg) ∧ h.toNat / 2 ^ 29 = 0 ∧ Released u w
        ∧ loadPieces u w (src64 u iss t a) 0 1 = .ok cmd
        ∧ (away u h → checkPeer u (partOfThread u w) (h.toNat / 2 ^ 16 % 4096) = .ok ())
    DoesInTurn (.enq c g a b) s iss g (fun u t u' => ∃ h w cmd, command u t h w cmd
        ∧ let u1 := putThread u w
          (away u h ∧ w.remoteEnq = some .accepted ∧ u' = putThread u1 { w with remoteEnq := none })
          ∨ (¬ away u h ∧ ∃ q, queueAt u1 (partOfThread u1 w) (h.toNat % 2 ^ 16) = some q ∧ q.devprod = true
            ∧ (q.privq = true → (launchOf u1 w.launch).kernel = true)
            ∧ (q.tail + 2 ^ 64 - q.head) % 2 ^ 64 + enqueueing u1 q < 2 ^ q.logn
            ∧ feltReady u1 (dieOfCore w.core) q.fdie = true
            ∧ u' = threadPost u1 w q.fdie true (.enqueue q.part q.idx cmd) none)) s
    ∧ (∀ (t : Thread) (h : Word) (cmd : List Byte), OneLane s iss g t → isStream b = false → command s t h t cmd → away s h →
        t.remoteEnq = none ∨ t.remoteEnq = some .full →
        let peer := h.toNat / 2 ^ 16 % 4096
        remoteSlots s (pathOf s (partOfThread s t) t.launch peer) < 4 → feltReady s (dieOfCore t.core) (fdieOf s t.launch) = true →
        exec (.enq c g a b) s = .next (putThread { s with issue := none }
          { clearRun t with waiting := some .queue, answers := t.answers, kept := t.kept,
                            remoteEnq := some (.wanted peer (h.toNat % 2 ^ 16) cmd) }))
    ∧ DoesInTurn (.launch c g a) s iss g (fun u t u' => ∃ tg rec x, let p := src64 u iss t a
        p.toNat / 2 ^ 60 = 0 ∧ decodePointer u (accessorOf u t) .load p 256 64 = .ok tg ∧ Released u t
        ∧ recordBytes u t p = .ok rec
        ∧ let lr := launchOf u t.launch
          ((tell u t.efftag [dieOfCore t.core] [lr.fdie]).bind fun u1 =>
            acceptRecord u1 rec (childLaunch lr rec p.toNat) lr.kernel) = some x
          ∧ u' = x.1) s
    ∧ DoesInTurn (.signal c g a b) s iss g (fun u t u' => ∃ v w tg loc, src32 u iss t b = .ok (v, w)
        ∧ let p := src64 u iss t a
          ((pointerFields u p).1 = 0 ∨ (pointerFields u p).1 = 1) ∧ access u w .sync p 8 .modify .atomic = .ok (tg, loc)
          ∧ Translates w tg loc 8 .modify .atomic ∧ Released u w ∧ overlaps w loc 8 = false ∧ CanSend u w tg loc
          ∧ let tag := (launchOf u t.launch).ctx
            u' = homeSend u w tg loc 8 true true (fun va => .signal va (v.setWidth 64)) (.signal tag loc v.toNat) fun x =>
              armWaits (homePut x (dieOfCore w.core) loc 8 ((readNat x.mem loc 8 + v.toNat) % 2 ^ 64)) tag loc) s

/-! ### Tile words (10) -/

/-- 10 R202 to R204, R221: `mtile.alloc` gives the lowest free range with the next generation, or 0; `mtile.free` empties
a slot; `mprog` reports. -/
def Obligations.TileHandles : Prop :=
  ∀ (c : BitVec 1) (g : BitVec 2) (d a : BitVec 7) (s : State) (iss : Issue), Alone s iss →
    let alloc := fun (u : State) (t : Thread) (u' : State) => ∃ n w, src32 u iss t a = .ok (n, w)
      ∧ let none_ := putThread u (put32 iss d 0 w)
        ((¬ (n.toNat = 1 ∨ n.toNat = 2 ∨ n.toNat = 4 ∨ n.toNat = 8 ∨ n.toNat = 16) ∨ (w.handle0 ≠ 0 ∧ w.handle1 ≠ 0)
            ∨ findTiles u w.core n.toNat = none) ∧ u' = none_)
        ∨ ((n.toNat = 1 ∨ n.toNat = 2 ∨ n.toNat = 4 ∨ n.toNat = 8 ∨ n.toNat = 16) ∧ (w.handle0 = 0 ∨ w.handle1 = 0)
            ∧ ∃ base engine, findTiles u w.core n.toNat = some (base, engine)
              ∧ let gen := if (coreOf u w.core).gen = 8191 then 1 else (coreOf u w.core).gen + 1
                let slot := if w.handle0 = 0 then 0 else 1
                let x : TileRange := { id := u.nextOp, core := w.core, engine := engine, base := base, count := n.toNat,
                                       gen := gen, launch := w.launch, thread := w.thread, slot := slot }
                u' = putThread { mapCore u w.core (fun k => { k with gen := gen }) with
                    tileRanges := u.tileRanges ++ [x], nextOp := u.nextOp + 1 }
                  (setSlot (put32 iss d (handleValue x) w) slot (handleValue x)))
    (isStream d = false → DoesInTurn (.mtileAlloc c g d a) s iss g alloc s)
    ∧ LeadsInTurn (.mtileAlloc c g d a) s iss g alloc s
    ∧ DoesInTurn (.mtileFree c g a) s iss g (fun u t u' => ∃ h w k, src32 u iss t a = .ok (h, w) ∧ resolve w h = .ok k
        ∧ u' = mapRange (putThread (putThread u w) (setSlot w k 0)) (slotRangeId u w k)
            (fun x => { x with freeing := true })) s
    ∧ ∀ (h : Thread → Word) (r : Thread → Thread) (k : Thread → Nat), Reads1 s iss g a h r →
        EachActive s iss g (fun t => resolve (r t) (h t) = .ok (k t)) →
        let f := fun t => put32 iss d (progress s (r t) (k t)) (r t)
        (isStream d = false → Does (.mprog c g d a) s iss g f) ∧ Leads (.mprog c g d a) s iss g f

/-- 10 R207 to R211, R215, R222: a task, a tile move or a marker of the elected lane, checked and entered in its handle's
queue and, but for the marker, in its thread's open batch. The lanes compare their format words for a task; a move's
operand is the elected lane's alone. -/
def Obligations.TileOperations : Prop :=
  ∀ (c : BitVec 1) (g : BitVec 2) (a : BitVec 7) (m : BitVec 2) (n : BitVec 3) (s : State) (iss : Issue), Alone s iss →
    (∀ (x : Thread → Word) (r : Thread → Thread) (t w : Thread) (v : Word), Reads1 s iss g a x r →
      let s1 := act iss g r s
      electedLane s1 iss g = some t → src32 s1 iss t a = .ok (v, w) →
      let task := fun (sparse : Bool) (i : Instr) => ∀ o, (∀ y ∈ laneValues g a s1 iss, y.2 = v) → formatOk v = true →
        checkTask sparse v (16 * m.toNat) s1 w = .ok o → heldOps s1 w.core < 128 →
        exec i s = .next (closed iss (enterOp s1 w o))
      task false (.mtask c g a m) ∧ task true (.mtaskSb c g a m))
    ∧ ∀ (t w : Thread) (v : Word), electedLane s iss g = some t → src32 s iss t a = .ok (v, w) →
        let move := fun (k : TileKind) (i : Instr) => ∀ o, checkMove k v (8 * n.toNat) s w = .ok o → heldOps s w.core < 128 →
          exec i s = .next (closed iss (enterOp s w o))
        move .load (.mtileLd c g a n) ∧ move .store (.mtileSt c g a n) ∧ move .zero (.mtileZero c g a n)
        ∧ move .convert (.mtileCvt c g a n)
        ∧ ∀ k, resolve w v = .ok k →
            exec (.mfence c g a) s = .next (closed iss (enterOp s w (bareOp .fence (slotRangeId s w k))))

/-! ### Copies and batches (11) -/

/-- 11 R226 to R235: each copy is checked at issue and entered with a slot, in its thread's open batch. -/
def Obligations.Copies : Prop :=
  ∀ (c : BitVec 1) (g : BitVec 2) (n : BitVec 3) (m : BitVec 5) (b : BitVec 7) (s : State) (iss : Issue), Alone s iss →
    let k := 8 * n.toNat
    let room := fun (u : State) (t : Thread) => slotsUsed u t.core < 64
    DoesInTurn (.cpT c g n m) s iss g (fun u t u' => ∃ l,
        let base := blockPair t (k + 2)
        let tile := blockPair t (k + 4)
        let ctl := (blockReg t (k + 6)).toNat
        readLayout u t (blockPair t k) boxBad = .ok l ∧ ctl ≤ 1 ∧ blockReg t (k + 7) = 0 ∧ 2 * m.toNat + 2 * l.rank ≤ 64
        ∧ let origin := (List.range l.rank).map fun j => (blockPair t (2 * m.toNat + 2 * j)).toInt
          let rs := ((boxRange l base origin).toList.map fun x =>
              (if ctl = 1 then AccessClass.copyDest else .copySource, x.1, x.2))
            ++ [(if ctl = 1 then AccessClass.copySource else .copyDest, tile,
                  tileBytes l + if ctl = 1 then 0 else 4 * ((layoutRows l + 31) / 32))]
          let made := { bareCopy .tensor with layout := l, src := base, dst := tile, toTensor := decide (ctl = 1),
                                              origin := origin, nominal := tileBytes l }
          checkCopyRanges u t rs = .ok () ∧ base.toNat % l.es = 0 ∧ tile.toNat % 16 = 0 ∧ room u t
          ∧ u' = copyEntered u t made rs) s
    ∧ (∀ p ∈ [(CopyKind.gather, Instr.cpG c g n b), (.scatter, .cpS c g n b)],
        DoesInTurn p.2 s iss g (fun u t u' => ∃ l,
          let base := blockPair t (k + 2)
          let tile := blockPair t (k + 4)
          let ctl := (blockReg t (k + 6)).toNat
          let index := src64 u iss t b
          let rb := l.es * l.box.getD 0 1
          readLayout u t (blockPair t k) (fun l => decide (l.rank ≠ 2)) = .ok l ∧ ctl < 256 ∧ (ctl + 1) * rb % 4 = 0
          ∧ let rs : List (AccessClass × DWord × Nat) := [(.copySource, index, 4 * (ctl + 1)),
              (if p.1 = .gather then .copySource else .copyDest, wholeRange l base),
              (if p.1 = .gather then .copyDest else .copySource, tile,
                (ctl + 1) * rb + if p.1 = .gather then 4 * ((ctl + 1 + 31) / 32) else 0)]
            let made := { bareCopy p.1 with layout := l, src := base, dst := tile, index := index, count := ctl + 1,
                                            origin := [(blockReg t (k + 7)).toInt], nominal := (ctl + 1) * rb }
            checkCopyRanges u t rs = .ok () ∧ index.toNat % 4 = 0 ∧ base.toNat % l.es = 0 ∧ tile.toNat % 16 = 0 ∧ room u t
            ∧ u' = copyEntered u t made rs) s)
    ∧ ∀ p ∈ [(CopyKind.linear, Instr.cpL c g n, 0), (.reduce, .cpRed c g n, 2)],
        DoesInTurn p.2.1 s iss g (fun u t u' =>
          let src := blockPair t k
          let dst := blockPair t (k + 2)
          let len := (blockReg t (k + 4)).toNat
          let ctl := (blockReg t (k + 5)).toNat
          let rs : List (AccessClass × DWord × Nat) := [(.copySource, src, len), (if p.1 = .reduce then .sync else .copyDest, dst, len)]
          ctl ≤ p.2.2 ∧ blockReg t (k + 6) = 0 ∧ blockReg t (k + 7) = 0 ∧ checkCopyRanges u t rs = .ok ()
          ∧ src.toNat % 4 = 0 ∧ dst.toNat % 4 = 0 ∧ len % 4 = 0 ∧ room u t
          ∧ u' = copyEntered u t { bareCopy p.1 with src := src, dst := dst, len := len, rtype := ctl, nominal := len } rs) s

/-- 11 R237, R239: `seal` seals the open batch and gives its number; `batch.bytes` gives the pending bytes of a batch,
or 2^48 where it is reported. -/
def Obligations.Batches : Prop :=
  ∀ (c : BitVec 1) (g : BitVec 2) (d a : BitVec 7) (s : State) (iss : Issue), Alone s iss →
    (EachActive s iss g (fun t => (t.bsealed + 1 - t.boldest).toNat + 1 < 32768) →
      let f := fun t => put32 iss d ((t.bsealed + 1).setWidth 32) (sealBatch t)
      (isStream d = false → Does (.seal c g d) s iss g f) ∧ Leads (.seal c g d) s iss g f)
    ∧ ∀ (v : Thread → Word) (r : Thread → Thread) (n : Thread → Nat), Reads1 s iss g a v r →
        EachActive s iss g (fun t =>
          let b : BitVec 16 := (v t).setWidth 16
          let u := r t
          ((v t).getLsbD 16 = true ∧ n t = u.openBatch.bytes % 2 ^ 48)
          ∨ ((v t).getLsbD 16 = false ∧ (b - u.boldest).toNat < (u.bsealed + 1 - u.boldest).toNat
              ∧ n t = ((u.batches.find? fun x => decide (x.num = b.toNat)).map Batch.bytes).getD 0 % 2 ^ 48)
          ∨ ((v t).getLsbD 16 = false ∧ (u.bsealed + 1 - u.boldest).toNat ≤ (b - u.boldest).toNat
              ∧ (u.bsealed - b).toNat < 2 ^ 15 ∧ n t = 2 ^ 48)) →
        Does (.batchBytes c g d a) s iss g fun t => put64 d (BitVec.ofNat 64 (n t)) (r t)

/-! ### Streams (12) -/

/-- 12 R253 to R261: stream instructions and appends note their act, which is performed after the run's advances, in word
order. -/
def Obligations.StreamWords : Prop :=
  ∀ (c : BitVec 1) (g : BitVec 2) (d a b : BitVec 7) (s : State) (iss : Issue), Alone s iss →
    let notes := fun (i : Instr) (f : Thread → StreamAct) (r : Thread → Thread) =>
      Leads i s iss g fun t => { r t with acts := (r t).acts ++ [(iss.pos, f t)] }
    notes (.sisect c g d a b) (fun _ => .derive (d.toNat - 68) (a.toNat - 68) (b.toNat - 68) false) id
    ∧ notes (.sunion c g d a b) (fun _ => .derive (d.toNat - 68) (a.toNat - 68) (b.toNat - 68) true) id
    ∧ notes (.sfree c g a) (fun _ => .free (a.toNat - 68)) id
    ∧ ∀ (x : Thread → Word) (r : Thread → Thread), Reads1 s iss g b x r →
        notes (.sbind c g d a b) (fun t => .bind (d.toNat - 68) (src64 s iss t a) (x t)) r
        ∧ notes (.sskip c g a b) (fun t => .skip (a.toNat - 68) (x t)) r
        ∧ notes (.sskipn c g a b) (fun t => .skipN (a.toNat - 68) (x t)) r

/-- 12 R253 to R261: in a group of one thread, what the acts do: bind, derive, release, skip, append. A skip by count of a
fibre that has begun materialises nothing, of a bitmap or a derived stream it materialises and advances so often; a skip of a
derived stream skips both sources and materialises again; released, a derived stream leaves its sources level streams as they
stand. -/
def Obligations.StreamActs : Prop :=
  (∀ (s : State) (t : Thread) (n : Nat) (v : Word) (x : Stream), streamAt t n = some x →
    let derived := x.role = .intersection ∨ x.role = .union
    let refused := Except.error (α := Thread) (LaneEnd.trap .illegalOperand)
    (x.role = .slave ∨ x.role = .append → doSkip s t n v = refused ∧ doSkipN s t n v = refused)
    ∧ (∀ x1, x.role = .level → skipLevel s t x v.toNat = .ok x1 → doSkip s t n v = .ok (putStream t x1))
    ∧ (∀ a b a1 b1, derived → streamAt t x.linkA = some a → streamAt t x.linkB = some b →
        skipLevel s t a v.toNat = .ok a1 → skipLevel s t b v.toNat = .ok b1 →
        let bare := { x with valid := false, crd := 0 }
        doSkip s t n v = materialiseDerived s (putStream (putStream (putStream t a1) b1) bare) bare)
    ∧ (derived → v = 0 → doSkipN s t n v = .ok t)
    ∧ ∀ t1 y, derived ∨ (x.role = .level ∧ ∃ e, x.copy = some e ∧ e.kind = 2) → materialise s t x = .ok t1 → streamAt t1 n = some y →
        (y.done = true → v ≠ 0 → doSkipN s t n v = .ok t1)
        ∧ (y.done = false → v = 1 → doSkipN s t n v = .ok (advanceStream t1 n))
        ∧ ∀ u, y.done = false → 1 < v.toNat → doSkipN s (advanceStream t1 n) n (v - 1) = .ok u → doSkipN s t n v = .ok u)
  ∧ ∀ (c : BitVec 1) (g : BitVec 2) (d a b : BitVec 7) (k : BitVec 8) (s : State) (iss : Issue) (t u : Thread),
    OneLane s iss g t → iss.pos < 3 → isStream b = false →
    let noted := fun (x : StreamAct) => { t with acts := [(iss.pos, x)] }
    let goes := fun (i : Instr) (s2 : State) => exec i s = .next (closed iss s2)
    let v := plain32 s iss t b
    (∀ e, let w := noted (.bind (d.toNat - 68) (src64 s iss t a) v)
      isTied w (d.toNat - 68) = false → readEntry (putThread s w) w (src64 s iss t a) = .ok e →
      goes (.sbind c g d a b) (putThread s (putStream t (boundStream (d.toNat - 68) (src64 s iss t a) v e))))
    ∧ (∀ x y, d.toNat - 68 ≠ a.toNat - 68 → d.toNat - 68 ≠ b.toNat - 68 → a.toNat - 68 ≠ b.toNat - 68 →
        streamAt t (a.toNat - 68) = some x → streamAt t (b.toNat - 68) = some y → x.role = .level → y.role = .level →
        isTied t (d.toNat - 68) = false →
        let made := fun (role : Role) => putStream (putStream (putStream t
            { x with role := .slave, linkA := d.toNat - 68, linkB := 0 })
            { y with role := .slave, linkA := d.toNat - 68, linkB := 1 })
          { snum := d.toNat - 68, role := role, linkA := a.toNat - 68, linkB := b.toNat - 68 }
        goes (.sisect c g d a b) (putThread s (made .intersection)) ∧ goes (.sunion c g d a b) (putThread s (made .union)))
    ∧ (∀ x, streamAt t (a.toNat - 68) = some x → (x.role = .level ∨ x.role = .append) →
        goes (.sfree c g a) (putThread s (dropStream t (a.toNat - 68))))
    ∧ (∀ x y z, streamAt t (a.toNat - 68) = some x → (x.role = .intersection ∨ x.role = .union) →
        streamAt t x.linkA = some y → streamAt t x.linkB = some z →
        let back := fun (y : Stream) => { y with role := .level, linkA := 0, linkB := 0 }
        goes (.sfree c g a) (putThread s (dropStream (putStream (putStream t (back y)) (back z)) (a.toNat - 68))))
    ∧ (let w := noted (.skip (a.toNat - 68) v)
       doSkip (putThread s w) w (a.toNat - 68) v = .ok u → goes (.sskip c g a b) (putThread (putThread s w) u))
    ∧ (let w := noted (.skipN (a.toNat - 68) v)
       (doSkipN (putThread s w) w (a.toNat - 68) v = .ok u → goes (.sskipn c g a b) (putThread (putThread s w) u))
       ∧ ∀ x e, streamAt t (a.toNat - 68) = some x → x.role = .level →
         (v = 0 → goes (.sskipn c g a b) s)
         ∧ (v ≠ 0 → x.started = true → streamEntry (putThread s w) w x = .ok e → e.kind ≠ 2 →
            goes (.sskipn c g a b) (putThread s (putStream t
              { x with copy := some e, pos := min (x.pos + v.toNat) x.fin, valid := false, done := false, crd := 0 }))))
    ∧ (isStream d = true → ∀ x e s2, let w := setLatch iss .ab (k.signExtend 32) (noted (.append (d.toNat - 68) (k.signExtend 32)))
       streamAt t (d.toNat - 68) = some x → x.role = .append → x.pos < x.fin → streamEntry (putThread s w) w x = .ok e →
       threadStore (putThread s w) (putStream w { x with pos := x.pos + 1, copy := some e }) (plusBytes e.a0 (4 * x.pos)) 4
         (k.signExtend 32 : Word).toNat = .ok s2 → goes (.movi c g d k) s2)

/-- 12 R249, R250, R252, R257 to R259: the queries materialise their stream's element and tell its value, its coordinate,
its position, the sides present, and whether it is exhausted. What an element is, by its stream's kind: a fibre of kind 1
begins at its two words, a bitmap goes on to its next bit, a coordinate is checked; a skip goes to the first element that
reaches the coordinate, and a derived stream compares its sources' elements. A stream read as an operand delivers its element's
value once in the run, after which it advances. -/
def Obligations.StreamQueries : Prop :=
  let delivers := fun (s : State) (t t1 : Thread) (n : Nat) (y : Stream) => ∀ e, streamEntry s t1 y = .ok e →
    (e.kind ≠ 4 → e.valf = false → peekStream s t n = .ok (BitVec.ofNat 32 y.pos, t1))
    ∧ (∀ w, e.kind ≠ 4 → e.valf = true → carderWord s t1 (e.val + BitVec.ofNat 64 (4 * y.pos)) = .ok w →
        peekStream s t n = .ok (BitVec.ofNat 32 w, t1))
    ∧ ∀ w k, e.kind = 4 → e.counts.length = 4 → e.strides.length = 4 → (∀ i, i < k → e.counts.getD i 0 ≠ 0) → e.counts.getD k 0 = 0 →
        let at_ := fun (i : Nat) => y.pos / ((List.range i).map fun j => e.counts.getD j 0).prod % e.counts.getD i 0
        carderWord s t1 (BitVec.ofInt 64 (e.a0.toNat + ((List.range k).map fun i => (at_ i : Int) * e.strides.getD i 0).sum)) = .ok w →
          peekStream s t n = .ok (BitVec.ofNat 32 w, t1)
  (∀ (s : State) (t : Thread) (x : Stream) (e : Entry),
    let word := fun (p : DWord) (k v : Nat) => carderWord s t (p + BitVec.ofNat 64 (4 * k)) = .ok v
    let met := fun (z : Stream) (c : Nat) => Except.ok (ε := LaneEnd) { z with crd := BitVec.ofNat 32 c, done := false, valid := true }
    let ends := fun (z : Stream) => Except.ok (ε := LaneEnd) { z with crd := 0xFFFFFFFF, done := true, valid := true }
    let bad := fun (z : Stream) =>
      Except.error (α := Stream) (LaneEnd.coordTrap { z with valid := false, crd := 0, done := false, copy := none })
    let y := { x with copy := some e }
    let bit := fun (k : Nat) (b : Nat) => let c := k - x.parent * e.ext
      ∃ w, word e.a0 (x.parent * ((e.ext + 31) / 32) + c / 32) w ∧ w / 2 ^ (c % 32) % 2 = b
    (x.valid = true → materialiseLevel s t x = .ok x)
    ∧ (x.valid = false → streamEntry s t x = .ok e →
      (x.started = true → x.fin ≤ x.pos → materialiseLevel s t x = ends y)
      ∧ (x.started = true → x.pos < x.fin →
        (e.kind = 0 → materialiseLevel s t x = met y (x.pos - x.parent * e.ext))
        ∧ (e.kind = 4 → materialiseLevel s t x = met y x.pos)
        ∧ (∀ k, e.kind = 3 → word e.a0 x.parent k →
            materialiseLevel s t x = if e.nochk = true ∨ k < e.ext then met y k else bad y)
        ∧ (∀ k, e.kind = 1 → word e.a1 x.pos k → e.nochk = true ∨ x.pos ≤ x.start →
            materialiseLevel s t x = if e.nochk = true ∨ k < e.ext then met y k else bad y)
        ∧ (∀ k k0, e.kind = 1 → e.nochk = false → x.start < x.pos → word e.a1 x.pos k → word e.a1 (x.pos - 1) k0 →
            materialiseLevel s t x = if k0 < k ∧ k < e.ext then met y k else bad y)
        ∧ (e.kind = 2 → (∀ q, x.pos ≤ q → q < x.fin → (∀ k, x.pos ≤ k → k < q → bit k 0) → bit q 1 →
              materialiseLevel s t x = met { y with pos := q } (q - x.parent * e.ext))
            ∧ ((∀ k, x.pos ≤ k → k < x.fin → bit k 0) → materialiseLevel s t x = ends { y with pos := x.fin })))
      ∧ (∀ lo hi, x.started = false → word e.a0 x.parent lo → word e.a0 (x.parent + 1) hi →
        (lo ≤ hi ∨ e.nochk = true →
          materialiseLevel s t x = materialiseLevel s t { y with start := lo, pos := lo, fin := max lo hi, started := true })
        ∧ (hi < lo → e.nochk = false → materialiseLevel s t x = bad x)))
    ∧ ∀ (x1 : Stream) (v : Nat), materialiseLevel s t x = .ok x1 →
      let goes := fun (q : Nat) => materialiseLevel s t { x1 with pos := q, valid := false, crd := 0 }
      (x1.done = true ∨ v ≤ x1.crd.toNat → skipLevel s t x v = .ok x1)
      ∧ (x1.done = false → x1.crd.toNat < v → streamEntry s t x1 = .ok e →
        (e.kind = 0 ∨ e.kind = 2 → skipLevel s t x v = goes (if v < e.ext then x1.parent * e.ext + v else x1.fin))
        ∧ (e.kind = 3 → skipLevel s t x v = goes x1.fin) ∧ (e.kind = 4 → skipLevel s t x v = goes (min v x1.fin))
        ∧ (∀ q k, e.kind = 1 → x1.pos < q → q < x1.fin → word e.a1 q k → v ≤ k →
            (∀ j, x1.pos < j → j < q → ∃ i, word e.a1 j i ∧ i < v) → skipLevel s t x v = goes q)
        ∧ (e.kind = 1 → x1.pos < x1.fin → (∀ j, x1.pos < j → j < x1.fin → ∃ i, word e.a1 j i ∧ i < v) →
            skipLevel s t x v = goes x1.fin))
      ∧ (x.role = .level → ∀ n, streamAt t n = some x → let t1 := putStream t x1
        (x1.done = true → peekStream s t n = .ok (0, t1)) ∧ (x1.done = false → delivers s t t1 n x1)))
  ∧ (∀ (s : State) (t : Thread) (n : Nat) (x : Stream), streamAt t n = some x →
    (x.role = .append → peekStream s t n = .error (.trap .illegalOperand))
    ∧ (∀ t1 d, x.role = .intersection ∨ x.role = .union → materialiseDerived s t x = .ok t1 → streamAt t1 n = some d → d.role = x.role →
        peekStream s t n = .ok (if d.done then 0 else d.crd, t1))
    ∧ ∀ z t1 y d, x.role = .slave → streamAt t x.linkA = some z → materialiseDerived s t z = .ok t1 → streamAt t1 n = some y →
        y.role = .slave → streamAt t1 y.linkA = some d →
        let absent := d.done = true ∨ y.valid = false ∨ y.done = true ∨ y.crd ≠ d.crd
        (absent → peekStream s t n = .ok (0, t1)) ∧ (¬ absent → delivers s t t1 n y))
  ∧ (∀ (s : State) (iss : Issue) (t u : Thread) (a : BitVec 7) (v : Word), isStream a = true →
    let n := a.toNat - 68
    (t.readS = [] → t.readErr = [] → peekStream s t n = .ok (v, u) → src32 s iss t a = .ok (v, { u with readS := [(n, v)] }))
    ∧ (t.readS.find? (fun x => decide (x.1 = n)) = some (n, v) → src32 s iss t a = .ok (v, t)))
  ∧ (∀ t : Thread, (advanceRead t).streams = (t.readS.foldl (fun x r => advanceStream x r.1) t).streams)
  ∧ (∀ (t : Thread) (n : Nat) (x : Stream), streamAt t n = some x →
    let one := fun (y : Stream) => { y with pos := y.pos + 1, valid := false, crd := 0 }
    let on := fun (y : Stream) => if y.done then y else one y
    let derived := x.role = .intersection ∨ x.role = .union
    (x.role = .level → advanceStream t n = putStream t (on x))
    ∧ (x.role = .slave ∨ x.role = .append ∨ (derived ∧ (x.done = true ∨ x.valid = false)) → advanceStream t n = t)
    ∧ ∀ a b, derived → x.done = false → x.valid = true → streamAt t x.linkA = some a → streamAt t x.linkB = some b →
        let step := fun (y : Stream) => if x.role = .intersection ∨ (y.done = false ∧ y.crd = x.crd) then on y else y
        advanceStream t n = putStream (putStream (putStream t (step a)) (step b)) (one x))
  ∧ (∀ (s : State) (t : Thread) (d a b a1 b1 : Stream), streamAt t d.linkA = some a → streamAt t d.linkB = some b →
    d.valid = false → materialiseLevel s t a = .ok a1 → materialiseLevel s t b = .ok b1 →
    let made := fun (x y : Stream) (c : Word) =>
      materialiseDerived s t d = .ok (putStream (putStream (putStream t x) y) { d with crd := c, done := false, valid := true })
    let ends := fun (x y : Stream) =>
      materialiseDerived s t d = .ok (putStream (putStream (putStream t x) y) { d with crd := 0xFFFFFFFF, done := true, valid := true })
    (d.role = .intersection →
      (a1.done = true → ends a1 b) ∧ (a1.done = false → b1.done = true → ends a1 b1)
      ∧ (a1.done = false → b1.done = false →
        (a1.crd = b1.crd → made a1 b1 a1.crd)
        ∧ (∀ a2, a1.crd.toNat < b1.crd.toNat → skipLevel s t a1 b1.crd.toNat = .ok a2 →
            (a2.done = true → ends a2 b1) ∧ (a2.done = false → a2.crd = b1.crd → made a2 b1 a2.crd))
        ∧ ∀ b2, b1.crd.toNat < a1.crd.toNat → skipLevel s t b1 a1.crd.toNat = .ok b2 →
            (b2.done = true → ends a1 b2) ∧ (b2.done = false → a1.crd = b2.crd → made a1 b2 a1.crd)))
    ∧ (d.role = .union →
      (a1.done = true → b1.done = true → ends a1 b1) ∧ (a1.done = true → b1.done = false → made a1 b1 b1.crd)
      ∧ (a1.done = false → b1.done = true → made a1 b1 a1.crd)
      ∧ (a1.done = false → b1.done = false → made a1 b1 (if a1.crd.toNat ≤ b1.crd.toNat then a1.crd else b1.crd))))
  ∧ ∀ (c : BitVec 1) (g : BitVec 2) (p : BitVec 3) (d a : BitVec 7) (s : State) (iss : Issue), Alone s iss →
    let tells := fun (i : Instr) (f : Thread → Thread) => (isStream d = false → Does i s iss g f) ∧ Leads i s iss g f
    (∀ (v : Thread → Word) (r : Thread → Thread),
      EachActive s iss g (fun t => peekStream s t (a.toNat - 68) = .ok (v t, r t)) →
      tells (.speek c g d a) fun t => put32 iss d (v t) (r t))
    ∧ ∀ (x y : Thread → Stream) (r : Thread → Thread),
        EachActive s iss g (fun t => streamAt t (a.toNat - 68) = some (y t) ∧ queried s t (a.toNat - 68) = .ok (x t, r t)) →
        let derived := fun (z : Stream) => z.role = .intersection ∨ z.role = .union
        (EachActive s iss g (fun t => (y t).role ≠ .append) →
          tells (.scrd c g d a) fun t => put32 iss d (x t).crd (r t))
        ∧ tells (.spos c g d a) (fun t => put32 iss d (BitVec.ofNat 32
            (if (x t).role = .append ∨ derived (x t) then (x t).pos else if (x t).done then (x t).fin else (x t).pos)) (r t))
        ∧ (EachActive s iss g (fun t => derived (y t)) →
          tells (.sin c g d a) fun t =>
            let here := fun (n : Nat) => ((streamAt (r t) n).map fun z => !z.done && z.crd == (x t).crd).getD
              ((x t).crd == 0)
            put32 iss d (if (x t).done then 0 else if (x t).role = .intersection then 3
              else (if here (x t).linkA then 1 else 0) + (if here (x t).linkB then 2 else 0)) (r t))
        ∧ Does (.sdone c g p a) s iss g fun t =>
            let done := if (x t).role = .append then decide ((x t).fin ≤ (x t).pos) else (x t).done
            { r t with pred := predSet (r t).pred p.toNat done }

/-! ### Counters (13) and privileged words (19) -/

/-- 13 R268, R269: `ctr` reads FPSM (with selector 1 clearing its flags after the run), the trap word, or a counter of
the core as it stood before the run, zero without CTREN; `tick` reads the time base. -/
def Obligations.Counters : Prop :=
  ∀ (c : BitVec 1) (g : BitVec 2) (d a : BitVec 7) (s : State) (iss : Issue), Alone s iss →
    Plain (.tick c g d) g (fun s _ t => put64 d s.timeBase t)
    ∧ ∀ (v : Thread → Word) (r : Thread → Thread), Reads1 s iss g a v r →
        let sel := fun t => (v t).toNat % 2 ^ 16
        let does := fun (h : Thread → Thread) => Does (.ctr c g d a) s iss g h
        (EachActive s iss g (fun t => sel t = 0) → does fun t => put64 d ((oldFpsm t).setWidth 64) (r t))
        ∧ (EachActive s iss g (fun t => sel t = 1) →
            does fun t => put64 d ((oldFpsm t).setWidth 64) { r t with flagsClear := true })
        ∧ (EachActive s iss g (fun t => sel t = 2) → does fun t => put64 d t.trapWord (r t))
        ∧ (EachActive s iss g (fun t => 2 < sel t ∧ isCounter (sel t) = true) →
            does fun t => put64 d (if (ctxOfLaunch s t.launch).ctren then
              ((((iss.cbefore.getD (coreOf s t.core).counters).find? fun x => decide (x.1 = sel t)).map (·.2)).getD 0) else 0) (r t))

/-- 19 R286: a privileged instruction of a launch that is not privileged traps every lane of its group. -/
def Obligations.PrivilegedTraps : Prop :=
  ∀ (c : BitVec 1) (g : BitVec 2) (d a b : BitVec 7) (s : State) (iss : Issue), Alone s iss →
    (launchOf s iss.launch).kernel = false →
    ∀ i ∈ [Instr.sysrd c g d a, .syswr c g a b, .modeRequest c g a b, .ctrzero c g a b, .segld c g a b, .icinv c g a b,
        .tlbinv c g a b, .ctxtag c g a, .halt c g, .modPub c g a b, .modRet c g a b, .poolx c g a b, .pqSet c g a b],
      let trapped := fun (t : Thread) => if inGroup iss t then { t with laneEnd := some (.trap .privileged, iss.pos) } else t
      exec i s = .next (settle { s with threads := s.threads.map trapped })

/-- 19 R289 to R292: reads of system registers by every lane, and what the registers hold; writes of MODE, CTREN and CTRZERO by
the elected lane. -/
def Obligations.SystemRegisters : Prop :=
  (∀ (c : BitVec 1) (g : BitVec 2) (d a b : BitVec 7) (s : State) (iss : Issue), Alone s iss →
    (launchOf s iss.launch).kernel = true →
    (∀ (v : Thread → Word) (r : Thread → Thread) (x : Thread → Nat), Reads1 s iss g a v r →
      EachActive s iss g (fun t => sysReg s t ((v t).toNat % 2 ^ 16) = some (x t)) →
      Does (.sysrd c g d a) s iss g fun t => put64 d (BitVec.ofNat 64 (x t)) (r t))
    ∧ ∀ (t w : Thread) (n : Word), electedLane s iss g = some t → src32 s iss t b = .ok (n, w) →
        ∀ i ∈ [Instr.syswr c g a b, .modeRequest c g a b, .ctrzero c g a b],
        let v := (src64 s iss t a).toNat
        let num := n.toNat % 2 ^ 16
        let ended := closed iss (putThread s w)
        let answers := fun (s1 : State) (code : Nat) => closed iss (putThread s1 { w with sysstat := BitVec.ofNat 64 code })
        let changed := BitVec.ofNat 2 (v / 4) ≠ s.mode.poolsh ∨ decide (v / 16 % 2 = 1) ≠ s.mode.causal
        (num = 3 → v ≤ 1 →
          exec i s = .next (mapCtx ended (launchOf s w.launch).ctx fun x => { x with ctren := decide (v = 1) }))
        ∧ (num = 4 → v = 0 → exec i s = .next ended)
        ∧ (num = 4 → v = 1 → exec i s = .next (mapCore ended w.core fun k => { k with counters := [], zeroed := true }))
        ∧ (num = 1 → modeBad v = false → changed → exec i s = .next (answers s 1))
        ∧ (num = 1 → modeBad v = false → ¬ changed → w.sysWait ≠ .clockDone → s.plimit < clockWatts (BitVec.ofNat 2 v) →
            exec i s = .next (answers s 2))
        ∧ (num = 1 → modeBad v = false → ¬ changed →
            (w.sysWait = .clockDone ∨ (clockWatts (BitVec.ofNat 2 v) ≤ s.plimit ∧ BitVec.ofNat 2 v = s.mode.clk)) →
            exec i s = .next (answers { s with mode := { s.mode with drain := BitVec.ofNat 2 (v / 32) } } 0)))
  ∧ ∀ (s : State) (t : Thread), t.before = none →
    let x := ctxOfLaunch s t.launch
    let m := s.mode
    sysReg s t 1 = some (m.clk.toNat + 4 * m.poolsh.toNat + (if m.causal then 16 else 0) + 32 * m.drain.toNat)
    ∧ sysReg s t 2 = some t.sysstat.toNat ∧ sysReg s t 3 = some (if x.ctren then 1 else 0) ∧ sysReg s t 4 = some 0
    ∧ sysReg s t 5 = some x.pqdl ∧ sysReg s t 6 = some (x.tag + t.efftag * 4096)
    ∧ (∀ k, k < 6 → let e := segAt (gangOf s t).segs k
        sysReg s t (0x10 + 2 * k) = some e.base.toNat
        ∧ sysReg s t (0x11 + 2 * k) = some (e.limit.toNat + e.pshift.toNat * 2 ^ 48))
    ∧ (∀ n, (7 ≤ n ∧ n < 0x10) ∨ 0x1B < n → sysReg s t n = none)

/-- 19 R293 to R302: segment registers, context tags, deadlines, pool extensions, code modules and `halt`, for the
elected lane; those that wait for acknowledgements once they have come. -/
def Obligations.SystemWords : Prop :=
  ∀ (c : BitVec 1) (g : BitVec 2) (a b : BitVec 7) (s : State) (iss : Issue) (t w : Thread) (n : Word), Alone s iss →
    (launchOf s iss.launch).kernel = true → electedLane s iss g = some t → src32 s iss t b = .ok (n, w) →
    let p := src64 s iss t a
    let answers := fun (s1 : State) (u : Thread) (fn code detail : Nat) =>
      closed iss (putThread s1 { u with sysstat := BitVec.ofNat 64 (code + 256 * fn + 65536 * detail) })
    let acked := w.sysWait = .complete ∨ w.sysWait = .clockDone
    exec (.halt c g) s = .next (closed iss { s with frozen := true })
    ∧ (∀ bytes, n.toNat ≤ 5 → readDescriptor s w p = .ok bytes → segRefused s w n.toNat bytes = false →
        let e := parseSeg bytes 0
        exec (.segld c g a b) s = .next (applyAfter (closed iss (putThread s w)) (.segment t.launch t.gang (gangOf s t).core
          t.detachedHere n.toNat (if n.toNat = 2 ∨ n.toNat = 3 then 0 else e.base) e.limit e.pshift)))
    ∧ (n = 0 → Released s w → exec (.icinv c g a b) s = .next (closed iss (putThread s w)))
    ∧ (∀ lines, n ≠ 0 → icinvLines s w p n.toNat = .ok lines → Released s w → acked →
        exec (.icinv c g a b) s = .next (closed iss (discardLines lines (putThread s w))))
    ∧ (let tag := p.toNat / 2 ^ 48 % 4096
       p.toNat / 2 ^ 60 = 0 → p.toNat % 65536 = 0 →
        (liveContext s w tag = false → exec (.tlbinv c g a b) s = .next (answers s w 3 7 0))
        ∧ (liveContext s w tag = true → acked →
            exec (.tlbinv c g a b) s = .next (answers (invalidate tag (p.toNat % 2 ^ 48) n.toNat s) w 3 0 0)))
    ∧ (∀ bytes, n.toNat ≤ 1023 → readDescriptor s w p = .ok bytes →
        let start := natOfBytes (bytes.take 8)
        let len := natOfBytes ((bytes.drop 8).take 4)
        let x := ctxOf s w.efftag
        start % 128 = 0 → len % 128 = 0 → len ≠ 0 → natOfBytes ((bytes.drop 12).take 4) = 0 →
        (moduleDetail x n.toNat = 1 → exec (.modPub c g a b) s = .next (answers s w 6 4 1))
        ∧ (moduleDetail x n.toNat ≠ 1 → overlapsLive x start len = true → exec (.modPub c g a b) s = .next (answers s w 6 4 3))
        ∧ (moduleDetail x n.toNat ≠ 1 → overlapsLive x start len = false → Released s w → acked →
            exec (.modPub c g a b) s = .next (answers (mapCtx (discardLines (moduleLines s w.efftag start len) s) w.efftag
              fun y => putModule y { num := n.toNat, state := .live, start := start, length := len }) w 6 0 0)))
    ∧ (∀ (k : Word) (u v : Thread), src32 s iss t a = .ok (k, u) → src32 s iss u b = .ok (n, v) →
        (n.toNat < 4096 → 1024 ≤ k.toNat →
          (liveContext s v n.toNat = false → exec (.pqSet c g a b) s = .next (answers s v 9 7 0))
          ∧ (liveContext s v n.toNat = true →
              exec (.pqSet c g a b) s = .next (answers (mapCtx s n.toNat fun x => { x with pqdl := k.toNat }) v 9 0 0)))
        ∧ (k.toNat ≤ 1 → n.toNat ≤ 1023 →
          let x := ctxOf s v.efftag
          (moduleAt x n.toNat = none → exec (.modRet c g a b) s = .next (answers s v 7 4 0))
          ∧ ∀ e, moduleAt x n.toNat = some e →
              (e.state = .retired → exec (.modRet c g a b) s = .next (answers s v 7 4 2))
              ∧ (e.state = .live → k = 0 → liveCount s v.efftag e ≠ 0 →
                  exec (.modRet c g a b) s = .next (answers s v 7 3 (liveCount s v.efftag e)))
              ∧ (e.state = .live → (k = 1 ∨ liveCount s v.efftag e = 0) →
                  exec (.modRet c g a b) s = .next (closed iss (convertAll v.efftag (putThread
                    (mapCtx s v.efftag fun y => putModule y { e with state := .retired })
                    { v with sysstat := BitVec.ofNat 64 (256 * 7) }))))))
    ∧ (let core := n.toNat % 256
       let units := n.toNat / 256 % 65536
       n.toNat / 2 ^ 24 = 0 → core ≤ 191 → 1 ≤ units → units ≤ 4096 → p.toNat % 65536 = 0 →
        let mine := ((partOf s (partOfThread s w)).getD noPart).cores.contains core
        let frames := if mine ∧ p.toNat < 2 ^ 48 then regionFrames s w (dieOfCore core) p.toNat units else none
        (frames = none → exec (.poolx c g a b) s = .next (answers s w 8 5 0))
        ∧ (∀ f, frames = some f → 2 ^ 28 < extensionBytes (coreOf s core) + units * 65536 →
            exec (.poolx c g a b) s = .next (answers s w 8 6 0))
        ∧ ∀ f, frames = some f → extensionBytes (coreOf s core) + units * 65536 ≤ 2 ^ 28 →
            exec (.poolx c g a b) s = .next (answers { mapCore s core (fun k => { k with exts := k.exts ++
              [{ region := s.nextRegion, frames := f, length := units * 65536, ctx := (launchOf s w.launch).ctx }] }) with
              nextRegion := s.nextRegion + 1 } w 8 0 0))

/-- 19 R294: `ctxtag` gives its thread another effective context tag after the run, if the context is live. -/
def Obligations.ContextTags : Prop :=
  ∀ (c : BitVec 1) (g : BitVec 2) (a : BitVec 7) (s : State) (iss : Issue) (t w : Thread) (v : Word), OneLane s iss g t →
    (launchOf s iss.launch).kernel = true → src32 s iss t a = .ok (v, w) → v.toNat < 4096 → t.place = .window →
    let answers := fun (code : Nat) => closed iss (putThread s { w with sysstat := BitVec.ofNat 64 (code + 256 * 4) })
    (liveContext s t v.toNat = false → exec (.ctxtag c g a) s = .next (answers 7))
    ∧ (liveContext s t v.toNat = true →
        exec (.ctxtag c g a) s = .next (mapThread (answers 0) t.launch t.thread fun x => { x with efftag := v.toNat }))

/-! ### Steps and events -/

/-- 02 R35, R36: what issues on a core in a cycle is a run for an issue group: ready threads of one gang that hold
windows of the core and stand at one program counter, at most 32 of them, lane by lane in rising THREAD. -/
def Obligations.IssueGroups : Prop :=
  ∀ (s : State) (c : Nat) (g ready : List Thread) (ws : List (Nat × Instr)) (fall : Nat × Nat) (mask : DWord),
    let s1 := asking s c
    MayIssue s c → (s.threads.map rowKey).Nodup → formGroup s1 c = some (g, .run ws fall mask, ready) →
    ∃ iss, exec (.runIssue c) s = .next { s1 with issue := some iss }
      ∧ iss.core = c ∧ iss.words = ws ∧ iss.fall = fall ∧ iss.mask = mask ∧ iss.lanes = g.map Thread.thread
      ∧ iss.lanes ≠ [] ∧ iss.lanes.length ≤ 32 ∧ iss.lanes.Pairwise (· < ·)
      ∧ ∀ u ∈ g, u ∈ s.threads ∧ u.core = c ∧ u.place = .window ∧ u.waiting = none ∧ mayIssue s1 u = true
          ∧ u.launch = iss.launch ∧ u.gang = iss.gang ∧ u.packet = iss.packet ∧ u.pos = iss.pos

/-- 02 R35, 06 R121, R135: the next step of a core's picker runs the word at the program counter: that of the only
candidate thread by its bytes, and of an issue group the run that it formed; after it the books of the run are made. In a
run of two words (06 R123) both read what each lane held before the run, a later write of the run stands, the flags of
both are set, and the second writes the latch of its own pipe. -/
def Obligations.StepRunsDecoded : Prop :=
  ∀ (s : State) (c : Nat) (rest : List Instr),
    let s0 := { s with agenda := rest }
    let s1 := asking s0 c
    let after := fun (iss : Issue) (o : Host.Outcome State Fault Refusal) =>
      match o with
      | .next s2 => .next (finishRun iss s2)
      | o => o
    s.agenda = .runIssue c :: rest → Running s → MayIssue s0 c →
    (∀ t l w i fall mask, candidates s1 c = [t] → StandsAt s1 t l w i fall mask → hitsLoads t [(t.pos, i)] = false →
      let iss := issueOf s1 c [t] [t] [(t.pos, i)] fall mask
      step s = after iss (exec i { s1 with issue := some iss }))
    ∧ (∀ g ready pos i fall mask, formGroup s1 c = some (g, .run [(pos, i)] fall mask, ready) →
      let iss := issueOf s1 c g ready [(pos, i)] fall mask
      step s = after iss (exec i { s1 with issue := some { iss with pos := pos } }))
    ∧ (∀ g ready v w ws fall mask, formGroup s1 c = some (g, .run (v :: w :: ws) fall mask, ready) →
      let iss := issueOf s1 c g ready (v :: w :: ws) fall mask
      step s = .next (finishRun iss (conduct (runBody iss) 33 { s1 with issue := some iss })))
    ∧ ∀ (u : State) (iss : Issue) (p q : Nat) (m n : PairWord) (c1 c2 : BitVec 1) (g1 g2 : BitVec 2) (d1 a1 b1 d2 a2 b2 : BitVec 7)
        (w1 w2 : BitVec 1), m ∈ pairWords → n ∈ pairWords → p < q → Chained u iss →
      iss.words = [(p, m.1 c1 g1 d1 a1 b1 w1), (q, n.1 c2 g2 d2 a2 b2 w2)] →
      ([d1, a1, b1, d2, a2, b2].all fun k => !isStream k) = true →
      let first := { iss with pos := p, second := false }
      let later := { iss with pos := q, second := true }
      let lane := fun t : Thread =>
        if inGroup iss t then pairLane n.2 u later g2 d2 a2 b2 w2 t (pairLane m.2 u first g1 d1 a1 b1 w1 t t) else t
      conduct (runBody iss) 33 u = closed iss { u with threads := u.threads.map lane }

/-- 22 R356, 24 R379: while the package is frozen, or after a failed bring-up, an event that needs its clocks does not
happen, and a step that finds no other stops. -/
def Obligations.FrozenStands : Prop :=
  ∀ (s : State), s.issue = none →
    (∀ i rest, s.agenda = i :: rest → s.frozen = true → passesFreeze i = false → step s = .next { s with agenda := rest })
    ∧ (s.agenda = [] → s.frozen = true → step s = .fault .frozen)
    ∧ (s.agenda = [] → s.frozen = false → s.boot.failed.isSome = true → step s = .fault .bringUpFailed)

/-- 02 R26 to R33, 01 R12, 13 R266, R269, 19 R288, 21 R322: bins become ready by age and drain as umbels of at most 32
records, each with its window, its carried registers and zeros; code lines and translations arrive; a cycle passes. -/
def Obligations.CoreEvents : Prop :=
  ∀ (s : State) (c : Nat),
    (∀ k ks, (coreOf s c).drained = false → (coreOf s c).inService = true → (s.threads.map rowKey).Nodup →
      readyBins s c = k :: ks →
      let rs := (binRecords s c k).take 32
      ∀ w : Thread → Nat, (∀ t ∈ rs, drainWindow s t = .ok (w t)) → windowsHeld s c + rs.length ≤ Config.coreWindows →
      ∃ s', exec (.drain c) s = .next s' ∧ (coreOf s' c).drained = true ∧ s'.mem = s.mem
        ∧ (∀ u ∈ s.threads, u ∉ rs → threadAt s' u.launch u.thread = some u)
        ∧ ∀ t ∈ rs, ∃ r, threadAt s' t.launch t.thread = some r ∧ r.place = .window ∧ r.window = w t
            ∧ (∀ n, n < 64 → regGet r.regs n = if n < w t ∧ t.carry.getLsbD n = true then regGet t.regs n else 0)
            ∧ r.packet = t.packet ∧ r.pos = t.pos ∧ r.pred = t.pred ∧ r.fpsm = t.fpsm ∧ r.sbuf = t.sbuf
            ∧ r.trapWord = (if t.trapRec then t.tfword else 0))
    ∧ (∀ l g p q, let k : BinKey := { launch := l, gang := g, packet := p, pos := q }
      binRecords s c k ≠ [] → drainThreshold s ≤ now s - oldestOf (binRecords s c k) →
      ∃ s', exec (.binReadyByAge c l g p q) s = .next s' ∧ binReady s' c k = true ∧ s'.threads = s.threads ∧ s'.mem = s.mem)
    ∧ (∀ l ls, (coreOf s c).fills = l :: ls →
      (∀ s1, isBad s (l * 128) = false ∨ cachedLine s c l = true → codeTrip s c l = some s1 → (∀ b, (l, b) ∉ (coreOf s c).icache) →
        ∃ s', exec (.codeLineFill c) s = .next s' ∧ l ∉ (coreOf s' c).fills ∧ (l, lineBelow s c l) ∈ (coreOf s' c).icache
          ∧ s'.threads = s.threads ∧ s'.mem = s.mem)
      ∧ (isBad s (l * 128) = false → codeTrip s c l = none → exec (.codeLineFill c) s = .next s)
      ∧ (isBad s (l * 128) = true → cachedLine s c l = false →
        exec (.codeLineFill c) s = .next (mapCore s c fun r => { r with fills := r.fills.filter fun x => decide (x ≠ l) })))
    ∧ (∀ tag va x e, ctxAt s tag = some x → walk s x va = .ok e → (coreOf s c).tlb.length ≤ 512 →
      (∀ s1, isRemoving x = false → walkTrips s c tag x va = some s1 →
        ∃ s', exec (.tlbMissWalk c tag va) s = .next s' ∧ e ∈ (coreOf s' c).tlb ∧ (coreOf s' c).tlb.length ≤ 512
          ∧ s'.threads = s.threads ∧ s'.mem = s.mem)
      ∧ (isRemoving x = true → exec (.tlbMissWalk c tag va) s = .next s))
    ∧ (windowsHeld s c ≠ 0 → ∃ s', exec (.compactorMove c) s = .next s' ∧ s'.threads = s.threads ∧ s'.mem = s.mem
        ∧ readCounter (coreOf s' c) 0x0201 = readCounter (coreOf s c) 0x0201 + 1)
    ∧ (s.hardErrors = [] → (∀ x ∈ s.contexts, x.run ≠ .stopping) → ∃ s', exec .coreClockCycle s = .next s'
        ∧ s'.timeBase = s.timeBase + 1 ∧ s'.mem = s.mem ∧ s'.threads = s.threads.map (fun t => { t with waiting := none })
        ∧ (c < 192 → (coreOf s c).inService = true →
            (coreOf s' c).cycles = (coreOf s c).cycles + 1 ∧ (coreOf s' c).issued = false ∧ (coreOf s' c).drained = false))

/-- 09 R180, R185, R195, R198, R199, 05 R111, R113, R118, 19 R295, R296, 02 R21, 23 R377: what reaches a thread or its
record from outside its words: data, answers, acknowledgements, a freed slot, the drain of a posted store, a barrier, its
exit. What a peer's request and a host WRITE do to the memory that stands for theirs is the model's (logs 6, 7), and so are
the messages by which causality goes with an exit (log 91). -/
def Obligations.ThreadEvents : Prop :=
  ∀ (s : State) (l n : Nat) (t : Thread), threadAt s l n = some t →
    let becomes := fun (i : Instr) (u : Thread) => ∃ s', exec i s = .next s' ∧ threadAt s' l n = some u ∧ ThreadsKept s s' l n
      ∧ s'.mem = s.mem
    let own := dieOfCore t.core
    let toPeer := fun (s' : State) (peer va : Nat) (k : RenharKind) => own ≠ fdieOf s l → isLiveDie s (fdieOf s l) = true →
      ∃ p ∈ s'.felt.packets, p.dst = fdieOf s l ∧ p.body = .renhar (partOfThread s t) l n t.core peer va k
    let toHost := fun (s' : State) (r : HostWindow → PortReply) (wpa : Nat) => ∀ h, windowAt s wpa = some h → s.port.paused = false →
      s'.port.replies = s.port.replies ++ [r h]
    (∀ p ps s1, t.loads = p :: ps → t.remoteLoad = none →
      loadArrives s t p = some s1 → becomes (.loadDataReturn l n)
        { t with loads := ps, regs := p.writes.foldl (fun r w => regSet r w.1 w.2) t.regs, lm := p.latch <|> t.lm,
                 relUnack := if p.acks then t.relUnack - 1 else t.relUnack })
    ∧ (∀ p, (∀ loc k, p.loc = some (loc, k) → (coreLine s t.core (loc / 128)).isSome = true) → loadArrives s t p = some s)
    ∧ (∀ p, t.loads = [] → t.remoteLoad = none → t.kept = some p → p.acks = true →
      becomes (.loadDataReturn l n) { t with kept := some { p with acks := false }, relUnack := t.relUnack - 1 })
    ∧ (∀ r, t.remoteLoad = some (.wanted r) → windowLost s r.wpa = false →
      let asked := { t with remoteLoad := some (.sent r none) }
      (∀ p, r.peer = some p → feltReady s own (fdieOf s l) = true → s.threads.any (precedes t r) = false →
        ∃ s', exec (.loadDataReturn l n) s = .next s'
          ∧ threadAt s' l n = some asked ∧ s'.mem = s.mem ∧ toPeer s' p r.va r.kind)
      ∧ (∀ s1, r.peer = none → isHostLoc r.loc = true → message s own 0 false t.efftag = some s1 →
        ∃ s', exec (.loadDataReturn l n) s = .next s' ∧ threadAt s' l n = some asked ∧ s'.mem = s.mem
          ∧ toHost s' (fun h => .readRequest h.conn h.rkey (h.remote + (r.wpa - 2 ^ 40) % 2 ^ 32) r.size) r.wpa)
      ∧ (r.peer = none → isHostLoc r.loc = false → becomes (.loadDataReturn l n) asked))
    ∧ (∀ r x s1, t.remoteLoad = some (.sent r x) → windowLost s r.wpa = false → remoteArrives s t r = some s1 →
      let given := fun (old : Nat) => ThreadsKept s s1 l n
        ∧ threadAt s1 l n = some { t with remoteLoad := none, answers := t.answers ++ [(r, old)] }
      exec (.loadDataReturn l n) s = .next s1
        ∧ (∀ va m wide back cmp v, r.kind = .atomic va m wide back cmp v → r.peer.isSome = true →
            let b := if wide then 8 else 4
            let old := readNat s.mem r.loc b
            (x = none → oneWordLanes s t r = [t] →
              given old ∧ s1.mem = writeNat s.mem r.loc b (atomicValue m b old v.toNat cmp.toNat))
            ∧ ∀ z, x = some z → oneWordLanes s t r = [] → given z ∧ s1.mem = s.mem)
        ∧ ((∀ va m wide back cmp v, r.kind ≠ .atomic va m wide back cmp v) → x = none → given 0 ∧ s1.mem = s.mem))
    ∧ (∀ r, (oneWordLanes s t r).Pairwise fun u v => u.thread ≤ v.thread)
    ∧ (∀ k, becomes (.peerAck l n k)
        { t with peerAck := t.peerAck - min k (s.renhar.out.filter (isPosted l n)).length })
    ∧ (∀ k o s1, s.felt.owed.find? (owedTo l n k) = some o → message s o.die own false o.tag = some s1 →
        becomes (.releaseAck l n k) (match k with
          | .release => { t with relUnack := t.relUnack - 1 }
          | .ownership => { t with ownUnack := t.ownUnack - 1 }
          | .otherDie => { t with dieUnack := t.dieUnack - 1 }))
    ∧ ((∀ k, s.felt.owed.any (owedTo l n k) = false) →
      becomes (.releaseAck l n .release)
        (if openReleases s t < t.relUnack then { t with relUnack := t.relUnack - 1 } else t)
    ∧ becomes (.releaseAck l n .ownership)
        (if undeliveredOf s t .ownership < t.ownUnack then { t with ownUnack := t.ownUnack - 1 } else t)
    ∧ becomes (.releaseAck l n .otherDie)
        (if undeliveredOf s t .otherDie < t.dieUnack then { t with dieUnack := t.dieUnack - 1 } else t))
    ∧ (∀ s1, t.sysWait = .discard → discardTrips s t = some s1 → becomes (.icinvComplete l n) { t with sysWait := .complete })
    ∧ (t.sysWait = .discard → discardTrips s t = none → exec (.icinvComplete l n) s = .next s)
    ∧ (∀ tag va k, t.sysWait = .invalidation tag va k → oldAccesses s tag = false →
        becomes (.tlbinvComplete l n) { t with sysWait := .complete })
    ∧ (∀ p, t.place = .stalled p → mayIssue s t = true →
        fitsReservation s t = true ∨ freeSlots (coreOf s t.core) (classOf (recordLength t)) ≠ 0 →
        ∃ s', exec (.poolSlotFreed l n) s = .next s' ∧ Reaches s s' t p ∧ s'.mem = s.mem)
    ∧ (∀ d, t.place = .ldcWait → t.ldc = some d → readsBad s t.core .plain d.loc d.size = false → windowLost s d.wpa = false →
        windowPaused s d.loc = false →
      (∀ s1, asksFirst s t d = false → ldcData s t d = some s1 →
        let v := extend d.signed d.size (seenNat s t d.loc d.size)
        ∃ s' u, exec (.ldcLoad l n) s = .next s' ∧ Reaches s s' u (.binned 0) ∧ s'.mem = s.mem ∧ u.ldc = none
          ∧ rowKey u = rowKey t ∧ u.packet = t.packet ∧ u.pos = t.pos
          ∧ ∀ k, k < 64 → regGet u.regs k = if d.dest ≤ k ∧ k < d.dest + (d.size + 3) / 4 then
              BitVec.ofNat 32 (v / 2 ^ (32 * (k - d.dest))) else regGet t.regs k)
      ∧ (asksFirst s t d = true →
        let asked := { t with ldc := some { d with sent := true } }
        (d.peerf = true → feltReady s own (fdieOf s l) = true → ∃ s', exec (.ldcLoad l n) s = .next s'
          ∧ threadAt s' l n = some asked ∧ s'.mem = s.mem ∧ toPeer s' d.peer d.va (.read d.va d.size))
        ∧ ∀ s1, d.peerf = false → message s own 0 false d.tag = some s1 → ∃ s', exec (.ldcLoad l n) s = .next s'
          ∧ threadAt s' l n = some asked ∧ s'.mem = s.mem
          ∧ toHost s' (fun h => .readRequest h.conn h.rkey (h.remote + (d.wpa - 2 ^ 40) % 2 ^ 32) d.size) d.wpa))
    ∧ (∀ e rest, t.sbuf = e :: rest → holdsEntries t = true → e.failed = false → isBad s e.loc = false → windowLost s e.wpa = false →
        windowPaused s e.loc = false → feltReady s own (entryDie s t e) = true →
        let k := 2 ^ e.size
        let lands := fun (u : Thread) (p : State → Prop) => ∃ s', exec (.storeBufferDrain l n) s = .next s' ∧ p s'
          ∧ (awaits t ≠ .storeSlot → threadAt s' l n = some u)
          ∧ (t.place = .storeSlot → Reaches s s' u (.binned 0))
          ∧ (t.place = .stalled .storeSlot → threadAt s' l n = some { u with place := .stalled (.binned 0) })
        let performed := fun (s' : State) => s'.mem = writeNat s.mem e.loc k e.data.toNat
        (e.peerf = true → lands { t with sbuf := rest, peerAck := t.peerAck + 1 } fun s' => performed s'
          ∧ toPeer s' e.peer e.vaddr (.postedWrite e.vaddr ((List.range k).zip (bytesOfNat e.data.toNat k))))
        ∧ (e.peerf = false → e.loc < 2 ^ 39 → homeOf s e.loc = own → lands { t with sbuf := rest } performed)
        ∧ (e.peerf = false → isHostLoc e.loc = true →
          (e.sent = true → lands { t with sbuf := rest } fun s' => s'.mem = s.mem)
          ∧ ∀ s1, e.sent = false → messageOf 1 s own 0 false e.tag = some s1 → ∃ s', exec (.storeBufferDrain l n) s = .next s'
              ∧ threadAt s' l n = some { t with sbuf := { e with sent := true } :: rest } ∧ performed s'
              ∧ toHost s' (fun h => .writeRequest h.conn h.rkey (h.remote + (e.wpa - 2 ^ 40) % 2 ^ 32) (bytesOfNat e.data.toNat k)) e.wpa)
        ∧ (e.peerf = false → e.loc < 2 ^ 39 → homeOf s e.loc ≠ own →
            lands { t with sbuf := rest, ownUnack := t.ownUnack + 1 } fun s' => s'.mem = s.mem
              ∧ (isLiveDie s (homeOf s e.loc) = true →
                  ∃ p ∈ s'.felt.packets, p.dst = homeOf s e.loc ∧ p.body = .write e.loc k e.data.toNat)))
    ∧ (∀ k, t.place = .barrier k false → releaseReady s t = true → (s.threads.map rowKey).Nodup →
        (∀ u ∈ s.threads, isRetired (ctxOfLaunch s u.launch) (codeAddr u) = false) →
        s.mode.causal = false ∨ (∀ u ∈ s.threads, u.launch = l → dieOfCore u.core = own) →
        let s1 := putThread s { bumpBarrier k t with place := .barrier k true }
        ∃ s', exec (.barrierArrival l n) s = .next s' ∧ s'.mem = s.mem ∧ ∀ u ∈ s1.threads,
          (u.launch = l → ∀ b, u.place = .barrier b true → instanceComplete s1 b u = true → Reaches s1 s' u (.binned 0))
          ∧ ((∀ b, awaits u = .barrier b true → instanceComplete s1 b u = false) →
              threadAt s' u.launch u.thread = some u))
    ∧ (∀ s1, t.place = .exiting → exitReady t = true → t.handle0 = 0 → t.handle1 = 0 → holdsRange s l n = false →
        releaseReady s t = true → (launchAt s l).isSome = true → tell s t.efftag [own] [(launchOf s l).fdie] = some s1 →
        let unit := sameUnitGang (launchOf s l) t.gang
        ∃ s', exec (.threadExit l n) s = .next s' ∧ threadAt s' l n = some { t with place := .exited }
          ∧ (launchOf s' l).exitedCount = (launchOf s l).exitedCount + 1
          ∧ ((∀ u ∈ s.threads, u.launch = l → unit u.gang = true → (u.place = .exited ∨ u.thread = n) ∧ u.fwdAcks = []) →
              ∀ g ∈ s'.gangs, g.launch = l → g.detached = false → unit g.gang = false))

/-- 02 R41, R42, 22 R347 to R349, 09 R199: a forward's request, refusal, retry and grant, its acceptance at the
destination, the end of a forward refused 16 times, and the addition of `fwd.ack`. Where a record refused 16 times returns
to, the messages of one step, the waits without causal delivery and what goes with `fwd.ack` are the model's (logs 56, 71,
91, 92). -/
def Obligations.ForwardEvents : Prop :=
  ∀ (s : State) (l n : Nat) (t : Thread) (f : Forward), Canonical s →
    let becomes := fun (s' : State) (u : Thread) => threadAt s' l n = some u ∧ ThreadsKept s s' l n ∧ s'.mem = s.mem
    let asked := { t with fwd := some { f with phase := .requested } }
    (forwardOf s l n = some (t, f) → forwardMay s t f = true →
      (f.phase = .ready ∧ forwardReady s t f = true →
        (f.peerf = false → Leaves (.forwardRequest l n) s fun s' => becomes s' asked)
        ∧ ∀ s1, f.peerf = true → remoteSlots s (pathOf s (partOfThread s t) l f.peer) < 4 →
            messageOf (recordPieces s t f).length s (dieOfCore t.core) (fdieOf s t.launch) true t.efftag = some s1 →
            Leaves (.forwardRequest l n) s fun s' => becomes s' asked
              ∧ ∀ k ∈ recordPieces s t f, (∃ o ∈ s'.renhar.out, o.launch = l ∧ o.thread = n ∧ o.packet.destination = f.peer
                  ∧ o.packet.kind = k)
                ∧ ∃ i c x b, k = .record f.plaunch f.dest i c x b ∧ b.length ≤ 128)
      ∧ ∀ due, f.phase = .backoff due → due ≤ now s → f.refusals < 16 → f.peerf = false →
          Leaves (.forwardRetry l n) s fun s' => becomes s' asked)
    ∧ (forwardOf s l n = some (t, f) → f.phase = .requested → f.peerf = false → forwardMay s t f = true →
      let d := destOf s t f
      (canTake s t d = false → Leaves (.forwardNack l n) s fun s' =>
        ∃ due, now s ≤ due ∧ due < now s + 256 * 2 ^ min (f.refusals + 1) 8
          ∧ becomes s' { t with fwd := some { f with refusals := f.refusals + 1, phase := .backoff due } })
      ∧ (canTake s t d = true → feltReady s (dieOfCore t.core) (dieOfCore d) = true → isKnown s t = true →
          Leaves (.forwardGrant l n) s fun s' => ∃ s1 rs, reserveRanges d t s (heldSlots t) = some (s1, rs)
            ∧ becomes s' { t with fwd := some { f with phase := .transit, dest := d, ranges := rs } }
            ∧ (dieOfCore t.core ≠ dieOfCore d → isLiveDie s (dieOfCore d) = true →
                ∃ p ∈ s'.felt.packets, p.dst = dieOfCore d ∧ p.body = .record t.launch t.thread)
            ∧ ∀ c, c ≠ d → ∀ b ∈ (coreOf s' c).pool, ¬ (b.launch = l ∧ b.thread = some n)))
    ∧ (forwardOf s l n = some (t, f) → 16 ≤ f.refusals → forwardMay s t f = true →
      (f.byMove = true → t.saved = false → (∀ k, returnPlace s t f ≠ .barrier k true) → Leaves (.poolExhausted l n) s fun s' =>
        Reaches s s' { t with fwd := none } (returnPlace s t f) ∧ s'.mem = s.mem)
      ∧ (f.byMove = true → t.saved = true → Leaves (.poolExhausted l n) s fun s' =>
        becomes s' { t with fwd := none, place := f.from_.getD .unbinned })
      ∧ (f.byMove = false → (launchOf s l).trappkt ≠ 0 → (ctxOfLaunch s l).run = .running →
          isRetired (ctxOfLaunch s l) (packetAddr (launchOf s l).trappkt) = false →
          Leaves (.poolExhausted l n) s fun s' => ThreadsKept s s' l n ∧ s'.mem = s.mem
            ∧ ∃ r, threadAt s' l n = some r ∧ r.place = .binned (now s) ∧ r.packet = (launchOf s l).trappkt ∧ r.pos = 0
              ∧ r.trapRec = true ∧ r.fwd = none ∧ r.carry = t.carry ∧ r.regs = t.regs
              ∧ r.tfword = BitVec.ofNat 64 (0x0E + 2 * 256 + f.packet % 2 ^ 48 * 65536)))
    ∧ (forwardOf s l n = some (t, f) → mayAccept s t f = true → f.ranges = [] → f.from_ = none →
      let here := residentAt s l t.gang f.dest
      Leaves (.recordAccept l n) s fun s' =>
        Reaches s s' { t with core := f.dest, detachedHere := !here, detached := t.detached || !here, saved := false,
                              fwd := none, fwdAcks := t.fwdAcks ++ f.ack.toList } (.binned 0)
        ∧ (here = false → ∃ g ∈ s'.gangs, g.launch = l ∧ g.gang = t.gang ∧ g.core = f.dest ∧ g.detached = true))
    ∧ ∀ o rest s1, threadAt s l n = some t → t.fwdAcks = o :: rest → releaseReady s t = true → t.place ≠ .exited →
        tell s t.efftag [dieOfCore t.core] [cellDie s (gangLoc l t.gang o)] = some s1 →
        Leaves (.fwdAckAdd l n) s fun s' => threadAt s' l n = some { t with fwdAcks := rest }
          ∧ ThreadsKept s s' l n
          ∧ readNat s'.mem (gangLoc l t.gang o) 4 = (readNat s.mem (gangLoc l t.gang o) 4 + 1) % 2 ^ 32
          ∧ ∀ a, (a < gangLoc l t.gang o ∨ gangLoc l t.gang o + 4 ≤ a) → readByte s'.mem a = readByte s.mem a

/-- 11 R226, R235, R238 to R241, 10 R204, R205, R213 to R222, 03 R66, 09 R192: what the copy units, the tile schedulers
and the matrix engines do by themselves, and the page moves of `claim` (which free frame one takes, and the home that the
old frame's addresses then have, are the model's, log 8). -/
def Obligations.EngineEvents : Prop :=
  ∀ (s : State) (id : Nat), Canonical s →
    (∀ c s1 c1, copyAt s id = some c → copyReady s c = true → c.asked = none →
      copySteps (copyPieces c - c.progress) s { c with started := true } = (s1, c1, none) →
      Leaves (.copyStart id) s fun s' => s'.mem = s1.mem ∧ s'.threads = s1.threads
        ∧ copyAt s' id = some { c1 with state := .moved })
    ∧ (∀ c s1 c1 p va loc s2, copyAt s id = some c → copyReady s c = true → c.asked = none →
      copyRun s { c with started := true } = (s1, c1, some (.ask p va loc)) →
      message s1 (dieOfCore c1.core) (fdieOf s1 c1.launch) false c1.tag = some s2 →
      Leaves (.copyStart id) s fun s' => s'.mem = s1.mem ∧ copyAt s' id = some { c1 with asked := some loc }
        ∧ ∃ o ∈ s'.renhar.out, o.packet.destination = p ∧ o.packet.kind = .read (va / 128 * 128) 128)
    ∧ (∀ (c c1 : Copy) s1 p n v h b, putBytes s c p n v = (s1, c1, none) →
      engineLocate s (copyUser s c) p n .write = .ok (h, b) →
        c1.unacked = if targetPeerf h = true then c.unacked + 1 else c.unacked)
    ∧ (∀ c, copyAt s id = some c → c.state = .moved → 
        (c.unacked = 0 → Leaves (.copyComplete id) s fun s' =>
          copyAt s' id = none ∧ Reported s' c.launch c.thread id ∧ s'.mem = s.mem)
        ∧ (c.unacked ≠ 0 → exec (.copyComplete id) s = .next s))
    ∧ (∀ core o r, s.tileOps.find? (fun x => decide (x.core = core) && opReady s x) = some o → rangeAt s o.range = some r →
      opAt s o.id = some o →
      let e := if r.bound then r.engine else chooseEngine s r
      Leaves (.taskDispatch core) s fun s' => s'.mem = s.mem
        ∧ rangeAt s' o.range = some { r with engine := e, bound := true }
        ∧ (o.kind = .fence → opAt s' o.id = none)
        ∧ (o.kind ≠ .fence → opAt s' o.id = some { o with state := .dispatched, order := s.nextOp })
        ∧ (isTask o = true → o.fmt.toNat / 256 % 4 = 1 → o.order = 0 → ∀ k, k < taskTiles o → ∀ i j, i < 32 → j < 32 →
            tileGet s' (tileKey r.core e (r.base + k) i j) = 0))
    ∧ (∀ o r m, opAt s id = some o → rangeAt s o.range = some r → isTask o = true → atWork s o = true →
      o.step < taskSteps o → maskRead s o = .ok m → pendingErrors (coreOf s o.core) r.engine = 0 →
      (coreOf s o.core).retried.contains (stepKey o r) = false →
      let o1 := { o with rows := m }
      let nb := shapeN o.shape
      let executed := fun (maps : Option Bitmaps) => ∀ p, executes maps = true →
        (isIdleLong s (o.core * 4 + r.engine) = false ∨ mayStart s (o.core * 4 + r.engine) = true) → panelsRead s o1 maps = .ok p →
        Leaves (.taskStep id) s fun s' => opAt s' id = some { o1 with step := o.step + 1 } ∧ s'.mem = s.mem
          ∧ ∀ i j x y, i < 32 * shapeM o.shape → j < 32 * nb → p.a[i]? = some x → p.b[j]? = some y →
            tileGet s' (elemKey r 0 nb i j) =
              BitVec.ofNat 32 (foldElement o.fmt.toNat (tileGet s (elemKey r 0 nb i j)).toNat x y)
      (o.kind = .task → executed none)
      ∧ (o.kind = .sparseTask → ∀ b, bitmapsRead s o1 = .ok b → executed (some b)
          ∧ (executes (some b) = false → Leaves (.taskStep id) s fun s' =>
              opAt s' id = some { o1 with step := o.step + 1 } ∧ s'.tiles = s.tiles ∧ s'.mem = s.mem)))
    ∧ (∀ o r, opAt s id = some o → rangeAt s o.range = some r → atWork s o = true →
      (isTask o = true → taskSteps o ≤ o.step → Leaves (.tileOpComplete id) s fun s' =>
        Reported s' o.launch o.thread id ∧ s'.mem = s.mem
        ∧ ∀ i j, i < 32 * shapeM o.shape → j < 32 * shapeN o.shape →
            let k := elemKey r 0 (shapeN o.shape) i j
            tileGet s' k = if isNan (fmtF32.decode (tileGet s k).toNat) = true ∧ o.fmt.toNat % 16 ≠ 6 then 0x7FC00000
              else tileGet s k)
      ∧ (o.kind = .zero → Leaves (.tileOpComplete id) s fun s' => Reported s' o.launch o.thread id ∧ s'.mem = s.mem
          ∧ ∀ i j, i < 32 * shapeM o.ctl → j < 32 * shapeN o.ctl →
              tileGet s' (elemKey r (moveT0 o.ctl) (shapeN o.ctl) i j) = 0)
      ∧ (∀ s1 o1, isTask o = false → o.kind ≠ .zero → moveSteps r (movePieces o - o.progress) s o = (s1, o1, none) →
          Leaves (.tileOpComplete id) s fun s' => Reported s' o.launch o.thread id ∧ s'.mem = s1.mem ∧ s'.tiles = s1.tiles))
    ∧ (∀ core gen r, s.tileRanges.find? (fun x => decide (x.core = core) && decide (x.gen = gen) && releasable s x) = some r →
      r.saved = false → Leaves (.tileRangeRelease core gen) s fun s' =>
        rangeAt s' r.id = none ∧ s'.mem = s.mem ∧ ∀ k i j, k < r.count → i < 32 → j < 32 →
          tileGet s' (tileKey core r.engine (r.base + k) i j) = 0)
    ∧ (∀ tag page m e f, s.moves.find? (fun m => decide (m.tag = tag) && decide (m.page = page) && m.moving.isNone) = some m →
      walk s (ctxOf s tag) (page * 65536) = .ok e → frameBusy s (e.pa / 65536) = false →
      freeFrame s (ctxOf s tag).partition m.die = some f → Leaves (.pageMove tag page) s fun s' =>
        { m with moving := some (f, e.pa / 65536) } ∈ s'.moves ∧ s'.mem = s.mem)
    ∧ ∀ tag page m f old, s.moves.find? (fun m => decide (m.tag = tag) && decide (m.page = page)) = some m →
        m.moving = some (f, old) → Leaves (.pageMoveComplete tag page) s fun s' =>
          (∀ x ∈ s'.moves, ¬ (x.tag = tag ∧ x.page = page)) ∧ s'.mem = s.mem
          ∧ ∀ off, off < 65536 → homeOf s' (old * 65536 + off) = homeDie (f * 65536)

/-- 03 R60, R65 to R72: what one step folds into an accumulator element. The 32 k of a step are one group or two; a group's exact sum
is taken in with one rounding, under the exponents of its scales; the slices of FP32X6 and FP32X9 are sums of their own, in the
order of R71; INT8 products are added modulo 2^32. Products that a bitmap leaves out do not enter. -/
def Obligations.MatrixFolds : Prop :=
  (∀ (fmt acc : Nat) (a b : List (Option Nat) × Option Nat), acc < 2 ^ 32 →
    (∀ x, some x ∈ a.1 → x < 2 ^ typeBits (fmt % 16)) → (∀ x, some x ∈ b.1 → x < 2 ^ typeBits (fmt / 16 % 16)) →
    let ta := fmt % 16
    let tb := fmt / 16 % 16
    let z := foldElement fmt acc a b
    let scale := (scaleMeant a.2).bind fun x => (scaleMeant b.2).map fun y => x + y
    let total := fun (p q : List (Option Nat)) => Amount.total ((pairsIn p q).map fun x => (typeAmount ta x.1).1.times (typeAmount tb x.2).1)
    let unit := (typeAmount ta 0).2 + (typeAmount tb 0).2
    (ta = 6 → tb = 6 → z = (BitVec.ofNat 32 acc + BitVec.ofInt 32
        ((pairsIn a.1 b.1).map fun x => (BitVec.ofNat 8 x.1).toInt * (BitVec.ofNat 8 x.2).toInt).sum).toNat)
    ∧ (fmt / 4096 % 4 = 0 → (ta = 0 ∧ tb = 0) ∨ (ta = 1 ∧ tb = 1) →
        FoldsTo (some 0) unit acc [total (a.1.take 16) (b.1.take 16), total (a.1.drop 16) (b.1.drop 16)] z)
    ∧ (fmt / 4096 % 4 = 0 → (ta = 2 ∨ ta = 3) ∧ (tb = 2 ∨ tb = 3 ∨ tb = 5) ∨ (ta = 4 ∧ tb = 4) ∨ (ta = 0 ∧ tb = 5) →
        FoldsTo scale unit acc [total a.1 b.1] z)
    ∧ (ta = 7 → tb = 7 →
        let six := [(0, 2), (2, 0), (1, 1), (1, 2), (2, 1), (2, 2)]
        let finite := fun (u : Nat) => decide (u % 2 ^ 31 ≤ fmtF32.top)
        let term := fun (p q : Nat) (x : Nat × Nat) =>
          if finite x.1 && finite x.2 then (fmtBf16.amount (slice x.1 p)).times (fmtBf16.amount (slice x.2 q))
          else if p = 2 ∧ q = 2 then (fmtF32.amount x.1).times (fmtF32.amount x.2)
          else .number 0
        let group := fun (terms : List (Nat × Nat)) (l : List (Nat × Nat)) => terms.map fun pq => Amount.total (l.map (term pq.1 pq.2))
        let both := fun (terms : List (Nat × Nat)) =>
          group terms (pairsIn (a.1.take 16) (b.1.take 16)) ++ group terms (pairsIn (a.1.drop 16) (b.1.drop 16))
        (fmt / 4096 % 4 = 1 → FoldsTo (some 0) (2 * fmtBf16.low) acc (both six) z)
        ∧ (fmt / 4096 % 4 = 2 → FoldsTo (some 0) (2 * fmtBf16.low) acc (both ([(0, 0), (0, 1), (1, 0)] ++ six)) z)))
  ∧ (∀ x, fmtF32.Finite x →
      let n := fmtF32.number
      let cut := fun (y : Nat) => y / 65536 * 65536
      slice x 2 = x / 65536 ∧ ∃ y w, fmtF32.Finite y ∧ fmtF32.Finite w ∧ n y = n x - n (cut x) ∧ slice x 1 = y / 65536
        ∧ n w = n y - n (cut y) ∧ slice x 0 = w / 65536)
  ∧ ∀ c, c < 256 →
      let h := fun (s e : Nat) => if e = 7 then (0 : Int) else if s = 1 then -2 ^ (6 - e) else 2 ^ (6 - e)
      tshValue c = h (c / 128) (c / 16 % 8) + h (c / 8 % 2) (c % 8)
        ∧ tshCanonical c = decide (c / 16 % 8 ≤ c % 8 ∧ ¬ (c / 16 % 8 = c % 8 ∧ c / 128 ≠ c / 8 % 2))

/-- 11 R229, R232, R234, R235, R242, 10 R222, R223, 03 R59: where each access of a copy or a tile move that stays on its die reads and
writes, and what it writes there; a copy and a move make their accesses one after another (log 71 for those of other dies). -/
def Obligations.MovedData : Prop :=
  (∀ (s : State) (c : Copy),
    let u := copyUser s c
    let l := c.layout
    let i := c.progress
    let keeps := fun (r : CopyRun) => r.2.2 = none ∧ r.2.1.progress = c.progress ∧ r.2.1.unacked = c.unacked
    let puts := fun (run : CopyRun) (q : DWord) (n v : Nat) => ∀ h b, engineLocate s u q n .write = .ok (h, b) → Near s u h b →
      keeps run ∧ run.1.mem = writeNat s.mem b n v
    let moves := fun (run : CopyRun) (p q : DWord) (n : Nat) => ∀ g a, engineLocate s u p n .read = .ok (g, a) → Near s u g a →
      puts run q n (engineBytes s c.core a n)
    let away := fun (p : DWord) (d : Int) => BitVec.ofInt 64 (p.toInt + d)
    (c.kind = .linear → moves (copyPiece s c) (c.src + BitVec.ofNat 64 (4 * i)) (c.dst + BitVec.ofNat 64 (4 * i)) 4)
    ∧ (c.kind = .reduce → ∀ g h a b, engineLocate s u (c.src + BitVec.ofNat 64 (4 * i)) 4 .read = .ok (g, a) → Near s u g a →
        engineLocate s u (c.dst + BitVec.ofNat 64 (4 * i)) 4 .modify = .ok (h, b) → Near s u h b →
        let old := readNat s.mem b 4
        let v := engineBytes s c.core a 4
        let updates := fun (new : Option Nat) => ∃ z, new = some z ∧ keeps (copyPiece s c) ∧ (copyPiece s c).1.mem = writeNat s.mem b 4 z
        (c.rtype = 0 → updates (some ((old + v) % 2 ^ 32))) ∧ (c.rtype = 1 → updates (atomicNew 10 32 old v 0))
          ∧ (c.rtype = 2 → updates (atomicNew 11 32 old v 0)))
    ∧ (c.kind = .tensor → l.box ≠ [] → (∀ x ∈ l.box, 0 < x) → l.extents.length = l.box.length → l.strides.length = l.box.length →
        c.origin.length = l.box.length →
        let size := fun (ds : List Nat) => ds.foldl (· * ·) 1
        let coord := fun (k d : Nat) => c.origin.getD d 0 + ((k / size (l.box.take d) % l.box.getD d 1 : Nat) : Int)
        let inside := fun (k : Nat) => ∀ d, d < l.box.length → 0 ≤ coord k d ∧ coord k d < ((l.extents.getD d 0 : Nat) : Int)
        let tensor := away c.src (((List.range l.box.length).map fun d => coord i d * l.strides.getD d 0).sum)
        let o := l.es * i
        let tile := c.dst + BitVec.ofNat 64 (o ^^^ (o / 128 % 2 ^ l.swz * 16))
        (i < size l.box →
          (c.toTensor = false → inside i → moves (copyPiece s c) tensor tile l.es)
          ∧ (c.toTensor = false → ¬ inside i → puts (copyPiece s c) tile l.es l.fill.toNat)
          ∧ (c.toTensor = true → inside i → moves (copyPiece s c) tile tensor l.es)
          ∧ (c.toTensor = true → ¬ inside i → copyPiece s c = (s, c, none)))
        ∧ ∀ w, i = size l.box + w → c.toTensor = false → ∃ m, puts (copyPiece s c) (c.dst + BitVec.ofNat 64 (l.es * size l.box + 4 * w)) 4 m
            ∧ ∀ k, m.testBit k = true ↔ k < 32 ∧ 32 * w + k < size (l.box.drop 1)
                ∧ ∃ b0, b0 < l.box.getD 0 1 ∧ inside (l.box.getD 0 1 * (32 * w + k) + b0))
    ∧ (c.kind = .gather ∨ c.kind = .scatter →
        let b := l.box.getD 0 1
        let skipped := fun (x : Word) => x = 0xFFFFFFFF ∧ l.nosent = false
        let inside := fun (x : Word) (b0 : Nat) => ¬ skipped x ∧ x.toNat < l.extents.getD 1 1
          ∧ 0 ≤ c.origin.getD 0 0 + b0 ∧ c.origin.getD 0 0 + b0 < ((l.extents.getD 0 0 : Nat) : Int)
        (∀ (q b0 : Nat) (x : Word), ¬ skipped x → l.extents.length = 2 → l.strides.length = 2 →
          let tensor := away c.src ((c.origin.getD 0 0 + b0) * l.strides.getD 0 0 + (x.toNat : Int) * l.strides.getD 1 0)
          let tile := c.dst + BitVec.ofNat 64 (l.es * (q * b + b0))
          let run := rowElement q x s c b0
          (c.kind = .gather → (inside x b0 → moves run tensor tile l.es) ∧ (¬ inside x b0 → puts run tile l.es l.fill.toNat))
          ∧ (c.kind = .scatter → (inside x b0 → moves run tile tensor l.es) ∧ (¬ inside x b0 → run = (s, c, none))))
        ∧ (∀ q, c.indices.length = c.count →
          let x := c.indices.getD q 0
          (skipped x → rowPiece s c q = (s, c, none)) ∧ (¬ skipped x → rowPiece s c q = inTurn (rowElement q x) s c (List.range b)))
        ∧ (∀ q g a, engineLocate s u (c.index + BitVec.ofNat 64 (4 * q)) 4 .read = .ok (g, a) → Near s u g a →
            (readIndex s c q).2.2 = none ∧ (readIndex s c q).1.mem = s.mem
              ∧ (readIndex s c q).2.1.indices = c.indices.take q ++ [BitVec.ofNat 32 (engineBytes s c.core a 4)])
        ∧ (i < c.count → copyPiece s c = rowPiece s c i)
        ∧ ∀ w, i = c.count + w → c.kind = .gather → c.indices.length = c.count → l.extents.length = 2 →
            ∃ m, puts (copyPiece s c) (c.dst + BitVec.ofNat 64 (c.count * l.es * b + 4 * w)) 4 m
              ∧ ∀ k, m.testBit k = true ↔ k < 32 ∧ 32 * w + k < c.count ∧ ∃ b0, b0 < b ∧ inside (c.indices.getD (32 * w + k) 0) b0)
    ∧ (copySteps 0 s c = (s, c, none))
    ∧ ∀ n s1 c1, copyPiece s c = (s1, c1, none) → copySteps (n + 1) s c = copySteps n s1 { c1 with progress := c1.progress + 1 })
  ∧ (∀ (s : State) (core loc n : Nat), (∀ i, i < n → holdsByte s (dieOfCore core) (loc + i) = false) →
      engineBytes s core loc n = readNat s.mem loc n)
  ∧ (∀ (s : State) (o : TileOp) (r : TileRange) (i : Nat),
    let u := opUser s o
    let n := 32 * shapeN o.ctl
    let key := fun (x y : Nat) => elemKey r (moveT0 o.ctl) (shapeN o.ctl) x y
    let elem := fun (x y : Nat) => (tileGet s (key x y)).toNat
    let at_ := fun (x b : Nat) => o.pa + BitVec.ofNat 64 (x * o.sa.toNat + b)
    let run := movePiece s o r i
    let done := run.2.2 = none ∧ run.2.1.progress = o.progress
    let puts := fun (p : DWord) (k v : Nat) => ∀ h b, engineLocate s u p k .write = .ok (h, b) → Near s u h b →
      done ∧ run.1.mem = writeNat s.mem b k v ∧ run.1.tiles = s.tiles
    let row := i / n
    let col := i % n
    (o.kind = .load → ∀ g a, engineLocate s u (at_ row (4 * col)) 4 .read = .ok (g, a) → Near s u g a →
      done ∧ run.1.mem = s.mem ∧ run.1.tiles = (tileSet s (key row col) (BitVec.ofNat 32 (engineBytes s o.core a 4))).tiles)
    ∧ (o.kind = .store → puts (at_ row (4 * col)) 4 (elem row col))
    ∧ (o.kind = .convert →
        let fmt := o.ctl.toNat / 256 % 16
        let count := 1024 * shapeM o.ctl * shapeN o.ctl
        let block := fun (x b : Nat) => (List.range 32).map fun k => elem x (32 * b + k)
        let written := fun (k : Nat) => if k = 0 then fmtBf16 else if k = 1 then fmtF16 else if k = 2 ∨ k = 4 then fmtE4m3
          else if k = 3 ∨ k = 5 then fmtE5m2 else fmtE2m1
        let greatest := fun (k : Nat) => if k = 4 then 8 else if k = 5 then (15 : Int) else 2
        let code := fun (x y : Nat) => if fmt < 4 then convertCode s o r x y
          else mxElement (written fmt) (mxScale (greatest fmt) (block x (y / 32))) (elem x y)
        (fmt < 4 → Narrows (written fmt) (elem row col) (code row col))
        ∧ (fmt < 2 → i < count → puts (at_ row (2 * col)) 2 (code row col))
        ∧ (2 ≤ fmt → fmt < 6 → i < count → puts (at_ row col) 1 (code row col))
        ∧ (fmt = 6 → i < count / 2 →
            let x := i / (n / 2)
            let y := i % (n / 2)
            puts (at_ x y) 1 (code x (2 * y) + 16 * code x (2 * y + 1)))
        ∧ (4 ≤ fmt → fmt ≤ 6 → ∀ k, i = (if fmt = 6 then count / 2 else count) + k →
            puts (o.psa + BitVec.ofNat 64 k) 1 (mxScale (greatest fmt) (block (k / shapeN o.ctl) (k % shapeN o.ctl)))))
    ∧ (moveSteps r 0 s o = (s, o, none))
    ∧ ∀ k s1 o1, movePiece s o r o.progress = (s1, o1, none) →
        moveSteps r (k + 1) s o = moveSteps r k s1 { o1 with progress := o1.progress + 1 })
  ∧ ∀ (f : Fmt) (e : Int) (vs : List Nat), (f = fmtE4m3 ∧ e = 8) ∨ (f = fmtE5m2 ∧ e = 15) ∨ (f = fmtE2m1 ∧ e = 2) →
      (∀ v ∈ vs, v < 2 ^ 32) →
      let k := mxScale e vs
      let mag := fun (v : Nat) => (fmtF32.number v).natAbs
      ((∃ v ∈ vs, ¬ fmtF32.Finite v) → k = 255)
      ∧ ((∀ v ∈ vs, fmtF32.Finite v) → (∀ v ∈ vs, mag v = 0) → k = 127)
      ∧ (∀ x m : Nat, (∀ v ∈ vs, fmtF32.Finite v) → m ∈ vs.map mag → (∀ v ∈ vs, mag v ≤ m) → 2 ^ x ≤ m → m < 2 ^ (x + 1) →
          k = (max (-127) (min 127 ((x : Int) + fmtF32.low - e)) + 127).toNat)
      ∧ ∀ v sc : Nat, v < 2 ^ 32 → (mxElement f 255 v = 0)
        ∧ (sc < 255 → fmtF32.Finite v → ∃ c flags,
            Delivers f .rne (fmtF32.isNegative v) (fmtF32.number v) (fmtF32.low - ((sc : Int) - 127)) (c, flags)
            ∧ mxElement f sc v = if f.top < c % f.signBit then f.withSign (fmtF32.isNegative v) f.top else c)

/-- 20 R308 to R315, 22 R352, 21 R327, R328: kicks and ageing of queues, and the five commands, each read once; an F-die posts the
oldest entry that waits into its fault queue, and reads the queue's head again. The row that a kick makes
for a queue not mapped yet is the model's (log 75), and so is it that a command acts within a step, its messages and the
release of a SIGNAL with it (log 71). -/
def Obligations.QueueEvents : Prop :=
  (∀ (s : State) (part idx : Nat), Canonical s →
    (∀ tail : BitVec 64, queueAt s part idx = none → idx ≤ 65535 → (partOf s part).isSome = true →
      (s.deadQueues.contains (part, idx) = false → Leaves (.kick part idx 0 tail) s fun s' => ∃ q, queueAt s' part idx = some q
        ∧ q.kicked = [tail.toNat] ∧ q.slot = none ∧ q.pendingSince = some (now s))
      ∧ (s.deadQueues.contains (part, idx) = true → exec (.kick part idx 0 tail) s = .next s))
    ∧ ∀ q, queueAt s part idx = some q →
    let is := fun (s' : State) (x : Queue) => queueAt s' part idx = some x
    (∀ tail : BitVec 64, q.devprod = false →
      let d := (tail.toNat + 2 ^ 64 - q.tail) % 2 ^ 64
      (q.slot.isSome = true → d ≠ 0 →
        (d ≤ 2 ^ q.logn - queueFill q → Leaves (.kick part idx 0 tail) s fun s' => is s' { q with tail := tail.toNat })
        ∧ (2 ^ q.logn - queueFill q < d → q.qstate ≠ 4 → Leaves (.kick part idx 0 tail) s fun s' =>
            is s' { q with qstate := 4 } ∧ s'.log = s.log ++ [.queueStop part idx 4 0]))
      ∧ (q.slot = none → Leaves (.kick part idx 0 tail) s fun s' => s'.wakes = s.wakes ++ [q.fdie]
          ∧ is s' { q with kicked := q.kicked ++ [tail.toNat], pendingSince := some (q.pendingSince.getD (now s)) }))
    ∧ (q.pendingSince.isSome = true → max q.agedTo q.qprio < queuePriority s q →
        Leaves (.queueAgeingWake part idx) s fun s' => s'.wakes = s.wakes ++ [q.fdie]
          ∧ is s' { q with agedTo := queuePriority s q })
    ∧ Leaves (.queueRestart part idx) s (fun s' => is s' { q with qstate := 0, waitArmed := true, fetched := none })
    ∧ (q.slot.isSome = true → q.qstate = 0 → queueFill q ≠ 0 →
      (∀ w, headCommand s q = .error w →
        Leaves (.cmdNop part idx) s fun s' => is s' { q with qstate := 3, waitInProgress := false })
      ∧ ∀ b s0, headCommand s q = .ok b →
        (if q.fetched.isSome then some s else readTrip s q.fdie q.ctx (q.ring + 64 * (q.head % 2 ^ q.logn)) 1) = some s0 →
        let va := field b 8 8
        let q1 := { q with fetched := some b }
        let s1 := mapQueue s0 part idx fun _ => q1
        let moved := { q with head := (q.head + 1) % 2 ^ 64, waitInProgress := false, waitArmed := true, fetched := none }
        (commandBad q b = true → Leaves (.cmdNop part idx) s fun s' => is s' { q1 with qstate := 1, waitInProgress := false })
        ∧ (commandBad q b = false → field b 0 1 = 0 →
            (q.headwb = 0 → Leaves (.cmdNop part idx) s fun s' => is s' moved ∧ s'.mem = s.mem)
            ∧ ∀ pa s2, q.headwb ≠ 0 → consume s1 q1 id = some s2 → walkTo s1 q.ctx q.headwb .write .plain = .ok pa →
                Leaves (.cmdNop part idx) s fun s' => is s' moved ∧ readNat s'.mem pa 8 = (q.head + 1) % 2 ^ 64)
        ∧ (commandBad q b = false → q.headwb = 0 →
          (∀ x r s2 s3, field b 0 1 = 1 → readSpace s1 q.ctx .write .plain va 4 = .ok x →
            readSpace s1 q.ctx .read .plain va 4 = .ok r → readTrip s1 q.fdie q.ctx va 4 = some s2 → cmdLaunch s1 q1 b = some s3 →
            let y := { parseLaunch r q.ctx va with
              fdie := q.fdie, queue := some (q.part, q.idx), job := q.job, index := q.jobLaunches, deps := depsOf b }
            refusal s2 r y q.privq = 0 → Leaves (.cmdLaunch part idx) s fun s' =>
              is s' { moved with jobLaunches := q.jobLaunches + 1 }
              ∧ ∃ z ∈ s'.launches, z.ctx = q.ctx ∧ z.recordVA = va ∧ z.state = .accepted ∧ z.admitted = []
                ∧ z.entry = y.entry ∧ z.ngang = y.ngang ∧ z.gsize = y.gsize ∧ z.queue = some (q.part, q.idx)
                ∧ z.handle = freshHandle s2 (s.launches.length + 2) s.nextHandle)
          ∧ (∀ pa s2, field b 0 1 = 2 → earlierDone s1 q1 = true → walkTo s1 q.ctx va .modify .atomic = .ok pa → isMoving s1 pa = false →
            message s1 q.fdie (spaceDie s1 pa) true q.ctx = some s2 →
            Leaves (.cmdSignal part idx) s fun s' => is s' moved
              ∧ readNat s'.mem pa 8 = (readNat s.mem pa 8 + field b 0x10 8) % 2 ^ 64
              ∧ ∀ a, (a < pa ∨ pa + 8 ≤ a) → readByte s'.mem a = readByte s.mem a)
          ∧ (∀ pa s2, field b 0 1 = 3 → q.waitArmed = true → walkTo s1 q.ctx va .read .plain = .ok pa →
            readTrip s1 q.fdie q.ctx va 1 = some s2 →
            (waitHolds (field b 1 1) (readNat s.mem pa 8) (field b 0x10 8) = true →
              Leaves (.cmdWait part idx) s fun s' => is s' moved ∧ s'.mem = s.mem)
            ∧ (waitHolds (field b 1 1) (readNat s.mem pa 8) (field b 0x10 8) = false →
              Leaves (.cmdWait part idx) s fun s' =>
                is s' { q1 with waitInProgress := true, waitArmed := false, waitLoc := pa } ∧ s'.mem = s.mem))
          ∧ (field b 0 1 = 4 → earlierDone s1 q1 = true → Leaves (.cmdBarrierJob part idx) s fun s' =>
              is s' { moved with job := q.job + 1, jobLaunches := 0 } ∧ s'.mem = s.mem))))
  ∧ ∀ (s : State) (d : Nat) (q : FaultQueue), Canonical s → faultQueueOf s d = some q →
    (∀ f, s.faults.find? (fun f => decide (f.fdie = d) && !f.posted) = some f → queueRoom q = true →
      let a := q.base + 32 * (q.tail % 2 ^ q.log)
      (q.headPA + 16 ≤ q.base ∨ q.base + 32 * 2 ^ q.log ≤ q.headPA) →
      Leaves (.faultQueuePost d) s fun s' => faultQueueOf s' d = some { q with tail := q.tail + 1 }
        ∧ { f with posted := true } ∈ s'.faults ∧ s'.threads = s.threads
        ∧ readNat s'.mem a 8 = f.word.toNat ∧ readNat s'.mem (a + 8) 4 = f.launch % 2 ^ 32
        ∧ readNat s'.mem (a + 12) 2 = f.tag % 4096 ∧ readNat s'.mem (a + 14) 2 = f.peer % 4096
        ∧ readNat s'.mem (a + 16) 1 = f.core % 256 ∧ readNat s'.mem (q.headPA + 8) 8 = (q.tail + 1) % 2 ^ 64)
    ∧ Leaves (.faultQueueHeadRead d) s (fun s' => faultQueueOf s' d = some { q with headSeen := readNat s.mem q.headPA 8 }
        ∧ s'.mem = s.mem)

/-- 20 R306, R307, R312, R317 to R320, 22 R346: a distributor reserves a unit core by core in rising order and admits it,
or gives it up and retries it after a delay; ageing locks a launch; a complete launch leaves, its DONESIG added to. That
moves and saved units go before new ones is the model's (log 72), and so are the messages of one step (logs 71, 91). -/
def Obligations.AdmissionEvents : Prop :=
  ∀ (s : State), Canonical s →
    (∀ d p, planOf s d = none → movePlan s d = none →
      chooseRestore s d = some p ∨ (chooseRestore s d = none ∧ choosePlan s d = some p) →
      Leaves (.admission d) s fun s' => s'.plans = s.plans ++ [p] ∧ s'.threads = s.threads ∧ s'.mem = s.mem)
    ∧ (∀ d p x, planOf s d = some p → isOvertaken s p = false → p.kind = .newUnit → launchAt s p.launch = some x →
      (ctxOf s x.ctx).run = .running →
      (∀ c cs, p.todo = c :: cs → heldByOther s p c = true → Leaves (.admission d) s fun s' =>
        let a := (unitTry x (planUnit p)).fails + 1
        (∀ q ∈ s'.plans, samePlan p q = false) ∧ s'.threads = s.threads
        ∧ (∀ g ∈ s'.gangs, ¬ (g.launch = p.launch ∧ g.reserved = true ∧ g.core ∈ p.held ∧ (g.gang, g.core) ∈ p.gangs))
        ∧ ∃ due, now s ≤ due ∧ due < now s + 64 * 2 ^ min a 10
          ∧ launchAt s' p.launch = some { x with
              tries := x.tries.filter (fun y => decide (y.gang ≠ planUnit p)) ++ [{ gang := planUnit p, fails := a, due := some due }] })
      ∧ (∀ c cs s1, p.todo = c :: cs → heldByOther s p c = false → reserveCore x c s p.gangs = some s1 →
        Leaves (.admission d) s fun s' => { p with todo := cs, held := p.held ++ [c] } ∈ s'.plans ∧ s'.threads = s.threads)
      ∧ (∀ s0, p.todo = [] → tellCores s p = some s0 → (x.state = .accepted → CanMessage s0 x.fdie x.ctx) →
        (p.gangs.map (·.1)).Nodup → isRetired (ctxOf s x.ctx) (packetAddr x.entry) = false →
        (∀ t ∈ s.threads, t.launch = x.handle → ∀ y ∈ p.gangs, t.thread / x.gsize ≠ y.1) → 0 < x.gsize →
        Leaves (.admission d) s fun s' => (launchOf s' p.launch).state = .running
          ∧ (launchOf s' p.launch).admitted = x.admitted ++ p.gangs.map (·.1)
          ∧ ∀ y ∈ p.gangs, ∀ i, i < x.gsize → ∃ t, threadAt s' x.handle (y.1 * x.gsize + i) = some t
              ∧ t.gang = y.1 ∧ t.core = y.2 ∧ t.place = .binned (now s) ∧ t.packet = x.entry ∧ t.pos = 0 ∧ t.carry = 0
              ∧ t.regs = [] ∧ t.pred = 1 ∧ t.fpsm = BitVec.ofNat 8 (x.fpmode % 4 * 32) ∧ t.efftag = x.ctx))
    ∧ (∀ l x, launchAt s l = some x → Leaves (.admissionRetry l) s fun s' =>
        launchAt s' l = some { x with tries := x.tries.map fun y => { y with due := y.due.filter fun d => decide (now s < d) } })
    ∧ (∀ l x c, launchAt s l = some x → x.top = some c → awaitsAdmission x = true → ageingInterval s x ≤ now s - c →
        Leaves (.admissionAgeingLock l) s fun s' => launchAt s' l = some { x with locked := true })
    ∧ ∀ l x s1, launchAt s l = some x → isComplete s x = true → writeStatus s x 3 = some s1 →
        (∀ pa s2, x.donesig ≠ 0 → walkTo s1 x.ctx x.donesig .modify .atomic = .ok pa → pa + 8 ≤ 2 ^ 80 →
          isMoving s1 pa = false →
          message s1 x.fdie (spaceDie s1 pa) true x.ctx = some s2 →
          Leaves (.launchComplete l) s fun s' => readNat s'.mem pa 8 = (readNat s1.mem pa 8 + 1) % 2 ^ 64)
        ∧ ((addDonesig s1 x).isSome = true → Leaves (.launchComplete l) s fun s' => launchAt s' l = none
            ∧ (∀ t ∈ s'.threads, t.launch ≠ l) ∧ ∀ g ∈ s'.gangs, g.launch ≠ l)

/-- 22 R341 to R346, R351, R352: a context is created, pre-empted launch by launch with forced saves at the deadline,
resumed, and removed unit by unit. -/
def Obligations.ContextEvents : Prop :=
  ∀ (s : State) (tag : Nat),
    (∀ part savelen tbase savebase p, tag ≠ 0 → tag < 4096 → part ≤ 15 → tbase % 2048 = 0 → tbase < 2 ^ 39 →
      savebase % 65536 = 0 → savelen < 2 ^ 32 → partOf s part = some p → ctxAt s tag = none → queuesSet s = true →
      regionInHbm p savebase (savelen * 65536) = true → saveTaken s savebase (savelen * 65536) = false →
      Succeeds (.createctx tag part savelen tbase savebase) s fun s' => s'.mem = s.mem
        ∧ ctxAt s' tag = some { tag := tag, partition := part, tbase := tbase, savebase := savebase, savelen := savelen * 65536 })
    ∧ (∀ x, namedCtx s tag = some x →
      (x.run = .running → saveNeed s tag ≤ x.savelen → Succeeds (.preempt tag) s fun s' =>
        ctxAt s' tag = some { x with run := .stopping } ∧ s'.threads = s.threads)
      ∧ (x.run = .stopped → Succeeds (.resume tag) s fun s' => (x.modules = [] → (ctxOf s' tag).run = .running)
          ∧ ∀ y ∈ s'.launches, y.ctx = tag → y.preq = false ∧ y.reached = false ∧ y.stopped = false ∧ y.deadline = none)
      ∧ Succeeds (.remove tag) s fun s' => (ctxOf s' tag).run = .removing 0 ∧ (∀ q ∈ s'.queues, q.ctx ≠ tag)
          ∧ (∀ q ∈ s.queues, q.ctx = tag → s'.deadQueues.contains (q.part, q.idx) = true)
          ∧ ∀ t ∈ s'.threads, ofCtx s tag t.launch = true → holdsWindow t = false)
    ∧ (∀ l x, launchAt s l = some x → (ctxOf s x.ctx).run = .stopping → x.reached = false → walkAllows s x = true →
      Leaves (.stopWalkReach l) s fun s' => s'.threads = s.threads
        ∧ launchAt s' l = some { x with preq := true, reached := true, deadline := some (now s + (ctxOf s x.ctx).pqdl) })
    ∧ (∀ l x d, launchAt s l = some x → x.deadline = some d → (ctxOf s x.ctx).run ≠ .stopping → exec (.preemptDeadline l) s = .next s)
    ∧ (∀ l x d, launchAt s l = some x → x.deadline = some d → d ≤ now s → (ctxOf s x.ctx).run = .stopping →
      (s.threads.map rowKey).Nodup → Leaves (.preemptDeadline l) s fun s' =>
        launchAt s' l = some { x with deadline := none }
        ∧ ∀ t ∈ s.threads, t.launch = l → t.place = .window → ∃ r, threadAt s' l t.thread = some r ∧ r.place = .unbinned
            ∧ r.forced = true ∧ r.latchesSaved = true ∧ r.trapRec = false ∧ r.packet = t.packet ∧ r.pos = t.pos
            ∧ r.carry = BitVec.ofNat 64 (2 ^ t.window - 1)
            ∧ (∀ n, n < 64 → n < t.window → regGet r.regs n = regGet (flushLoads t).regs n)
            ∧ r.pred = t.pred ∧ r.la = t.la ∧ r.lb = t.lb ∧ r.ls = t.ls)
    ∧ ∀ x n, ctxAt s tag = some x → x.run = .removing n → unitBusy s tag n = false →
        let goesOn := fun (s' : State) => (ctxOf s' tag).run = .removing (n + 1)
        (n = 0 → Leaves (.removalUnitReset tag) s fun s' => goesOn s' ∧ ∀ c ∈ s'.copies, ofCtx s tag c.launch = false)
        ∧ (n = 1 → Leaves (.removalUnitReset tag) s fun s' => goesOn s' ∧ (∀ o ∈ s'.tileOps, ofCtx s tag o.launch = false)
            ∧ ∀ r ∈ s'.tileRanges, ofCtx s tag r.launch = false)
        ∧ (n = 2 → Leaves (.removalUnitReset tag) s fun s' => goesOn s' ∧
            ∀ t ∈ s'.threads, ofCtx s tag t.launch = true → t.streams = [])
        ∧ (n = 3 → Leaves (.removalUnitReset tag) s fun s' => goesOn s' ∧ (∀ t ∈ s'.threads, ofCtx s tag t.launch = false)
            ∧ (ctxOf s' tag).modules = [] ∧ ∀ f ∈ s'.faults, ofCtx s tag f.launch = false)
        ∧ (n = 4 → Leaves (.removalUnitReset tag) s fun s' => goesOn s' ∧ ∀ g ∈ s'.gangs, ofCtx s tag g.launch = false)
        ∧ (n = 5 → Leaves (.removalUnitReset tag) s fun s' => goesOn s' ∧ (∀ c ∈ s'.cores, ∀ e ∈ c.tlb, e.tag ≠ tag)
            ∧ ∀ m ∈ s'.moves, m.tag ≠ tag)
        ∧ (6 ≤ n → Leaves (.removalUnitReset tag) s fun s' => ctxAt s' tag = none
            ∧ ∀ y ∈ s'.launches, y.ctx ≠ tag)

/-- 24 R384, 21 R328, R329, R333, 22 R347, R350, R353 to R355, 20 R315, R316, 19 R292: what Milliner's other commands and
the debugger's do, with status 0, and SETMODE and MOVEGANG where they do not. The model's own: the FORCED bit of a record
that RELEASE continues (log 48), where RETRY returns a record that did not wait at its own run (log 39), MOVEGANG's plan
(log 72), the kicks that MAPQ takes (log 75), what RETRY asks of a peer (log 6), SETMODE while the clock cut cannot be made
(log 90). -/
def Obligations.MillinerCommands : Prop :=
  ∀ (s : State) (tag : Nat), Canonical s →
    (∀ x l n c t, namedCtx s tag = some x → threadAt s l n = some t → (launchOf s l).ctx = tag → x.run ≠ .held → c < 192 →
      movable t = true → workDone t = true → t.core ≠ c → ((partOf s x.partition).getD noPart).cores.contains c = true →
      (residentAt s l t.gang c = true ∨ (launchOf s l).detach = true) → Succeeds (.moverec tag l n c) s fun s' =>
        threadAt s' l n = some { t with
            place := .forward, fwd := some { dest := c, byMove := true, from_ := some t.place, source := t.core, fromSave := t.saved } }
        ∧ ThreadsKept s s' l n)
    ∧ (∀ x l lr g c0 c1 c2 c3, namedCtx s tag = some x → launchAt s l = some lr → lr.ctx = tag →
      let ps := moveTargets lr g [c0, c1, c2, c3]
      0 < lr.clsize → moveBytesBad lr g [c0, c1, c2, c3] = false → moveAllowed s lr ps = true → (∀ p ∈ ps, isBeingMoved s l p.1 = false) →
      Succeeds (.movegang tag l g c0 c1 c2 c3) s fun s' =>
        s'.plans = s.plans ++ [planFor 10 .move l ps] ∧ s'.threads = s.threads ∧ s'.mem = s.mem)
    ∧ (∀ l g c0 c1 c2 c3, 191 < c0 → exec (.movegang tag l g c0 c1 c2 c3) s = badCommand s)
    ∧ (∀ d p s1, planOf s d = none → movePlan s d = some p → planStands s p = true → p.todo = [] →
      moveAllowed s (launchOf s p.launch) p.gangs = true → (p.gangs.map (·.1)).Nodup →
      (∀ q ∈ p.gangs, ∀ t ∈ gangThreads s (launchOf s p.launch).handle q.1, isKnown s t = true) →
      moveGangs (launchOf s p.launch) (giveUp s p) p.gangs = some s1 → Leaves (.admission d) s fun s' =>
        s'.threads = s1.threads
        ∧ ∀ q ∈ p.gangs, ∃ y ∈ s'.gangs, y.launch = p.launch ∧ y.gang = q.1 ∧ y.detached = false ∧ y.reserved = false ∧ y.core = q.2)
    ∧ (∀ d slot qcb part idx x, isFdie d = true → slot ≤ 31 → qcb % 256 = 0 → qcb + 256 ≤ 2 ^ 39 → part ≤ 15 → idx ≤ 65535 →
      let b := readBytes s.mem qcb 256
      let q := parseQueue b d part idx qcb
      queueBad b = false → inSlot s d slot = none → (queueAt s part idx).bind Queue.slot = none →
      ((partOf s part).getD noPart).slots.contains slot = true → namedCtx s q.ctx = some x → x.partition = part →
      Succeeds (.mapq d slot qcb part idx) s fun s' =>
        queueAt s' part idx
          = some (takeKicks { q with slot := some slot, mappedAt := now s } (((queueAt s part idx).map Queue.kicked).getD []))
        ∧ s'.mem = s.mem)
    ∧ (∀ d slot save q, isFdie d = true → slot ≤ 31 → save % 256 = 0 → save + 256 ≤ 2 ^ 39 → inSlot s d slot = some q →
      queueAt s q.part q.idx = some q → Succeeds (.unmapq d slot save) s fun s' =>
        readBytes s'.mem save 256 = queueBytes q
        ∧ queueAt s' q.part q.idx = some { q with
            slot := none, qcbAt := some save, waitArmed := true, waitInProgress := false, kicked := [], fetched := none,
            agedTo := q.qprio,
            pendingSince := if q.head ≠ q.tail ∨ q.waitInProgress = true then some (now s) else none })
    ∧ (∀ part a p, part ≤ 15 → 10 ≤ a → a ≤ 30 → partOf s part = some p → Succeeds (.setage part a) s fun s' =>
        partOf s' part = some { p with age := a })
    ∧ (∀ v : BitVec 64, modeBad v.toNat = false → s.contexts = [] → clockWatts (modeOf v.toNat).clk ≤ s.plimit →
      ((modeOf v.toNat).causal = s.mode.causal → Succeeds (.setmode v) s fun s' =>
        s'.mode = modeOf v.toNat ∧ s'.felt = s.felt ∧ s'.mem = s.mem)
      ∧ ((modeOf v.toNat).causal ≠ s.mode.causal → (cutClocks s).felt.packets = [] → Succeeds (.setmode v) s fun s' =>
        s'.mode = modeOf v.toNat ∧ s'.felt = (cutClocks s).felt ∧ ∀ c ∈ s'.felt.clocks, ∀ i j, matrixAt c.matrix i j = 0)
      ∧ ((modeOf v.toNat).causal ≠ s.mode.causal → (cutClocks s).felt.packets ≠ [] → exec (.setmode v) s = refused s))
    ∧ (let s1 := drainFelt s.felt.packets.length s
      Succeeds .clkcut s fun s' => s'.mem = s1.mem ∧ s'.threads = s1.threads ∧ s'.felt.live = s.felt.live
        ∧ (s1.felt.packets = [] → s'.felt.packets = []
          ∧ s'.felt.clocks.map DieClock.clkgen = s1.felt.clocks.map (fun c => (c.clkgen + 1) % 65536)
          ∧ ∀ c ∈ s'.felt.clocks, ∀ i j, matrixAt c.matrix i j = 0 ∧ c.v.getD i 0 = 0)
        ∧ (s1.felt.packets ≠ [] → s'.felt.cutWanted = true ∧ s'.felt.clocks = s1.felt.clocks))
    ∧ (∀ d n base head, isFdie d = true → 6 ≤ n → n ≤ 16 → base % 4096 = 0 → head % 16 = 0 →
      (∃ p ∈ s.partitions, ∃ r ∈ p.hbm, r.1 * 2 ^ 30 ≤ base ∧ base + 32 * 2 ^ n ≤ (r.1 + r.2) * 2 ^ 30) →
      head + 16 ≤ 2 ^ 39 → s.contexts = [] → Succeeds (.setfq d n base head) s fun s' =>
        faultQueueOf s' d = some { fdie := d, log := n, base := base, headPA := head } ∧ s'.mem = s.mem)
    ∧ (∀ x l c f, c < 192 → namedCtx s tag = some x → entryNamed s tag l c f = true → (s.threads.map rowKey).Nodup →
      (∀ t ∈ s.threads, isRetired (ctxOfLaunch s t.launch) (codeAddr t) = false) → Succeeds (.disposeRetry tag l c f) s fun s' =>
        (∀ t ∈ s.threads, inFaultBin l c f t = true →
          let again := t.sbuf.map fun (e : SbEntry) => { e with failed := false }
          (t.parked = none → t.place ≠ .forward → Reaches s s' { t with tfword := 0, sbuf := again } (.binned 0))
          ∧ ∀ r, t.parked = some r →
            let u := { t with parked := none, forced := r.forced, trapRec := r.trapRec, latchesSaved := r.latchesSaved,
                              tfword := r.tfword, sbuf := again }
            (t.place ≠ .forward → Reaches s s' u (if waitOver s' u r.place = true then .binned 0 else r.place))
            ∧ (t.place = .forward → threadAt s' t.launch t.thread
                = some { u with fwd := t.fwd.map fun g => { g with from_ := some r.place } }))
        ∧ (coreOf s' c).dcache = []
        ∧ s'.copies = s.copies.map (releaseCopy l c f) ∧ s'.tileOps = s.tileOps.map (releaseOp s l c f))
    ∧ (∀ x l c f e, c < 192 → namedCtx s tag = some x →
      s.faults.find? (fun y => sameFault l c f y && y.posted && decide (y.tag = tag)) = some e →
      Succeeds (.disposeKill tag l c f) s fun s' => (ctxOf s' tag).run = .held ∧ s'.threads = s.threads
        ∧ (ctxOf s' tag).report = (if x.run = .held then some (x.report.getD (e.word, l, entryThread s l c f))
            else some (e.word, l, entryThread s l c f)) ∧ ∀ y ∈ s'.faults, sameFault l c f y = false)
    ∧ (∀ x, namedCtx s tag = some x →
      Succeeds (.debugAttach tag) s (fun s' => (ctxOf s' tag).debug = true ∧ s'.threads = s.threads)
      ∧ ((s.threads.map rowKey).Nodup → (∀ t ∈ s.threads, isRetired (ctxOfLaunch s t.launch) (codeAddr (continued t)) = false) →
        Succeeds (.debugDetach tag) s fun s' => (ctxOf s' tag).debug = false
          ∧ ∀ t ∈ s.threads, t.place = .held → ofCtx s tag t.launch = true → Reaches s s' (continued t) (.binned 0))
      ∧ ∀ l n t edit, threadAt s l n = some t → t.place = .held → (launchOf s l).ctx = tag → edit + 1024 ≤ 2 ^ 39 →
        let t1 := editRecord s edit t
        Succeeds (.releaseContinue tag l n edit) s (fun s' =>
          Reaches s s' { t1 with packet := t1.tfword.toNat / 65536 + 1, pos := 0, trapRec := false, forced := true, tfword := 0 }
            (.binned 0))
        ∧ ((launchOf s l).trappkt ≠ 0 → isRetired x (packetAddr (launchOf s l).trappkt) = false →
            Succeeds (.releaseDeliver tag l n edit) s fun s' => Reaches s s' t1 (.binned 0)))
    ∧ ∀ l n t, threadAt s l n = some t → (t.place = .held ∨ (ctxOfLaunch s l).run = .held) →
        Leaves (.debugQuery l n) s fun s' => s'.views = s.views ++ [debugView s t] ∧ s'.threads = s.threads ∧ s'.mem = s.mem

/-- 24 R379 to R385, 22 R356, R357: bring-up and package reset, freezes and read-outs, clocks within PLIMIT, the requests
of the management port and the messages of the security root; a request that is not authentic is dropped. The model's own:
the clock after a trip while a change is due (logs 24, 50), the ERROR answers of SETPLIMIT in a freeze and of THAW under the
pin (log 96), the bytes that a request's signature and the measurements 4 and 5 are taken over (logs 51, 55), and the
context of the signatures (log 93). -/
def Obligations.ManagementEvents : Prop :=
  ∀ (s : State),
    let answers := fun (s' : State) (r : MgmtReply) => s'.security.replies = s.security.replies ++ [r] ∧ s'.mem = s.mem
    (∀ b, Leaves (.freeze b) s fun s' => s' = { s with freezePin := b, frozen := s.frozen || b })
    ∧ (∀ a, s.frozen = true → Leaves (.tapReadout a) s fun s' => ∃ x y, answers s' (.bits a x y))
    ∧ (∀ x, Leaves (.packageReset x) s fun s' => s'.mem = [] ∧ s'.tiles = [] ∧ s'.contexts = [] ∧ s'.launches = []
        ∧ s'.threads = [] ∧ s'.queues = [] ∧ s'.cores = [] ∧ s'.mode = {} ∧ s'.plimit = 2000 ∧ s'.timeBase = 0
        ∧ s'.frozen = false ∧ s'.felt = Felt.reset
        ∧ let ok := fun (i : BootImage) =>
          digest256 i.key = s.boot.keyDigest ∧ slhVerify i.key i.bytes i.signature = true ∧ s.boot.minVersion ≤ i.version
          (¬ ok x.milliner → s'.boot.failed = some 1)
          ∧ (ok x.milliner → ¬ ok x.f1 → s'.boot.failed = some 2)
          ∧ (ok x.milliner → ok x.f1 → ¬ ok x.microcode → s'.boot.failed = some 3)
          ∧ (ok x.milliner → ok x.f1 → ok x.microcode → s'.boot.failed = none
              ∧ s'.boot.log = [(1, digest256 x.milliner.bytes), (2, digest256 x.f1.bytes), (3, digest256 x.microcode.bytes)]))
    ∧ (∀ w, Leaves (.thermalTrip w) s fun s' => s'.mem = s.mem ∧ s'.plimit = s.plimit
        ∧ s'.mode.clk = if clockWatts s.mode.clk ≤ min s.plimit w then s.mode.clk else fastestWithin (min s.plimit w))
    ∧ (∀ k, s.clockWanted = some k → Leaves .clockChangeDone s fun s' => s'.clockWanted = none
        ∧ s'.mode.clk = (if clockWatts k ≤ powerLimit s then k else fastestWithin (powerLimit s))
        ∧ s'.threads = s.threads.map fun t => if t.sysWait = .clock then { t with sysWait := .clockDone } else t)
    ∧ (∀ r : MgmtRequest,
        let op := fun (o : MgmtOp) (i : Instr) (p : State → Prop) =>
          (authentic s r o = false → exec i s = .next s) ∧ (s.boot.failed = none → Leaves i s fun s' => authentic s r o = true → p s')
        let taken := fun (s' : State) => s'.security.lastSequence = r.sequence
        (∀ k, op (.readStatus k) (.mgmtReadStatus r k) fun s' => taken s'
          ∧ (k < 10 → answers s' (.counters k (correctedOf s k))) ∧ (10 ≤ k → ∃ v, answers s' (.reading k v)))
        ∧ (∀ w, op (.setPlimit w) (.mgmtSetPlimit r w) fun s' => taken s'
            ∧ (s.frozen = true → s'.plimit = s.plimit ∧ answers s' .error)
            ∧ (s.frozen = false → if 1400 ≤ w ∧ w ≤ 2000 then
                  s'.plimit = w ∧ clockWatts s'.mode.clk ≤ max w 1400 ∧ answers s' (.limit w true)
                else s'.plimit = s.plimit ∧ answers s' (.limit w false)))
        ∧ op .freeze (.mgmtFreeze r) (fun s' => taken s' ∧ s'.frozen = true ∧ s'.mem = s.mem)
        ∧ op .thaw (.mgmtThaw r) (fun s' => taken s' ∧ (s.freezePin = false → s'.frozen = false)
            ∧ (s.freezePin = true → s'.frozen = s.frozen ∧ answers s' .error))
        ∧ (∀ a, op (.readout a) (.mgmtReadout r a) fun s' => taken s' ∧ (s.frozen = true → ∃ x y, answers s' (.bits a x y)))
        ∧ ∀ x, op .packageReset (.mgmtPackageReset r x) fun s' => taken s' ∧ s'.contexts = [] ∧ s'.mem = [])
    ∧ (∀ (i : Instr) k, portUp s = true → s.boot.failed = some k → isAttestation i = true → Leaves i s fun s' =>
        answers s' (.bootFailure k s.boot.failure))
    ∧ (portUp s = true → s.boot.failed = none →
        Leaves .getVersion s (fun s' => s'.security.spdmVersioned = true ∧ answers s' (.version 1 3))
        ∧ (s.security.spdmVersioned = true → Leaves .getCapabilities s fun s' => s'.security.spdmCapable = true
            ∧ answers s' (.capabilities supportedFeatures refusedFeatures))
        ∧ (s.security.spdmCapable = true → Leaves .negotiateAlgorithms s fun s' => s'.security.spdmNegotiated = true
            ∧ answers s' (.algorithms .sha256 .slhDsaSha2_192s))
        ∧ (s.security.spdmNegotiated = true →
            Leaves .getDigests s (fun s' => ∃ v, answers s' (.digests v))
            ∧ Leaves (.getCertificate 0) s (fun s' => ∃ v, answers s' (.certificate 0 v))
            ∧ (∀ n, Leaves (.challenge n) s fun s' => ∃ v, answers s' (.challenge n v))
            ∧ (∀ k, 1 ≤ k → k ≤ 5 → Leaves (.getMeasurements k) s fun s' => answers s' (.measurement k (measurement s k)))
            ∧ ∀ k v, 1 ≤ k → k ≤ 3 → s.boot.log.find? (fun x => decide (x.1 = k)) = some (k, v) →
                Leaves (.getMeasurements k) s fun s' => answers s' (.measurement k v)))

/-- 23 R358 to R368, 09 R188: packets of the Felt arrive, are held and delivered, a lane's reduction with that of the lane
before it; links fail after 64 retransmissions; beacons merge a row and V as a column, acknowledgements are kept; a die is
removed, its lost packets keeping their place (log 77), and a split network loses every group but one. -/
def Obligations.FeltEvents : Prop :=
  ∀ (s : State),
    let delivered := fun (s' : State) (p : FeltPacket) => s'.felt.packets = s.felt.packets.erase p
      ∧ (p.stamped = true → p.src < (clockOf s p.dst).v.length → s.felt.clocks.any (fun c => decide (c.die = p.dst)) = true →
          (clockOf s' p.dst).v.getD p.src 0 = ((clockOf s p.dst).v.getD p.src 0 + 1) % 4096)
      ∧ (∀ k, p.body = .message k → s'.threads = s.threads ∧ s'.mem = s.mem)
      ∧ (∀ loc n v, p.body = .write loc n v → s'.threads = s.threads ∧ s'.mem = writeNat s.mem loc n v)
      ∧ ∀ loc n op cmp v, p.body = .modify loc n op cmp v →
          s'.threads = s.threads ∧ s'.mem = writeNat s.mem loc n (atomicValue op n (readNat s.mem loc n) v cmp)
    (∀ a b p, routed s a b = true → (feltQueue s a b).find? (fun p => !p.arrived) = some p →
      ((feltQueue s a b).head? = some p → deliverable s p = true →
        (followers s p = [] → Leaves (.feltPacketReceive a b) s fun s' => delivered s' p)
        ∧ ∀ q loc n op cmp v op' cmp' v', followers s p = [q] → p.body = .modify loc n op cmp v → q.body = .modify loc n op' cmp' v' →
          Leaves (.feltPacketReceive a b) s fun s' => s'.felt.packets = (s.felt.packets.erase p).erase q ∧ s'.threads = s.threads
            ∧ s'.mem = (let m := writeNat s.mem loc n (atomicValue op n (readNat s.mem loc n) v cmp)
                writeNat m loc n (atomicValue op' n (readNat m loc n) v' cmp')))
      ∧ (deliverable s p = false → Leaves (.feltPacketReceive a b) s fun s' =>
          s'.felt.packets.length = s.felt.packets.length ∧ { p with arrived := true } ∈ s'.felt.packets ∧ s'.mem = s.mem))
    ∧ (∀ d p ps, heldDeliverable s d = p :: ps → followers s p = [] → Leaves (.heldPacketDeliver d) s fun s' => delivered s' p)
    ∧ (∀ a b, linkUp s (linkEnds a b) = true → Leaves (.flitRetransmit a b) s fun s' =>
        retriesOf s' (linkEnds a b) = retriesOf s (linkEnds a b) + 1 ∧ s'.felt.packets = s.felt.packets)
    ∧ (∀ a b, linkUp s (linkEnds a b) = true → 64 ≤ retriesOf s (linkEnds a b) → Leaves (.linkFailed a b) s fun s' =>
        linkUp s' (linkEnds a b) = false ∧ s'.felt.live = s.felt.live ∧ s'.felt.cutWanted = true)
    ∧ (∀ d, isLiveDie s d = true →
      Leaves (.clockBeacon d) s (fun s' => ∀ e, e ≠ d → d < 10 → isLiveDie s e = true → routed s d e = true →
        s.felt.clocks.any (fun c => decide (c.die = e)) = true →
        let c := clockOf s d
        let x := clockOf s e
        let y := clockOf s' e
        (d < x.beacons.length → y.beacons.getD d 0 = now s)
        ∧ (x.matrix.length = 10 → (∀ r ∈ x.matrix, r.length = 10) → ∀ k, k < 10 → k ≠ d → isLiveDie s k = true →
            matrixAt y.matrix d k = laterCount (matrixAt x.matrix d k) (matrixAt c.matrix d k)
            ∧ matrixAt y.matrix k d = laterCount (matrixAt x.matrix k d) (c.v.getD k 0)))
      ∧ Leaves (.vAck d) s (fun s' => ∀ x ∈ s'.felt.clocks, isLiveDie s x.die = true → d < x.acked.length →
          x.acked.getD d 0 = (clockOf s d).v.getD x.die 0)
      ∧ (∀ e, isLiveDie s e = true → d ≠ e → 1024 ≤ now s - (clockOf s d).beacons.getD e 0 → Leaves (.beaconTimeout d e) s fun s' =>
          s'.felt.cutWanted = true ∧ s'.felt.live = s.felt.live)
      ∧ Leaves (.dieRemove d) s fun s' => isLiveDie s' d = false ∧ (∀ e, e ≠ d → isLiveDie s' e = isLiveDie s e)
          ∧ (∀ p ∈ s'.felt.packets, p.dst ≠ d ∧ (p.src = d → p.arrived = false)
            ∧ (countsLost s d p = true → p.body = .message 0 ∧ p.sender = none ∧ p.acks = none))
          ∧ s'.log = s.log ++ [.dieLost d] ∧ s'.mem = s.mem
          ∧ ∀ c, c < 192 → dieOfCore c = d → (coreOf s' c).inService = false)
    ∧ ∀ d, minBy (groupRank s) s.felt.live = some d → Leaves .networkSplit s fun s' =>
        ∀ e, isLiveDie s' e = (isLiveDie s e && (groupOfDie s d).contains e)

/-- 23 R370 to R378, 21 R331, 05 R118: Renhar's packets at an F-die's router and at their home, circuits that go and
return, peers declared lost; connections of the host port, their rates, and incoming RDMA. That a router always merges is
the model's (log 46), what a faulted answer marks (log 6), and that a packet which cannot be taken yet waits (log 91). -/
def Obligations.RenharAndPortEvents : Prop :=
  ∀ (s : State), Canonical s →
    (∀ d (p : RenharPacket), p.destination ≠ s.ownPeer →
      (routerTail s d (channelOf p.kind) = none → Leaves (.renharPacketReceive d p) s fun s' =>
        s'.renhar.router = s.renhar.router ++ [(d, p)] ∧ s'.mem = s.mem)
      ∧ ∀ q m, routerTail s d (channelOf p.kind) = some q → mergeWrites q p = some m → m.count = q.count + p.count
        ∧ Leaves (.renharPacketReceive d p) s fun s' => s'.mem = s.mem
            ∧ s'.renhar.router = s.renhar.router.map fun x => if x = (d, q) then (d, m) else x)
    ∧ (∀ d (p : RenharPacket), p.destination = s.ownPeer → waitsBehind s p = true → Leaves (.renharPacketReceive d p) s fun s' =>
      s'.renhar.inbound = s.renhar.inbound ++ [(d, p)] ∧ s'.mem = s.mem)
    ∧ (∀ d (p : RenharPacket), p.destination = s.ownPeer → waitsBehind s p = false →
      let answered := fun (s' : State) (k : RenharKind) => ∃ o ∈ s'.renhar.out, o.packet.source = s.ownPeer
        ∧ o.packet.destination = p.source ∧ o.packet.kind = k
      let atHome := fun (loc : Nat) => isMoving s loc = false ∧ ∀ n, (dirEntry s (loc / 128)).ownerPackage = some n → n = p.source
      let told := fun (s' : State) (n : Nat) (k : RenharKind) => ∃ o ∈ s'.renhar.out, o.packet.source = s.ownPeer
        ∧ o.packet.destination = n ∧ o.packet.kind = k
      let asksLine := fun (va : Nat) => va = requestAddress p.kind ∧ (takesLine p.kind = true ∨ (∃ n, p.kind = .read va n)
        ∨ (∃ n, p.kind = .acquire va n) ∨ ∃ a atomic, p.kind = .translate va a atomic)
      let translated := fun (va : Nat) => homeTranslate s p.rctx va (requestAccess p.kind).1 (requestAccess p.kind).2
      (∀ va w, asksLine va → translated va = .error w → Leaves (.renharPacketReceive d p) s fun s' =>
        answered s' (.faulted 0 0 va w) ∧ s'.mem = s.mem)
      ∧ (∀ va loc, asksLine va → translated va = .ok loc → isMoving s loc = true → Leaves (.renharPacketReceive d p) s fun s' =>
        s'.renhar.inbound = s.renhar.inbound ++ [(d, p)] ∧ s'.mem = s.mem)
      ∧ (∀ va a atomic loc s1, p.kind = .translate va a atomic → translated va = .ok loc → atHome loc → homeTrip s d p loc = some s1 →
        Leaves (.renharPacketReceive d p) s fun s' => answered s' (.response 0 0 va [] false) ∧ s'.mem = s.mem)
      ∧ (∀ va loc s1, takesLine p.kind = true → va = requestAddress p.kind →
        translated va = .ok loc → atHome loc → homeTrip s d p loc = some s1 →
        Leaves (.renharPacketReceive d p) s fun s' =>
          ∀ x ∈ (dirEntry s (loc / 128)).names, x.1 ≠ p.source → told s' x.1 (.invalidate (128 * x.2.2)))
      ∧ (∀ va s1, p.kind = .invalidate va → dropPeerLine s d p.source p.rctx va = some s1 → Leaves (.renharPacketReceive d p) s fun s' =>
        answered s' (.ack 0 0 va p.count false) ∧ s'.mem = s.mem
          ∧ ∀ r ∈ s'.cores, ∀ l ∈ r.dcache, l.line ∉ peerLines s p.source p.rctx va)
      ∧ (∀ va s1, p.kind = .fetch va → dropPeerLine s d p.source p.rctx va = some s1 → Leaves (.renharPacketReceive d p) s fun s' =>
        answered s' (.response 0 0 va (peerLineBytes s p.source p.rctx va) false) ∧ s'.mem = s.mem)
      ∧ (∀ va b loc s1, p.kind = .postedWrite va [(0, b)] → homeTranslate s p.rctx va .write .plain = .ok loc → atHome loc →
        homeTrip s d p loc = some s1 → Leaves (.renharPacketReceive d p) s fun s' => readByte s'.mem loc = b
          ∧ answered s' (.ack 0 0 va p.count false)
          ∧ ∀ a, a ≠ loc → readByte s'.mem a = readByte s.mem a)
      ∧ (∀ va n loc s1, p.kind = .read va n → homeTranslate s p.rctx va .read .plain = .ok loc → atHome loc →
        homeTrip s d p loc = some s1 → Leaves (.renharPacketReceive d p) s fun s' =>
          p.source ∈ (dirEntry s' (loc / 128)).packages
          ∧ answered s' (.response 0 0 va (readBytes s.mem loc (min n (128 - va % 128))) false) ∧ s'.mem = s.mem)
      ∧ (∀ va v loc s1, p.kind = .signal va v → homeTranslate s p.rctx va .modify .atomic = .ok loc → atHome loc →
        homeTrip s d p loc = some s1 → Leaves (.renharPacketReceive d p) s fun s' => answered s' (.ack 0 0 va p.count false)
          ∧ readNat s'.mem loc 8 = (readNat s.mem loc 8 + v.toNat) % 2 ^ 64)
      ∧ (∀ va n loc k, p.kind = .read va k → homeTranslate s p.rctx va .read .plain = .ok loc → isMoving s loc = false →
        (dirEntry s (loc / 128)).ownerPackage = some n → n ≠ p.source → Leaves (.renharPacketReceive d p) s fun s' =>
          s'.renhar.waiting = s.renhar.waiting ++ [(n, p)] ∧ told s' n (.fetch (va / 128 * 128)) ∧ s'.mem = s.mem)
      ∧ (∀ l n va k cong o, p.kind = .ack l n va k cong → thirdOf s p (.invalidate (va / 128 * 128)) = some o →
        exec (.renharPacketReceive d p) s = .next (dropThird s o))
      ∧ (∀ l n va k cong, p.kind = .ack l n va k cong → l ≠ 0 → thirdOf s p (.invalidate (va / 128 * 128)) = none →
        let mine := s.renhar.out.find? fun o => isRequestTo s.ownPeer p.source va o
        (∀ o, mine = some o → exec (.renharPacketReceive d p) s = .next (peerAcked (takeCongestion s o cong) l n k))
        ∧ (mine = none → exec (.renharPacketReceive d p) s = .next (peerAcked s l n k)))
      ∧ (∀ l n t, threadAt s l n = some t → t.remoteEnq = some .sent → s.renhar.out.any (isEnqueueOf p.source l n) = true →
        let goesOn := fun (a : RemoteEnq) => Leaves (.renharPacketReceive d p) s fun s' =>
          threadAt s' l n = some { t with remoteEnq := some a } ∧ ThreadsKept s s' l n ∧ s'.mem = s.mem
            ∧ s'.renhar.out.any (isEnqueueOf p.source l n) = false
        (p.kind = .accepted l n → goesOn .accepted) ∧ (p.kind = .nack l n → goesOn .refused) ∧ (p.kind = .full l n → goesOn .full))
      ∧ (∀ l t va w o, p.kind = .faulted l t va w →
        (s.renhar.out.find? fun o => isRequestTo s.ownPeer p.source va o
          && (decide (l = 0) || (decide (o.launch = l) && decide (o.thread = t)))) = some o →
        Leaves (.renharPacketReceive d p) s fun s' => s'.mem = s.mem
          ∧ ∃ f ∈ s'.peerFaults, f.part = o.part ∧ f.peer = p.source ∧ f.page = va / 65536 ∧ f.kind = w.toNat % 16
              ∧ f.level = w.toNat / 512 % 4 ∧ (f.read = true ↔ (requestAccess o.packet.kind).1 = .read)))
    ∧ (∀ part peer x, partOf s part = some x → peer < 4096 →
      let e := peerEntry s part peer
      Leaves (.circuitReconfiguration part peer) s (fun s' =>
        (peerEntry s' part peer).reconf = true ∧ (peerEntry s' part peer).state = e.state
        ∧ ∀ o ∈ s'.renhar.out, o.part = part → o.packet.destination = peer → o.held = true)
      ∧ Leaves (.circuitRestored part peer) s (fun s' =>
        (peerEntry s' part peer).reconf = false ∧ (peerEntry s' part peer).state = e.state
        ∧ ∀ o ∈ s'.renhar.out, o.part = part → o.packet.destination = peer → o.held = false)
      ∧ (Leaves (.peerLost part peer) s fun s' =>
        (∀ x ∈ s'.renhar.waiting, x.1 ≠ peer) ∧ (peerEntry s' part peer).state = 1 ∧ (peerEntry s' part peer).reconf = false
        ∧ (peerEntry s' part peer).rctx = e.rctx
        ∧ ∀ tag c, ctxAt s tag = some c → c.partition = part → (∀ n, c.run ≠ .removing n) →
            (peerVictim s peer c).isSome = true → (ctxOf s' tag).run = .held))
    ∧ (∀ n, portUp s = true → s.port.paused = false → liveConn s n = none →
      (s.port.connections.filter fun c => !decide (c.num = n)).length < 1024 →
      Leaves (.connectionRequest n 4096 true) s fun s' => connAt s' n = some { num := n }
        ∧ s'.port.replies = s.port.replies ++ [.accepted n])
    ∧ (∀ n, Leaves (.connectionError n) s fun s' => (∀ h ∈ s'.port.windows, h.conn ≠ n) ∧ ∀ c, connAt s' n = some c → c.error = true)
    ∧ (∀ n, portUp s = true → s.port.roceprio = n →
        Leaves (.priorityFlowControlFrame n true) s (fun s' => s'.port.paused = true ∧ s'.mem = s.mem)
        ∧ Leaves (.priorityFlowControlFrame n false) s fun s' => s'.port.paused = false ∧ s'.port.queued = []
            ∧ s'.port.replies = s.port.replies ++ s.port.queued ∧ s'.mem = s.mem)
    ∧ (∀ n c, s.port.paused = true → liveConn s n = some c → Leaves (.ecnPacket n) s fun s' =>
        s'.port.queued = s.port.queued ++ [.cnp n] ∧ s'.port.replies = s.port.replies)
    ∧ ∀ n c, s.port.paused = false → liveConn s n = some c →
      let sends := fun (s' : State) (r : PortReply) => s'.port.replies = s.port.replies ++ [r]
      ((∀ k, c.lastCut = some k → cyclesOf50us s ≤ now s - k) → Leaves (.cnpReceive n) s fun s' =>
        connAt s' n = some { c with rate := c.rate * 3 / 4, lastCut := some (now s), lastCnp := some (now s) })
      ∧ (∀ k, c.lastCut = some k → now s - k < cyclesOf50us s → Leaves (.cnpReceive n) s fun s' =>
        connAt s' n = some { c with lastCnp := some (now s) })
      ∧ Leaves (.ecnPacket n) s (fun s' => sends s' (.cnp n) ∧ s'.mem = s.mem)
      ∧ (∀ k, c.lastCnp = some k → c.rate < 1048576 → 2 * cyclesOf50us s ≤ now s - k → Leaves (.rateRestore n) s fun s' =>
        connAt s' n = some { c with rate := min 1048576 (c.rate + 131072), lastCnp := some (now s) })
      ∧ ((∀ x ∈ s.port.inbound, x.1 ≠ n) →
        Leaves (.rdmaAtomic n) s (fun s' => sends s' (.invalidRequestNak n) ∧ s'.mem = s.mem)
      ∧ (∀ b, Leaves (.rdmaSend n b) s fun s' => s'.port.replies = s.port.replies ++ [.toMilliner n b, .ack n] ∧ s'.mem = s.mem)
      ∧ (∀ key va b, regionFor s key va b.length = none → Leaves (.rdmaWrite n key va b) s fun s' =>
          sends s' (.remoteAccessNak n) ∧ s'.mem = s.mem)
      ∧ (∀ key va b r pa s1, regionFor s key va 1 = some r → r.kick = none → walkTo s r.ctx va .write .plain = .ok pa →
          isMoving s pa = false →
          portTrips s r.ctx true [pa] = some s1 → Leaves (.rdmaWrite n key va [b]) s fun s' => sends s' (.ack n) ∧ readByte s'.mem pa = b
            ∧ ∀ a, a ≠ pa → readByte s'.mem a = readByte s.mem a)
      ∧ (∀ key va b r pa, regionFor s key va 1 = some r → r.kick = none → walkTo s r.ctx va .write .plain = .ok pa →
          isMoving s pa = true ∨ portTrips s r.ctx true [pa] = none → Leaves (.rdmaWrite n key va [b]) s fun s' =>
            s'.port.inbound = s.port.inbound ++ [(n, .write key va [b])] ∧ s'.port.replies = s.port.replies ∧ s'.mem = s.mem)
      ∧ ∀ key va m r ps s1, regionFor s key va m = some r → r.kick = none → bytePlaces s r.ctx .read va m = .ok ps →
          ps.any (isMoving s) = false → portTrips s r.ctx false ps = some s1 →
          Leaves (.rdmaRead n key va m) s fun s' =>
            sends s' (.data n (ps.map fun p => readByte s.mem p)) ∧ s'.mem = s.mem)

/-! ### Encodings, memory, reset and the invariant -/

/-- 06 Tables 6-1 to 6-13: words written out from the encodings decode to their instructions, and words whose reserved
fields are set, or of an opcode that is not assigned, to none. -/
def Obligations.DecodeWords : Prop :=
  decodeWord 0x8040040B = .ok (.iadd 1 1 0 4 5 1) ∧ decodeWord 0xE1005304 = .ok (.imuli 1 0 0 83 4)
  ∧ decodeWord 0x6E018013 = .ok (.ldl32 0 0 3 0x13) ∧ decodeWord 0x37038812 = .ok (.fmulF32 0 0 7 8 9 0)
  ∧ decodeWord 0x70028401 = .ok (.fcvt 0 0 5 4 0 1) ∧ decodeWord 0x4A8583A2 = .ok (.lxAbove 0 2 11 3 81 0)
  ∧ decodeWord 0x75298280 = .ok (.stB32 0 0 83 2 0) ∧ decodeWord 0x7202828A = .ok (.atom 0 0 5 2 0 0 10)
  ∧ decodeWord 0x783FFFFF = .ok (.br 0 (-1)) ∧ decodeWord 0x7A01460D = .ok (.tretSkip 0 12 13)
  ∧ decodeWord 0x7B400828 = .ok (.cpT 0 1 2 20) ∧ decodeWord 0x7B044410 = .ok (.mtaskSb 0 0 8 1)
  ∧ decodeWord 0x4C23448A = .ok (.sisect 0 0 70 68 69) ∧ decodeWord 0x7D01B368 = .ok (.modPub 0 0 102 104)
  ∧ decodeWord 0x7E000000 = .error .instruction ∧ decodeWord 0x7F000001 = .error .literal
  ∧ decodeWord 0x73000100 = .error .instruction ∧ decodeWord 0x00008001 = .error .instruction

/-- 06: every bit of an encoding is read back: a well-formed word decodes to the instruction it encodes. -/
def Obligations.DecodeEncode : Prop :=
  ∀ i : Instr, i.WellFormed → decodeWord (encode i) = .ok i

/-- 00 R2: memory is bytes; a number written little-endian is read back, other bytes are kept, and so is the canonical
form, in memory and in the accumulators' store. -/
def Obligations.MemoryLaws : Prop :=
  (∀ (m : List Host.Cell) (a n v : Nat), Memory.wf m = true → readNat (writeNat m a n v) a n = v % 2 ^ (8 * n)
      ∧ Memory.wf (writeNat m a n v) = true ∧ ∀ b, (b < a ∨ a + n ≤ b) → readByte (writeNat m a n v) b = readByte m b)
  ∧ (∀ (m : List Host.Cell) (lo hi b : Nat), Memory.wf m = true → Memory.wf (cellClear m lo hi) = true
      ∧ readByte (cellClear m lo hi) b = if lo ≤ b ∧ b < hi then 0 else readByte m b)
  ∧ (∀ (s : State) (k b : Nat) (v : Word), cellsFrom 0 s.tiles = true → cellsFrom 0 (tileSet s k v).tiles = true
      ∧ tileGet (tileSet s k v) b = if b = k then v else tileGet s b)
  ∧ ∀ m m' : List Host.Cell, Memory.wf m = true → Memory.wf m' = true → (∀ a, readByte m a = readByte m' a) → m = m'

/-- What reset leaves (00 Table 0-4 and the rules it names): the modes, PLIMIT, the time base, no context, launch,
thread or queue, every counter zero, memory as nothing has written it, and the canonical form of its tables. -/
def Obligations.ResetState : Prop :=
  Canonical State.reset ∧ Running State.reset ∧ State.reset.issue = none
  ∧ State.reset.mode = { clk := 2, poolsh := 1, causal := true, drain := 1 } ∧ State.reset.plimit = 2000
  ∧ State.reset.timeBase = 0 ∧ State.reset.contexts = [] ∧ State.reset.launches = [] ∧ State.reset.threads = []
  ∧ State.reset.queues = [] ∧ State.reset.faultQueues = [] ∧ (∀ a, readByte State.reset.mem a = unwritten)
  ∧ (∀ c k, (coreOf State.reset c).inService = true ∧ readCounter (coreOf State.reset c) k = 0 ∧ (coreOf State.reset c).cycles = 0)
  ∧ (∀ d i j, matrixAt (clockOf State.reset d).matrix i j = 0 ∧ (clockOf State.reset d).clkgen = 1)

/-- From every state, whatever step is taken, memory and the accumulators' store keep their canonical form. -/
def Obligations.CanonicalStep : Prop :=
  ∀ s s' : State, Canonical s → step s = .next s' → Canonical s'
end

