-- ==== Sys2Proof/Laws/Memory.lean ====
section
/-! SUPPORT. Sparse tables and memory: read after write, and the canonical form that every operation keeps. -/

namespace Sys2Proof.Machine

open Sys2Proof (Byte Word)

set_option Elab.async false

variable {n : Nat}

theorem cellsFrom_mono {lo lo' : Nat} (h : lo' ≤ lo) {m : List (Nat × BitVec n)} (hm : cellsFrom lo m = true) :
    cellsFrom lo' m = true := by
  cases m with
  | nil => rfl
  | cons c m =>
    simp only [cellsFrom, Bool.and_eq_true, decide_eq_true_eq] at hm ⊢
    exact ⟨⟨by omega, hm.1.2⟩, hm.2⟩

/-- Below the first key of a table in canonical form everything is zero. -/
theorem cellGet_below {lo a : Nat} (h : a < lo) {m : List (Nat × BitVec n)} (hm : cellsFrom lo m = true) : cellGet m a = 0 := by
  cases m with
  | nil => rfl
  | cons c m =>
    simp only [cellsFrom, Bool.and_eq_true, decide_eq_true_eq] at hm
    simp [cellGet, show a < c.1 by omega]

theorem cellsFrom_cons {lo a : Nat} (x : BitVec n) (h : lo ≤ a) {m : List (Nat × BitVec n)} (hm : cellsFrom (a + 1) m = true) :
    cellsFrom lo (cellCons a x m) = true := by
  unfold cellCons
  split
  · exact cellsFrom_mono (by omega) hm
  · simp_all [cellsFrom]

theorem cellGet_cons {a b : Nat} (x : BitVec n) {m : List (Nat × BitVec n)} (hm : cellsFrom (a + 1) m = true) :
    cellGet (cellCons a x m) b = if b = a then x else cellGet m b := by
  unfold cellCons
  by_cases hx : x = 0 <;> by_cases hb : b = a
  · subst hb; simp [hx, cellGet_below (Nat.lt_succ_self b) hm]
  · simp [hx, hb]
  · subst hb; rw [if_neg hx]; simp [cellGet]
  · simp only [if_neg hx, if_neg hb, cellGet]
    split
    · exact (cellGet_below (by omega) hm).symm
    · rfl

/-- An entry replaced keeps the canonical form. -/
theorem cellSet_wf {m : List (Nat × BitVec n)} : ∀ {lo a : Nat} (x : BitVec n), lo ≤ a → cellsFrom lo m = true →
    cellsFrom lo (cellSet m a x) = true := by
  induction m with
  | nil => intro lo a x h _; exact cellsFrom_cons x h rfl
  | cons c m ih =>
    intro lo a x h hm
    simp only [cellsFrom, Bool.and_eq_true, decide_eq_true_eq] at hm
    obtain ⟨⟨h1, h2⟩, h3⟩ := hm
    unfold cellSet
    split
    · next hl => exact cellsFrom_cons x h (by simp only [cellsFrom, h3, Bool.and_true, Bool.and_eq_true, decide_eq_true_eq]; exact ⟨hl, h2⟩)
    · next hl =>
      split
      · next he => exact cellsFrom_cons x h (he ▸ h3)
      · next he =>
        simp only [cellsFrom, Bool.and_eq_true, decide_eq_true_eq]
        exact ⟨⟨h1, h2⟩, ih x (by omega) h3⟩

/-- Read after write of one entry. -/
theorem cellGet_set {m : List (Nat × BitVec n)} : ∀ {lo : Nat} (a b : Nat) (x : BitVec n), cellsFrom lo m = true →
    cellGet (cellSet m a x) b = if b = a then x else cellGet m b := by
  induction m with
  | nil => intro lo a b x _; exact cellGet_cons x rfl
  | cons c m ih =>
    intro lo a b x hm
    have hm' := hm
    simp only [cellsFrom, Bool.and_eq_true, decide_eq_true_eq] at hm
    obtain ⟨⟨h1, h2⟩, h3⟩ := hm
    unfold cellSet
    split
    · next hl => exact cellGet_cons x (by simp only [cellsFrom, h3, Bool.and_true, Bool.and_eq_true, decide_eq_true_eq]; exact ⟨hl, h2⟩)
    · next hl =>
      split
      · next he =>
        rw [cellGet_cons x (he ▸ h3)]
        split
        · rfl
        · simp only [cellGet]
          split
          · exact cellGet_below (by omega) h3
          · rw [if_neg (by omega)]
      · next he =>
        simp only [cellGet, ih a b x h3]
        split
        · rw [if_neg (by omega)]
        · split
          · rw [if_neg (by omega)]
          · rfl

theorem cellClear_wf {m : List (Nat × BitVec n)} (p q : Nat) : ∀ {lo : Nat}, cellsFrom lo m = true →
    cellsFrom lo (cellClear m p q) = true := by
  induction m with
  | nil => intro _ _; rfl
  | cons c m ih =>
    intro lo hm
    simp only [cellsFrom, Bool.and_eq_true, decide_eq_true_eq] at hm
    have h3 := ih hm.2
    unfold cellClear at h3 ⊢
    rw [List.filter_cons]
    split
    · simp only [cellsFrom, Bool.and_eq_true, decide_eq_true_eq]; exact ⟨hm.1, h3⟩
    · exact cellsFrom_mono (by omega) h3

/-- A range cleared reads as zero, the rest as before. -/
theorem cellGet_clear {m : List (Nat × BitVec n)} (p q b : Nat) : ∀ {lo : Nat}, cellsFrom lo m = true →
    cellGet (cellClear m p q) b = if p ≤ b ∧ b < q then 0 else cellGet m b := by
  induction m with
  | nil => intro _ _; simp [cellClear, cellGet]
  | cons c m ih =>
    intro lo hm
    simp only [cellsFrom, Bool.and_eq_true, decide_eq_true_eq] at hm
    have h3 := ih hm.2
    have h4 := cellClear_wf p q hm.2
    unfold cellClear at h3 h4 ⊢
    rw [List.filter_cons]
    split
    · next hc =>
      simp only [Bool.not_eq_true', Bool.and_eq_false_iff, decide_eq_false_iff_not] at hc
      simp only [cellGet, h3]
      repeat' split
      all_goals first | rfl | omega
    · next hc =>
      simp only [Bool.not_eq_true', Bool.not_eq_false, Bool.and_eq_true, decide_eq_true_eq] at hc
      rw [h3]
      split
      · rfl
      · simp only [cellGet]
        split
        · exact cellGet_below (by omega) hm.2
        · rw [if_neg (by omega)]

/-- Tables in canonical form that read alike are one table. -/
theorem cells_ext : ∀ {m m' : List (Nat × BitVec n)} {lo lo' : Nat}, cellsFrom lo m = true → cellsFrom lo' m' = true →
    (∀ a, cellGet m a = cellGet m' a) → m = m' := by
  intro m
  induction m with
  | nil =>
    intro m' lo lo' _ hm' h
    cases m' with
    | nil => rfl
    | cons c m' =>
      simp only [cellsFrom, Bool.and_eq_true, decide_eq_true_eq] at hm'
      have := h c.1
      simp only [cellGet, lt_irrefl, if_false, if_true] at this
      exact absurd this.symm hm'.1.2
  | cons c m ih =>
    intro m' lo lo' hm hm' h
    simp only [cellsFrom, Bool.and_eq_true, decide_eq_true_eq] at hm
    cases m' with
    | nil =>
      have := h c.1
      simp only [cellGet, lt_irrefl, if_false, if_true] at this
      exact absurd this hm.1.2
    | cons d m' =>
      simp only [cellsFrom, Bool.and_eq_true, decide_eq_true_eq] at hm'
      have hk : c.1 = d.1 := by
        rcases Nat.lt_trichotomy c.1 d.1 with hlt | he | hlt
        · have := h c.1
          simp only [cellGet, lt_irrefl, if_false, if_true, if_pos hlt] at this
          exact absurd this hm.1.2
        · exact he
        · have := h d.1
          simp only [cellGet, lt_irrefl, if_false, if_true, if_pos hlt] at this
          exact absurd this.symm hm'.1.2
      have hv : c.2 = d.2 := by
        have := h c.1
        simpa [cellGet, hk] using this
      have ht : m = m' := by
        refine ih hm.2 hm'.2 fun a => ?_
        have := h a
        simp only [cellGet, ← hk] at this
        rcases Nat.lt_trichotomy a c.1 with hlt | he | hlt
        · rw [cellGet_below (by omega) hm.2, cellGet_below (by omega) hm'.2]
        · rw [cellGet_below (by omega) hm.2, cellGet_below (by omega) hm'.2]
        · rwa [if_neg (by omega), if_neg (by omega), if_neg (by omega), if_neg (by omega)] at this
      rw [ht, show c = d from Prod.ext hk hv]

/-! ### Bytes -/

theorem writeBytes_wf (bs : List Byte) : ∀ {m : List Host.Cell} (a : Nat), Memory.wf m = true → Memory.wf (writeBytes m a bs) = true := by
  induction bs with
  | nil => intro m a h; exact h
  | cons b bs ih => intro m a h; exact ih (a + 1) (cellSet_wf b (Nat.zero_le a) h)

theorem readByte_write (bs : List Byte) : ∀ {m : List Host.Cell} (a b : Nat), Memory.wf m = true →
    readByte (writeBytes m a bs) b = if a ≤ b ∧ b < a + bs.length then bs.getD (b - a) 0 else readByte m b := by
  induction bs with
  | nil => intro m a b _; rw [if_neg (by simp)]; rfl
  | cons x bs ih =>
    intro m a b h
    simp only [writeBytes, ih (a + 1) b (cellSet_wf x (Nat.zero_le a) h), List.length_cons]
    rcases Nat.lt_trichotomy b a with hlt | he | hlt
    · rw [if_neg (by omega), if_neg (by omega)]
      exact (cellGet_set a b x h).trans (if_neg (by omega))
    · subst he
      rw [if_neg (by omega), if_pos (by omega)]
      simpa [readByte] using cellGet_set b b x h
    · by_cases hb : b < a + 1 + bs.length
      · rw [if_pos (by omega), if_pos (by omega), show b - a = (b - (a + 1)) + 1 by omega]
        rfl
      · rw [if_neg (by omega), if_neg (by omega)]
        exact (cellGet_set a b x h).trans (if_neg (by omega))

theorem bytesOfNat_length (n : Nat) : ∀ v : Nat, (bytesOfNat v n).length = n := by
  induction n with
  | zero => intro v; rfl
  | succ n ih => intro v; simp [bytesOfNat, ih]

theorem natOfBytes_bytesOfNat (n : Nat) : ∀ v : Nat, natOfBytes (bytesOfNat v n) = v % 256 ^ n := by
  induction n with
  | zero => intro v; simp [bytesOfNat, natOfBytes, Nat.mod_one]
  | succ n ih =>
    intro v
    show (BitVec.ofNat 8 v).toNat + 256 * natOfBytes (bytesOfNat (v / 256) n) = _
    rw [ih, Nat.pow_succ', Nat.mod_mul, BitVec.toNat_ofNat]

theorem readBytes_eq (bs : List Byte) : ∀ (m : List Host.Cell) (a : Nat), (∀ i, i < bs.length → readByte m (a + i) = bs.getD i 0) →
    readBytes m a bs.length = bs := by
  induction bs with
  | nil => intro m a _; rfl
  | cons b bs ih =>
    intro m a h
    have h0 := h 0 (by simp)
    simp only [Nat.add_zero, List.getD_cons_zero] at h0
    simp only [List.length_cons, readBytes, h0]
    refine congrArg _ (ih m (a + 1) fun i hi => ?_)
    have := h (i + 1) (by simpa using hi)
    rw [List.getD_cons_succ] at this
    rw [← this, show a + 1 + i = a + (i + 1) by omega]

/-- Bytes written are read back. -/
theorem readBytes_write {m : List Host.Cell} (a : Nat) (bs : List Byte) (h : Memory.wf m = true) :
    readBytes (writeBytes m a bs) a bs.length = bs :=
  readBytes_eq bs _ a fun i hi => by
    rw [readByte_write bs a (a + i) h, if_pos (by omega), show a + i - a = i by omega]

/-- A number written is read back, modulo the bytes it has. -/
theorem readNat_writeNat {m : List Host.Cell} (a k v : Nat) (h : Memory.wf m = true) :
    readNat (writeNat m a k v) a k = v % 256 ^ k := by
  have := readBytes_write a (bytesOfNat v k) h
  rw [bytesOfNat_length] at this
  unfold readNat writeNat
  rw [this, natOfBytes_bytesOfNat]

theorem writeNat_wf {m : List Host.Cell} (a k v : Nat) (h : Memory.wf m = true) : Memory.wf (writeNat m a k v) = true :=
  writeBytes_wf _ a h

theorem readByte_writeNat {m : List Host.Cell} (a k v b : Nat) (h : Memory.wf m = true) (hb : b < a ∨ a + k ≤ b) :
    readByte (writeNat m a k v) b = readByte m b := by
  unfold writeNat
  rw [readByte_write _ a b h, bytesOfNat_length, if_neg (by omega)]

/-- Reset memory is in canonical form. -/
theorem reset_wf : Memory.wf State.reset.mem = true := rfl

end Sys2Proof.Machine
end

