-- ==== Sys2Proof/Laws/PerInstr.lean ====
section
/-! SUPPORT. The per-instruction family "Encoding": the encoder's number of every instruction fits one 32-bit word. -/

namespace Sys2Proof.Laws

open Sys2Proof

set_option Elab.async false

/-- The encoder's number is a 32-bit word. -/
def Encoding.Statement (i : Instr) : Prop := encodeNat i < 2 ^ 32

theorem Encoding.iadd (c : BitVec 1) (g : BitVec 2) (d a b : BitVec 7) (w : BitVec 1) : Encoding.Statement (.iadd c g d a b w) := by
  simp only [Encoding.Statement, encodeNat]
  have h_c := c.isLt
  have h_g := g.isLt
  have h_d := d.isLt
  have h_a := a.isLt
  have h_b := b.isLt
  have h_w := w.isLt
  omega

theorem Encoding.isub (c : BitVec 1) (g : BitVec 2) (d a b : BitVec 7) (w : BitVec 1) : Encoding.Statement (.isub c g d a b w) := by
  simp only [Encoding.Statement, encodeNat]
  have h_c := c.isLt
  have h_g := g.isLt
  have h_d := d.isLt
  have h_a := a.isLt
  have h_b := b.isLt
  have h_w := w.isLt
  omega

theorem Encoding.imul (c : BitVec 1) (g : BitVec 2) (d a b : BitVec 7) (w : BitVec 1) : Encoding.Statement (.imul c g d a b w) := by
  simp only [Encoding.Statement, encodeNat]
  have h_c := c.isLt
  have h_g := g.isLt
  have h_d := d.isLt
  have h_a := a.isLt
  have h_b := b.isLt
  have h_w := w.isLt
  omega

theorem Encoding.imulhS32 (c : BitVec 1) (g : BitVec 2) (d a b : BitVec 7) (w : BitVec 1) : Encoding.Statement (.imulhS32 c g d a b w) := by
  simp only [Encoding.Statement, encodeNat]
  have h_c := c.isLt
  have h_g := g.isLt
  have h_d := d.isLt
  have h_a := a.isLt
  have h_b := b.isLt
  have h_w := w.isLt
  omega

theorem Encoding.imulhN32 (c : BitVec 1) (g : BitVec 2) (d a b : BitVec 7) (w : BitVec 1) : Encoding.Statement (.imulhN32 c g d a b w) := by
  simp only [Encoding.Statement, encodeNat]
  have h_c := c.isLt
  have h_g := g.isLt
  have h_d := d.isLt
  have h_a := a.isLt
  have h_b := b.isLt
  have h_w := w.isLt
  omega

theorem Encoding.imad (c : BitVec 1) (g : BitVec 2) (d a b : BitVec 7) (w : BitVec 1) : Encoding.Statement (.imad c g d a b w) := by
  simp only [Encoding.Statement, encodeNat]
  have h_c := c.isLt
  have h_g := g.isLt
  have h_d := d.isLt
  have h_a := a.isLt
  have h_b := b.isLt
  have h_w := w.isLt
  omega

theorem Encoding.iadd64 (c : BitVec 1) (g : BitVec 2) (d a b : BitVec 7) (w : BitVec 1) : Encoding.Statement (.iadd64 c g d a b w) := by
  simp only [Encoding.Statement, encodeNat]
  have h_c := c.isLt
  have h_g := g.isLt
  have h_d := d.isLt
  have h_a := a.isLt
  have h_b := b.isLt
  have h_w := w.isLt
  omega

theorem Encoding.isub64 (c : BitVec 1) (g : BitVec 2) (d a b : BitVec 7) (w : BitVec 1) : Encoding.Statement (.isub64 c g d a b w) := by
  simp only [Encoding.Statement, encodeNat]
  have h_c := c.isLt
  have h_g := g.isLt
  have h_d := d.isLt
  have h_a := a.isLt
  have h_b := b.isLt
  have h_w := w.isLt
  omega

theorem Encoding.and (c : BitVec 1) (g : BitVec 2) (d a b : BitVec 7) (w : BitVec 1) : Encoding.Statement (.and c g d a b w) := by
  simp only [Encoding.Statement, encodeNat]
  have h_c := c.isLt
  have h_g := g.isLt
  have h_d := d.isLt
  have h_a := a.isLt
  have h_b := b.isLt
  have h_w := w.isLt
  omega

theorem Encoding.or (c : BitVec 1) (g : BitVec 2) (d a b : BitVec 7) (w : BitVec 1) : Encoding.Statement (.or c g d a b w) := by
  simp only [Encoding.Statement, encodeNat]
  have h_c := c.isLt
  have h_g := g.isLt
  have h_d := d.isLt
  have h_a := a.isLt
  have h_b := b.isLt
  have h_w := w.isLt
  omega

theorem Encoding.xor (c : BitVec 1) (g : BitVec 2) (d a b : BitVec 7) (w : BitVec 1) : Encoding.Statement (.xor c g d a b w) := by
  simp only [Encoding.Statement, encodeNat]
  have h_c := c.isLt
  have h_g := g.isLt
  have h_d := d.isLt
  have h_a := a.isLt
  have h_b := b.isLt
  have h_w := w.isLt
  omega

theorem Encoding.andn (c : BitVec 1) (g : BitVec 2) (d a b : BitVec 7) (w : BitVec 1) : Encoding.Statement (.andn c g d a b w) := by
  simp only [Encoding.Statement, encodeNat]
  have h_c := c.isLt
  have h_g := g.isLt
  have h_d := d.isLt
  have h_a := a.isLt
  have h_b := b.isLt
  have h_w := w.isLt
  omega

theorem Encoding.shl (c : BitVec 1) (g : BitVec 2) (d a b : BitVec 7) (w : BitVec 1) : Encoding.Statement (.shl c g d a b w) := by
  simp only [Encoding.Statement, encodeNat]
  have h_c := c.isLt
  have h_g := g.isLt
  have h_d := d.isLt
  have h_a := a.isLt
  have h_b := b.isLt
  have h_w := w.isLt
  omega

theorem Encoding.shr (c : BitVec 1) (g : BitVec 2) (d a b : BitVec 7) (w : BitVec 1) : Encoding.Statement (.shr c g d a b w) := by
  simp only [Encoding.Statement, encodeNat]
  have h_c := c.isLt
  have h_g := g.isLt
  have h_d := d.isLt
  have h_a := a.isLt
  have h_b := b.isLt
  have h_w := w.isLt
  omega

theorem Encoding.sar (c : BitVec 1) (g : BitVec 2) (d a b : BitVec 7) (w : BitVec 1) : Encoding.Statement (.sar c g d a b w) := by
  simp only [Encoding.Statement, encodeNat]
  have h_c := c.isLt
  have h_g := g.isLt
  have h_d := d.isLt
  have h_a := a.isLt
  have h_b := b.isLt
  have h_w := w.isLt
  omega

theorem Encoding.rot (c : BitVec 1) (g : BitVec 2) (d a b : BitVec 7) (w : BitVec 1) : Encoding.Statement (.rot c g d a b w) := by
  simp only [Encoding.Statement, encodeNat]
  have h_c := c.isLt
  have h_g := g.isLt
  have h_d := d.isLt
  have h_a := a.isLt
  have h_b := b.isLt
  have h_w := w.isLt
  omega

theorem Encoding.iminS32 (c : BitVec 1) (g : BitVec 2) (d a b : BitVec 7) (w : BitVec 1) : Encoding.Statement (.iminS32 c g d a b w) := by
  simp only [Encoding.Statement, encodeNat]
  have h_c := c.isLt
  have h_g := g.isLt
  have h_d := d.isLt
  have h_a := a.isLt
  have h_b := b.isLt
  have h_w := w.isLt
  omega

theorem Encoding.iminN32 (c : BitVec 1) (g : BitVec 2) (d a b : BitVec 7) (w : BitVec 1) : Encoding.Statement (.iminN32 c g d a b w) := by
  simp only [Encoding.Statement, encodeNat]
  have h_c := c.isLt
  have h_g := g.isLt
  have h_d := d.isLt
  have h_a := a.isLt
  have h_b := b.isLt
  have h_w := w.isLt
  omega

theorem Encoding.imaxS32 (c : BitVec 1) (g : BitVec 2) (d a b : BitVec 7) (w : BitVec 1) : Encoding.Statement (.imaxS32 c g d a b w) := by
  simp only [Encoding.Statement, encodeNat]
  have h_c := c.isLt
  have h_g := g.isLt
  have h_d := d.isLt
  have h_a := a.isLt
  have h_b := b.isLt
  have h_w := w.isLt
  omega

theorem Encoding.imaxN32 (c : BitVec 1) (g : BitVec 2) (d a b : BitVec 7) (w : BitVec 1) : Encoding.Statement (.imaxN32 c g d a b w) := by
  simp only [Encoding.Statement, encodeNat]
  have h_c := c.isLt
  have h_g := g.isLt
  have h_d := d.isLt
  have h_a := a.isLt
  have h_b := b.isLt
  have h_w := w.isLt
  omega

theorem Encoding.iabs (c : BitVec 1) (g : BitVec 2) (d a : BitVec 7) (w : BitVec 1) : Encoding.Statement (.iabs c g d a w) := by
  simp only [Encoding.Statement, encodeNat]
  have h_c := c.isLt
  have h_g := g.isLt
  have h_d := d.isLt
  have h_a := a.isLt
  have h_w := w.isLt
  omega

theorem Encoding.iaddsS32 (c : BitVec 1) (g : BitVec 2) (d a b : BitVec 7) (w : BitVec 1) : Encoding.Statement (.iaddsS32 c g d a b w) := by
  simp only [Encoding.Statement, encodeNat]
  have h_c := c.isLt
  have h_g := g.isLt
  have h_d := d.isLt
  have h_a := a.isLt
  have h_b := b.isLt
  have h_w := w.isLt
  omega

theorem Encoding.iaddsN32 (c : BitVec 1) (g : BitVec 2) (d a b : BitVec 7) (w : BitVec 1) : Encoding.Statement (.iaddsN32 c g d a b w) := by
  simp only [Encoding.Statement, encodeNat]
  have h_c := c.isLt
  have h_g := g.isLt
  have h_d := d.isLt
  have h_a := a.isLt
  have h_b := b.isLt
  have h_w := w.isLt
  omega

theorem Encoding.isubsS32 (c : BitVec 1) (g : BitVec 2) (d a b : BitVec 7) (w : BitVec 1) : Encoding.Statement (.isubsS32 c g d a b w) := by
  simp only [Encoding.Statement, encodeNat]
  have h_c := c.isLt
  have h_g := g.isLt
  have h_d := d.isLt
  have h_a := a.isLt
  have h_b := b.isLt
  have h_w := w.isLt
  omega

theorem Encoding.isubsN32 (c : BitVec 1) (g : BitVec 2) (d a b : BitVec 7) (w : BitVec 1) : Encoding.Statement (.isubsN32 c g d a b w) := by
  simp only [Encoding.Statement, encodeNat]
  have h_c := c.isLt
  have h_g := g.isLt
  have h_d := d.isLt
  have h_a := a.isLt
  have h_b := b.isLt
  have h_w := w.isLt
  omega

theorem Encoding.idivS32 (c : BitVec 1) (g : BitVec 2) (d a b : BitVec 7) (w : BitVec 1) : Encoding.Statement (.idivS32 c g d a b w) := by
  simp only [Encoding.Statement, encodeNat]
  have h_c := c.isLt
  have h_g := g.isLt
  have h_d := d.isLt
  have h_a := a.isLt
  have h_b := b.isLt
  have h_w := w.isLt
  omega

theorem Encoding.idivN32 (c : BitVec 1) (g : BitVec 2) (d a b : BitVec 7) (w : BitVec 1) : Encoding.Statement (.idivN32 c g d a b w) := by
  simp only [Encoding.Statement, encodeNat]
  have h_c := c.isLt
  have h_g := g.isLt
  have h_d := d.isLt
  have h_a := a.isLt
  have h_b := b.isLt
  have h_w := w.isLt
  omega

theorem Encoding.iremS32 (c : BitVec 1) (g : BitVec 2) (d a b : BitVec 7) (w : BitVec 1) : Encoding.Statement (.iremS32 c g d a b w) := by
  simp only [Encoding.Statement, encodeNat]
  have h_c := c.isLt
  have h_g := g.isLt
  have h_d := d.isLt
  have h_a := a.isLt
  have h_b := b.isLt
  have h_w := w.isLt
  omega

theorem Encoding.iremN32 (c : BitVec 1) (g : BitVec 2) (d a b : BitVec 7) (w : BitVec 1) : Encoding.Statement (.iremN32 c g d a b w) := by
  simp only [Encoding.Statement, encodeNat]
  have h_c := c.isLt
  have h_g := g.isLt
  have h_d := d.isLt
  have h_a := a.isLt
  have h_b := b.isLt
  have h_w := w.isLt
  omega

theorem Encoding.popc (c : BitVec 1) (g : BitVec 2) (d a : BitVec 7) (w : BitVec 1) : Encoding.Statement (.popc c g d a w) := by
  simp only [Encoding.Statement, encodeNat]
  have h_c := c.isLt
  have h_g := g.isLt
  have h_d := d.isLt
  have h_a := a.isLt
  have h_w := w.isLt
  omega

theorem Encoding.clz (c : BitVec 1) (g : BitVec 2) (d a : BitVec 7) (w : BitVec 1) : Encoding.Statement (.clz c g d a w) := by
  simp only [Encoding.Statement, encodeNat]
  have h_c := c.isLt
  have h_g := g.isLt
  have h_d := d.isLt
  have h_a := a.isLt
  have h_w := w.isLt
  omega

theorem Encoding.ctz (c : BitVec 1) (g : BitVec 2) (d a : BitVec 7) (w : BitVec 1) : Encoding.Statement (.ctz c g d a w) := by
  simp only [Encoding.Statement, encodeNat]
  have h_c := c.isLt
  have h_g := g.isLt
  have h_d := d.isLt
  have h_a := a.isLt
  have h_w := w.isLt
  omega

theorem Encoding.brev (c : BitVec 1) (g : BitVec 2) (d a : BitVec 7) (w : BitVec 1) : Encoding.Statement (.brev c g d a w) := by
  simp only [Encoding.Statement, encodeNat]
  have h_c := c.isLt
  have h_g := g.isLt
  have h_d := d.isLt
  have h_a := a.isLt
  have h_w := w.isLt
  omega

theorem Encoding.bfeS32 (c : BitVec 1) (g : BitVec 2) (d a b : BitVec 7) (w : BitVec 1) : Encoding.Statement (.bfeS32 c g d a b w) := by
  simp only [Encoding.Statement, encodeNat]
  have h_c := c.isLt
  have h_g := g.isLt
  have h_d := d.isLt
  have h_a := a.isLt
  have h_b := b.isLt
  have h_w := w.isLt
  omega

theorem Encoding.bfeN32 (c : BitVec 1) (g : BitVec 2) (d a b : BitVec 7) (w : BitVec 1) : Encoding.Statement (.bfeN32 c g d a b w) := by
  simp only [Encoding.Statement, encodeNat]
  have h_c := c.isLt
  have h_g := g.isLt
  have h_d := d.isLt
  have h_a := a.isLt
  have h_b := b.isLt
  have h_w := w.isLt
  omega

theorem Encoding.bfi (c : BitVec 1) (g : BitVec 2) (d a b : BitVec 7) (w : BitVec 1) : Encoding.Statement (.bfi c g d a b w) := by
  simp only [Encoding.Statement, encodeNat]
  have h_c := c.isLt
  have h_g := g.isLt
  have h_d := d.isLt
  have h_a := a.isLt
  have h_b := b.isLt
  have h_w := w.isLt
  omega

theorem Encoding.bmsk (c : BitVec 1) (g : BitVec 2) (d a b : BitVec 7) (w : BitVec 1) : Encoding.Statement (.bmsk c g d a b w) := by
  simp only [Encoding.Statement, encodeNat]
  have h_c := c.isLt
  have h_g := g.isLt
  have h_d := d.isLt
  have h_a := a.isLt
  have h_b := b.isLt
  have h_w := w.isLt
  omega

theorem Encoding.sel (c : BitVec 1) (s : BitVec 2) (d a b : BitVec 7) (w : BitVec 1) : Encoding.Statement (.sel c s d a b w) := by
  simp only [Encoding.Statement, encodeNat]
  have h_c := c.isLt
  have h_s := s.isLt
  have h_d := d.isLt
  have h_a := a.isLt
  have h_b := b.isLt
  have h_w := w.isLt
  omega

theorem Encoding.kmov (c : BitVec 1) (g : BitVec 2) (d : BitVec 5) (a : BitVec 7) : Encoding.Statement (.kmov c g d a) := by
  simp only [Encoding.Statement, encodeNat]
  have h_c := c.isLt
  have h_g := g.isLt
  have h_d := d.isLt
  have h_a := a.isLt
  omega

theorem Encoding.cmp (c : BitVec 1) (g : BitVec 2) (k : BitVec 4) (p : BitVec 3) (a b : BitVec 7) (w : BitVec 1) : Encoding.Statement (.cmp c g k p a b w) := by
  simp only [Encoding.Statement, encodeNat]
  have h_c := c.isLt
  have h_g := g.isLt
  have h_k := k.isLt
  have h_p := p.isLt
  have h_a := a.isLt
  have h_b := b.isLt
  have h_w := w.isLt
  omega

theorem Encoding.cmpPair (c : BitVec 1) (g : BitVec 2) (k : BitVec 4) (p : BitVec 3) (a b : BitVec 7) (w : BitVec 1) : Encoding.Statement (.cmpPair c g k p a b w) := by
  simp only [Encoding.Statement, encodeNat]
  have h_c := c.isLt
  have h_g := g.isLt
  have h_k := k.isLt
  have h_p := p.isLt
  have h_a := a.isLt
  have h_b := b.isLt
  have h_w := w.isLt
  omega

theorem Encoding.fcmp (c : BitVec 1) (g : BitVec 2) (k : BitVec 4) (p : BitVec 3) (a b : BitVec 7) (w : BitVec 1) : Encoding.Statement (.fcmp c g k p a b w) := by
  simp only [Encoding.Statement, encodeNat]
  have h_c := c.isLt
  have h_g := g.isLt
  have h_k := k.isLt
  have h_p := p.isLt
  have h_a := a.isLt
  have h_b := b.isLt
  have h_w := w.isLt
  omega

theorem Encoding.fcmpPair (c : BitVec 1) (g : BitVec 2) (k : BitVec 4) (p : BitVec 3) (a b : BitVec 7) (w : BitVec 1) : Encoding.Statement (.fcmpPair c g k p a b w) := by
  simp only [Encoding.Statement, encodeNat]
  have h_c := c.isLt
  have h_g := g.isLt
  have h_k := k.isLt
  have h_p := p.isLt
  have h_a := a.isLt
  have h_b := b.isLt
  have h_w := w.isLt
  omega

theorem Encoding.pand (c : BitVec 1) (g : BitVec 2) (d a b : BitVec 3) (w : BitVec 1) : Encoding.Statement (.pand c g d a b w) := by
  simp only [Encoding.Statement, encodeNat]
  have h_c := c.isLt
  have h_g := g.isLt
  have h_d := d.isLt
  have h_a := a.isLt
  have h_b := b.isLt
  have h_w := w.isLt
  omega

theorem Encoding.por (c : BitVec 1) (g : BitVec 2) (d a b : BitVec 3) (w : BitVec 1) : Encoding.Statement (.por c g d a b w) := by
  simp only [Encoding.Statement, encodeNat]
  have h_c := c.isLt
  have h_g := g.isLt
  have h_d := d.isLt
  have h_a := a.isLt
  have h_b := b.isLt
  have h_w := w.isLt
  omega

theorem Encoding.pxor (c : BitVec 1) (g : BitVec 2) (d a b : BitVec 3) (w : BitVec 1) : Encoding.Statement (.pxor c g d a b w) := by
  simp only [Encoding.Statement, encodeNat]
  have h_c := c.isLt
  have h_g := g.isLt
  have h_d := d.isLt
  have h_a := a.isLt
  have h_b := b.isLt
  have h_w := w.isLt
  omega

theorem Encoding.pnot (c : BitVec 1) (g : BitVec 2) (d a : BitVec 3) (w : BitVec 1) : Encoding.Statement (.pnot c g d a w) := by
  simp only [Encoding.Statement, encodeNat]
  have h_c := c.isLt
  have h_g := g.isLt
  have h_d := d.isLt
  have h_a := a.isLt
  have h_w := w.isLt
  omega

theorem Encoding.pget (c : BitVec 1) (g : BitVec 2) (d : BitVec 7) (w : BitVec 1) : Encoding.Statement (.pget c g d w) := by
  simp only [Encoding.Statement, encodeNat]
  have h_c := c.isLt
  have h_g := g.isLt
  have h_d := d.isLt
  have h_w := w.isLt
  omega

theorem Encoding.pset (c : BitVec 1) (g : BitVec 2) (a b : BitVec 7) (w : BitVec 1) : Encoding.Statement (.pset c g a b w) := by
  simp only [Encoding.Statement, encodeNat]
  have h_c := c.isLt
  have h_g := g.isLt
  have h_a := a.isLt
  have h_b := b.isLt
  have h_w := w.isLt
  omega

theorem Encoding.faddF32 (c : BitVec 1) (g : BitVec 2) (d a b : BitVec 7) (w : BitVec 1) : Encoding.Statement (.faddF32 c g d a b w) := by
  simp only [Encoding.Statement, encodeNat]
  have h_c := c.isLt
  have h_g := g.isLt
  have h_d := d.isLt
  have h_a := a.isLt
  have h_b := b.isLt
  have h_w := w.isLt
  omega

theorem Encoding.faddBf16x2 (c : BitVec 1) (g : BitVec 2) (d a b : BitVec 7) (w : BitVec 1) : Encoding.Statement (.faddBf16x2 c g d a b w) := by
  simp only [Encoding.Statement, encodeNat]
  have h_c := c.isLt
  have h_g := g.isLt
  have h_d := d.isLt
  have h_a := a.isLt
  have h_b := b.isLt
  have h_w := w.isLt
  omega

theorem Encoding.faddF16x2 (c : BitVec 1) (g : BitVec 2) (d a b : BitVec 7) (w : BitVec 1) : Encoding.Statement (.faddF16x2 c g d a b w) := by
  simp only [Encoding.Statement, encodeNat]
  have h_c := c.isLt
  have h_g := g.isLt
  have h_d := d.isLt
  have h_a := a.isLt
  have h_b := b.isLt
  have h_w := w.isLt
  omega

theorem Encoding.fsubF32 (c : BitVec 1) (g : BitVec 2) (d a b : BitVec 7) (w : BitVec 1) : Encoding.Statement (.fsubF32 c g d a b w) := by
  simp only [Encoding.Statement, encodeNat]
  have h_c := c.isLt
  have h_g := g.isLt
  have h_d := d.isLt
  have h_a := a.isLt
  have h_b := b.isLt
  have h_w := w.isLt
  omega

theorem Encoding.fsubBf16x2 (c : BitVec 1) (g : BitVec 2) (d a b : BitVec 7) (w : BitVec 1) : Encoding.Statement (.fsubBf16x2 c g d a b w) := by
  simp only [Encoding.Statement, encodeNat]
  have h_c := c.isLt
  have h_g := g.isLt
  have h_d := d.isLt
  have h_a := a.isLt
  have h_b := b.isLt
  have h_w := w.isLt
  omega

theorem Encoding.fsubF16x2 (c : BitVec 1) (g : BitVec 2) (d a b : BitVec 7) (w : BitVec 1) : Encoding.Statement (.fsubF16x2 c g d a b w) := by
  simp only [Encoding.Statement, encodeNat]
  have h_c := c.isLt
  have h_g := g.isLt
  have h_d := d.isLt
  have h_a := a.isLt
  have h_b := b.isLt
  have h_w := w.isLt
  omega

theorem Encoding.fmulF32 (c : BitVec 1) (g : BitVec 2) (d a b : BitVec 7) (w : BitVec 1) : Encoding.Statement (.fmulF32 c g d a b w) := by
  simp only [Encoding.Statement, encodeNat]
  have h_c := c.isLt
  have h_g := g.isLt
  have h_d := d.isLt
  have h_a := a.isLt
  have h_b := b.isLt
  have h_w := w.isLt
  omega

theorem Encoding.fmulBf16x2 (c : BitVec 1) (g : BitVec 2) (d a b : BitVec 7) (w : BitVec 1) : Encoding.Statement (.fmulBf16x2 c g d a b w) := by
  simp only [Encoding.Statement, encodeNat]
  have h_c := c.isLt
  have h_g := g.isLt
  have h_d := d.isLt
  have h_a := a.isLt
  have h_b := b.isLt
  have h_w := w.isLt
  omega

theorem Encoding.fmulF16x2 (c : BitVec 1) (g : BitVec 2) (d a b : BitVec 7) (w : BitVec 1) : Encoding.Statement (.fmulF16x2 c g d a b w) := by
  simp only [Encoding.Statement, encodeNat]
  have h_c := c.isLt
  have h_g := g.isLt
  have h_d := d.isLt
  have h_a := a.isLt
  have h_b := b.isLt
  have h_w := w.isLt
  omega

theorem Encoding.ffmaF32 (c : BitVec 1) (g : BitVec 2) (d a b : BitVec 7) (w : BitVec 1) : Encoding.Statement (.ffmaF32 c g d a b w) := by
  simp only [Encoding.Statement, encodeNat]
  have h_c := c.isLt
  have h_g := g.isLt
  have h_d := d.isLt
  have h_a := a.isLt
  have h_b := b.isLt
  have h_w := w.isLt
  omega

theorem Encoding.ffmaBf16x2 (c : BitVec 1) (g : BitVec 2) (d a b : BitVec 7) (w : BitVec 1) : Encoding.Statement (.ffmaBf16x2 c g d a b w) := by
  simp only [Encoding.Statement, encodeNat]
  have h_c := c.isLt
  have h_g := g.isLt
  have h_d := d.isLt
  have h_a := a.isLt
  have h_b := b.isLt
  have h_w := w.isLt
  omega

theorem Encoding.ffmaF16x2 (c : BitVec 1) (g : BitVec 2) (d a b : BitVec 7) (w : BitVec 1) : Encoding.Statement (.ffmaF16x2 c g d a b w) := by
  simp only [Encoding.Statement, encodeNat]
  have h_c := c.isLt
  have h_g := g.isLt
  have h_d := d.isLt
  have h_a := a.isLt
  have h_b := b.isLt
  have h_w := w.isLt
  omega

theorem Encoding.fminF32 (c : BitVec 1) (g : BitVec 2) (d a b : BitVec 7) (w : BitVec 1) : Encoding.Statement (.fminF32 c g d a b w) := by
  simp only [Encoding.Statement, encodeNat]
  have h_c := c.isLt
  have h_g := g.isLt
  have h_d := d.isLt
  have h_a := a.isLt
  have h_b := b.isLt
  have h_w := w.isLt
  omega

theorem Encoding.fminBf16x2 (c : BitVec 1) (g : BitVec 2) (d a b : BitVec 7) (w : BitVec 1) : Encoding.Statement (.fminBf16x2 c g d a b w) := by
  simp only [Encoding.Statement, encodeNat]
  have h_c := c.isLt
  have h_g := g.isLt
  have h_d := d.isLt
  have h_a := a.isLt
  have h_b := b.isLt
  have h_w := w.isLt
  omega

theorem Encoding.fminF16x2 (c : BitVec 1) (g : BitVec 2) (d a b : BitVec 7) (w : BitVec 1) : Encoding.Statement (.fminF16x2 c g d a b w) := by
  simp only [Encoding.Statement, encodeNat]
  have h_c := c.isLt
  have h_g := g.isLt
  have h_d := d.isLt
  have h_a := a.isLt
  have h_b := b.isLt
  have h_w := w.isLt
  omega

theorem Encoding.fmaxF32 (c : BitVec 1) (g : BitVec 2) (d a b : BitVec 7) (w : BitVec 1) : Encoding.Statement (.fmaxF32 c g d a b w) := by
  simp only [Encoding.Statement, encodeNat]
  have h_c := c.isLt
  have h_g := g.isLt
  have h_d := d.isLt
  have h_a := a.isLt
  have h_b := b.isLt
  have h_w := w.isLt
  omega

theorem Encoding.fmaxBf16x2 (c : BitVec 1) (g : BitVec 2) (d a b : BitVec 7) (w : BitVec 1) : Encoding.Statement (.fmaxBf16x2 c g d a b w) := by
  simp only [Encoding.Statement, encodeNat]
  have h_c := c.isLt
  have h_g := g.isLt
  have h_d := d.isLt
  have h_a := a.isLt
  have h_b := b.isLt
  have h_w := w.isLt
  omega

theorem Encoding.fmaxF16x2 (c : BitVec 1) (g : BitVec 2) (d a b : BitVec 7) (w : BitVec 1) : Encoding.Statement (.fmaxF16x2 c g d a b w) := by
  simp only [Encoding.Statement, encodeNat]
  have h_c := c.isLt
  have h_g := g.isLt
  have h_d := d.isLt
  have h_a := a.isLt
  have h_b := b.isLt
  have h_w := w.isLt
  omega

theorem Encoding.fnegF32 (c : BitVec 1) (g : BitVec 2) (d a : BitVec 7) (w : BitVec 1) : Encoding.Statement (.fnegF32 c g d a w) := by
  simp only [Encoding.Statement, encodeNat]
  have h_c := c.isLt
  have h_g := g.isLt
  have h_d := d.isLt
  have h_a := a.isLt
  have h_w := w.isLt
  omega

theorem Encoding.fnegX2 (c : BitVec 1) (g : BitVec 2) (d a : BitVec 7) (w : BitVec 1) : Encoding.Statement (.fnegX2 c g d a w) := by
  simp only [Encoding.Statement, encodeNat]
  have h_c := c.isLt
  have h_g := g.isLt
  have h_d := d.isLt
  have h_a := a.isLt
  have h_w := w.isLt
  omega

theorem Encoding.fabsF32 (c : BitVec 1) (g : BitVec 2) (d a : BitVec 7) (w : BitVec 1) : Encoding.Statement (.fabsF32 c g d a w) := by
  simp only [Encoding.Statement, encodeNat]
  have h_c := c.isLt
  have h_g := g.isLt
  have h_d := d.isLt
  have h_a := a.isLt
  have h_w := w.isLt
  omega

theorem Encoding.fabsX2 (c : BitVec 1) (g : BitVec 2) (d a : BitVec 7) (w : BitVec 1) : Encoding.Statement (.fabsX2 c g d a w) := by
  simp only [Encoding.Statement, encodeNat]
  have h_c := c.isLt
  have h_g := g.isLt
  have h_d := d.isLt
  have h_a := a.isLt
  have h_w := w.isLt
  omega

theorem Encoding.qtsh (c : BitVec 1) (g : BitVec 2) (d a b : BitVec 7) (w : BitVec 1) : Encoding.Statement (.qtsh c g d a b w) := by
  simp only [Encoding.Statement, encodeNat]
  have h_c := c.isLt
  have h_g := g.isLt
  have h_d := d.isLt
  have h_a := a.isLt
  have h_b := b.isLt
  have h_w := w.isLt
  omega

theorem Encoding.lxAt (c : BitVec 1) (g : BitVec 2) (d a b : BitVec 7) (w : BitVec 1) : Encoding.Statement (.lxAt c g d a b w) := by
  simp only [Encoding.Statement, encodeNat]
  have h_c := c.isLt
  have h_g := g.isLt
  have h_d := d.isLt
  have h_a := a.isLt
  have h_b := b.isLt
  have h_w := w.isLt
  omega

theorem Encoding.lxBelow (c : BitVec 1) (g : BitVec 2) (d a b : BitVec 7) (w : BitVec 1) : Encoding.Statement (.lxBelow c g d a b w) := by
  simp only [Encoding.Statement, encodeNat]
  have h_c := c.isLt
  have h_g := g.isLt
  have h_d := d.isLt
  have h_a := a.isLt
  have h_b := b.isLt
  have h_w := w.isLt
  omega

theorem Encoding.lxAbove (c : BitVec 1) (g : BitVec 2) (d a b : BitVec 7) (w : BitVec 1) : Encoding.Statement (.lxAbove c g d a b w) := by
  simp only [Encoding.Statement, encodeNat]
  have h_c := c.isLt
  have h_g := g.isLt
  have h_d := d.isLt
  have h_a := a.isLt
  have h_b := b.isLt
  have h_w := w.isLt
  omega

theorem Encoding.lxMirror (c : BitVec 1) (g : BitVec 2) (d a b : BitVec 7) (w : BitVec 1) : Encoding.Statement (.lxMirror c g d a b w) := by
  simp only [Encoding.Statement, encodeNat]
  have h_c := c.isLt
  have h_g := g.isLt
  have h_d := d.isLt
  have h_a := a.isLt
  have h_b := b.isLt
  have h_w := w.isLt
  omega

theorem Encoding.sisect (c : BitVec 1) (g : BitVec 2) (d a b : BitVec 7) : Encoding.Statement (.sisect c g d a b) := by
  simp only [Encoding.Statement, encodeNat]
  have h_c := c.isLt
  have h_g := g.isLt
  have h_d := d.isLt
  have h_a := a.isLt
  have h_b := b.isLt
  omega

theorem Encoding.sunion (c : BitVec 1) (g : BitVec 2) (d a b : BitVec 7) : Encoding.Statement (.sunion c g d a b) := by
  simp only [Encoding.Statement, encodeNat]
  have h_c := c.isLt
  have h_g := g.isLt
  have h_d := d.isLt
  have h_a := a.isLt
  have h_b := b.isLt
  omega

theorem Encoding.sbind (c : BitVec 1) (g : BitVec 2) (d a b : BitVec 7) : Encoding.Statement (.sbind c g d a b) := by
  simp only [Encoding.Statement, encodeNat]
  have h_c := c.isLt
  have h_g := g.isLt
  have h_d := d.isLt
  have h_a := a.isLt
  have h_b := b.isLt
  omega

theorem Encoding.iaddi (c : BitVec 1) (g : BitVec 2) (d a : BitVec 7) (i : BitVec 8) : Encoding.Statement (.iaddi c g d a i) := by
  simp only [Encoding.Statement, encodeNat]
  have h_c := c.isLt
  have h_g := g.isLt
  have h_d := d.isLt
  have h_a := a.isLt
  have h_i := i.isLt
  omega

theorem Encoding.movi (c : BitVec 1) (g : BitVec 2) (d : BitVec 7) (i : BitVec 8) : Encoding.Statement (.movi c g d i) := by
  simp only [Encoding.Statement, encodeNat]
  have h_c := c.isLt
  have h_g := g.isLt
  have h_d := d.isLt
  have h_i := i.isLt
  omega

theorem Encoding.imuli (c : BitVec 1) (g : BitVec 2) (d a : BitVec 7) (i : BitVec 8) : Encoding.Statement (.imuli c g d a i) := by
  simp only [Encoding.Statement, encodeNat]
  have h_c := c.isLt
  have h_g := g.isLt
  have h_d := d.isLt
  have h_a := a.isLt
  have h_i := i.isLt
  omega

theorem Encoding.andi (c : BitVec 1) (g : BitVec 2) (d a : BitVec 7) (i : BitVec 8) : Encoding.Statement (.andi c g d a i) := by
  simp only [Encoding.Statement, encodeNat]
  have h_c := c.isLt
  have h_g := g.isLt
  have h_d := d.isLt
  have h_a := a.isLt
  have h_i := i.isLt
  omega

theorem Encoding.ori (c : BitVec 1) (g : BitVec 2) (d a : BitVec 7) (i : BitVec 8) : Encoding.Statement (.ori c g d a i) := by
  simp only [Encoding.Statement, encodeNat]
  have h_c := c.isLt
  have h_g := g.isLt
  have h_d := d.isLt
  have h_a := a.isLt
  have h_i := i.isLt
  omega

theorem Encoding.xori (c : BitVec 1) (g : BitVec 2) (d a : BitVec 7) (i : BitVec 8) : Encoding.Statement (.xori c g d a i) := by
  simp only [Encoding.Statement, encodeNat]
  have h_c := c.isLt
  have h_g := g.isLt
  have h_d := d.isLt
  have h_a := a.isLt
  have h_i := i.isLt
  omega

theorem Encoding.shfiShl (c : BitVec 1) (g : BitVec 2) (d a : BitVec 7) (n : BitVec 5) : Encoding.Statement (.shfiShl c g d a n) := by
  simp only [Encoding.Statement, encodeNat]
  have h_c := c.isLt
  have h_g := g.isLt
  have h_d := d.isLt
  have h_a := a.isLt
  have h_n := n.isLt
  omega

theorem Encoding.shfiShr (c : BitVec 1) (g : BitVec 2) (d a : BitVec 7) (n : BitVec 5) : Encoding.Statement (.shfiShr c g d a n) := by
  simp only [Encoding.Statement, encodeNat]
  have h_c := c.isLt
  have h_g := g.isLt
  have h_d := d.isLt
  have h_a := a.isLt
  have h_n := n.isLt
  omega

theorem Encoding.shfiSar (c : BitVec 1) (g : BitVec 2) (d a : BitVec 7) (n : BitVec 5) : Encoding.Statement (.shfiSar c g d a n) := by
  simp only [Encoding.Statement, encodeNat]
  have h_c := c.isLt
  have h_g := g.isLt
  have h_d := d.isLt
  have h_a := a.isLt
  have h_n := n.isLt
  omega

theorem Encoding.shfiRot (c : BitVec 1) (g : BitVec 2) (d a : BitVec 7) (n : BitVec 5) : Encoding.Statement (.shfiRot c g d a n) := by
  simp only [Encoding.Statement, encodeNat]
  have h_c := c.isLt
  have h_g := g.isLt
  have h_d := d.isLt
  have h_a := a.isLt
  have h_n := n.isLt
  omega

theorem Encoding.cmpi (c : BitVec 1) (g : BitVec 2) (k : BitVec 4) (p : BitVec 3) (a : BitVec 7) (i : BitVec 8) : Encoding.Statement (.cmpi c g k p a i) := by
  simp only [Encoding.Statement, encodeNat]
  have h_c := c.isLt
  have h_g := g.isLt
  have h_k := k.isLt
  have h_p := p.isLt
  have h_a := a.isLt
  have h_i := i.isLt
  omega

theorem Encoding.cmpiPair (c : BitVec 1) (g : BitVec 2) (k : BitVec 4) (p : BitVec 3) (a : BitVec 7) (i : BitVec 8) : Encoding.Statement (.cmpiPair c g k p a i) := by
  simp only [Encoding.Statement, encodeNat]
  have h_c := c.isLt
  have h_g := g.isLt
  have h_k := k.isLt
  have h_p := p.isLt
  have h_a := a.isLt
  have h_i := i.isLt
  omega

theorem Encoding.faddiF32 (c : BitVec 1) (g : BitVec 2) (d a : BitVec 7) (i : BitVec 8) : Encoding.Statement (.faddiF32 c g d a i) := by
  simp only [Encoding.Statement, encodeNat]
  have h_c := c.isLt
  have h_g := g.isLt
  have h_d := d.isLt
  have h_a := a.isLt
  have h_i := i.isLt
  omega

theorem Encoding.faddiBf16x2 (c : BitVec 1) (g : BitVec 2) (d a : BitVec 7) (i : BitVec 8) : Encoding.Statement (.faddiBf16x2 c g d a i) := by
  simp only [Encoding.Statement, encodeNat]
  have h_c := c.isLt
  have h_g := g.isLt
  have h_d := d.isLt
  have h_a := a.isLt
  have h_i := i.isLt
  omega

theorem Encoding.faddiF16x2 (c : BitVec 1) (g : BitVec 2) (d a : BitVec 7) (i : BitVec 8) : Encoding.Statement (.faddiF16x2 c g d a i) := by
  simp only [Encoding.Statement, encodeNat]
  have h_c := c.isLt
  have h_g := g.isLt
  have h_d := d.isLt
  have h_a := a.isLt
  have h_i := i.isLt
  omega

theorem Encoding.fmuliF32 (c : BitVec 1) (g : BitVec 2) (d a : BitVec 7) (i : BitVec 8) : Encoding.Statement (.fmuliF32 c g d a i) := by
  simp only [Encoding.Statement, encodeNat]
  have h_c := c.isLt
  have h_g := g.isLt
  have h_d := d.isLt
  have h_a := a.isLt
  have h_i := i.isLt
  omega

theorem Encoding.fmuliBf16x2 (c : BitVec 1) (g : BitVec 2) (d a : BitVec 7) (i : BitVec 8) : Encoding.Statement (.fmuliBf16x2 c g d a i) := by
  simp only [Encoding.Statement, encodeNat]
  have h_c := c.isLt
  have h_g := g.isLt
  have h_d := d.isLt
  have h_a := a.isLt
  have h_i := i.isLt
  omega

theorem Encoding.fmuliF16x2 (c : BitVec 1) (g : BitVec 2) (d a : BitVec 7) (i : BitVec 8) : Encoding.Statement (.fmuliF16x2 c g d a i) := by
  simp only [Encoding.Statement, encodeNat]
  have h_c := c.isLt
  have h_g := g.isLt
  have h_d := d.isLt
  have h_a := a.isLt
  have h_i := i.isLt
  omega

theorem Encoding.ldl32 (c : BitVec 1) (g : BitVec 2) (d : BitVec 7) (i : BitVec 8) : Encoding.Statement (.ldl32 c g d i) := by
  simp only [Encoding.Statement, encodeNat]
  have h_c := c.isLt
  have h_g := g.isLt
  have h_d := d.isLt
  have h_i := i.isLt
  omega

theorem Encoding.ldl64 (c : BitVec 1) (g : BitVec 2) (d : BitVec 7) (i : BitVec 8) : Encoding.Statement (.ldl64 c g d i) := by
  simp only [Encoding.Statement, encodeNat]
  have h_c := c.isLt
  have h_g := g.isLt
  have h_d := d.isLt
  have h_i := i.isLt
  omega

theorem Encoding.brl (g : BitVec 2) (i : BitVec 8) : Encoding.Statement (.brl g i) := by
  simp only [Encoding.Statement, encodeNat]
  have h_g := g.isLt
  have h_i := i.isLt
  omega

theorem Encoding.calll (g : BitVec 2) (i : BitVec 8) : Encoding.Statement (.calll g i) := by
  simp only [Encoding.Statement, encodeNat]
  have h_g := g.isLt
  have h_i := i.isLt
  omega

theorem Encoding.fcvt (c : BitVec 1) (g : BitVec 2) (d a : BitVec 7) (k : BitVec 5) (r : BitVec 3) : Encoding.Statement (.fcvt c g d a k r) := by
  simp only [Encoding.Statement, encodeNat]
  have h_c := c.isLt
  have h_g := g.isLt
  have h_d := d.isLt
  have h_a := a.isLt
  have h_k := k.isLt
  have h_r := r.isLt
  omega

theorem Encoding.frcp (c : BitVec 1) (g : BitVec 2) (d a : BitVec 7) (t : BitVec 2) : Encoding.Statement (.frcp c g d a t) := by
  simp only [Encoding.Statement, encodeNat]
  have h_c := c.isLt
  have h_g := g.isLt
  have h_d := d.isLt
  have h_a := a.isLt
  have h_t := t.isLt
  omega

theorem Encoding.frsq (c : BitVec 1) (g : BitVec 2) (d a : BitVec 7) (t : BitVec 2) : Encoding.Statement (.frsq c g d a t) := by
  simp only [Encoding.Statement, encodeNat]
  have h_c := c.isLt
  have h_g := g.isLt
  have h_d := d.isLt
  have h_a := a.isLt
  have h_t := t.isLt
  omega

theorem Encoding.fsqrt (c : BitVec 1) (g : BitVec 2) (d a : BitVec 7) (t : BitVec 2) : Encoding.Statement (.fsqrt c g d a t) := by
  simp only [Encoding.Statement, encodeNat]
  have h_c := c.isLt
  have h_g := g.isLt
  have h_d := d.isLt
  have h_a := a.isLt
  have h_t := t.isLt
  omega

theorem Encoding.fexp2 (c : BitVec 1) (g : BitVec 2) (d a : BitVec 7) (t : BitVec 2) : Encoding.Statement (.fexp2 c g d a t) := by
  simp only [Encoding.Statement, encodeNat]
  have h_c := c.isLt
  have h_g := g.isLt
  have h_d := d.isLt
  have h_a := a.isLt
  have h_t := t.isLt
  omega

theorem Encoding.flog2 (c : BitVec 1) (g : BitVec 2) (d a : BitVec 7) (t : BitVec 2) : Encoding.Statement (.flog2 c g d a t) := by
  simp only [Encoding.Statement, encodeNat]
  have h_c := c.isLt
  have h_g := g.isLt
  have h_d := d.isLt
  have h_a := a.isLt
  have h_t := t.isLt
  omega

theorem Encoding.fsin (c : BitVec 1) (g : BitVec 2) (d a : BitVec 7) (t : BitVec 2) : Encoding.Statement (.fsin c g d a t) := by
  simp only [Encoding.Statement, encodeNat]
  have h_c := c.isLt
  have h_g := g.isLt
  have h_d := d.isLt
  have h_a := a.isLt
  have h_t := t.isLt
  omega

theorem Encoding.fcos (c : BitVec 1) (g : BitVec 2) (d a : BitVec 7) (t : BitVec 2) : Encoding.Statement (.fcos c g d a t) := by
  simp only [Encoding.Statement, encodeNat]
  have h_c := c.isLt
  have h_g := g.isLt
  have h_d := d.isLt
  have h_a := a.isLt
  have h_t := t.isLt
  omega

theorem Encoding.ftanh (c : BitVec 1) (g : BitVec 2) (d a : BitVec 7) (t : BitVec 2) : Encoding.Statement (.ftanh c g d a t) := by
  simp only [Encoding.Statement, encodeNat]
  have h_c := c.isLt
  have h_g := g.isLt
  have h_d := d.isLt
  have h_a := a.isLt
  have h_t := t.isLt
  omega

theorem Encoding.lany (c : BitVec 1) (g : BitVec 2) (p q : BitVec 3) : Encoding.Statement (.lany c g p q) := by
  simp only [Encoding.Statement, encodeNat]
  have h_c := c.isLt
  have h_g := g.isLt
  have h_p := p.isLt
  have h_q := q.isLt
  omega

theorem Encoding.lall (c : BitVec 1) (g : BitVec 2) (p q : BitVec 3) : Encoding.Statement (.lall c g p q) := by
  simp only [Encoding.Statement, encodeNat]
  have h_c := c.isLt
  have h_g := g.isLt
  have h_p := p.isLt
  have h_q := q.isLt
  omega

theorem Encoding.lmask (c : BitVec 1) (g : BitVec 2) (d : BitVec 7) (q : BitVec 3) : Encoding.Statement (.lmask c g d q) := by
  simp only [Encoding.Statement, encodeNat]
  have h_c := c.isLt
  have h_g := g.isLt
  have h_d := d.isLt
  have h_q := q.isLt
  omega

theorem Encoding.lsum (c : BitVec 1) (g : BitVec 2) (d a : BitVec 7) : Encoding.Statement (.lsum c g d a) := by
  simp only [Encoding.Statement, encodeNat]
  have h_c := c.isLt
  have h_g := g.isLt
  have h_d := d.isLt
  have h_a := a.isLt
  omega

theorem Encoding.lminS32 (c : BitVec 1) (g : BitVec 2) (d a : BitVec 7) : Encoding.Statement (.lminS32 c g d a) := by
  simp only [Encoding.Statement, encodeNat]
  have h_c := c.isLt
  have h_g := g.isLt
  have h_d := d.isLt
  have h_a := a.isLt
  omega

theorem Encoding.lminN32 (c : BitVec 1) (g : BitVec 2) (d a : BitVec 7) : Encoding.Statement (.lminN32 c g d a) := by
  simp only [Encoding.Statement, encodeNat]
  have h_c := c.isLt
  have h_g := g.isLt
  have h_d := d.isLt
  have h_a := a.isLt
  omega

theorem Encoding.lmaxS32 (c : BitVec 1) (g : BitVec 2) (d a : BitVec 7) : Encoding.Statement (.lmaxS32 c g d a) := by
  simp only [Encoding.Statement, encodeNat]
  have h_c := c.isLt
  have h_g := g.isLt
  have h_d := d.isLt
  have h_a := a.isLt
  omega

theorem Encoding.lmaxN32 (c : BitVec 1) (g : BitVec 2) (d a : BitVec 7) : Encoding.Statement (.lmaxN32 c g d a) := by
  simp only [Encoding.Statement, encodeNat]
  have h_c := c.isLt
  have h_g := g.isLt
  have h_d := d.isLt
  have h_a := a.isLt
  omega

theorem Encoding.cdet (c : BitVec 1) (g : BitVec 2) (d a : BitVec 7) : Encoding.Statement (.cdet c g d a) := by
  simp only [Encoding.Statement, encodeNat]
  have h_c := c.isLt
  have h_g := g.isLt
  have h_d := d.isLt
  have h_a := a.isLt
  omega

theorem Encoding.lfirst (c : BitVec 1) (g : BitVec 2) (p : BitVec 3) : Encoding.Statement (.lfirst c g p) := by
  simp only [Encoding.Statement, encodeNat]
  have h_c := c.isLt
  have h_g := g.isLt
  have h_p := p.isLt
  omega

theorem Encoding.atom (c : BitVec 1) (g : BitVec 2) (d a : BitVec 7) (o : BitVec 2) (w : BitVec 1) (n : BitVec 4) : Encoding.Statement (.atom c g d a o w n) := by
  simp only [Encoding.Statement, encodeNat]
  have h_c := c.isLt
  have h_g := g.isLt
  have h_d := d.isLt
  have h_a := a.isLt
  have h_o := o.isLt
  have h_w := w.isLt
  have h_n := n.isLt
  omega

theorem Encoding.red (c : BitVec 1) (g : BitVec 2) (d a : BitVec 7) (o w : BitVec 1) (n : BitVec 4) : Encoding.Statement (.red c g d a o w n) := by
  simp only [Encoding.Statement, encodeNat]
  have h_c := c.isLt
  have h_g := g.isLt
  have h_d := d.isLt
  have h_a := a.isLt
  have h_o := o.isLt
  have h_w := w.isLt
  have h_n := n.isLt
  omega

theorem Encoding.nop (c : BitVec 1) (g : BitVec 2) : Encoding.Statement (.nop c g) := by
  simp only [Encoding.Statement, encodeNat]
  have h_c := c.isLt
  have h_g := g.isLt
  omega

theorem Encoding.seal (c : BitVec 1) (g : BitVec 2) (d : BitVec 7) : Encoding.Statement (.seal c g d) := by
  simp only [Encoding.Statement, encodeNat]
  have h_c := c.isLt
  have h_g := g.isLt
  have h_d := d.isLt
  omega

theorem Encoding.batchBytes (c : BitVec 1) (g : BitVec 2) (d a : BitVec 7) : Encoding.Statement (.batchBytes c g d a) := by
  simp only [Encoding.Statement, encodeNat]
  have h_c := c.isLt
  have h_g := g.isLt
  have h_d := d.isLt
  have h_a := a.isLt
  omega

theorem Encoding.ctr (c : BitVec 1) (g : BitVec 2) (d a : BitVec 7) : Encoding.Statement (.ctr c g d a) := by
  simp only [Encoding.Statement, encodeNat]
  have h_c := c.isLt
  have h_g := g.isLt
  have h_d := d.isLt
  have h_a := a.isLt
  omega

theorem Encoding.tick (c : BitVec 1) (g : BitVec 2) (d : BitVec 7) : Encoding.Statement (.tick c g d) := by
  simp only [Encoding.Statement, encodeNat]
  have h_c := c.isLt
  have h_g := g.isLt
  have h_d := d.isLt
  omega

theorem Encoding.mtileAlloc (c : BitVec 1) (g : BitVec 2) (d a : BitVec 7) : Encoding.Statement (.mtileAlloc c g d a) := by
  simp only [Encoding.Statement, encodeNat]
  have h_c := c.isLt
  have h_g := g.isLt
  have h_d := d.isLt
  have h_a := a.isLt
  omega

theorem Encoding.mprog (c : BitVec 1) (g : BitVec 2) (d a : BitVec 7) : Encoding.Statement (.mprog c g d a) := by
  simp only [Encoding.Statement, encodeNat]
  have h_c := c.isLt
  have h_g := g.isLt
  have h_d := d.isLt
  have h_a := a.isLt
  omega

theorem Encoding.callx (g : BitVec 2) (d a : BitVec 7) : Encoding.Statement (.callx g d a) := by
  simp only [Encoding.Statement, encodeNat]
  have h_g := g.isLt
  have h_d := d.isLt
  have h_a := a.isLt
  omega

theorem Encoding.speek (c : BitVec 1) (g : BitVec 2) (d a : BitVec 7) : Encoding.Statement (.speek c g d a) := by
  simp only [Encoding.Statement, encodeNat]
  have h_c := c.isLt
  have h_g := g.isLt
  have h_d := d.isLt
  have h_a := a.isLt
  omega

theorem Encoding.scrd (c : BitVec 1) (g : BitVec 2) (d a : BitVec 7) : Encoding.Statement (.scrd c g d a) := by
  simp only [Encoding.Statement, encodeNat]
  have h_c := c.isLt
  have h_g := g.isLt
  have h_d := d.isLt
  have h_a := a.isLt
  omega

theorem Encoding.spos (c : BitVec 1) (g : BitVec 2) (d a : BitVec 7) : Encoding.Statement (.spos c g d a) := by
  simp only [Encoding.Statement, encodeNat]
  have h_c := c.isLt
  have h_g := g.isLt
  have h_d := d.isLt
  have h_a := a.isLt
  omega

theorem Encoding.sin (c : BitVec 1) (g : BitVec 2) (d a : BitVec 7) : Encoding.Statement (.sin c g d a) := by
  simp only [Encoding.Statement, encodeNat]
  have h_c := c.isLt
  have h_g := g.isLt
  have h_d := d.isLt
  have h_a := a.isLt
  omega

theorem Encoding.sdone (c : BitVec 1) (g : BitVec 2) (p : BitVec 3) (a : BitVec 7) : Encoding.Statement (.sdone c g p a) := by
  simp only [Encoding.Statement, encodeNat]
  have h_c := c.isLt
  have h_g := g.isLt
  have h_p := p.isLt
  have h_a := a.isLt
  omega

theorem Encoding.sysrd (c : BitVec 1) (g : BitVec 2) (d a : BitVec 7) : Encoding.Statement (.sysrd c g d a) := by
  simp only [Encoding.Statement, encodeNat]
  have h_c := c.isLt
  have h_g := g.isLt
  have h_d := d.isLt
  have h_a := a.isLt
  omega

theorem Encoding.ldS8 (c : BitVec 1) (g : BitVec 2) (d a : BitVec 7) (o : BitVec 5) : Encoding.Statement (.ldS8 c g d a o) := by
  simp only [Encoding.Statement, encodeNat]
  have h_c := c.isLt
  have h_g := g.isLt
  have h_d := d.isLt
  have h_a := a.isLt
  have h_o := o.isLt
  omega

theorem Encoding.ldN8 (c : BitVec 1) (g : BitVec 2) (d a : BitVec 7) (o : BitVec 5) : Encoding.Statement (.ldN8 c g d a o) := by
  simp only [Encoding.Statement, encodeNat]
  have h_c := c.isLt
  have h_g := g.isLt
  have h_d := d.isLt
  have h_a := a.isLt
  have h_o := o.isLt
  omega

theorem Encoding.ldS16 (c : BitVec 1) (g : BitVec 2) (d a : BitVec 7) (o : BitVec 5) : Encoding.Statement (.ldS16 c g d a o) := by
  simp only [Encoding.Statement, encodeNat]
  have h_c := c.isLt
  have h_g := g.isLt
  have h_d := d.isLt
  have h_a := a.isLt
  have h_o := o.isLt
  omega

theorem Encoding.ldN16 (c : BitVec 1) (g : BitVec 2) (d a : BitVec 7) (o : BitVec 5) : Encoding.Statement (.ldN16 c g d a o) := by
  simp only [Encoding.Statement, encodeNat]
  have h_c := c.isLt
  have h_g := g.isLt
  have h_d := d.isLt
  have h_a := a.isLt
  have h_o := o.isLt
  omega

theorem Encoding.ldB32 (c : BitVec 1) (g : BitVec 2) (d a : BitVec 7) (o : BitVec 5) : Encoding.Statement (.ldB32 c g d a o) := by
  simp only [Encoding.Statement, encodeNat]
  have h_c := c.isLt
  have h_g := g.isLt
  have h_d := d.isLt
  have h_a := a.isLt
  have h_o := o.isLt
  omega

theorem Encoding.ldB64 (c : BitVec 1) (g : BitVec 2) (d a : BitVec 7) (o : BitVec 5) : Encoding.Statement (.ldB64 c g d a o) := by
  simp only [Encoding.Statement, encodeNat]
  have h_c := c.isLt
  have h_g := g.isLt
  have h_d := d.isLt
  have h_a := a.isLt
  have h_o := o.isLt
  omega

theorem Encoding.ldB128 (c : BitVec 1) (g : BitVec 2) (d a : BitVec 7) (o : BitVec 5) : Encoding.Statement (.ldB128 c g d a o) := by
  simp only [Encoding.Statement, encodeNat]
  have h_c := c.isLt
  have h_g := g.isLt
  have h_d := d.isLt
  have h_a := a.isLt
  have h_o := o.isLt
  omega

theorem Encoding.stB8 (c : BitVec 1) (g : BitVec 2) (d a : BitVec 7) (o : BitVec 5) : Encoding.Statement (.stB8 c g d a o) := by
  simp only [Encoding.Statement, encodeNat]
  have h_c := c.isLt
  have h_g := g.isLt
  have h_d := d.isLt
  have h_a := a.isLt
  have h_o := o.isLt
  omega

theorem Encoding.stB16 (c : BitVec 1) (g : BitVec 2) (d a : BitVec 7) (o : BitVec 5) : Encoding.Statement (.stB16 c g d a o) := by
  simp only [Encoding.Statement, encodeNat]
  have h_c := c.isLt
  have h_g := g.isLt
  have h_d := d.isLt
  have h_a := a.isLt
  have h_o := o.isLt
  omega

theorem Encoding.stB32 (c : BitVec 1) (g : BitVec 2) (d a : BitVec 7) (o : BitVec 5) : Encoding.Statement (.stB32 c g d a o) := by
  simp only [Encoding.Statement, encodeNat]
  have h_c := c.isLt
  have h_g := g.isLt
  have h_d := d.isLt
  have h_a := a.isLt
  have h_o := o.isLt
  omega

theorem Encoding.stB64 (c : BitVec 1) (g : BitVec 2) (d a : BitVec 7) (o : BitVec 5) : Encoding.Statement (.stB64 c g d a o) := by
  simp only [Encoding.Statement, encodeNat]
  have h_c := c.isLt
  have h_g := g.isLt
  have h_d := d.isLt
  have h_a := a.isLt
  have h_o := o.isLt
  omega

theorem Encoding.stB128 (c : BitVec 1) (g : BitVec 2) (d a : BitVec 7) (o : BitVec 5) : Encoding.Statement (.stB128 c g d a o) := by
  simp only [Encoding.Statement, encodeNat]
  have h_c := c.isLt
  have h_g := g.isLt
  have h_d := d.isLt
  have h_a := a.isLt
  have h_o := o.isLt
  omega

theorem Encoding.ldcS8 (g : BitVec 2) (d a : BitVec 7) (o : BitVec 5) : Encoding.Statement (.ldcS8 g d a o) := by
  simp only [Encoding.Statement, encodeNat]
  have h_g := g.isLt
  have h_d := d.isLt
  have h_a := a.isLt
  have h_o := o.isLt
  omega

theorem Encoding.ldcN8 (g : BitVec 2) (d a : BitVec 7) (o : BitVec 5) : Encoding.Statement (.ldcN8 g d a o) := by
  simp only [Encoding.Statement, encodeNat]
  have h_g := g.isLt
  have h_d := d.isLt
  have h_a := a.isLt
  have h_o := o.isLt
  omega

theorem Encoding.ldcS16 (g : BitVec 2) (d a : BitVec 7) (o : BitVec 5) : Encoding.Statement (.ldcS16 g d a o) := by
  simp only [Encoding.Statement, encodeNat]
  have h_g := g.isLt
  have h_d := d.isLt
  have h_a := a.isLt
  have h_o := o.isLt
  omega

theorem Encoding.ldcN16 (g : BitVec 2) (d a : BitVec 7) (o : BitVec 5) : Encoding.Statement (.ldcN16 g d a o) := by
  simp only [Encoding.Statement, encodeNat]
  have h_g := g.isLt
  have h_d := d.isLt
  have h_a := a.isLt
  have h_o := o.isLt
  omega

theorem Encoding.ldcB32 (g : BitVec 2) (d a : BitVec 7) (o : BitVec 5) : Encoding.Statement (.ldcB32 g d a o) := by
  simp only [Encoding.Statement, encodeNat]
  have h_g := g.isLt
  have h_d := d.isLt
  have h_a := a.isLt
  have h_o := o.isLt
  omega

theorem Encoding.ldcB64 (g : BitVec 2) (d a : BitVec 7) (o : BitVec 5) : Encoding.Statement (.ldcB64 g d a o) := by
  simp only [Encoding.Statement, encodeNat]
  have h_g := g.isLt
  have h_d := d.isLt
  have h_a := a.isLt
  have h_o := o.isLt
  omega

theorem Encoding.ldcB128 (g : BitVec 2) (d a : BitVec 7) (o : BitVec 5) : Encoding.Statement (.ldcB128 g d a o) := by
  simp only [Encoding.Statement, encodeNat]
  have h_g := g.isLt
  have h_d := d.isLt
  have h_a := a.isLt
  have h_o := o.isLt
  omega

theorem Encoding.ldAcqB32 (c : BitVec 1) (g : BitVec 2) (d a : BitVec 7) (o : BitVec 5) : Encoding.Statement (.ldAcqB32 c g d a o) := by
  simp only [Encoding.Statement, encodeNat]
  have h_c := c.isLt
  have h_g := g.isLt
  have h_d := d.isLt
  have h_a := a.isLt
  have h_o := o.isLt
  omega

theorem Encoding.ldAcqB64 (c : BitVec 1) (g : BitVec 2) (d a : BitVec 7) (o : BitVec 5) : Encoding.Statement (.ldAcqB64 c g d a o) := by
  simp only [Encoding.Statement, encodeNat]
  have h_c := c.isLt
  have h_g := g.isLt
  have h_d := d.isLt
  have h_a := a.isLt
  have h_o := o.isLt
  omega

theorem Encoding.stRelB32 (c : BitVec 1) (g : BitVec 2) (d a : BitVec 7) (o : BitVec 5) : Encoding.Statement (.stRelB32 c g d a o) := by
  simp only [Encoding.Statement, encodeNat]
  have h_c := c.isLt
  have h_g := g.isLt
  have h_d := d.isLt
  have h_a := a.isLt
  have h_o := o.isLt
  omega

theorem Encoding.stRelB64 (c : BitVec 1) (g : BitVec 2) (d a : BitVec 7) (o : BitVec 5) : Encoding.Statement (.stRelB64 c g d a o) := by
  simp only [Encoding.Statement, encodeNat]
  have h_c := c.isLt
  have h_g := g.isLt
  have h_d := d.isLt
  have h_a := a.isLt
  have h_o := o.isLt
  omega

theorem Encoding.br (g : BitVec 2) (x : BitVec 22) : Encoding.Statement (.br g x) := by
  simp only [Encoding.Statement, encodeNat]
  have h_g := g.isLt
  have h_x := x.isLt
  omega

theorem Encoding.call (g : BitVec 2) (x : BitVec 22) : Encoding.Statement (.call g x) := by
  simp only [Encoding.Statement, encodeNat]
  have h_g := g.isLt
  have h_x := x.isLt
  omega

theorem Encoding.ret (g : BitVec 2) (a : BitVec 7) : Encoding.Statement (.ret g a) := by
  simp only [Encoding.Statement, encodeNat]
  have h_g := g.isLt
  have h_a := a.isLt
  omega

theorem Encoding.jmpx (g : BitVec 2) (a : BitVec 7) : Encoding.Statement (.jmpx g a) := by
  simp only [Encoding.Statement, encodeNat]
  have h_g := g.isLt
  have h_a := a.isLt
  omega

theorem Encoding.ipf (c : BitVec 1) (g : BitVec 2) (a b : BitVec 7) : Encoding.Statement (.ipf c g a b) := by
  simp only [Encoding.Statement, encodeNat]
  have h_c := c.isLt
  have h_g := g.isLt
  have h_a := a.isLt
  have h_b := b.isLt
  omega

theorem Encoding.trap (g : BitVec 2) : Encoding.Statement (.trap g) := by
  simp only [Encoding.Statement, encodeNat]
  have h_g := g.isLt
  omega

theorem Encoding.tretRedo (g : BitVec 2) (a b : BitVec 7) : Encoding.Statement (.tretRedo g a b) := by
  simp only [Encoding.Statement, encodeNat]
  have h_g := g.isLt
  have h_a := a.isLt
  have h_b := b.isLt
  omega

theorem Encoding.tretSkip (g : BitVec 2) (a b : BitVec 7) : Encoding.Statement (.tretSkip g a b) := by
  simp only [Encoding.Statement, encodeNat]
  have h_g := g.isLt
  have h_a := a.isLt
  have h_b := b.isLt
  omega

theorem Encoding.brk (g : BitVec 2) : Encoding.Statement (.brk g) := by
  simp only [Encoding.Statement, encodeNat]
  have h_g := g.isLt
  omega

theorem Encoding.bar (g : BitVec 2) : Encoding.Statement (.bar g) := by
  simp only [Encoding.Statement, encodeNat]
  have h_g := g.isLt
  omega

theorem Encoding.barc (g : BitVec 2) : Encoding.Statement (.barc g) := by
  simp only [Encoding.Statement, encodeNat]
  have h_g := g.isLt
  omega

theorem Encoding.barx (g : BitVec 2) : Encoding.Statement (.barx g) := by
  simp only [Encoding.Statement, encodeNat]
  have h_g := g.isLt
  omega

theorem Encoding.waitBatch (g : BitVec 2) (n : BitVec 7) : Encoding.Statement (.waitBatch g n) := by
  simp only [Encoding.Statement, encodeNat]
  have h_g := g.isLt
  have h_n := n.isLt
  omega

theorem Encoding.yield (g : BitVec 2) : Encoding.Statement (.yield g) := by
  simp only [Encoding.Statement, encodeNat]
  have h_g := g.isLt
  omega

theorem Encoding.fwd (g : BitVec 2) (a b : BitVec 7) : Encoding.Statement (.fwd g a b) := by
  simp only [Encoding.Statement, encodeNat]
  have h_g := g.isLt
  have h_a := a.isLt
  have h_b := b.isLt
  omega

theorem Encoding.fwdAck (g : BitVec 2) (a b : BitVec 7) : Encoding.Statement (.fwdAck g a b) := by
  simp only [Encoding.Statement, encodeNat]
  have h_g := g.isLt
  have h_a := a.isLt
  have h_b := b.isLt
  omega

theorem Encoding.enq (c : BitVec 1) (g : BitVec 2) (a b : BitVec 7) : Encoding.Statement (.enq c g a b) := by
  simp only [Encoding.Statement, encodeNat]
  have h_c := c.isLt
  have h_g := g.isLt
  have h_a := a.isLt
  have h_b := b.isLt
  omega

theorem Encoding.exit (g : BitVec 2) : Encoding.Statement (.exit g) := by
  simp only [Encoding.Statement, encodeNat]
  have h_g := g.isLt
  omega

theorem Encoding.launch (c : BitVec 1) (g : BitVec 2) (a : BitVec 7) : Encoding.Statement (.launch c g a) := by
  simp only [Encoding.Statement, encodeNat]
  have h_c := c.isLt
  have h_g := g.isLt
  have h_a := a.isLt
  omega

theorem Encoding.signal (c : BitVec 1) (g : BitVec 2) (a b : BitVec 7) : Encoding.Statement (.signal c g a b) := by
  simp only [Encoding.Statement, encodeNat]
  have h_c := c.isLt
  have h_g := g.isLt
  have h_a := a.isLt
  have h_b := b.isLt
  omega

theorem Encoding.cpT (c : BitVec 1) (g : BitVec 2) (n : BitVec 3) (m : BitVec 5) : Encoding.Statement (.cpT c g n m) := by
  simp only [Encoding.Statement, encodeNat]
  have h_c := c.isLt
  have h_g := g.isLt
  have h_n := n.isLt
  have h_m := m.isLt
  omega

theorem Encoding.cpG (c : BitVec 1) (g : BitVec 2) (n : BitVec 3) (b : BitVec 7) : Encoding.Statement (.cpG c g n b) := by
  simp only [Encoding.Statement, encodeNat]
  have h_c := c.isLt
  have h_g := g.isLt
  have h_n := n.isLt
  have h_b := b.isLt
  omega

theorem Encoding.cpS (c : BitVec 1) (g : BitVec 2) (n : BitVec 3) (b : BitVec 7) : Encoding.Statement (.cpS c g n b) := by
  simp only [Encoding.Statement, encodeNat]
  have h_c := c.isLt
  have h_g := g.isLt
  have h_n := n.isLt
  have h_b := b.isLt
  omega

theorem Encoding.cpL (c : BitVec 1) (g : BitVec 2) (n : BitVec 3) : Encoding.Statement (.cpL c g n) := by
  simp only [Encoding.Statement, encodeNat]
  have h_c := c.isLt
  have h_g := g.isLt
  have h_n := n.isLt
  omega

theorem Encoding.cpPf (c : BitVec 1) (g : BitVec 2) (a b : BitVec 7) : Encoding.Statement (.cpPf c g a b) := by
  simp only [Encoding.Statement, encodeNat]
  have h_c := c.isLt
  have h_g := g.isLt
  have h_a := a.isLt
  have h_b := b.isLt
  omega

theorem Encoding.cpRed (c : BitVec 1) (g : BitVec 2) (n : BitVec 3) : Encoding.Statement (.cpRed c g n) := by
  simp only [Encoding.Statement, encodeNat]
  have h_c := c.isLt
  have h_g := g.isLt
  have h_n := n.isLt
  omega

theorem Encoding.mtask (c : BitVec 1) (g : BitVec 2) (a : BitVec 7) (n : BitVec 2) : Encoding.Statement (.mtask c g a n) := by
  simp only [Encoding.Statement, encodeNat]
  have h_c := c.isLt
  have h_g := g.isLt
  have h_a := a.isLt
  have h_n := n.isLt
  omega

theorem Encoding.mtaskSb (c : BitVec 1) (g : BitVec 2) (a : BitVec 7) (n : BitVec 2) : Encoding.Statement (.mtaskSb c g a n) := by
  simp only [Encoding.Statement, encodeNat]
  have h_c := c.isLt
  have h_g := g.isLt
  have h_a := a.isLt
  have h_n := n.isLt
  omega

theorem Encoding.mtileFree (c : BitVec 1) (g : BitVec 2) (a : BitVec 7) : Encoding.Statement (.mtileFree c g a) := by
  simp only [Encoding.Statement, encodeNat]
  have h_c := c.isLt
  have h_g := g.isLt
  have h_a := a.isLt
  omega

theorem Encoding.mtileLd (c : BitVec 1) (g : BitVec 2) (a : BitVec 7) (n : BitVec 3) : Encoding.Statement (.mtileLd c g a n) := by
  simp only [Encoding.Statement, encodeNat]
  have h_c := c.isLt
  have h_g := g.isLt
  have h_a := a.isLt
  have h_n := n.isLt
  omega

theorem Encoding.mtileSt (c : BitVec 1) (g : BitVec 2) (a : BitVec 7) (n : BitVec 3) : Encoding.Statement (.mtileSt c g a n) := by
  simp only [Encoding.Statement, encodeNat]
  have h_c := c.isLt
  have h_g := g.isLt
  have h_a := a.isLt
  have h_n := n.isLt
  omega

theorem Encoding.mtileZero (c : BitVec 1) (g : BitVec 2) (a : BitVec 7) (n : BitVec 3) : Encoding.Statement (.mtileZero c g a n) := by
  simp only [Encoding.Statement, encodeNat]
  have h_c := c.isLt
  have h_g := g.isLt
  have h_a := a.isLt
  have h_n := n.isLt
  omega

theorem Encoding.mtileCvt (c : BitVec 1) (g : BitVec 2) (a : BitVec 7) (n : BitVec 3) : Encoding.Statement (.mtileCvt c g a n) := by
  simp only [Encoding.Statement, encodeNat]
  have h_c := c.isLt
  have h_g := g.isLt
  have h_a := a.isLt
  have h_n := n.isLt
  omega

theorem Encoding.mfence (c : BitVec 1) (g : BitVec 2) (a : BitVec 7) : Encoding.Statement (.mfence c g a) := by
  simp only [Encoding.Statement, encodeNat]
  have h_c := c.isLt
  have h_g := g.isLt
  have h_a := a.isLt
  omega

theorem Encoding.sfree (c : BitVec 1) (g : BitVec 2) (a : BitVec 7) : Encoding.Statement (.sfree c g a) := by
  simp only [Encoding.Statement, encodeNat]
  have h_c := c.isLt
  have h_g := g.isLt
  have h_a := a.isLt
  omega

theorem Encoding.sskip (c : BitVec 1) (g : BitVec 2) (a b : BitVec 7) : Encoding.Statement (.sskip c g a b) := by
  simp only [Encoding.Statement, encodeNat]
  have h_c := c.isLt
  have h_g := g.isLt
  have h_a := a.isLt
  have h_b := b.isLt
  omega

theorem Encoding.sskipn (c : BitVec 1) (g : BitVec 2) (a b : BitVec 7) : Encoding.Statement (.sskipn c g a b) := by
  simp only [Encoding.Statement, encodeNat]
  have h_c := c.isLt
  have h_g := g.isLt
  have h_a := a.isLt
  have h_b := b.isLt
  omega

theorem Encoding.fence (c : BitVec 1) (g : BitVec 2) : Encoding.Statement (.fence c g) := by
  simp only [Encoding.Statement, encodeNat]
  have h_c := c.isLt
  have h_g := g.isLt
  omega

theorem Encoding.pfd (c : BitVec 1) (g : BitVec 2) (a b : BitVec 7) : Encoding.Statement (.pfd c g a b) := by
  simp only [Encoding.Statement, encodeNat]
  have h_c := c.isLt
  have h_g := g.isLt
  have h_a := a.isLt
  have h_b := b.isLt
  omega

theorem Encoding.claim (c : BitVec 1) (g : BitVec 2) (a b : BitVec 7) : Encoding.Statement (.claim c g a b) := by
  simp only [Encoding.Statement, encodeNat]
  have h_c := c.isLt
  have h_g := g.isLt
  have h_a := a.isLt
  have h_b := b.isLt
  omega

theorem Encoding.syswr (c : BitVec 1) (g : BitVec 2) (a b : BitVec 7) : Encoding.Statement (.syswr c g a b) := by
  simp only [Encoding.Statement, encodeNat]
  have h_c := c.isLt
  have h_g := g.isLt
  have h_a := a.isLt
  have h_b := b.isLt
  omega

theorem Encoding.modeRequest (c : BitVec 1) (g : BitVec 2) (a b : BitVec 7) : Encoding.Statement (.modeRequest c g a b) := by
  simp only [Encoding.Statement, encodeNat]
  have h_c := c.isLt
  have h_g := g.isLt
  have h_a := a.isLt
  have h_b := b.isLt
  omega

theorem Encoding.ctrzero (c : BitVec 1) (g : BitVec 2) (a b : BitVec 7) : Encoding.Statement (.ctrzero c g a b) := by
  simp only [Encoding.Statement, encodeNat]
  have h_c := c.isLt
  have h_g := g.isLt
  have h_a := a.isLt
  have h_b := b.isLt
  omega

theorem Encoding.segld (c : BitVec 1) (g : BitVec 2) (a b : BitVec 7) : Encoding.Statement (.segld c g a b) := by
  simp only [Encoding.Statement, encodeNat]
  have h_c := c.isLt
  have h_g := g.isLt
  have h_a := a.isLt
  have h_b := b.isLt
  omega

theorem Encoding.icinv (c : BitVec 1) (g : BitVec 2) (a b : BitVec 7) : Encoding.Statement (.icinv c g a b) := by
  simp only [Encoding.Statement, encodeNat]
  have h_c := c.isLt
  have h_g := g.isLt
  have h_a := a.isLt
  have h_b := b.isLt
  omega

theorem Encoding.tlbinv (c : BitVec 1) (g : BitVec 2) (a b : BitVec 7) : Encoding.Statement (.tlbinv c g a b) := by
  simp only [Encoding.Statement, encodeNat]
  have h_c := c.isLt
  have h_g := g.isLt
  have h_a := a.isLt
  have h_b := b.isLt
  omega

theorem Encoding.ctxtag (c : BitVec 1) (g : BitVec 2) (a : BitVec 7) : Encoding.Statement (.ctxtag c g a) := by
  simp only [Encoding.Statement, encodeNat]
  have h_c := c.isLt
  have h_g := g.isLt
  have h_a := a.isLt
  omega

theorem Encoding.halt (c : BitVec 1) (g : BitVec 2) : Encoding.Statement (.halt c g) := by
  simp only [Encoding.Statement, encodeNat]
  have h_c := c.isLt
  have h_g := g.isLt
  omega

theorem Encoding.modPub (c : BitVec 1) (g : BitVec 2) (a b : BitVec 7) : Encoding.Statement (.modPub c g a b) := by
  simp only [Encoding.Statement, encodeNat]
  have h_c := c.isLt
  have h_g := g.isLt
  have h_a := a.isLt
  have h_b := b.isLt
  omega

theorem Encoding.modRet (c : BitVec 1) (g : BitVec 2) (a b : BitVec 7) : Encoding.Statement (.modRet c g a b) := by
  simp only [Encoding.Statement, encodeNat]
  have h_c := c.isLt
  have h_g := g.isLt
  have h_a := a.isLt
  have h_b := b.isLt
  omega

theorem Encoding.poolx (c : BitVec 1) (g : BitVec 2) (a b : BitVec 7) : Encoding.Statement (.poolx c g a b) := by
  simp only [Encoding.Statement, encodeNat]
  have h_c := c.isLt
  have h_g := g.isLt
  have h_a := a.isLt
  have h_b := b.isLt
  omega

theorem Encoding.pqSet (c : BitVec 1) (g : BitVec 2) (a b : BitVec 7) : Encoding.Statement (.pqSet c g a b) := by
  simp only [Encoding.Statement, encodeNat]
  have h_c := c.isLt
  have h_g := g.isLt
  have h_a := a.isLt
  have h_b := b.isLt
  omega

theorem Encoding.runIssue (core : Nat) : Encoding.Statement (.runIssue core) := Nat.two_pow_pos 32

theorem Encoding.codeLineFill (core : Nat) : Encoding.Statement (.codeLineFill core) := Nat.two_pow_pos 32

theorem Encoding.loadDataReturn (launch thread : Nat) : Encoding.Statement (.loadDataReturn launch thread) := Nat.two_pow_pos 32

theorem Encoding.tlbMissWalk (core tag va : Nat) : Encoding.Statement (.tlbMissWalk core tag va) := Nat.two_pow_pos 32

theorem Encoding.storeBufferDrain (launch thread : Nat) : Encoding.Statement (.storeBufferDrain launch thread) := Nat.two_pow_pos 32

theorem Encoding.peerAck (launch thread count : Nat) : Encoding.Statement (.peerAck launch thread count) := Nat.two_pow_pos 32

theorem Encoding.releaseAck (launch thread : Nat) (kind : AckKind) : Encoding.Statement (.releaseAck launch thread kind) := Nat.two_pow_pos 32

theorem Encoding.binReadyByAge (core launch gang packet pos : Nat) : Encoding.Statement (.binReadyByAge core launch gang packet pos) := Nat.two_pow_pos 32

theorem Encoding.drain (core : Nat) : Encoding.Statement (.drain core) := Nat.two_pow_pos 32

theorem Encoding.compactorMove (core : Nat) : Encoding.Statement (.compactorMove core) := Nat.two_pow_pos 32

theorem Encoding.poolSlotFreed (launch thread : Nat) : Encoding.Statement (.poolSlotFreed launch thread) := Nat.two_pow_pos 32

theorem Encoding.barrierArrival (launch thread : Nat) : Encoding.Statement (.barrierArrival launch thread) := Nat.two_pow_pos 32

theorem Encoding.ldcLoad (launch thread : Nat) : Encoding.Statement (.ldcLoad launch thread) := Nat.two_pow_pos 32

theorem Encoding.threadExit (launch thread : Nat) : Encoding.Statement (.threadExit launch thread) := Nat.two_pow_pos 32

theorem Encoding.copyStart (copy : Nat) : Encoding.Statement (.copyStart copy) := Nat.two_pow_pos 32

theorem Encoding.copyComplete (copy : Nat) : Encoding.Statement (.copyComplete copy) := Nat.two_pow_pos 32

theorem Encoding.taskDispatch (core : Nat) : Encoding.Statement (.taskDispatch core) := Nat.two_pow_pos 32

theorem Encoding.taskStep (op : Nat) : Encoding.Statement (.taskStep op) := Nat.two_pow_pos 32

theorem Encoding.tileOpComplete (op : Nat) : Encoding.Statement (.tileOpComplete op) := Nat.two_pow_pos 32

theorem Encoding.tileRangeRelease (core gen : Nat) : Encoding.Statement (.tileRangeRelease core gen) := Nat.two_pow_pos 32

theorem Encoding.pageMove (tag page : Nat) : Encoding.Statement (.pageMove tag page) := Nat.two_pow_pos 32

theorem Encoding.pageMoveComplete (tag page : Nat) : Encoding.Statement (.pageMoveComplete tag page) := Nat.two_pow_pos 32

theorem Encoding.forwardRequest (launch thread : Nat) : Encoding.Statement (.forwardRequest launch thread) := Nat.two_pow_pos 32

theorem Encoding.forwardNack (launch thread : Nat) : Encoding.Statement (.forwardNack launch thread) := Nat.two_pow_pos 32

theorem Encoding.forwardRetry (launch thread : Nat) : Encoding.Statement (.forwardRetry launch thread) := Nat.two_pow_pos 32

theorem Encoding.poolExhausted (launch thread : Nat) : Encoding.Statement (.poolExhausted launch thread) := Nat.two_pow_pos 32

theorem Encoding.forwardGrant (launch thread : Nat) : Encoding.Statement (.forwardGrant launch thread) := Nat.two_pow_pos 32

theorem Encoding.recordAccept (launch thread : Nat) : Encoding.Statement (.recordAccept launch thread) := Nat.two_pow_pos 32

theorem Encoding.fwdAckAdd (launch thread : Nat) : Encoding.Statement (.fwdAckAdd launch thread) := Nat.two_pow_pos 32

theorem Encoding.faultQueuePost (fdie : Nat) : Encoding.Statement (.faultQueuePost fdie) := Nat.two_pow_pos 32

theorem Encoding.faultQueueHeadRead (fdie : Nat) : Encoding.Statement (.faultQueueHeadRead fdie) := Nat.two_pow_pos 32

theorem Encoding.kick (part idx offset : Nat) (tail : BitVec 64) : Encoding.Statement (.kick part idx offset tail) := by
  simp only [Encoding.Statement, encodeNat]
  have h_tail := tail.isLt
  omega

theorem Encoding.queueAgeingWake (part idx : Nat) : Encoding.Statement (.queueAgeingWake part idx) := Nat.two_pow_pos 32

theorem Encoding.cmdNop (part idx : Nat) : Encoding.Statement (.cmdNop part idx) := Nat.two_pow_pos 32

theorem Encoding.cmdLaunch (part idx : Nat) : Encoding.Statement (.cmdLaunch part idx) := Nat.two_pow_pos 32

theorem Encoding.cmdSignal (part idx : Nat) : Encoding.Statement (.cmdSignal part idx) := Nat.two_pow_pos 32

theorem Encoding.cmdWait (part idx : Nat) : Encoding.Statement (.cmdWait part idx) := Nat.two_pow_pos 32

theorem Encoding.cmdBarrierJob (part idx : Nat) : Encoding.Statement (.cmdBarrierJob part idx) := Nat.two_pow_pos 32

theorem Encoding.admission (fdie : Nat) : Encoding.Statement (.admission fdie) := Nat.two_pow_pos 32

theorem Encoding.admissionRetry (launch : Nat) : Encoding.Statement (.admissionRetry launch) := Nat.two_pow_pos 32

theorem Encoding.admissionAgeingLock (launch : Nat) : Encoding.Statement (.admissionAgeingLock launch) := Nat.two_pow_pos 32

theorem Encoding.launchComplete (launch : Nat) : Encoding.Statement (.launchComplete launch) := Nat.two_pow_pos 32

theorem Encoding.preempt (tag : Nat) : Encoding.Statement (.preempt tag) := Nat.two_pow_pos 32

theorem Encoding.stopWalkReach (launch : Nat) : Encoding.Statement (.stopWalkReach launch) := Nat.two_pow_pos 32

theorem Encoding.preemptDeadline (launch : Nat) : Encoding.Statement (.preemptDeadline launch) := Nat.two_pow_pos 32

theorem Encoding.resume (tag : Nat) : Encoding.Statement (.resume tag) := Nat.two_pow_pos 32

theorem Encoding.remove (tag : Nat) : Encoding.Statement (.remove tag) := Nat.two_pow_pos 32

theorem Encoding.removalUnitReset (tag : Nat) : Encoding.Statement (.removalUnitReset tag) := Nat.two_pow_pos 32

theorem Encoding.moverec (tag launch thread core : Nat) : Encoding.Statement (.moverec tag launch thread core) := Nat.two_pow_pos 32

theorem Encoding.movegang (tag launch gang c0 c1 c2 c3 : Nat) : Encoding.Statement (.movegang tag launch gang c0 c1 c2 c3) := Nat.two_pow_pos 32

theorem Encoding.mapq (fdie slot qcb part idx : Nat) : Encoding.Statement (.mapq fdie slot qcb part idx) := Nat.two_pow_pos 32

theorem Encoding.unmapq (fdie slot save : Nat) : Encoding.Statement (.unmapq fdie slot save) := Nat.two_pow_pos 32

theorem Encoding.setage (part a : Nat) : Encoding.Statement (.setage part a) := Nat.two_pow_pos 32

theorem Encoding.setmode (value : BitVec 64) : Encoding.Statement (.setmode value) := by
  simp only [Encoding.Statement, encodeNat]
  have h_value := value.isLt
  omega

theorem Encoding.clkcut : Encoding.Statement .clkcut := Nat.two_pow_pos 32

theorem Encoding.debugAttach (tag : Nat) : Encoding.Statement (.debugAttach tag) := Nat.two_pow_pos 32

theorem Encoding.debugDetach (tag : Nat) : Encoding.Statement (.debugDetach tag) := Nat.two_pow_pos 32

theorem Encoding.releaseContinue (tag launch thread edit : Nat) : Encoding.Statement (.releaseContinue tag launch thread edit) := Nat.two_pow_pos 32

theorem Encoding.releaseDeliver (tag launch thread edit : Nat) : Encoding.Statement (.releaseDeliver tag launch thread edit) := Nat.two_pow_pos 32

theorem Encoding.disposeRetry (tag launch core : Nat) (fault : BitVec 64) : Encoding.Statement (.disposeRetry tag launch core fault) := by
  simp only [Encoding.Statement, encodeNat]
  have h_fault := fault.isLt
  omega

theorem Encoding.disposeKill (tag launch core : Nat) (fault : BitVec 64) : Encoding.Statement (.disposeKill tag launch core fault) := by
  simp only [Encoding.Statement, encodeNat]
  have h_fault := fault.isLt
  omega

theorem Encoding.createctx (tag part savelen tbase savebase : Nat) : Encoding.Statement (.createctx tag part savelen tbase savebase) := Nat.two_pow_pos 32

theorem Encoding.setfq (fdie fqlog base head : Nat) : Encoding.Statement (.setfq fdie fqlog base head) := Nat.two_pow_pos 32

theorem Encoding.debugQuery (launch thread : Nat) : Encoding.Statement (.debugQuery launch thread) := Nat.two_pow_pos 32

theorem Encoding.freeze (asserted : Bool) : Encoding.Statement (.freeze asserted) := Nat.two_pow_pos 32

theorem Encoding.tapReadout (address : Nat) : Encoding.Statement (.tapReadout address) := Nat.two_pow_pos 32

theorem Encoding.packageReset (images : BootImages) : Encoding.Statement (.packageReset images) := Nat.two_pow_pos 32

theorem Encoding.thermalTrip (watts : Nat) : Encoding.Statement (.thermalTrip watts) := Nat.two_pow_pos 32

theorem Encoding.clockChangeDone : Encoding.Statement .clockChangeDone := Nat.two_pow_pos 32

theorem Encoding.mgmtReadStatus (request : MgmtRequest) (item : Nat) : Encoding.Statement (.mgmtReadStatus request item) := Nat.two_pow_pos 32

theorem Encoding.mgmtSetPlimit (request : MgmtRequest) (watts : Nat) : Encoding.Statement (.mgmtSetPlimit request watts) := Nat.two_pow_pos 32

theorem Encoding.mgmtFreeze (request : MgmtRequest) : Encoding.Statement (.mgmtFreeze request) := Nat.two_pow_pos 32

theorem Encoding.mgmtThaw (request : MgmtRequest) : Encoding.Statement (.mgmtThaw request) := Nat.two_pow_pos 32

theorem Encoding.mgmtReadout (request : MgmtRequest) (address : Nat) : Encoding.Statement (.mgmtReadout request address) := Nat.two_pow_pos 32

theorem Encoding.mgmtPackageReset (request : MgmtRequest) (images : BootImages) : Encoding.Statement (.mgmtPackageReset request images) := Nat.two_pow_pos 32

theorem Encoding.getVersion : Encoding.Statement .getVersion := Nat.two_pow_pos 32

theorem Encoding.getCapabilities : Encoding.Statement .getCapabilities := Nat.two_pow_pos 32

theorem Encoding.negotiateAlgorithms : Encoding.Statement .negotiateAlgorithms := Nat.two_pow_pos 32

theorem Encoding.getDigests : Encoding.Statement .getDigests := Nat.two_pow_pos 32

theorem Encoding.getCertificate (slot : Nat) : Encoding.Statement (.getCertificate slot) := Nat.two_pow_pos 32

theorem Encoding.challenge (nonce : Nat) : Encoding.Statement (.challenge nonce) := Nat.two_pow_pos 32

theorem Encoding.getMeasurements (index : Nat) : Encoding.Statement (.getMeasurements index) := Nat.two_pow_pos 32

theorem Encoding.feltPacketReceive (src dst : Nat) : Encoding.Statement (.feltPacketReceive src dst) := Nat.two_pow_pos 32

theorem Encoding.heldPacketDeliver (dst : Nat) : Encoding.Statement (.heldPacketDeliver dst) := Nat.two_pow_pos 32

theorem Encoding.flitRetransmit (a b : Nat) : Encoding.Statement (.flitRetransmit a b) := Nat.two_pow_pos 32

theorem Encoding.linkFailed (a b : Nat) : Encoding.Statement (.linkFailed a b) := Nat.two_pow_pos 32

theorem Encoding.clockBeacon (die : Nat) : Encoding.Statement (.clockBeacon die) := Nat.two_pow_pos 32

theorem Encoding.vAck (die : Nat) : Encoding.Statement (.vAck die) := Nat.two_pow_pos 32

theorem Encoding.beaconTimeout (die silent : Nat) : Encoding.Statement (.beaconTimeout die silent) := Nat.two_pow_pos 32

theorem Encoding.dieRemove (die : Nat) : Encoding.Statement (.dieRemove die) := Nat.two_pow_pos 32

theorem Encoding.networkSplit : Encoding.Statement .networkSplit := Nat.two_pow_pos 32

theorem Encoding.renharPacketReceive (fdie : Nat) (packet : RenharPacket) : Encoding.Statement (.renharPacketReceive fdie packet) := Nat.two_pow_pos 32

theorem Encoding.circuitRestored (part peer : Nat) : Encoding.Statement (.circuitRestored part peer) := Nat.two_pow_pos 32

theorem Encoding.peerLost (part peer : Nat) : Encoding.Statement (.peerLost part peer) := Nat.two_pow_pos 32

theorem Encoding.rdmaWrite (conn rkey va : Nat) (data : List Byte) : Encoding.Statement (.rdmaWrite conn rkey va data) := Nat.two_pow_pos 32

theorem Encoding.rdmaRead (conn rkey va length : Nat) : Encoding.Statement (.rdmaRead conn rkey va length) := Nat.two_pow_pos 32

theorem Encoding.rdmaSend (conn : Nat) (data : List Byte) : Encoding.Statement (.rdmaSend conn data) := Nat.two_pow_pos 32

theorem Encoding.rdmaAtomic (conn : Nat) : Encoding.Statement (.rdmaAtomic conn) := Nat.two_pow_pos 32

theorem Encoding.cnpReceive (conn : Nat) : Encoding.Statement (.cnpReceive conn) := Nat.two_pow_pos 32

theorem Encoding.ecnPacket (conn : Nat) : Encoding.Statement (.ecnPacket conn) := Nat.two_pow_pos 32

theorem Encoding.rateRestore (conn : Nat) : Encoding.Statement (.rateRestore conn) := Nat.two_pow_pos 32

theorem Encoding.connectionError (conn : Nat) : Encoding.Statement (.connectionError conn) := Nat.two_pow_pos 32

theorem Encoding.coreClockCycle : Encoding.Statement .coreClockCycle := Nat.two_pow_pos 32

theorem Encoding.icinvComplete (launch thread : Nat) : Encoding.Statement (.icinvComplete launch thread) := Nat.two_pow_pos 32

theorem Encoding.tlbinvComplete (launch thread : Nat) : Encoding.Statement (.tlbinvComplete launch thread) := Nat.two_pow_pos 32

theorem Encoding.queueRestart (part idx : Nat) : Encoding.Statement (.queueRestart part idx) := Nat.two_pow_pos 32

theorem Encoding.circuitReconfiguration (part peer : Nat) : Encoding.Statement (.circuitReconfiguration part peer) := Nat.two_pow_pos 32

theorem Encoding.connectionRequest (conn mtu : Nat) (reliable : Bool) : Encoding.Statement (.connectionRequest conn mtu reliable) := Nat.two_pow_pos 32

theorem Encoding.priorityFlowControlFrame (priority : Nat) (pause : Bool) : Encoding.Statement (.priorityFlowControlFrame priority pause) := Nat.two_pow_pos 32

end Sys2Proof.Laws
end

