-- ==== Sys2Proof/Laws/Run.lean ====
section
/-! SUPPORT. What a run of one word does where every lane goes on, said once for all words. -/

namespace Sys2Proof.Machine

open Sys2Proof (Byte Word DWord Instr)

set_option Elab.async false

/-! ### Rows keep their names -/

@[simp] theorem clearRun_key (t : Thread) : rowKey (clearRun t) = rowKey t := rfl

@[simp] theorem landed_key (iss : Issue) (t : Thread) : rowKey (landed iss t) = rowKey t := by
  unfold landed; split <;> rfl

theorem isThread_key (l n : Nat) (t : Thread) : isThread l n t = true ↔ rowKey t = (l, n) := by
  simp [isThread, rowKey]

/-! ### What the words of a run leave alone of a thread that goes on -/

/-- What decides how a lane's run ends, and which row it is, is the same. -/
structure Kept (t t' : Thread) : Prop where
  key : rowKey t' = rowKey t
  acts : t'.acts = t.acts
  laneEnd : t'.laneEnd = t.laneEnd
  next : t'.next = t.next
  ask : t'.ask = t.ask
  posting : t'.posting = t.posting
  posted : t'.posted = t.posted

theorem Kept.refl (t : Thread) : Kept t t := ⟨rfl, rfl, rfl, rfl, rfl, rfl, rfl⟩

theorem Kept.trans {t u v : Thread} (h : Kept t u) (k : Kept u v) : Kept t v :=
  ⟨k.key.trans h.key, k.acts.trans h.acts, k.laneEnd.trans h.laneEnd, k.next.trans h.next, k.ask.trans h.ask,
    k.posting.trans h.posting, k.posted.trans h.posted⟩

theorem kept_putStream (t : Thread) (x : Stream) : Kept t (putStream t x) := ⟨rfl, rfl, rfl, rfl, rfl, rfl, rfl⟩

theorem kept_setLatch (iss : Issue) (p : Pipe) (v : Word) (t : Thread) : Kept t (setLatch iss p v t) := by
  unfold setLatch; split <;> exact ⟨rfl, rfl, rfl, rfl, rfl, rfl, rfl⟩

theorem kept_setRegs (l : List Word) : ∀ (t : Thread) (i : Nat), Kept t (setRegs t i l) := by
  induction l with
  | nil => exact fun t _ => Kept.refl t
  | cons v vs ih =>
    intro t i
    rw [setRegs]
    exact Kept.trans (u := { t with regs := regSet t.regs i v }) ⟨rfl, rfl, rfl, rfl, rfl, rfl, rfl⟩ (ih _ _)

theorem kept_put64 (d : BitVec 7) (v : DWord) (t : Thread) : Kept t (put64 d v t) := kept_setRegs _ _ _

theorem kept_put32 (iss : Issue) (d : BitVec 7) (v : Word) (t : Thread) (h : isStream d = false) :
    Kept t (put32 iss d v t) := by
  unfold put32; rw [if_neg (by simp [h])]; exact ⟨rfl, rfl, rfl, rfl, rfl, rfl, rfl⟩

theorem kept_result32 (iss : Issue) (p : Pipe) (d : BitVec 7) (w : BitVec 1) (v : Word) (t : Thread)
    (h : isStream d = false ∨ w = 1) : Kept t (result32 iss p d w v t) := by
  unfold result32
  refine Kept.trans ?_ (kept_setLatch _ _ _ _)
  by_cases hw : w = 1
  · rw [if_pos hw]; exact Kept.refl t
  · rw [if_neg hw]; exact kept_put32 _ _ _ _ (h.resolve_right hw)

theorem kept_result64 (iss : Issue) (p : Pipe) (d : BitVec 7) (w : BitVec 1) (v : DWord) (t : Thread) :
    Kept t (result64 iss p d w v t) := by
  unfold result64
  refine Kept.trans ?_ (kept_setLatch _ _ _ _)
  by_cases hw : w = 1
  · rw [if_pos hw]; exact Kept.refl t
  · rw [if_neg hw]; exact kept_put64 _ _ _

theorem kept_resultPred (iss : Issue) (p : Pipe) (n : Nat) (w : BitVec 1) (v : Bool) (t : Thread) :
    Kept t (resultPred iss p n w v t) := by
  unfold resultPred
  refine Kept.trans ?_ (kept_setLatch _ _ _ _)
  split <;> exact ⟨rfl, rfl, rfl, rfl, rfl, rfl, rfl⟩

theorem kept_resultPair (iss : Issue) (p : Pipe) (n : Nat) (w : BitVec 1) (v : Bool) (t : Thread) :
    Kept t (resultPair iss p n w v t) := by
  unfold resultPair
  refine Kept.trans ?_ (kept_setLatch _ _ _ _)
  split <;> exact ⟨rfl, rfl, rfl, rfl, rfl, rfl, rfl⟩

theorem kept_materialiseDerived {s : State} {t t' : Thread} {x : Stream} (h : materialiseDerived s t x = .ok t') :
    Kept t t' := by
  unfold materialiseDerived at h
  split at h
  · cases h; exact Kept.refl t
  · dsimp only at h
    split at h
    · split at h
      · cases h
      · cases h
        exact ((kept_putStream _ _).trans (kept_putStream _ _)).trans (kept_putStream _ _)
    · split at h
      · cases h
      · split at h
        · cases h
        · cases h
          exact ((kept_putStream _ _).trans (kept_putStream _ _)).trans (kept_putStream _ _)

theorem kept_materialise {s : State} {t t' : Thread} {x : Stream} (h : materialise s t x = .ok t') : Kept t t' := by
  unfold materialise at h
  split at h
  · split at h
    · cases h
    · cases h; exact kept_putStream _ _
  · exact kept_materialiseDerived h
  · exact kept_materialiseDerived h
  · split at h
    · cases h; exact Kept.refl t
    · exact kept_materialiseDerived h
  · cases h; exact Kept.refl t

theorem kept_peek {s : State} {t t' : Thread} {n : Nat} {v : Word} (h : peekStream s t n = .ok (v, t')) : Kept t t' := by
  unfold peekStream at h
  split at h
  · cases h
  · split at h
    · cases h
    · split at h
      · cases h
      · rename_i hm
        split at h
        · cases h
        · cases h; exact kept_materialise hm

theorem kept_readStream {s : State} {t t' : Thread} {n : Nat} {v : Word} (h : readStream s t n = .ok (v, t')) :
    Kept t t' := by
  unfold readStream at h
  split at h
  · cases h; exact Kept.refl t
  · cases h
  · split at h
    · cases h
    · rename_i hp
      cases h
      exact (kept_peek hp).trans ⟨rfl, rfl, rfl, rfl, rfl, rfl, rfl⟩

/-- Reading a 32-bit source. -/
theorem kept_src32 {s : State} {iss : Issue} {t t' : Thread} {c : BitVec 7} {v : Word}
    (h : src32 s iss t c = .ok (v, t')) : Kept t t' := by
  unfold src32 at h
  split at h
  · exact kept_readStream h
  · cases h; exact Kept.refl t

theorem kept_lookAt {s : State} {t t' : Thread} {n : Nat} {x : Stream} (h : lookAt s t n = .ok (x, t')) :
    Kept t t' := by
  unfold lookAt at h
  split at h
  · cases h
  · split at h
    · cases h
    · rename_i hm
      cases h
      split at hm
      · split at hm
        · cases hm
        · cases hm; exact kept_putStream _ _
      · exact kept_materialise hm

theorem kept_queried {s : State} {t t' : Thread} {n : Nat} {x : Stream} (h : queried s t n = .ok (x, t')) :
    Kept t t' := by
  unfold queried at h
  split at h
  · cases h; exact Kept.refl t
  · cases h
  · exact kept_lookAt h

theorem kept_advanceStream (t : Thread) (n : Nat) : Kept t (advanceStream t n) := by
  unfold advanceStream
  split
  · exact Kept.refl t
  · split
    · exact kept_putStream _ _
    · split
      · exact Kept.refl t
      · exact ((kept_putStream _ _).trans (kept_putStream _ _)).trans (kept_putStream _ _)
    · split
      · exact Kept.refl t
      · exact ((kept_putStream _ _).trans (kept_putStream _ _)).trans (kept_putStream _ _)
    · exact Kept.refl t

theorem kept_advances (l : List (Nat × Word)) :
    ∀ t : Thread, Kept t (l.foldl (fun x r => advanceStream { x with advanced := x.advanced ++ advancedBy x r.1 } r.1) t) := by
  induction l with
  | nil => exact Kept.refl
  | cons r rs ih =>
    intro t
    have k : Kept t { t with advanced := t.advanced ++ advancedBy t r.1 } := ⟨rfl, rfl, rfl, rfl, rfl, rfl, rfl⟩
    exact (k.trans (kept_advanceStream _ r.1)).trans (ih _)

theorem kept_advanceRead (t : Thread) : Kept t (advanceRead t) := kept_advances t.readS t

theorem goesOn_trans {t t' : Thread} (h : GoesOn t) (k : Kept t t') : GoesOn t' :=
  ⟨k.laneEnd.trans h.1, k.acts.trans h.2.1, h.2.2.1.imp (k.next.trans ·) fun ⟨p, q, e⟩ => ⟨p, q, k.next.trans e⟩,
    k.ask.trans h.2.2.2.1, k.posting.trans h.2.2.2.2.1, k.posted.trans h.2.2.2.2.2⟩

theorem goesOn_idle {t : Thread} (h : Idle t) : GoesOn t :=
  ⟨h.2.2.1, h.2.1, .inl h.2.2.2.1, h.2.2.2.2.2.1, h.2.2.2.2.2.2.1, h.2.2.2.2.1⟩

theorem goesOn_kept {t t' : Thread} (h : Idle t) (k : Kept t t') : GoesOn t' := goesOn_trans (goesOn_idle h) k

theorem goesOn_advance {t : Thread} (h : GoesOn t) : GoesOn (advanceRead t) := goesOn_trans h (kept_advanceRead t)

/-! ### The end of a run in which every lane goes on -/

/-- A thread of the table stands in its own row. -/
theorem threadAt_of_mem {s : State} {t : Thread} (hn : (s.threads.map rowKey).Nodup) (ht : t ∈ s.threads) :
    threadAt s t.launch t.thread = some t := by
  unfold threadAt
  generalize s.threads = l at hn ht
  induction l with
  | nil => cases ht
  | cons a l ih =>
    rw [List.map_cons, List.nodup_cons] at hn
    rcases List.mem_cons.mp ht with rfl | ht
    · simp [isThread]
    · have hne : isThread t.launch t.thread a = false := by
        rw [Bool.eq_false_iff]
        intro h
        rw [isThread_key] at h
        exact hn.1 (h ▸ List.mem_map.mpr ⟨t, ht, rfl⟩)
      rw [List.find?_cons, hne]
      exact ih hn.2 ht

theorem mem_of_threadAt {s : State} {l n : Nat} {t : Thread} (h : threadAt s l n = some t) :
    t ∈ s.threads ∧ rowKey t = (l, n) := by
  unfold threadAt at h
  exact ⟨List.mem_of_find?_eq_some h, (isThread_key _ _ _).mp (by simpa using List.find?_some h)⟩

/-- Two rows of one name are one row. -/
theorem row_unique {s : State} {t u : Thread} (hn : (s.threads.map rowKey).Nodup) (ht : t ∈ s.threads)
    (hu : u ∈ s.threads) (h : rowKey t = rowKey u) : t = u := by
  have a := threadAt_of_mem hn ht
  have b := threadAt_of_mem hn hu
  simp only [rowKey, Prod.mk.injEq] at h
  rw [h.1, h.2, b] at a
  exact (Option.some.inj a).symm

/-- A row replaced by a function of it, its name kept. -/
theorem putThread_eq_map {s : State} {t : Thread} (f : Thread → Thread) (hn : (s.threads.map rowKey).Nodup)
    (ht : t ∈ s.threads) (hk : rowKey (f t) = rowKey t) :
    putThread s (f t) = { s with threads := s.threads.map fun x => if isThread t.launch t.thread x then f x else x } := by
  unfold putThread
  have hk' : (f t).launch = t.launch ∧ (f t).thread = t.thread := by simpa [rowKey] using hk
  rw [hk'.1, hk'.2]
  congr 1
  refine List.map_congr_left fun x hx => ?_
  by_cases h : isThread t.launch t.thread x = true
  · rw [if_pos h, if_pos h]
    rw [isThread_key] at h
    rw [row_unique hn hx ht (by rw [h]; rfl)]
  · rw [if_neg h, if_neg h]

theorem settleLane_goesOn {iss : Issue} {s : State} {t : Thread} (hn : (s.threads.map rowKey).Nodup) (ht : t ∈ s.threads)
    (hl : t.launch = iss.launch) (hg : GoesOn t) :
    settleLane iss s t.thread =
      { s with threads := s.threads.map fun x => if isThread t.launch t.thread x then landed iss x else x } := by
  have ha : threadAt s iss.launch t.thread = some t := hl ▸ threadAt_of_mem hn ht
  rw [← putThread_eq_map (landed iss) hn ht (landed_key _ _)]
  unfold settleLane
  rw [ha]
  dsimp only
  rw [hg.1]
  dsimp only
  unfold landed
  rcases hg.2.2.1 with h | ⟨p, q, h⟩ <;> rw [h]

theorem map_rowKey {f : Thread → Thread} (l : List Thread) (h : ∀ t ∈ l, rowKey (f t) = rowKey t) :
    (l.map f).map rowKey = l.map rowKey := by
  rw [List.map_map]
  exact List.map_congr_left h

/-- The lanes settled one after another are all landed at once. -/
theorem settle_lanes {iss : Issue} : ∀ (ls : List Nat) (s : State), ls.Nodup → (s.threads.map rowKey).Nodup →
    (∀ t ∈ s.threads, t.launch = iss.launch → t.thread ∈ ls → GoesOn t) →
    ls.foldl (settleLane iss) s =
      { s with threads := s.threads.map fun t => if t.launch = iss.launch ∧ t.thread ∈ ls then landed iss t else t } := by
  intro ls
  induction ls with
  | nil =>
    intro s _ _ _
    simp
  | cons l ls ih =>
    intro s hd hn hg
    rw [List.nodup_cons] at hd
    rw [List.foldl_cons]
    have step : settleLane iss s l =
        { s with threads := s.threads.map fun x => if isThread iss.launch l x then landed iss x else x } := by
      rcases ha : threadAt s iss.launch l with _ | t
      · have : s.threads.map (fun x => if isThread iss.launch l x then landed iss x else x) = s.threads := by
          rw [List.map_congr_left (g := id), List.map_id]
          intro x hx
          have := (List.find?_eq_none.mp ha) x hx
          rw [if_neg this, id]
        rw [this]
        unfold settleLane
        rw [ha]
      · obtain ⟨hm, hk⟩ := mem_of_threadAt ha
        simp only [rowKey, Prod.mk.injEq] at hk
        have := settleLane_goesOn hn hm hk.1 (hg t hm hk.1 (hk.2 ▸ List.mem_cons_self))
        rw [hk.1, hk.2] at this
        exact this
    rw [step]
    have keys : ∀ t ∈ s.threads, rowKey (if isThread iss.launch l t then landed iss t else t) = rowKey t := by
      intro t _; split
      · exact landed_key _ _
      · rfl
    rw [ih _ hd.2 (by rw [map_rowKey _ keys]; exact hn) ?_]
    · congr 1
      rw [List.map_map]
      refine List.map_congr_left fun t ht => ?_
      simp only [Function.comp]
      by_cases hk : isThread iss.launch l t = true
      · rw [isThread_key, rowKey, Prod.mk.injEq] at hk
        have hk2 := landed_key iss t
        simp only [rowKey, Prod.mk.injEq] at hk2
        simp [isThread, hk, hk2, hd.1]
      · rw [if_neg hk]
        have : ¬ (t.launch = iss.launch ∧ t.thread = l) := by simpa [isThread] using hk
        by_cases h2 : t.launch = iss.launch ∧ t.thread ∈ ls
        · rw [if_pos h2, if_pos ⟨h2.1, List.mem_cons_of_mem _ h2.2⟩]
        · rw [if_neg h2, if_neg]
          rintro ⟨a, b⟩
          rcases List.mem_cons.mp b with b | b
          · exact this ⟨a, b⟩
          · exact h2 ⟨a, b⟩
    · intro t ht hl hm
      obtain ⟨u, hu, rfl⟩ := List.mem_map.mp ht
      have hne : ¬ isThread iss.launch l u = true := by
        intro h
        rw [if_pos h] at hm
        have hk := landed_key iss u
        rw [isThread_key] at h
        rw [h] at hk
        simp only [rowKey, Prod.mk.injEq] at hk
        exact hd.1 (hk.2 ▸ hm)
      rw [if_neg hne] at hl hm ⊢
      exact hg u hu hl (List.mem_cons_of_mem _ hm)

/-- With no lane away the run issues to all its lanes. -/
theorem groupLanes_all {iss : Issue} (hw : iss.away = []) : groupLanes iss = iss.lanes := by
  simp [groupLanes, hw]

theorem inGroup_iff {iss : Issue} (hw : iss.away = []) (t : Thread) :
    inGroup iss t = true ↔ t.launch = iss.launch ∧ t.thread ∈ iss.lanes := by
  simp [inGroup, groupLanes_all hw]

/-- Lanes that ask for nothing and have made all of their run have no end to be brought to. -/
theorem closeRun_goesOn {s : State} {iss : Issue} (hw : iss.away = [])
    (hg : ∀ t ∈ s.threads, inGroup iss t = true → GoesOn t) : closeRun iss s = s := by
  unfold closeRun
  have e : s.threads.map (fun t => if t.launch = iss.launch ∧ t.thread ∈ iss.lanes then closePosting (closeAsk t) else t)
      = s.threads := by
    rw [List.map_congr_left (g := id), List.map_id]
    intro t ht
    by_cases h : t.launch = iss.launch ∧ t.thread ∈ iss.lanes
    · obtain ⟨-, -, -, ha, hp, -⟩ := hg t ht ((inGroup_iff hw t).mpr h)
      rw [if_pos h, closeAsk, ha]
      dsimp only
      rw [closePosting, hp, id]
    · rw [if_neg h, id]
  rw [e]

/-- Where every lane of the group goes on and nothing is left for the end. -/
theorem settle_closed {s : State} {iss : Issue} (hi : s.issue = some iss) (ha : iss.after = []) (hw : iss.away = []) (hd : iss.lanes.Nodup)
    (hn : (s.threads.map rowKey).Nodup) (hg : ∀ t ∈ s.threads, inGroup iss t = true → GoesOn t) :
    settle s = { s with issue := none, threads := s.threads.map fun t => if inGroup iss t then landed iss t else t } := by
  unfold settle
  rw [hi]
  dsimp only
  rw [ha, List.foldl_nil,
    settle_lanes iss.lanes s hd hn fun t ht hl hm => hg t ht ((inGroup_iff hw _).mpr ⟨hl, hm⟩)]
  congr 1
  refine List.map_congr_left fun t _ => ?_
  by_cases h : inGroup iss t = true
  · rw [if_pos h, if_pos ((inGroup_iff hw _).mp h)]
  · rw [if_neg h, if_neg (fun x => h ((inGroup_iff hw _).mpr x))]

/-- Lanes without acts act on nothing. -/
theorem laneActs_none {iss : Issue} {pos l : Nat} {s : State} (hw : iss.away = [])
    (h : ∀ t ∈ s.threads, inGroup iss t = true → t.acts = []) (hl : l ∈ iss.lanes) : laneActs iss pos s l = s := by
  unfold laneActs
  split
  · rfl
  · rename_i t ha
    obtain ⟨hm, hk⟩ := mem_of_threadAt ha
    simp only [rowKey, Prod.mk.injEq] at hk
    rw [h t hm ((inGroup_iff hw _).mpr ⟨hk.1, hk.2 ▸ hl⟩)]
    rfl

/-- Lanes without acts append nothing. -/
theorem appendLanes_none {iss : Issue} {pos : Nat} {s : State} (hw : iss.away = [])
    (h : ∀ t ∈ s.threads, inGroup iss t = true → t.acts = []) : appendLanes iss s pos = [] := by
  unfold appendLanes
  rw [groupLanes_all hw, List.filterMap_filterMap, List.filterMap_eq_nil_iff]
  intro l hl
  cases ha : threadAt s iss.launch l with
  | none => rfl
  | some t =>
    obtain ⟨hm, hk⟩ := mem_of_threadAt ha
    simp only [rowKey, Prod.mk.injEq] at hk
    simp [appendPointer, h t hm ((inGroup_iff hw _).mpr ⟨hk.1, hk.2 ▸ hl⟩)]

theorem actsAt_none {iss : Issue} {pos : Nat} {s : State} (hw : iss.away = [])
    (h : ∀ t ∈ s.threads, inGroup iss t = true → t.acts = []) : actsAt iss s pos = s := by
  unfold actsAt
  rw [appendLanes_none hw h, show replayPasses false 4 [] = 0 from by decide, count, if_pos rfl]
  suffices ∀ ls : List Nat, (∀ l ∈ ls, l ∈ iss.lanes) → ls.foldl (laneActs iss pos) s = s from this _ fun _ h => h
  intro ls
  induction ls with
  | nil => exact fun _ => rfl
  | cons l ls ih =>
    intro hl
    rw [List.foldl_cons, laneActs_none hw h (hl l List.mem_cons_self), ih fun k hk => hl k (List.mem_cons_of_mem _ hk)]

theorem acts_none {iss : Issue} {s : State} (hw : iss.away = []) (ps : List Nat)
    (h : ∀ t ∈ s.threads, inGroup iss t = true → t.acts = []) : ps.foldl (actsAt iss) s = s := by
  induction ps with
  | nil => rfl
  | cons p ps ih => rw [List.foldl_cons, actsAt_none hw h, ih]

/-- The stream effects of a run whose lanes go on and have noted no act. -/
theorem streamPhase_goesOn {s : State} {iss : Issue} (hi : s.issue = some iss) (hw : iss.away = [])
    (hg : ∀ t ∈ s.threads, inGroup iss t = true → GoesOn t) :
    streamPhase s = { s with threads := s.threads.map fun t => if inGroup iss t then advanceRead t else t } := by
  unfold streamPhase
  rw [hi]
  dsimp only
  have hmap : s.threads.map (fun t => if (inGroup iss t && t.laneEnd.isNone) = true then advanceRead t else t)
      = s.threads.map fun t => if inGroup iss t then advanceRead t else t := by
    refine List.map_congr_left fun t ht => ?_
    by_cases h : inGroup iss t = true
    · simp [h, (hg t ht h).1]
    · simp [h]
  rw [hmap]
  have hacts : ∀ t ∈ s.threads.map (fun t => if inGroup iss t then advanceRead t else t), inGroup iss t = true → t.acts = [] := by
    intro t ht hin
    obtain ⟨u, hu, rfl⟩ := List.mem_map.mp ht
    by_cases h : inGroup iss u = true
    · rw [if_pos h]
      exact (goesOn_advance (hg u hu h)).2.1
    · rw [if_neg h] at hin
      exact absurd hin h
  exact acts_none hw _ hacts

theorem inGroup_key {iss : Issue} {t u : Thread} (h : rowKey u = rowKey t) : inGroup iss u = inGroup iss t := by
  simp only [rowKey, Prod.mk.injEq] at h
  simp [inGroup, h.1, h.2]

/-- A run whose words leave every lane of the group going on ends with the lanes landed. -/
theorem wordRun_closed {s : State} {iss : Issue} {body : State → State} (hi : s.issue = some iss)
    (hc : iss.chained = false) (ha : iss.after = []) (hw : iss.away = []) (hd : iss.lanes.Nodup) (hb : (body s).issue = some iss)
    (hn : ((body s).threads.map rowKey).Nodup) (hg : ∀ t ∈ (body s).threads, inGroup iss t = true → GoesOn t) :
    wordRun body s = closed iss (body s) := by
  unfold wordRun
  rw [hi]
  dsimp only
  rw [hc, if_neg (by simp)]
  rw [show (33 : Nat) = 32 + 1 from rfl, conduct, hi]
  dsimp only
  have hsp := streamPhase_goesOn hb hw hg
  have keys : ∀ t ∈ (body s).threads, rowKey (if inGroup iss t then advanceRead t else t) = rowKey t := by
    intro t _; split
    · exact (kept_advanceRead t).key
    · rfl
  have hg' : ∀ t ∈ (streamPhase (body s)).threads, inGroup iss t = true → GoesOn t := by
    rw [hsp]
    intro t ht hin
    obtain ⟨u, hu, rfl⟩ := List.mem_map.mp ht
    by_cases h : inGroup iss u = true
    · rw [if_pos h]; exact goesOn_advance (hg u hu h)
    · rw [if_neg h] at hin; exact absurd hin h
  have hrun : runEffects iss (body s) = streamPhase (body s) := closeRun_goesOn hw hg'
  have hended : endedLanes (streamPhase (body s)) iss = [] := by
    unfold endedLanes
    rw [List.filter_eq_nil_iff]
    intro t ht h
    rw [Bool.and_eq_true] at h
    rw [(hg' t ht h.1).1] at h
    exact absurd h.2 (by simp)
  rw [hrun, hended, List.filter_nil, if_pos rfl]
  rw [settle_closed (by rw [hsp]; exact hb) ha hw hd (by rw [hsp]; dsimp only; rw [map_rowKey _ keys]; exact hn) hg', hsp]
  unfold closed
  congr 1
  rw [List.map_map]
  refine List.map_congr_left fun t _ => ?_
  simp only [Function.comp]
  by_cases h : inGroup iss t = true
  · rw [if_pos h, if_pos (by rw [inGroup_key (kept_advanceRead t).key]; exact h), if_pos h]
  · rw [if_neg h, if_neg h, if_neg h]

/-- In every form of a word that is a whole run: where no lane meets an end, its outcome is its effects, the stream
effects after them and the settling of its lanes. -/
theorem wordRun_settled {s : State} {iss : Issue} {body : State → State} (hi : s.issue = some iss)
    (hc : iss.chained = false) (he : endedLanes (runEffects iss (body s)) iss = []) :
    wordRun body s = settle (runEffects iss (body s)) := by
  unfold wordRun
  rw [hi]
  dsimp only
  rw [hc, if_neg (by simp), show (33 : Nat) = 32 + 1 from rfl, conduct, hi]
  dsimp only
  rw [he, List.filter_nil, if_pos rfl]

/-! ### Words whose lanes act each for itself -/

theorem isLive_idle {iss : Issue} {g : BitVec 2} {t : Thread} (h : inGroup iss t = true → Idle t) :
    isLive iss g t = isActive iss g t := by
  unfold isLive
  by_cases ha : isActive iss g t = true
  · have : inGroup iss t = true := by
      unfold isActive at ha
      exact (Bool.and_eq_true _ _ ▸ ha).1
    rw [ha, (h this).2.2.1]; rfl
  · rw [Bool.not_eq_true] at ha
    rw [ha]; rfl

theorem mapLanes_act {s : State} {iss : Issue} {g : BitVec 2} {f : State → Issue → Thread → Except LaneEnd Thread}
    {h : Thread → Thread} (hs : Alone s iss) (hf : ∀ t ∈ s.threads, isActive iss g t = true → f s iss t = .ok (h t)) :
    mapLanes g f s = act iss g h s := by
  unfold mapLanes act
  rw [hs.issue]
  dsimp only
  congr 1
  refine List.map_congr_left fun t ht => ?_
  unfold laneStep
  rw [isLive_idle (hs.idle t ht)]
  by_cases ha : isActive iss g t = true
  · rw [if_pos ha, if_pos ha, hf t ht ha]
  · rw [if_neg ha, if_neg ha]

theorem isActive_group {iss : Issue} {g : BitVec 2} {t : Thread} (h : isActive iss g t = true) : inGroup iss t = true := by
  unfold isActive at h
  exact (Bool.and_eq_true _ _ ▸ h).1

theorem act_closed {s : State} {iss : Issue} {g : BitVec 2} {h : Thread → Thread} {body : State → State}
    (hs : Alone s iss) (hb : body s = act iss g h s)
    (hk : ∀ t ∈ s.threads, isActive iss g t = true → rowKey (h t) = rowKey t)
    (hg : ∀ t ∈ s.threads, isActive iss g t = true → GoesOn (h t)) :
    wordRun body s = closed iss (act iss g h s) := by
  have keys : ∀ t ∈ s.threads, rowKey (if isActive iss g t then h t else t) = rowKey t := by
    intro t ht; split
    · exact hk t ht ‹_›
    · rfl
  rw [← hb]
  refine wordRun_closed hs.issue hs.chained hs.after hs.away hs.lanes (by rw [hb]; exact hs.issue) ?_ ?_
  · rw [hb]; unfold act; dsimp only; rw [map_rowKey _ keys]; exact hs.rows
  · rw [hb]
    intro t ht hin
    obtain ⟨u, hu, rfl⟩ := List.mem_map.mp ht
    by_cases ha : isActive iss g u = true
    · rw [if_pos ha]; exact hg u hu ha
    · rw [if_neg ha] at hin ⊢
      exact goesOn_kept (hs.idle u hu hin) (Kept.refl u)

/-- What a word does whose lanes act each for itself and all go on. -/
theorem laneWord_closed {s : State} {iss : Issue} {g : BitVec 2} {f : State → Issue → Thread → Except LaneEnd Thread}
    {h : Thread → Thread} (hs : Alone s iss) (hf : ∀ t ∈ s.threads, isActive iss g t = true → f s iss t = .ok (h t))
    (hk : ∀ t ∈ s.threads, isActive iss g t = true → rowKey (h t) = rowKey t)
    (hg : ∀ t ∈ s.threads, isActive iss g t = true → GoesOn (h t)) :
    laneWord g f s = .next (closed iss (act iss g h s)) := by
  unfold laneWord
  rw [act_closed hs (mapLanes_act hs hf) hk hg]

/-- The same where the lanes' effects keep what decides the run's end. -/
theorem laneWord_kept {s : State} {iss : Issue} {g : BitVec 2} {f : State → Issue → Thread → Except LaneEnd Thread}
    {h : Thread → Thread} (hs : Alone s iss) (hf : ∀ t ∈ s.threads, isActive iss g t = true → f s iss t = .ok (h t))
    (hk : ∀ t ∈ s.threads, isActive iss g t = true → Kept t (h t)) :
    laneWord g f s = .next (closed iss (act iss g h s)) :=
  laneWord_closed hs hf (fun t ht ha => (hk t ht ha).key) fun t ht ha =>
    goesOn_kept (hs.idle t ht (isActive_group ha)) (hk t ht ha)

/-- The general outcome of such a word, its lanes' effects given. -/
theorem laneWord_settled {s : State} {iss : Issue} {g : BitVec 2} {f : State → Issue → Thread → Except LaneEnd Thread}
    {h : Thread → Thread} (hs : Alone s iss) (hf : ∀ t ∈ s.threads, isActive iss g t = true → f s iss t = .ok (h t))
    (he : endedLanes (runEffects iss (act iss g h s)) iss = []) :
    laneWord g f s = .next (settle (runEffects iss (act iss g h s))) := by
  unfold laneWord
  rw [wordRun_settled hs.issue hs.chained (by rw [mapLanes_act hs hf]; exact he), mapLanes_act hs hf]

/-! ### Words whose lanes act one after another -/

theorem going_alone {s : State} {iss : Issue} (hs : Alone s iss) : Going s iss :=
  ⟨hs.issue, hs.rows, fun t ht hg => goesOn_kept (hs.idle t ht hg) (Kept.refl t)⟩

theorem going_same {s s' : State} {iss : Issue} (h : Going s iss) (hi : s'.issue = s.issue) (ht : s'.threads = s.threads) :
    Going s' iss :=
  ⟨hi.trans h.issue, by rw [ht]; exact h.rows, by rw [ht]; exact h.lanes⟩

theorem putThread_keys {s : State} {t' : Thread} : ((putThread s t').threads.map rowKey) = s.threads.map rowKey := by
  unfold putThread
  refine map_rowKey _ fun x _ => ?_
  split
  · rename_i h
    rw [isThread_key] at h
    rw [h]; rfl
  · rfl

/-- A lane's row replaced by one that goes on as it did. -/
theorem going_put {s : State} {iss : Issue} {t t' : Thread} (h : Going s iss) (ht : t ∈ s.threads) (k : Kept t t') :
    Going (putThread s t') iss := by
  refine ⟨h.issue, by rw [putThread_keys]; exact h.rows, ?_⟩
  intro u hu hg
  unfold putThread at hu
  obtain ⟨x, hx, rfl⟩ := List.mem_map.mp hu
  by_cases hk : isThread t'.launch t'.thread x = true
  · rw [if_pos hk] at hg ⊢
    rw [inGroup_key k.key] at hg
    exact goesOn_trans (h.lanes t ht hg) k
  · rw [if_neg hk] at hg ⊢
    exact h.lanes x hx hg

theorem isLive_goesOn {iss : Issue} {g : BitVec 2} {t : Thread} (h : inGroup iss t = true → GoesOn t) :
    isLive iss g t = isActive iss g t := by
  unfold isLive
  by_cases ha : isActive iss g t = true
  · rw [ha, (h (isActive_group ha)).1]; rfl
  · rw [Bool.not_eq_true] at ha
    rw [ha]; rfl

theorem foldLanes_turns {iss : Issue} {g : BitVec 2} {f' : State → Issue → Thread → Except LaneEnd State}
    {p : State → Thread → Prop} {f : State → Thread → State}
    (hf : ∀ u t, Going u iss → t ∈ u.threads → isActive iss g t = true → p u t →
      f' u iss t = .ok (f u t) ∧ Going (f u t) iss) :
    ∀ (ls : List Nat) (s : State), Going s iss → AtEachTurn iss g p f ls s →
      ls.foldl (laneFold iss g f') s = ls.foldl (turn iss g f) s ∧ Going (ls.foldl (turn iss g f) s) iss := by
  intro ls
  induction ls with
  | nil => exact fun s h _ => ⟨rfl, h⟩
  | cons l ls ih =>
    intro s h hp
    obtain ⟨hp, hr⟩ := hp
    have key : laneFold iss g f' s l = turn iss g f s l ∧ Going (turn iss g f s l) iss := by
      unfold laneFold turn
      rcases ha : threadAt s iss.launch l with _ | t
      · exact ⟨rfl, h⟩
      · have hm := (mem_of_threadAt ha).1
        dsimp only
        rw [isLive_goesOn (h.lanes t hm)]
        by_cases hact : isActive iss g t = true
        · obtain ⟨e, k⟩ := hf s t h hm hact (hp t ha hact)
          rw [if_pos hact, if_pos hact, e]
          exact ⟨rfl, k⟩
        · rw [if_neg hact, if_neg hact]
          exact ⟨rfl, h⟩
    rw [List.foldl_cons, List.foldl_cons, key.1]
    exact ih _ key.2 hr

/-- A run whose words leave the run going. -/
theorem wordRun_going {s : State} {iss : Issue} {body : State → State} (hs : Alone s iss) (hb : Going (body s) iss) :
    wordRun body s = closed iss (body s) :=
  wordRun_closed hs.issue hs.chained hs.after hs.away hs.lanes hb.issue hb.rows hb.lanes

/-- What a word does whose lanes act in turn and all go on; `k` is what it counts first. -/
theorem foldWord_closed {s : State} {iss : Issue} {g : BitVec 2} {f' : State → Issue → Thread → Except LaneEnd State}
    {p : State → Thread → Prop} {f : State → Thread → State} {k : State → State} (hs : Alone s iss)
    (hk : (k s).issue = s.issue ∧ (k s).threads = s.threads)
    (hf : ∀ u t, Going u iss → t ∈ u.threads → isActive iss g t = true → p u t →
      f' u iss t = .ok (f u t) ∧ Going (f u t) iss) (hp : AtEachTurn iss g p f iss.lanes (k s)) :
    wordRun (fun x => foldLanes g f' (k x)) s = closed iss (turns iss g f (k s)) := by
  have h1 := going_same (going_alone hs) hk.1 hk.2
  have h2 := foldLanes_turns hf iss.lanes (k s) h1 hp
  have hb : foldLanes g f' (k s) = turns iss g f (k s) := by
    unfold foldLanes turns
    rw [h1.issue]
    exact h2.1
  have := wordRun_going (body := fun x => foldLanes g f' (k x)) hs (by rw [hb]; exact h2.2)
  rw [this, hb]

/-- What a word does that acts once, for its elected lane. -/
theorem electLane_ok {s : State} {iss : Issue} {g : BitVec 2} {f : State → Issue → Thread → Except LaneEnd State}
    {t : Thread} {s' : State} (hw : iss.away = []) (hg : Going s iss) (he : electedLane s iss g = some t) (hf : f s iss t = .ok s') :
    electLane g f s = s' := by
  unfold electLane
  rw [hg.issue]
  dsimp only
  rw [he]
  dsimp only
  have hm : ∃ l ∈ iss.lanes, threadAt s iss.launch l = some t ∧ guardOn g t = true := by
    have h1 : t ∈ activeThreads s iss g := by
      unfold electedLane at he
      exact List.mem_of_mem_head? he
    unfold activeThreads at h1
    rw [groupLanes_all hw] at h1
    obtain ⟨l, hl, e⟩ := List.mem_filterMap.mp h1
    obtain ⟨e1, e2⟩ := Option.filter_eq_some_iff.mp e
    exact ⟨l, hl, e1, e2⟩
  obtain ⟨l, hl, ha, hgd⟩ := hm
  obtain ⟨hm, hk⟩ := mem_of_threadAt ha
  simp only [rowKey, Prod.mk.injEq] at hk
  unfold laneFold
  rw [hk.2, ha]
  dsimp only
  have hact : isActive iss g t = true := by
    unfold isActive
    rw [(inGroup_iff hw _).mpr ⟨hk.1, hk.2 ▸ hl⟩, hgd]; rfl
  rw [isLive_goesOn (hg.lanes t hm), if_pos hact, hf]

theorem mem_of_elected {s : State} {iss : Issue} {g : BitVec 2} {t : Thread} (he : electedLane s iss g = some t) :
    t ∈ s.threads := by
  have h1 : t ∈ activeThreads s iss g := by
    unfold electedLane at he
    exact List.mem_of_mem_head? he
  unfold activeThreads at h1
  obtain ⟨l, _, e⟩ := List.mem_filterMap.mp h1
  exact (mem_of_threadAt (Option.filter_eq_some_iff.mp e).1).1

theorem electWord_closed {s s' : State} {iss : Issue} {g : BitVec 2} {f : State → Issue → Thread → Except LaneEnd State}
    {t : Thread} (hs : Alone s iss) (he : electedLane s iss g = some t) (hf : f s iss t = .ok s') (hg : Going s' iss) :
    wordRun (electLane g f) s = closed iss s' := by
  have e := electLane_ok hs.away (going_alone hs) he hf
  rw [wordRun_going (body := electLane g f) hs (by rw [e]; exact hg), e]

end Sys2Proof.Machine
end

