-- ==== Sys2Proof/Laws/State.lean ====
section
/-! SUPPORT. What each update of one table of the state leaves of every other field. -/

namespace Sys2Proof.Machine

set_option Elab.async false
@[simp] theorem putThread_agenda (s : State) (t : Thread) : (putThread s t).agenda = s.agenda := rfl
@[simp] theorem putThread_fresh (s : State) (t : Thread) : (putThread s t).fresh = s.fresh := rfl
@[simp] theorem putThread_issue (s : State) (t : Thread) : (putThread s t).issue = s.issue := rfl
@[simp] theorem putThread_gangs (s : State) (t : Thread) : (putThread s t).gangs = s.gangs := rfl
@[simp] theorem putThread_launches (s : State) (t : Thread) : (putThread s t).launches = s.launches := rfl
@[simp] theorem putThread_plans (s : State) (t : Thread) : (putThread s t).plans = s.plans := rfl
@[simp] theorem putThread_contexts (s : State) (t : Thread) : (putThread s t).contexts = s.contexts := rfl
@[simp] theorem putThread_queues (s : State) (t : Thread) : (putThread s t).queues = s.queues := rfl
@[simp] theorem putThread_deadQueues (s : State) (t : Thread) : (putThread s t).deadQueues = s.deadQueues := rfl
@[simp] theorem putThread_partitions (s : State) (t : Thread) : (putThread s t).partitions = s.partitions := rfl
@[simp] theorem putThread_ownPeer (s : State) (t : Thread) : (putThread s t).ownPeer = s.ownPeer := rfl
@[simp] theorem putThread_cores (s : State) (t : Thread) : (putThread s t).cores = s.cores := rfl
@[simp] theorem putThread_icache2 (s : State) (t : Thread) : (putThread s t).icache2 = s.icache2 := rfl
@[simp] theorem putThread_icache3 (s : State) (t : Thread) : (putThread s t).icache3 = s.icache3 := rfl
@[simp] theorem putThread_walkCache (s : State) (t : Thread) : (putThread s t).walkCache = s.walkCache := rfl
@[simp] theorem putThread_l2data (s : State) (t : Thread) : (putThread s t).l2data = s.l2data := rfl
@[simp] theorem putThread_directory (s : State) (t : Thread) : (putThread s t).directory = s.directory := rfl
@[simp] theorem putThread_copies (s : State) (t : Thread) : (putThread s t).copies = s.copies := rfl
@[simp] theorem putThread_tileOps (s : State) (t : Thread) : (putThread s t).tileOps = s.tileOps := rfl
@[simp] theorem putThread_tileRanges (s : State) (t : Thread) : (putThread s t).tileRanges = s.tileRanges := rfl
@[simp] theorem putThread_tiles (s : State) (t : Thread) : (putThread s t).tiles = s.tiles := rfl
@[simp] theorem putThread_engineLast (s : State) (t : Thread) : (putThread s t).engineLast = s.engineLast := rfl
@[simp] theorem putThread_starts (s : State) (t : Thread) : (putThread s t).starts = s.starts := rfl
@[simp] theorem putThread_startWaits (s : State) (t : Thread) : (putThread s t).startWaits = s.startWaits := rfl
@[simp] theorem putThread_moves (s : State) (t : Thread) : (putThread s t).moves = s.moves := rfl
@[simp] theorem putThread_rehomed (s : State) (t : Thread) : (putThread s t).rehomed = s.rehomed := rfl
@[simp] theorem putThread_faults (s : State) (t : Thread) : (putThread s t).faults = s.faults := rfl
@[simp] theorem putThread_faultQueues (s : State) (t : Thread) : (putThread s t).faultQueues = s.faultQueues := rfl
@[simp] theorem putThread_log (s : State) (t : Thread) : (putThread s t).log = s.log := rfl
@[simp] theorem putThread_mem (s : State) (t : Thread) : (putThread s t).mem = s.mem := rfl
@[simp] theorem putThread_badLines (s : State) (t : Thread) : (putThread s t).badLines = s.badLines := rfl
@[simp] theorem putThread_rewritten (s : State) (t : Thread) : (putThread s t).rewritten = s.rewritten := rfl
@[simp] theorem putThread_peerFaults (s : State) (t : Thread) : (putThread s t).peerFaults = s.peerFaults := rfl
@[simp] theorem putThread_peerPages (s : State) (t : Thread) : (putThread s t).peerPages = s.peerPages := rfl
@[simp] theorem putThread_hardErrors (s : State) (t : Thread) : (putThread s t).hardErrors = s.hardErrors := rfl
@[simp] theorem putThread_mode (s : State) (t : Thread) : (putThread s t).mode = s.mode := rfl
@[simp] theorem putThread_plimit (s : State) (t : Thread) : (putThread s t).plimit = s.plimit := rfl
@[simp] theorem putThread_clockWanted (s : State) (t : Thread) : (putThread s t).clockWanted = s.clockWanted := rfl
@[simp] theorem putThread_tripLimit (s : State) (t : Thread) : (putThread s t).tripLimit = s.tripLimit := rfl
@[simp] theorem putThread_timeBase (s : State) (t : Thread) : (putThread s t).timeBase = s.timeBase := rfl
@[simp] theorem putThread_frozen (s : State) (t : Thread) : (putThread s t).frozen = s.frozen := rfl
@[simp] theorem putThread_freezePin (s : State) (t : Thread) : (putThread s t).freezePin = s.freezePin := rfl
@[simp] theorem putThread_felt (s : State) (t : Thread) : (putThread s t).felt = s.felt := rfl
@[simp] theorem putThread_renhar (s : State) (t : Thread) : (putThread s t).renhar = s.renhar := rfl
@[simp] theorem putThread_port (s : State) (t : Thread) : (putThread s t).port = s.port := rfl
@[simp] theorem putThread_boot (s : State) (t : Thread) : (putThread s t).boot = s.boot := rfl
@[simp] theorem putThread_security (s : State) (t : Thread) : (putThread s t).security = s.security := rfl
@[simp] theorem putThread_nextHandle (s : State) (t : Thread) : (putThread s t).nextHandle = s.nextHandle := rfl
@[simp] theorem putThread_nextOp (s : State) (t : Thread) : (putThread s t).nextOp = s.nextOp := rfl
@[simp] theorem putThread_nextRegion (s : State) (t : Thread) : (putThread s t).nextRegion = s.nextRegion := rfl
@[simp] theorem putThread_cmdStatus (s : State) (t : Thread) : (putThread s t).cmdStatus = s.cmdStatus := rfl
@[simp] theorem putThread_rings (s : State) (t : Thread) : (putThread s t).rings = s.rings := rfl
@[simp] theorem putThread_wakes (s : State) (t : Thread) : (putThread s t).wakes = s.wakes := rfl
@[simp] theorem putThread_views (s : State) (t : Thread) : (putThread s t).views = s.views := rfl

@[simp] theorem mapThread_agenda (s : State) (l n : Nat) (f : Thread → Thread) : (mapThread s l n f).agenda = s.agenda := rfl
@[simp] theorem mapThread_fresh (s : State) (l n : Nat) (f : Thread → Thread) : (mapThread s l n f).fresh = s.fresh := rfl
@[simp] theorem mapThread_issue (s : State) (l n : Nat) (f : Thread → Thread) : (mapThread s l n f).issue = s.issue := rfl
@[simp] theorem mapThread_gangs (s : State) (l n : Nat) (f : Thread → Thread) : (mapThread s l n f).gangs = s.gangs := rfl
@[simp] theorem mapThread_launches (s : State) (l n : Nat) (f : Thread → Thread) : (mapThread s l n f).launches = s.launches := rfl
@[simp] theorem mapThread_plans (s : State) (l n : Nat) (f : Thread → Thread) : (mapThread s l n f).plans = s.plans := rfl
@[simp] theorem mapThread_contexts (s : State) (l n : Nat) (f : Thread → Thread) : (mapThread s l n f).contexts = s.contexts := rfl
@[simp] theorem mapThread_queues (s : State) (l n : Nat) (f : Thread → Thread) : (mapThread s l n f).queues = s.queues := rfl
@[simp] theorem mapThread_deadQueues (s : State) (l n : Nat) (f : Thread → Thread) : (mapThread s l n f).deadQueues = s.deadQueues := rfl
@[simp] theorem mapThread_partitions (s : State) (l n : Nat) (f : Thread → Thread) : (mapThread s l n f).partitions = s.partitions := rfl
@[simp] theorem mapThread_ownPeer (s : State) (l n : Nat) (f : Thread → Thread) : (mapThread s l n f).ownPeer = s.ownPeer := rfl
@[simp] theorem mapThread_cores (s : State) (l n : Nat) (f : Thread → Thread) : (mapThread s l n f).cores = s.cores := rfl
@[simp] theorem mapThread_icache2 (s : State) (l n : Nat) (f : Thread → Thread) : (mapThread s l n f).icache2 = s.icache2 := rfl
@[simp] theorem mapThread_icache3 (s : State) (l n : Nat) (f : Thread → Thread) : (mapThread s l n f).icache3 = s.icache3 := rfl
@[simp] theorem mapThread_walkCache (s : State) (l n : Nat) (f : Thread → Thread) : (mapThread s l n f).walkCache = s.walkCache := rfl
@[simp] theorem mapThread_l2data (s : State) (l n : Nat) (f : Thread → Thread) : (mapThread s l n f).l2data = s.l2data := rfl
@[simp] theorem mapThread_directory (s : State) (l n : Nat) (f : Thread → Thread) : (mapThread s l n f).directory = s.directory := rfl
@[simp] theorem mapThread_copies (s : State) (l n : Nat) (f : Thread → Thread) : (mapThread s l n f).copies = s.copies := rfl
@[simp] theorem mapThread_tileOps (s : State) (l n : Nat) (f : Thread → Thread) : (mapThread s l n f).tileOps = s.tileOps := rfl
@[simp] theorem mapThread_tileRanges (s : State) (l n : Nat) (f : Thread → Thread) : (mapThread s l n f).tileRanges = s.tileRanges := rfl
@[simp] theorem mapThread_tiles (s : State) (l n : Nat) (f : Thread → Thread) : (mapThread s l n f).tiles = s.tiles := rfl
@[simp] theorem mapThread_engineLast (s : State) (l n : Nat) (f : Thread → Thread) : (mapThread s l n f).engineLast = s.engineLast := rfl
@[simp] theorem mapThread_starts (s : State) (l n : Nat) (f : Thread → Thread) : (mapThread s l n f).starts = s.starts := rfl
@[simp] theorem mapThread_startWaits (s : State) (l n : Nat) (f : Thread → Thread) : (mapThread s l n f).startWaits = s.startWaits := rfl
@[simp] theorem mapThread_moves (s : State) (l n : Nat) (f : Thread → Thread) : (mapThread s l n f).moves = s.moves := rfl
@[simp] theorem mapThread_rehomed (s : State) (l n : Nat) (f : Thread → Thread) : (mapThread s l n f).rehomed = s.rehomed := rfl
@[simp] theorem mapThread_faults (s : State) (l n : Nat) (f : Thread → Thread) : (mapThread s l n f).faults = s.faults := rfl
@[simp] theorem mapThread_faultQueues (s : State) (l n : Nat) (f : Thread → Thread) : (mapThread s l n f).faultQueues = s.faultQueues := rfl
@[simp] theorem mapThread_log (s : State) (l n : Nat) (f : Thread → Thread) : (mapThread s l n f).log = s.log := rfl
@[simp] theorem mapThread_mem (s : State) (l n : Nat) (f : Thread → Thread) : (mapThread s l n f).mem = s.mem := rfl
@[simp] theorem mapThread_badLines (s : State) (l n : Nat) (f : Thread → Thread) : (mapThread s l n f).badLines = s.badLines := rfl
@[simp] theorem mapThread_rewritten (s : State) (l n : Nat) (f : Thread → Thread) : (mapThread s l n f).rewritten = s.rewritten := rfl
@[simp] theorem mapThread_peerFaults (s : State) (l n : Nat) (f : Thread → Thread) : (mapThread s l n f).peerFaults = s.peerFaults := rfl
@[simp] theorem mapThread_peerPages (s : State) (l n : Nat) (f : Thread → Thread) : (mapThread s l n f).peerPages = s.peerPages := rfl
@[simp] theorem mapThread_hardErrors (s : State) (l n : Nat) (f : Thread → Thread) : (mapThread s l n f).hardErrors = s.hardErrors := rfl
@[simp] theorem mapThread_mode (s : State) (l n : Nat) (f : Thread → Thread) : (mapThread s l n f).mode = s.mode := rfl
@[simp] theorem mapThread_plimit (s : State) (l n : Nat) (f : Thread → Thread) : (mapThread s l n f).plimit = s.plimit := rfl
@[simp] theorem mapThread_clockWanted (s : State) (l n : Nat) (f : Thread → Thread) : (mapThread s l n f).clockWanted = s.clockWanted := rfl
@[simp] theorem mapThread_tripLimit (s : State) (l n : Nat) (f : Thread → Thread) : (mapThread s l n f).tripLimit = s.tripLimit := rfl
@[simp] theorem mapThread_timeBase (s : State) (l n : Nat) (f : Thread → Thread) : (mapThread s l n f).timeBase = s.timeBase := rfl
@[simp] theorem mapThread_frozen (s : State) (l n : Nat) (f : Thread → Thread) : (mapThread s l n f).frozen = s.frozen := rfl
@[simp] theorem mapThread_freezePin (s : State) (l n : Nat) (f : Thread → Thread) : (mapThread s l n f).freezePin = s.freezePin := rfl
@[simp] theorem mapThread_felt (s : State) (l n : Nat) (f : Thread → Thread) : (mapThread s l n f).felt = s.felt := rfl
@[simp] theorem mapThread_renhar (s : State) (l n : Nat) (f : Thread → Thread) : (mapThread s l n f).renhar = s.renhar := rfl
@[simp] theorem mapThread_port (s : State) (l n : Nat) (f : Thread → Thread) : (mapThread s l n f).port = s.port := rfl
@[simp] theorem mapThread_boot (s : State) (l n : Nat) (f : Thread → Thread) : (mapThread s l n f).boot = s.boot := rfl
@[simp] theorem mapThread_security (s : State) (l n : Nat) (f : Thread → Thread) : (mapThread s l n f).security = s.security := rfl
@[simp] theorem mapThread_nextHandle (s : State) (l n : Nat) (f : Thread → Thread) : (mapThread s l n f).nextHandle = s.nextHandle := rfl
@[simp] theorem mapThread_nextOp (s : State) (l n : Nat) (f : Thread → Thread) : (mapThread s l n f).nextOp = s.nextOp := rfl
@[simp] theorem mapThread_nextRegion (s : State) (l n : Nat) (f : Thread → Thread) : (mapThread s l n f).nextRegion = s.nextRegion := rfl
@[simp] theorem mapThread_cmdStatus (s : State) (l n : Nat) (f : Thread → Thread) : (mapThread s l n f).cmdStatus = s.cmdStatus := rfl
@[simp] theorem mapThread_rings (s : State) (l n : Nat) (f : Thread → Thread) : (mapThread s l n f).rings = s.rings := rfl
@[simp] theorem mapThread_wakes (s : State) (l n : Nat) (f : Thread → Thread) : (mapThread s l n f).wakes = s.wakes := rfl
@[simp] theorem mapThread_views (s : State) (l n : Nat) (f : Thread → Thread) : (mapThread s l n f).views = s.views := rfl

@[simp] theorem mapGangOf_agenda (s : State) (t : Thread) (f : Gang → Gang) : (mapGangOf s t f).agenda = s.agenda := rfl
@[simp] theorem mapGangOf_fresh (s : State) (t : Thread) (f : Gang → Gang) : (mapGangOf s t f).fresh = s.fresh := rfl
@[simp] theorem mapGangOf_issue (s : State) (t : Thread) (f : Gang → Gang) : (mapGangOf s t f).issue = s.issue := rfl
@[simp] theorem mapGangOf_threads (s : State) (t : Thread) (f : Gang → Gang) : (mapGangOf s t f).threads = s.threads := rfl
@[simp] theorem mapGangOf_launches (s : State) (t : Thread) (f : Gang → Gang) : (mapGangOf s t f).launches = s.launches := rfl
@[simp] theorem mapGangOf_plans (s : State) (t : Thread) (f : Gang → Gang) : (mapGangOf s t f).plans = s.plans := rfl
@[simp] theorem mapGangOf_contexts (s : State) (t : Thread) (f : Gang → Gang) : (mapGangOf s t f).contexts = s.contexts := rfl
@[simp] theorem mapGangOf_queues (s : State) (t : Thread) (f : Gang → Gang) : (mapGangOf s t f).queues = s.queues := rfl
@[simp] theorem mapGangOf_deadQueues (s : State) (t : Thread) (f : Gang → Gang) : (mapGangOf s t f).deadQueues = s.deadQueues := rfl
@[simp] theorem mapGangOf_partitions (s : State) (t : Thread) (f : Gang → Gang) : (mapGangOf s t f).partitions = s.partitions := rfl
@[simp] theorem mapGangOf_ownPeer (s : State) (t : Thread) (f : Gang → Gang) : (mapGangOf s t f).ownPeer = s.ownPeer := rfl
@[simp] theorem mapGangOf_cores (s : State) (t : Thread) (f : Gang → Gang) : (mapGangOf s t f).cores = s.cores := rfl
@[simp] theorem mapGangOf_icache2 (s : State) (t : Thread) (f : Gang → Gang) : (mapGangOf s t f).icache2 = s.icache2 := rfl
@[simp] theorem mapGangOf_icache3 (s : State) (t : Thread) (f : Gang → Gang) : (mapGangOf s t f).icache3 = s.icache3 := rfl
@[simp] theorem mapGangOf_walkCache (s : State) (t : Thread) (f : Gang → Gang) : (mapGangOf s t f).walkCache = s.walkCache := rfl
@[simp] theorem mapGangOf_l2data (s : State) (t : Thread) (f : Gang → Gang) : (mapGangOf s t f).l2data = s.l2data := rfl
@[simp] theorem mapGangOf_directory (s : State) (t : Thread) (f : Gang → Gang) : (mapGangOf s t f).directory = s.directory := rfl
@[simp] theorem mapGangOf_copies (s : State) (t : Thread) (f : Gang → Gang) : (mapGangOf s t f).copies = s.copies := rfl
@[simp] theorem mapGangOf_tileOps (s : State) (t : Thread) (f : Gang → Gang) : (mapGangOf s t f).tileOps = s.tileOps := rfl
@[simp] theorem mapGangOf_tileRanges (s : State) (t : Thread) (f : Gang → Gang) : (mapGangOf s t f).tileRanges = s.tileRanges := rfl
@[simp] theorem mapGangOf_tiles (s : State) (t : Thread) (f : Gang → Gang) : (mapGangOf s t f).tiles = s.tiles := rfl
@[simp] theorem mapGangOf_engineLast (s : State) (t : Thread) (f : Gang → Gang) : (mapGangOf s t f).engineLast = s.engineLast := rfl
@[simp] theorem mapGangOf_starts (s : State) (t : Thread) (f : Gang → Gang) : (mapGangOf s t f).starts = s.starts := rfl
@[simp] theorem mapGangOf_startWaits (s : State) (t : Thread) (f : Gang → Gang) : (mapGangOf s t f).startWaits = s.startWaits := rfl
@[simp] theorem mapGangOf_moves (s : State) (t : Thread) (f : Gang → Gang) : (mapGangOf s t f).moves = s.moves := rfl
@[simp] theorem mapGangOf_rehomed (s : State) (t : Thread) (f : Gang → Gang) : (mapGangOf s t f).rehomed = s.rehomed := rfl
@[simp] theorem mapGangOf_faults (s : State) (t : Thread) (f : Gang → Gang) : (mapGangOf s t f).faults = s.faults := rfl
@[simp] theorem mapGangOf_faultQueues (s : State) (t : Thread) (f : Gang → Gang) : (mapGangOf s t f).faultQueues = s.faultQueues := rfl
@[simp] theorem mapGangOf_log (s : State) (t : Thread) (f : Gang → Gang) : (mapGangOf s t f).log = s.log := rfl
@[simp] theorem mapGangOf_mem (s : State) (t : Thread) (f : Gang → Gang) : (mapGangOf s t f).mem = s.mem := rfl
@[simp] theorem mapGangOf_badLines (s : State) (t : Thread) (f : Gang → Gang) : (mapGangOf s t f).badLines = s.badLines := rfl
@[simp] theorem mapGangOf_rewritten (s : State) (t : Thread) (f : Gang → Gang) : (mapGangOf s t f).rewritten = s.rewritten := rfl
@[simp] theorem mapGangOf_peerFaults (s : State) (t : Thread) (f : Gang → Gang) : (mapGangOf s t f).peerFaults = s.peerFaults := rfl
@[simp] theorem mapGangOf_peerPages (s : State) (t : Thread) (f : Gang → Gang) : (mapGangOf s t f).peerPages = s.peerPages := rfl
@[simp] theorem mapGangOf_hardErrors (s : State) (t : Thread) (f : Gang → Gang) : (mapGangOf s t f).hardErrors = s.hardErrors := rfl
@[simp] theorem mapGangOf_mode (s : State) (t : Thread) (f : Gang → Gang) : (mapGangOf s t f).mode = s.mode := rfl
@[simp] theorem mapGangOf_plimit (s : State) (t : Thread) (f : Gang → Gang) : (mapGangOf s t f).plimit = s.plimit := rfl
@[simp] theorem mapGangOf_clockWanted (s : State) (t : Thread) (f : Gang → Gang) : (mapGangOf s t f).clockWanted = s.clockWanted := rfl
@[simp] theorem mapGangOf_tripLimit (s : State) (t : Thread) (f : Gang → Gang) : (mapGangOf s t f).tripLimit = s.tripLimit := rfl
@[simp] theorem mapGangOf_timeBase (s : State) (t : Thread) (f : Gang → Gang) : (mapGangOf s t f).timeBase = s.timeBase := rfl
@[simp] theorem mapGangOf_frozen (s : State) (t : Thread) (f : Gang → Gang) : (mapGangOf s t f).frozen = s.frozen := rfl
@[simp] theorem mapGangOf_freezePin (s : State) (t : Thread) (f : Gang → Gang) : (mapGangOf s t f).freezePin = s.freezePin := rfl
@[simp] theorem mapGangOf_felt (s : State) (t : Thread) (f : Gang → Gang) : (mapGangOf s t f).felt = s.felt := rfl
@[simp] theorem mapGangOf_renhar (s : State) (t : Thread) (f : Gang → Gang) : (mapGangOf s t f).renhar = s.renhar := rfl
@[simp] theorem mapGangOf_port (s : State) (t : Thread) (f : Gang → Gang) : (mapGangOf s t f).port = s.port := rfl
@[simp] theorem mapGangOf_boot (s : State) (t : Thread) (f : Gang → Gang) : (mapGangOf s t f).boot = s.boot := rfl
@[simp] theorem mapGangOf_security (s : State) (t : Thread) (f : Gang → Gang) : (mapGangOf s t f).security = s.security := rfl
@[simp] theorem mapGangOf_nextHandle (s : State) (t : Thread) (f : Gang → Gang) : (mapGangOf s t f).nextHandle = s.nextHandle := rfl
@[simp] theorem mapGangOf_nextOp (s : State) (t : Thread) (f : Gang → Gang) : (mapGangOf s t f).nextOp = s.nextOp := rfl
@[simp] theorem mapGangOf_nextRegion (s : State) (t : Thread) (f : Gang → Gang) : (mapGangOf s t f).nextRegion = s.nextRegion := rfl
@[simp] theorem mapGangOf_cmdStatus (s : State) (t : Thread) (f : Gang → Gang) : (mapGangOf s t f).cmdStatus = s.cmdStatus := rfl
@[simp] theorem mapGangOf_rings (s : State) (t : Thread) (f : Gang → Gang) : (mapGangOf s t f).rings = s.rings := rfl
@[simp] theorem mapGangOf_wakes (s : State) (t : Thread) (f : Gang → Gang) : (mapGangOf s t f).wakes = s.wakes := rfl
@[simp] theorem mapGangOf_views (s : State) (t : Thread) (f : Gang → Gang) : (mapGangOf s t f).views = s.views := rfl

@[simp] theorem mapLaunch_agenda (s : State) (l : Nat) (f : Launch → Launch) : (mapLaunch s l f).agenda = s.agenda := rfl
@[simp] theorem mapLaunch_fresh (s : State) (l : Nat) (f : Launch → Launch) : (mapLaunch s l f).fresh = s.fresh := rfl
@[simp] theorem mapLaunch_issue (s : State) (l : Nat) (f : Launch → Launch) : (mapLaunch s l f).issue = s.issue := rfl
@[simp] theorem mapLaunch_threads (s : State) (l : Nat) (f : Launch → Launch) : (mapLaunch s l f).threads = s.threads := rfl
@[simp] theorem mapLaunch_gangs (s : State) (l : Nat) (f : Launch → Launch) : (mapLaunch s l f).gangs = s.gangs := rfl
@[simp] theorem mapLaunch_plans (s : State) (l : Nat) (f : Launch → Launch) : (mapLaunch s l f).plans = s.plans := rfl
@[simp] theorem mapLaunch_contexts (s : State) (l : Nat) (f : Launch → Launch) : (mapLaunch s l f).contexts = s.contexts := rfl
@[simp] theorem mapLaunch_queues (s : State) (l : Nat) (f : Launch → Launch) : (mapLaunch s l f).queues = s.queues := rfl
@[simp] theorem mapLaunch_deadQueues (s : State) (l : Nat) (f : Launch → Launch) : (mapLaunch s l f).deadQueues = s.deadQueues := rfl
@[simp] theorem mapLaunch_partitions (s : State) (l : Nat) (f : Launch → Launch) : (mapLaunch s l f).partitions = s.partitions := rfl
@[simp] theorem mapLaunch_ownPeer (s : State) (l : Nat) (f : Launch → Launch) : (mapLaunch s l f).ownPeer = s.ownPeer := rfl
@[simp] theorem mapLaunch_cores (s : State) (l : Nat) (f : Launch → Launch) : (mapLaunch s l f).cores = s.cores := rfl
@[simp] theorem mapLaunch_icache2 (s : State) (l : Nat) (f : Launch → Launch) : (mapLaunch s l f).icache2 = s.icache2 := rfl
@[simp] theorem mapLaunch_icache3 (s : State) (l : Nat) (f : Launch → Launch) : (mapLaunch s l f).icache3 = s.icache3 := rfl
@[simp] theorem mapLaunch_walkCache (s : State) (l : Nat) (f : Launch → Launch) : (mapLaunch s l f).walkCache = s.walkCache := rfl
@[simp] theorem mapLaunch_l2data (s : State) (l : Nat) (f : Launch → Launch) : (mapLaunch s l f).l2data = s.l2data := rfl
@[simp] theorem mapLaunch_directory (s : State) (l : Nat) (f : Launch → Launch) : (mapLaunch s l f).directory = s.directory := rfl
@[simp] theorem mapLaunch_copies (s : State) (l : Nat) (f : Launch → Launch) : (mapLaunch s l f).copies = s.copies := rfl
@[simp] theorem mapLaunch_tileOps (s : State) (l : Nat) (f : Launch → Launch) : (mapLaunch s l f).tileOps = s.tileOps := rfl
@[simp] theorem mapLaunch_tileRanges (s : State) (l : Nat) (f : Launch → Launch) : (mapLaunch s l f).tileRanges = s.tileRanges := rfl
@[simp] theorem mapLaunch_tiles (s : State) (l : Nat) (f : Launch → Launch) : (mapLaunch s l f).tiles = s.tiles := rfl
@[simp] theorem mapLaunch_engineLast (s : State) (l : Nat) (f : Launch → Launch) : (mapLaunch s l f).engineLast = s.engineLast := rfl
@[simp] theorem mapLaunch_starts (s : State) (l : Nat) (f : Launch → Launch) : (mapLaunch s l f).starts = s.starts := rfl
@[simp] theorem mapLaunch_startWaits (s : State) (l : Nat) (f : Launch → Launch) : (mapLaunch s l f).startWaits = s.startWaits := rfl
@[simp] theorem mapLaunch_moves (s : State) (l : Nat) (f : Launch → Launch) : (mapLaunch s l f).moves = s.moves := rfl
@[simp] theorem mapLaunch_rehomed (s : State) (l : Nat) (f : Launch → Launch) : (mapLaunch s l f).rehomed = s.rehomed := rfl
@[simp] theorem mapLaunch_faults (s : State) (l : Nat) (f : Launch → Launch) : (mapLaunch s l f).faults = s.faults := rfl
@[simp] theorem mapLaunch_faultQueues (s : State) (l : Nat) (f : Launch → Launch) : (mapLaunch s l f).faultQueues = s.faultQueues := rfl
@[simp] theorem mapLaunch_log (s : State) (l : Nat) (f : Launch → Launch) : (mapLaunch s l f).log = s.log := rfl
@[simp] theorem mapLaunch_mem (s : State) (l : Nat) (f : Launch → Launch) : (mapLaunch s l f).mem = s.mem := rfl
@[simp] theorem mapLaunch_badLines (s : State) (l : Nat) (f : Launch → Launch) : (mapLaunch s l f).badLines = s.badLines := rfl
@[simp] theorem mapLaunch_rewritten (s : State) (l : Nat) (f : Launch → Launch) : (mapLaunch s l f).rewritten = s.rewritten := rfl
@[simp] theorem mapLaunch_peerFaults (s : State) (l : Nat) (f : Launch → Launch) : (mapLaunch s l f).peerFaults = s.peerFaults := rfl
@[simp] theorem mapLaunch_peerPages (s : State) (l : Nat) (f : Launch → Launch) : (mapLaunch s l f).peerPages = s.peerPages := rfl
@[simp] theorem mapLaunch_hardErrors (s : State) (l : Nat) (f : Launch → Launch) : (mapLaunch s l f).hardErrors = s.hardErrors := rfl
@[simp] theorem mapLaunch_mode (s : State) (l : Nat) (f : Launch → Launch) : (mapLaunch s l f).mode = s.mode := rfl
@[simp] theorem mapLaunch_plimit (s : State) (l : Nat) (f : Launch → Launch) : (mapLaunch s l f).plimit = s.plimit := rfl
@[simp] theorem mapLaunch_clockWanted (s : State) (l : Nat) (f : Launch → Launch) : (mapLaunch s l f).clockWanted = s.clockWanted := rfl
@[simp] theorem mapLaunch_tripLimit (s : State) (l : Nat) (f : Launch → Launch) : (mapLaunch s l f).tripLimit = s.tripLimit := rfl
@[simp] theorem mapLaunch_timeBase (s : State) (l : Nat) (f : Launch → Launch) : (mapLaunch s l f).timeBase = s.timeBase := rfl
@[simp] theorem mapLaunch_frozen (s : State) (l : Nat) (f : Launch → Launch) : (mapLaunch s l f).frozen = s.frozen := rfl
@[simp] theorem mapLaunch_freezePin (s : State) (l : Nat) (f : Launch → Launch) : (mapLaunch s l f).freezePin = s.freezePin := rfl
@[simp] theorem mapLaunch_felt (s : State) (l : Nat) (f : Launch → Launch) : (mapLaunch s l f).felt = s.felt := rfl
@[simp] theorem mapLaunch_renhar (s : State) (l : Nat) (f : Launch → Launch) : (mapLaunch s l f).renhar = s.renhar := rfl
@[simp] theorem mapLaunch_port (s : State) (l : Nat) (f : Launch → Launch) : (mapLaunch s l f).port = s.port := rfl
@[simp] theorem mapLaunch_boot (s : State) (l : Nat) (f : Launch → Launch) : (mapLaunch s l f).boot = s.boot := rfl
@[simp] theorem mapLaunch_security (s : State) (l : Nat) (f : Launch → Launch) : (mapLaunch s l f).security = s.security := rfl
@[simp] theorem mapLaunch_nextHandle (s : State) (l : Nat) (f : Launch → Launch) : (mapLaunch s l f).nextHandle = s.nextHandle := rfl
@[simp] theorem mapLaunch_nextOp (s : State) (l : Nat) (f : Launch → Launch) : (mapLaunch s l f).nextOp = s.nextOp := rfl
@[simp] theorem mapLaunch_nextRegion (s : State) (l : Nat) (f : Launch → Launch) : (mapLaunch s l f).nextRegion = s.nextRegion := rfl
@[simp] theorem mapLaunch_cmdStatus (s : State) (l : Nat) (f : Launch → Launch) : (mapLaunch s l f).cmdStatus = s.cmdStatus := rfl
@[simp] theorem mapLaunch_rings (s : State) (l : Nat) (f : Launch → Launch) : (mapLaunch s l f).rings = s.rings := rfl
@[simp] theorem mapLaunch_wakes (s : State) (l : Nat) (f : Launch → Launch) : (mapLaunch s l f).wakes = s.wakes := rfl
@[simp] theorem mapLaunch_views (s : State) (l : Nat) (f : Launch → Launch) : (mapLaunch s l f).views = s.views := rfl

@[simp] theorem mapCtx_agenda (s : State) (n : Nat) (f : Context → Context) : (mapCtx s n f).agenda = s.agenda := rfl
@[simp] theorem mapCtx_fresh (s : State) (n : Nat) (f : Context → Context) : (mapCtx s n f).fresh = s.fresh := rfl
@[simp] theorem mapCtx_issue (s : State) (n : Nat) (f : Context → Context) : (mapCtx s n f).issue = s.issue := rfl
@[simp] theorem mapCtx_threads (s : State) (n : Nat) (f : Context → Context) : (mapCtx s n f).threads = s.threads := rfl
@[simp] theorem mapCtx_gangs (s : State) (n : Nat) (f : Context → Context) : (mapCtx s n f).gangs = s.gangs := rfl
@[simp] theorem mapCtx_launches (s : State) (n : Nat) (f : Context → Context) : (mapCtx s n f).launches = s.launches := rfl
@[simp] theorem mapCtx_plans (s : State) (n : Nat) (f : Context → Context) : (mapCtx s n f).plans = s.plans := rfl
@[simp] theorem mapCtx_queues (s : State) (n : Nat) (f : Context → Context) : (mapCtx s n f).queues = s.queues := rfl
@[simp] theorem mapCtx_deadQueues (s : State) (n : Nat) (f : Context → Context) : (mapCtx s n f).deadQueues = s.deadQueues := rfl
@[simp] theorem mapCtx_partitions (s : State) (n : Nat) (f : Context → Context) : (mapCtx s n f).partitions = s.partitions := rfl
@[simp] theorem mapCtx_ownPeer (s : State) (n : Nat) (f : Context → Context) : (mapCtx s n f).ownPeer = s.ownPeer := rfl
@[simp] theorem mapCtx_cores (s : State) (n : Nat) (f : Context → Context) : (mapCtx s n f).cores = s.cores := rfl
@[simp] theorem mapCtx_icache2 (s : State) (n : Nat) (f : Context → Context) : (mapCtx s n f).icache2 = s.icache2 := rfl
@[simp] theorem mapCtx_icache3 (s : State) (n : Nat) (f : Context → Context) : (mapCtx s n f).icache3 = s.icache3 := rfl
@[simp] theorem mapCtx_walkCache (s : State) (n : Nat) (f : Context → Context) : (mapCtx s n f).walkCache = s.walkCache := rfl
@[simp] theorem mapCtx_l2data (s : State) (n : Nat) (f : Context → Context) : (mapCtx s n f).l2data = s.l2data := rfl
@[simp] theorem mapCtx_directory (s : State) (n : Nat) (f : Context → Context) : (mapCtx s n f).directory = s.directory := rfl
@[simp] theorem mapCtx_copies (s : State) (n : Nat) (f : Context → Context) : (mapCtx s n f).copies = s.copies := rfl
@[simp] theorem mapCtx_tileOps (s : State) (n : Nat) (f : Context → Context) : (mapCtx s n f).tileOps = s.tileOps := rfl
@[simp] theorem mapCtx_tileRanges (s : State) (n : Nat) (f : Context → Context) : (mapCtx s n f).tileRanges = s.tileRanges := rfl
@[simp] theorem mapCtx_tiles (s : State) (n : Nat) (f : Context → Context) : (mapCtx s n f).tiles = s.tiles := rfl
@[simp] theorem mapCtx_engineLast (s : State) (n : Nat) (f : Context → Context) : (mapCtx s n f).engineLast = s.engineLast := rfl
@[simp] theorem mapCtx_starts (s : State) (n : Nat) (f : Context → Context) : (mapCtx s n f).starts = s.starts := rfl
@[simp] theorem mapCtx_startWaits (s : State) (n : Nat) (f : Context → Context) : (mapCtx s n f).startWaits = s.startWaits := rfl
@[simp] theorem mapCtx_moves (s : State) (n : Nat) (f : Context → Context) : (mapCtx s n f).moves = s.moves := rfl
@[simp] theorem mapCtx_rehomed (s : State) (n : Nat) (f : Context → Context) : (mapCtx s n f).rehomed = s.rehomed := rfl
@[simp] theorem mapCtx_faults (s : State) (n : Nat) (f : Context → Context) : (mapCtx s n f).faults = s.faults := rfl
@[simp] theorem mapCtx_faultQueues (s : State) (n : Nat) (f : Context → Context) : (mapCtx s n f).faultQueues = s.faultQueues := rfl
@[simp] theorem mapCtx_log (s : State) (n : Nat) (f : Context → Context) : (mapCtx s n f).log = s.log := rfl
@[simp] theorem mapCtx_mem (s : State) (n : Nat) (f : Context → Context) : (mapCtx s n f).mem = s.mem := rfl
@[simp] theorem mapCtx_badLines (s : State) (n : Nat) (f : Context → Context) : (mapCtx s n f).badLines = s.badLines := rfl
@[simp] theorem mapCtx_rewritten (s : State) (n : Nat) (f : Context → Context) : (mapCtx s n f).rewritten = s.rewritten := rfl
@[simp] theorem mapCtx_peerFaults (s : State) (n : Nat) (f : Context → Context) : (mapCtx s n f).peerFaults = s.peerFaults := rfl
@[simp] theorem mapCtx_peerPages (s : State) (n : Nat) (f : Context → Context) : (mapCtx s n f).peerPages = s.peerPages := rfl
@[simp] theorem mapCtx_hardErrors (s : State) (n : Nat) (f : Context → Context) : (mapCtx s n f).hardErrors = s.hardErrors := rfl
@[simp] theorem mapCtx_mode (s : State) (n : Nat) (f : Context → Context) : (mapCtx s n f).mode = s.mode := rfl
@[simp] theorem mapCtx_plimit (s : State) (n : Nat) (f : Context → Context) : (mapCtx s n f).plimit = s.plimit := rfl
@[simp] theorem mapCtx_clockWanted (s : State) (n : Nat) (f : Context → Context) : (mapCtx s n f).clockWanted = s.clockWanted := rfl
@[simp] theorem mapCtx_tripLimit (s : State) (n : Nat) (f : Context → Context) : (mapCtx s n f).tripLimit = s.tripLimit := rfl
@[simp] theorem mapCtx_timeBase (s : State) (n : Nat) (f : Context → Context) : (mapCtx s n f).timeBase = s.timeBase := rfl
@[simp] theorem mapCtx_frozen (s : State) (n : Nat) (f : Context → Context) : (mapCtx s n f).frozen = s.frozen := rfl
@[simp] theorem mapCtx_freezePin (s : State) (n : Nat) (f : Context → Context) : (mapCtx s n f).freezePin = s.freezePin := rfl
@[simp] theorem mapCtx_felt (s : State) (n : Nat) (f : Context → Context) : (mapCtx s n f).felt = s.felt := rfl
@[simp] theorem mapCtx_renhar (s : State) (n : Nat) (f : Context → Context) : (mapCtx s n f).renhar = s.renhar := rfl
@[simp] theorem mapCtx_port (s : State) (n : Nat) (f : Context → Context) : (mapCtx s n f).port = s.port := rfl
@[simp] theorem mapCtx_boot (s : State) (n : Nat) (f : Context → Context) : (mapCtx s n f).boot = s.boot := rfl
@[simp] theorem mapCtx_security (s : State) (n : Nat) (f : Context → Context) : (mapCtx s n f).security = s.security := rfl
@[simp] theorem mapCtx_nextHandle (s : State) (n : Nat) (f : Context → Context) : (mapCtx s n f).nextHandle = s.nextHandle := rfl
@[simp] theorem mapCtx_nextOp (s : State) (n : Nat) (f : Context → Context) : (mapCtx s n f).nextOp = s.nextOp := rfl
@[simp] theorem mapCtx_nextRegion (s : State) (n : Nat) (f : Context → Context) : (mapCtx s n f).nextRegion = s.nextRegion := rfl
@[simp] theorem mapCtx_cmdStatus (s : State) (n : Nat) (f : Context → Context) : (mapCtx s n f).cmdStatus = s.cmdStatus := rfl
@[simp] theorem mapCtx_rings (s : State) (n : Nat) (f : Context → Context) : (mapCtx s n f).rings = s.rings := rfl
@[simp] theorem mapCtx_wakes (s : State) (n : Nat) (f : Context → Context) : (mapCtx s n f).wakes = s.wakes := rfl
@[simp] theorem mapCtx_views (s : State) (n : Nat) (f : Context → Context) : (mapCtx s n f).views = s.views := rfl

@[simp] theorem mapQueue_agenda (s : State) (p q : Nat) (f : Queue → Queue) : (mapQueue s p q f).agenda = s.agenda := rfl
@[simp] theorem mapQueue_fresh (s : State) (p q : Nat) (f : Queue → Queue) : (mapQueue s p q f).fresh = s.fresh := rfl
@[simp] theorem mapQueue_issue (s : State) (p q : Nat) (f : Queue → Queue) : (mapQueue s p q f).issue = s.issue := rfl
@[simp] theorem mapQueue_threads (s : State) (p q : Nat) (f : Queue → Queue) : (mapQueue s p q f).threads = s.threads := rfl
@[simp] theorem mapQueue_gangs (s : State) (p q : Nat) (f : Queue → Queue) : (mapQueue s p q f).gangs = s.gangs := rfl
@[simp] theorem mapQueue_launches (s : State) (p q : Nat) (f : Queue → Queue) : (mapQueue s p q f).launches = s.launches := rfl
@[simp] theorem mapQueue_plans (s : State) (p q : Nat) (f : Queue → Queue) : (mapQueue s p q f).plans = s.plans := rfl
@[simp] theorem mapQueue_contexts (s : State) (p q : Nat) (f : Queue → Queue) : (mapQueue s p q f).contexts = s.contexts := rfl
@[simp] theorem mapQueue_deadQueues (s : State) (p q : Nat) (f : Queue → Queue) : (mapQueue s p q f).deadQueues = s.deadQueues := rfl
@[simp] theorem mapQueue_partitions (s : State) (p q : Nat) (f : Queue → Queue) : (mapQueue s p q f).partitions = s.partitions := rfl
@[simp] theorem mapQueue_ownPeer (s : State) (p q : Nat) (f : Queue → Queue) : (mapQueue s p q f).ownPeer = s.ownPeer := rfl
@[simp] theorem mapQueue_cores (s : State) (p q : Nat) (f : Queue → Queue) : (mapQueue s p q f).cores = s.cores := rfl
@[simp] theorem mapQueue_icache2 (s : State) (p q : Nat) (f : Queue → Queue) : (mapQueue s p q f).icache2 = s.icache2 := rfl
@[simp] theorem mapQueue_icache3 (s : State) (p q : Nat) (f : Queue → Queue) : (mapQueue s p q f).icache3 = s.icache3 := rfl
@[simp] theorem mapQueue_walkCache (s : State) (p q : Nat) (f : Queue → Queue) : (mapQueue s p q f).walkCache = s.walkCache := rfl
@[simp] theorem mapQueue_l2data (s : State) (p q : Nat) (f : Queue → Queue) : (mapQueue s p q f).l2data = s.l2data := rfl
@[simp] theorem mapQueue_directory (s : State) (p q : Nat) (f : Queue → Queue) : (mapQueue s p q f).directory = s.directory := rfl
@[simp] theorem mapQueue_copies (s : State) (p q : Nat) (f : Queue → Queue) : (mapQueue s p q f).copies = s.copies := rfl
@[simp] theorem mapQueue_tileOps (s : State) (p q : Nat) (f : Queue → Queue) : (mapQueue s p q f).tileOps = s.tileOps := rfl
@[simp] theorem mapQueue_tileRanges (s : State) (p q : Nat) (f : Queue → Queue) : (mapQueue s p q f).tileRanges = s.tileRanges := rfl
@[simp] theorem mapQueue_tiles (s : State) (p q : Nat) (f : Queue → Queue) : (mapQueue s p q f).tiles = s.tiles := rfl
@[simp] theorem mapQueue_engineLast (s : State) (p q : Nat) (f : Queue → Queue) : (mapQueue s p q f).engineLast = s.engineLast := rfl
@[simp] theorem mapQueue_starts (s : State) (p q : Nat) (f : Queue → Queue) : (mapQueue s p q f).starts = s.starts := rfl
@[simp] theorem mapQueue_startWaits (s : State) (p q : Nat) (f : Queue → Queue) : (mapQueue s p q f).startWaits = s.startWaits := rfl
@[simp] theorem mapQueue_moves (s : State) (p q : Nat) (f : Queue → Queue) : (mapQueue s p q f).moves = s.moves := rfl
@[simp] theorem mapQueue_rehomed (s : State) (p q : Nat) (f : Queue → Queue) : (mapQueue s p q f).rehomed = s.rehomed := rfl
@[simp] theorem mapQueue_faults (s : State) (p q : Nat) (f : Queue → Queue) : (mapQueue s p q f).faults = s.faults := rfl
@[simp] theorem mapQueue_faultQueues (s : State) (p q : Nat) (f : Queue → Queue) : (mapQueue s p q f).faultQueues = s.faultQueues := rfl
@[simp] theorem mapQueue_log (s : State) (p q : Nat) (f : Queue → Queue) : (mapQueue s p q f).log = s.log := rfl
@[simp] theorem mapQueue_mem (s : State) (p q : Nat) (f : Queue → Queue) : (mapQueue s p q f).mem = s.mem := rfl
@[simp] theorem mapQueue_badLines (s : State) (p q : Nat) (f : Queue → Queue) : (mapQueue s p q f).badLines = s.badLines := rfl
@[simp] theorem mapQueue_rewritten (s : State) (p q : Nat) (f : Queue → Queue) : (mapQueue s p q f).rewritten = s.rewritten := rfl
@[simp] theorem mapQueue_peerFaults (s : State) (p q : Nat) (f : Queue → Queue) : (mapQueue s p q f).peerFaults = s.peerFaults := rfl
@[simp] theorem mapQueue_peerPages (s : State) (p q : Nat) (f : Queue → Queue) : (mapQueue s p q f).peerPages = s.peerPages := rfl
@[simp] theorem mapQueue_hardErrors (s : State) (p q : Nat) (f : Queue → Queue) : (mapQueue s p q f).hardErrors = s.hardErrors := rfl
@[simp] theorem mapQueue_mode (s : State) (p q : Nat) (f : Queue → Queue) : (mapQueue s p q f).mode = s.mode := rfl
@[simp] theorem mapQueue_plimit (s : State) (p q : Nat) (f : Queue → Queue) : (mapQueue s p q f).plimit = s.plimit := rfl
@[simp] theorem mapQueue_clockWanted (s : State) (p q : Nat) (f : Queue → Queue) : (mapQueue s p q f).clockWanted = s.clockWanted := rfl
@[simp] theorem mapQueue_tripLimit (s : State) (p q : Nat) (f : Queue → Queue) : (mapQueue s p q f).tripLimit = s.tripLimit := rfl
@[simp] theorem mapQueue_timeBase (s : State) (p q : Nat) (f : Queue → Queue) : (mapQueue s p q f).timeBase = s.timeBase := rfl
@[simp] theorem mapQueue_frozen (s : State) (p q : Nat) (f : Queue → Queue) : (mapQueue s p q f).frozen = s.frozen := rfl
@[simp] theorem mapQueue_freezePin (s : State) (p q : Nat) (f : Queue → Queue) : (mapQueue s p q f).freezePin = s.freezePin := rfl
@[simp] theorem mapQueue_felt (s : State) (p q : Nat) (f : Queue → Queue) : (mapQueue s p q f).felt = s.felt := rfl
@[simp] theorem mapQueue_renhar (s : State) (p q : Nat) (f : Queue → Queue) : (mapQueue s p q f).renhar = s.renhar := rfl
@[simp] theorem mapQueue_port (s : State) (p q : Nat) (f : Queue → Queue) : (mapQueue s p q f).port = s.port := rfl
@[simp] theorem mapQueue_boot (s : State) (p q : Nat) (f : Queue → Queue) : (mapQueue s p q f).boot = s.boot := rfl
@[simp] theorem mapQueue_security (s : State) (p q : Nat) (f : Queue → Queue) : (mapQueue s p q f).security = s.security := rfl
@[simp] theorem mapQueue_nextHandle (s : State) (p q : Nat) (f : Queue → Queue) : (mapQueue s p q f).nextHandle = s.nextHandle := rfl
@[simp] theorem mapQueue_nextOp (s : State) (p q : Nat) (f : Queue → Queue) : (mapQueue s p q f).nextOp = s.nextOp := rfl
@[simp] theorem mapQueue_nextRegion (s : State) (p q : Nat) (f : Queue → Queue) : (mapQueue s p q f).nextRegion = s.nextRegion := rfl
@[simp] theorem mapQueue_cmdStatus (s : State) (p q : Nat) (f : Queue → Queue) : (mapQueue s p q f).cmdStatus = s.cmdStatus := rfl
@[simp] theorem mapQueue_rings (s : State) (p q : Nat) (f : Queue → Queue) : (mapQueue s p q f).rings = s.rings := rfl
@[simp] theorem mapQueue_wakes (s : State) (p q : Nat) (f : Queue → Queue) : (mapQueue s p q f).wakes = s.wakes := rfl
@[simp] theorem mapQueue_views (s : State) (p q : Nat) (f : Queue → Queue) : (mapQueue s p q f).views = s.views := rfl

@[simp] theorem putCore_agenda (s : State) (r : Core) : (putCore s r).agenda = s.agenda := by
  unfold putCore; split <;> rfl
@[simp] theorem putCore_fresh (s : State) (r : Core) : (putCore s r).fresh = s.fresh := by
  unfold putCore; split <;> rfl
@[simp] theorem putCore_issue (s : State) (r : Core) : (putCore s r).issue = s.issue := by
  unfold putCore; split <;> rfl
@[simp] theorem putCore_threads (s : State) (r : Core) : (putCore s r).threads = s.threads := by
  unfold putCore; split <;> rfl
@[simp] theorem putCore_gangs (s : State) (r : Core) : (putCore s r).gangs = s.gangs := by
  unfold putCore; split <;> rfl
@[simp] theorem putCore_launches (s : State) (r : Core) : (putCore s r).launches = s.launches := by
  unfold putCore; split <;> rfl
@[simp] theorem putCore_plans (s : State) (r : Core) : (putCore s r).plans = s.plans := by
  unfold putCore; split <;> rfl
@[simp] theorem putCore_contexts (s : State) (r : Core) : (putCore s r).contexts = s.contexts := by
  unfold putCore; split <;> rfl
@[simp] theorem putCore_queues (s : State) (r : Core) : (putCore s r).queues = s.queues := by
  unfold putCore; split <;> rfl
@[simp] theorem putCore_deadQueues (s : State) (r : Core) : (putCore s r).deadQueues = s.deadQueues := by
  unfold putCore; split <;> rfl
@[simp] theorem putCore_partitions (s : State) (r : Core) : (putCore s r).partitions = s.partitions := by
  unfold putCore; split <;> rfl
@[simp] theorem putCore_ownPeer (s : State) (r : Core) : (putCore s r).ownPeer = s.ownPeer := by
  unfold putCore; split <;> rfl
@[simp] theorem putCore_icache2 (s : State) (r : Core) : (putCore s r).icache2 = s.icache2 := by
  unfold putCore; split <;> rfl
@[simp] theorem putCore_icache3 (s : State) (r : Core) : (putCore s r).icache3 = s.icache3 := by
  unfold putCore; split <;> rfl
@[simp] theorem putCore_walkCache (s : State) (r : Core) : (putCore s r).walkCache = s.walkCache := by
  unfold putCore; split <;> rfl
@[simp] theorem putCore_l2data (s : State) (r : Core) : (putCore s r).l2data = s.l2data := by
  unfold putCore; split <;> rfl
@[simp] theorem putCore_directory (s : State) (r : Core) : (putCore s r).directory = s.directory := by
  unfold putCore; split <;> rfl
@[simp] theorem putCore_copies (s : State) (r : Core) : (putCore s r).copies = s.copies := by
  unfold putCore; split <;> rfl
@[simp] theorem putCore_tileOps (s : State) (r : Core) : (putCore s r).tileOps = s.tileOps := by
  unfold putCore; split <;> rfl
@[simp] theorem putCore_tileRanges (s : State) (r : Core) : (putCore s r).tileRanges = s.tileRanges := by
  unfold putCore; split <;> rfl
@[simp] theorem putCore_tiles (s : State) (r : Core) : (putCore s r).tiles = s.tiles := by
  unfold putCore; split <;> rfl
@[simp] theorem putCore_engineLast (s : State) (r : Core) : (putCore s r).engineLast = s.engineLast := by
  unfold putCore; split <;> rfl
@[simp] theorem putCore_starts (s : State) (r : Core) : (putCore s r).starts = s.starts := by
  unfold putCore; split <;> rfl
@[simp] theorem putCore_startWaits (s : State) (r : Core) : (putCore s r).startWaits = s.startWaits := by
  unfold putCore; split <;> rfl
@[simp] theorem putCore_moves (s : State) (r : Core) : (putCore s r).moves = s.moves := by
  unfold putCore; split <;> rfl
@[simp] theorem putCore_rehomed (s : State) (r : Core) : (putCore s r).rehomed = s.rehomed := by
  unfold putCore; split <;> rfl
@[simp] theorem putCore_faults (s : State) (r : Core) : (putCore s r).faults = s.faults := by
  unfold putCore; split <;> rfl
@[simp] theorem putCore_faultQueues (s : State) (r : Core) : (putCore s r).faultQueues = s.faultQueues := by
  unfold putCore; split <;> rfl
@[simp] theorem putCore_log (s : State) (r : Core) : (putCore s r).log = s.log := by
  unfold putCore; split <;> rfl
@[simp] theorem putCore_mem (s : State) (r : Core) : (putCore s r).mem = s.mem := by
  unfold putCore; split <;> rfl
@[simp] theorem putCore_badLines (s : State) (r : Core) : (putCore s r).badLines = s.badLines := by
  unfold putCore; split <;> rfl
@[simp] theorem putCore_rewritten (s : State) (r : Core) : (putCore s r).rewritten = s.rewritten := by
  unfold putCore; split <;> rfl
@[simp] theorem putCore_peerFaults (s : State) (r : Core) : (putCore s r).peerFaults = s.peerFaults := by
  unfold putCore; split <;> rfl
@[simp] theorem putCore_peerPages (s : State) (r : Core) : (putCore s r).peerPages = s.peerPages := by
  unfold putCore; split <;> rfl
@[simp] theorem putCore_hardErrors (s : State) (r : Core) : (putCore s r).hardErrors = s.hardErrors := by
  unfold putCore; split <;> rfl
@[simp] theorem putCore_mode (s : State) (r : Core) : (putCore s r).mode = s.mode := by
  unfold putCore; split <;> rfl
@[simp] theorem putCore_plimit (s : State) (r : Core) : (putCore s r).plimit = s.plimit := by
  unfold putCore; split <;> rfl
@[simp] theorem putCore_clockWanted (s : State) (r : Core) : (putCore s r).clockWanted = s.clockWanted := by
  unfold putCore; split <;> rfl
@[simp] theorem putCore_tripLimit (s : State) (r : Core) : (putCore s r).tripLimit = s.tripLimit := by
  unfold putCore; split <;> rfl
@[simp] theorem putCore_timeBase (s : State) (r : Core) : (putCore s r).timeBase = s.timeBase := by
  unfold putCore; split <;> rfl
@[simp] theorem putCore_frozen (s : State) (r : Core) : (putCore s r).frozen = s.frozen := by
  unfold putCore; split <;> rfl
@[simp] theorem putCore_freezePin (s : State) (r : Core) : (putCore s r).freezePin = s.freezePin := by
  unfold putCore; split <;> rfl
@[simp] theorem putCore_felt (s : State) (r : Core) : (putCore s r).felt = s.felt := by
  unfold putCore; split <;> rfl
@[simp] theorem putCore_renhar (s : State) (r : Core) : (putCore s r).renhar = s.renhar := by
  unfold putCore; split <;> rfl
@[simp] theorem putCore_port (s : State) (r : Core) : (putCore s r).port = s.port := by
  unfold putCore; split <;> rfl
@[simp] theorem putCore_boot (s : State) (r : Core) : (putCore s r).boot = s.boot := by
  unfold putCore; split <;> rfl
@[simp] theorem putCore_security (s : State) (r : Core) : (putCore s r).security = s.security := by
  unfold putCore; split <;> rfl
@[simp] theorem putCore_nextHandle (s : State) (r : Core) : (putCore s r).nextHandle = s.nextHandle := by
  unfold putCore; split <;> rfl
@[simp] theorem putCore_nextOp (s : State) (r : Core) : (putCore s r).nextOp = s.nextOp := by
  unfold putCore; split <;> rfl
@[simp] theorem putCore_nextRegion (s : State) (r : Core) : (putCore s r).nextRegion = s.nextRegion := by
  unfold putCore; split <;> rfl
@[simp] theorem putCore_cmdStatus (s : State) (r : Core) : (putCore s r).cmdStatus = s.cmdStatus := by
  unfold putCore; split <;> rfl
@[simp] theorem putCore_rings (s : State) (r : Core) : (putCore s r).rings = s.rings := by
  unfold putCore; split <;> rfl
@[simp] theorem putCore_wakes (s : State) (r : Core) : (putCore s r).wakes = s.wakes := by
  unfold putCore; split <;> rfl
@[simp] theorem putCore_views (s : State) (r : Core) : (putCore s r).views = s.views := by
  unfold putCore; split <;> rfl
@[simp] theorem mapCore_agenda (s : State) (c : Nat) (f : Core → Core) : (mapCore s c f).agenda = s.agenda := putCore_agenda _ _
@[simp] theorem mapCore_fresh (s : State) (c : Nat) (f : Core → Core) : (mapCore s c f).fresh = s.fresh := putCore_fresh _ _
@[simp] theorem mapCore_issue (s : State) (c : Nat) (f : Core → Core) : (mapCore s c f).issue = s.issue := putCore_issue _ _
@[simp] theorem mapCore_threads (s : State) (c : Nat) (f : Core → Core) : (mapCore s c f).threads = s.threads := putCore_threads _ _
@[simp] theorem mapCore_gangs (s : State) (c : Nat) (f : Core → Core) : (mapCore s c f).gangs = s.gangs := putCore_gangs _ _
@[simp] theorem mapCore_launches (s : State) (c : Nat) (f : Core → Core) : (mapCore s c f).launches = s.launches := putCore_launches _ _
@[simp] theorem mapCore_plans (s : State) (c : Nat) (f : Core → Core) : (mapCore s c f).plans = s.plans := putCore_plans _ _
@[simp] theorem mapCore_contexts (s : State) (c : Nat) (f : Core → Core) : (mapCore s c f).contexts = s.contexts := putCore_contexts _ _
@[simp] theorem mapCore_queues (s : State) (c : Nat) (f : Core → Core) : (mapCore s c f).queues = s.queues := putCore_queues _ _
@[simp] theorem mapCore_deadQueues (s : State) (c : Nat) (f : Core → Core) : (mapCore s c f).deadQueues = s.deadQueues := putCore_deadQueues _ _
@[simp] theorem mapCore_partitions (s : State) (c : Nat) (f : Core → Core) : (mapCore s c f).partitions = s.partitions := putCore_partitions _ _
@[simp] theorem mapCore_ownPeer (s : State) (c : Nat) (f : Core → Core) : (mapCore s c f).ownPeer = s.ownPeer := putCore_ownPeer _ _
@[simp] theorem mapCore_icache2 (s : State) (c : Nat) (f : Core → Core) : (mapCore s c f).icache2 = s.icache2 := putCore_icache2 _ _
@[simp] theorem mapCore_icache3 (s : State) (c : Nat) (f : Core → Core) : (mapCore s c f).icache3 = s.icache3 := putCore_icache3 _ _
@[simp] theorem mapCore_walkCache (s : State) (c : Nat) (f : Core → Core) : (mapCore s c f).walkCache = s.walkCache := putCore_walkCache _ _
@[simp] theorem mapCore_l2data (s : State) (c : Nat) (f : Core → Core) : (mapCore s c f).l2data = s.l2data := putCore_l2data _ _
@[simp] theorem mapCore_directory (s : State) (c : Nat) (f : Core → Core) : (mapCore s c f).directory = s.directory := putCore_directory _ _
@[simp] theorem mapCore_copies (s : State) (c : Nat) (f : Core → Core) : (mapCore s c f).copies = s.copies := putCore_copies _ _
@[simp] theorem mapCore_tileOps (s : State) (c : Nat) (f : Core → Core) : (mapCore s c f).tileOps = s.tileOps := putCore_tileOps _ _
@[simp] theorem mapCore_tileRanges (s : State) (c : Nat) (f : Core → Core) : (mapCore s c f).tileRanges = s.tileRanges := putCore_tileRanges _ _
@[simp] theorem mapCore_tiles (s : State) (c : Nat) (f : Core → Core) : (mapCore s c f).tiles = s.tiles := putCore_tiles _ _
@[simp] theorem mapCore_engineLast (s : State) (c : Nat) (f : Core → Core) : (mapCore s c f).engineLast = s.engineLast := putCore_engineLast _ _
@[simp] theorem mapCore_starts (s : State) (c : Nat) (f : Core → Core) : (mapCore s c f).starts = s.starts := putCore_starts _ _
@[simp] theorem mapCore_startWaits (s : State) (c : Nat) (f : Core → Core) : (mapCore s c f).startWaits = s.startWaits := putCore_startWaits _ _
@[simp] theorem mapCore_moves (s : State) (c : Nat) (f : Core → Core) : (mapCore s c f).moves = s.moves := putCore_moves _ _
@[simp] theorem mapCore_rehomed (s : State) (c : Nat) (f : Core → Core) : (mapCore s c f).rehomed = s.rehomed := putCore_rehomed _ _
@[simp] theorem mapCore_faults (s : State) (c : Nat) (f : Core → Core) : (mapCore s c f).faults = s.faults := putCore_faults _ _
@[simp] theorem mapCore_faultQueues (s : State) (c : Nat) (f : Core → Core) : (mapCore s c f).faultQueues = s.faultQueues := putCore_faultQueues _ _
@[simp] theorem mapCore_log (s : State) (c : Nat) (f : Core → Core) : (mapCore s c f).log = s.log := putCore_log _ _
@[simp] theorem mapCore_mem (s : State) (c : Nat) (f : Core → Core) : (mapCore s c f).mem = s.mem := putCore_mem _ _
@[simp] theorem mapCore_badLines (s : State) (c : Nat) (f : Core → Core) : (mapCore s c f).badLines = s.badLines := putCore_badLines _ _
@[simp] theorem mapCore_rewritten (s : State) (c : Nat) (f : Core → Core) : (mapCore s c f).rewritten = s.rewritten := putCore_rewritten _ _
@[simp] theorem mapCore_peerFaults (s : State) (c : Nat) (f : Core → Core) : (mapCore s c f).peerFaults = s.peerFaults := putCore_peerFaults _ _
@[simp] theorem mapCore_peerPages (s : State) (c : Nat) (f : Core → Core) : (mapCore s c f).peerPages = s.peerPages := putCore_peerPages _ _
@[simp] theorem mapCore_hardErrors (s : State) (c : Nat) (f : Core → Core) : (mapCore s c f).hardErrors = s.hardErrors := putCore_hardErrors _ _
@[simp] theorem mapCore_mode (s : State) (c : Nat) (f : Core → Core) : (mapCore s c f).mode = s.mode := putCore_mode _ _
@[simp] theorem mapCore_plimit (s : State) (c : Nat) (f : Core → Core) : (mapCore s c f).plimit = s.plimit := putCore_plimit _ _
@[simp] theorem mapCore_clockWanted (s : State) (c : Nat) (f : Core → Core) : (mapCore s c f).clockWanted = s.clockWanted := putCore_clockWanted _ _
@[simp] theorem mapCore_tripLimit (s : State) (c : Nat) (f : Core → Core) : (mapCore s c f).tripLimit = s.tripLimit := putCore_tripLimit _ _
@[simp] theorem mapCore_timeBase (s : State) (c : Nat) (f : Core → Core) : (mapCore s c f).timeBase = s.timeBase := putCore_timeBase _ _
@[simp] theorem mapCore_frozen (s : State) (c : Nat) (f : Core → Core) : (mapCore s c f).frozen = s.frozen := putCore_frozen _ _
@[simp] theorem mapCore_freezePin (s : State) (c : Nat) (f : Core → Core) : (mapCore s c f).freezePin = s.freezePin := putCore_freezePin _ _
@[simp] theorem mapCore_felt (s : State) (c : Nat) (f : Core → Core) : (mapCore s c f).felt = s.felt := putCore_felt _ _
@[simp] theorem mapCore_renhar (s : State) (c : Nat) (f : Core → Core) : (mapCore s c f).renhar = s.renhar := putCore_renhar _ _
@[simp] theorem mapCore_port (s : State) (c : Nat) (f : Core → Core) : (mapCore s c f).port = s.port := putCore_port _ _
@[simp] theorem mapCore_boot (s : State) (c : Nat) (f : Core → Core) : (mapCore s c f).boot = s.boot := putCore_boot _ _
@[simp] theorem mapCore_security (s : State) (c : Nat) (f : Core → Core) : (mapCore s c f).security = s.security := putCore_security _ _
@[simp] theorem mapCore_nextHandle (s : State) (c : Nat) (f : Core → Core) : (mapCore s c f).nextHandle = s.nextHandle := putCore_nextHandle _ _
@[simp] theorem mapCore_nextOp (s : State) (c : Nat) (f : Core → Core) : (mapCore s c f).nextOp = s.nextOp := putCore_nextOp _ _
@[simp] theorem mapCore_nextRegion (s : State) (c : Nat) (f : Core → Core) : (mapCore s c f).nextRegion = s.nextRegion := putCore_nextRegion _ _
@[simp] theorem mapCore_cmdStatus (s : State) (c : Nat) (f : Core → Core) : (mapCore s c f).cmdStatus = s.cmdStatus := putCore_cmdStatus _ _
@[simp] theorem mapCore_rings (s : State) (c : Nat) (f : Core → Core) : (mapCore s c f).rings = s.rings := putCore_rings _ _
@[simp] theorem mapCore_wakes (s : State) (c : Nat) (f : Core → Core) : (mapCore s c f).wakes = s.wakes := putCore_wakes _ _
@[simp] theorem mapCore_views (s : State) (c : Nat) (f : Core → Core) : (mapCore s c f).views = s.views := putCore_views _ _
@[simp] theorem count_agenda (c k n : Nat) (s : State) : (count c k n s).agenda = s.agenda := by
  unfold count; split <;> simp
@[simp] theorem count_fresh (c k n : Nat) (s : State) : (count c k n s).fresh = s.fresh := by
  unfold count; split <;> simp
@[simp] theorem count_issue (c k n : Nat) (s : State) : (count c k n s).issue = s.issue := by
  unfold count; split <;> simp
@[simp] theorem count_threads (c k n : Nat) (s : State) : (count c k n s).threads = s.threads := by
  unfold count; split <;> simp
@[simp] theorem count_gangs (c k n : Nat) (s : State) : (count c k n s).gangs = s.gangs := by
  unfold count; split <;> simp
@[simp] theorem count_launches (c k n : Nat) (s : State) : (count c k n s).launches = s.launches := by
  unfold count; split <;> simp
@[simp] theorem count_plans (c k n : Nat) (s : State) : (count c k n s).plans = s.plans := by
  unfold count; split <;> simp
@[simp] theorem count_contexts (c k n : Nat) (s : State) : (count c k n s).contexts = s.contexts := by
  unfold count; split <;> simp
@[simp] theorem count_queues (c k n : Nat) (s : State) : (count c k n s).queues = s.queues := by
  unfold count; split <;> simp
@[simp] theorem count_deadQueues (c k n : Nat) (s : State) : (count c k n s).deadQueues = s.deadQueues := by
  unfold count; split <;> simp
@[simp] theorem count_partitions (c k n : Nat) (s : State) : (count c k n s).partitions = s.partitions := by
  unfold count; split <;> simp
@[simp] theorem count_ownPeer (c k n : Nat) (s : State) : (count c k n s).ownPeer = s.ownPeer := by
  unfold count; split <;> simp
@[simp] theorem count_icache2 (c k n : Nat) (s : State) : (count c k n s).icache2 = s.icache2 := by
  unfold count; split <;> simp
@[simp] theorem count_icache3 (c k n : Nat) (s : State) : (count c k n s).icache3 = s.icache3 := by
  unfold count; split <;> simp
@[simp] theorem count_walkCache (c k n : Nat) (s : State) : (count c k n s).walkCache = s.walkCache := by
  unfold count; split <;> simp
@[simp] theorem count_l2data (c k n : Nat) (s : State) : (count c k n s).l2data = s.l2data := by
  unfold count; split <;> simp
@[simp] theorem count_directory (c k n : Nat) (s : State) : (count c k n s).directory = s.directory := by
  unfold count; split <;> simp
@[simp] theorem count_copies (c k n : Nat) (s : State) : (count c k n s).copies = s.copies := by
  unfold count; split <;> simp
@[simp] theorem count_tileOps (c k n : Nat) (s : State) : (count c k n s).tileOps = s.tileOps := by
  unfold count; split <;> simp
@[simp] theorem count_tileRanges (c k n : Nat) (s : State) : (count c k n s).tileRanges = s.tileRanges := by
  unfold count; split <;> simp
@[simp] theorem count_tiles (c k n : Nat) (s : State) : (count c k n s).tiles = s.tiles := by
  unfold count; split <;> simp
@[simp] theorem count_engineLast (c k n : Nat) (s : State) : (count c k n s).engineLast = s.engineLast := by
  unfold count; split <;> simp
@[simp] theorem count_starts (c k n : Nat) (s : State) : (count c k n s).starts = s.starts := by
  unfold count; split <;> simp
@[simp] theorem count_startWaits (c k n : Nat) (s : State) : (count c k n s).startWaits = s.startWaits := by
  unfold count; split <;> simp
@[simp] theorem count_moves (c k n : Nat) (s : State) : (count c k n s).moves = s.moves := by
  unfold count; split <;> simp
@[simp] theorem count_rehomed (c k n : Nat) (s : State) : (count c k n s).rehomed = s.rehomed := by
  unfold count; split <;> simp
@[simp] theorem count_faults (c k n : Nat) (s : State) : (count c k n s).faults = s.faults := by
  unfold count; split <;> simp
@[simp] theorem count_faultQueues (c k n : Nat) (s : State) : (count c k n s).faultQueues = s.faultQueues := by
  unfold count; split <;> simp
@[simp] theorem count_log (c k n : Nat) (s : State) : (count c k n s).log = s.log := by
  unfold count; split <;> simp
@[simp] theorem count_mem (c k n : Nat) (s : State) : (count c k n s).mem = s.mem := by
  unfold count; split <;> simp
@[simp] theorem count_badLines (c k n : Nat) (s : State) : (count c k n s).badLines = s.badLines := by
  unfold count; split <;> simp
@[simp] theorem count_rewritten (c k n : Nat) (s : State) : (count c k n s).rewritten = s.rewritten := by
  unfold count; split <;> simp
@[simp] theorem count_peerFaults (c k n : Nat) (s : State) : (count c k n s).peerFaults = s.peerFaults := by
  unfold count; split <;> simp
@[simp] theorem count_peerPages (c k n : Nat) (s : State) : (count c k n s).peerPages = s.peerPages := by
  unfold count; split <;> simp
@[simp] theorem count_hardErrors (c k n : Nat) (s : State) : (count c k n s).hardErrors = s.hardErrors := by
  unfold count; split <;> simp
@[simp] theorem count_mode (c k n : Nat) (s : State) : (count c k n s).mode = s.mode := by
  unfold count; split <;> simp
@[simp] theorem count_plimit (c k n : Nat) (s : State) : (count c k n s).plimit = s.plimit := by
  unfold count; split <;> simp
@[simp] theorem count_clockWanted (c k n : Nat) (s : State) : (count c k n s).clockWanted = s.clockWanted := by
  unfold count; split <;> simp
@[simp] theorem count_tripLimit (c k n : Nat) (s : State) : (count c k n s).tripLimit = s.tripLimit := by
  unfold count; split <;> simp
@[simp] theorem count_timeBase (c k n : Nat) (s : State) : (count c k n s).timeBase = s.timeBase := by
  unfold count; split <;> simp
@[simp] theorem count_frozen (c k n : Nat) (s : State) : (count c k n s).frozen = s.frozen := by
  unfold count; split <;> simp
@[simp] theorem count_freezePin (c k n : Nat) (s : State) : (count c k n s).freezePin = s.freezePin := by
  unfold count; split <;> simp
@[simp] theorem count_felt (c k n : Nat) (s : State) : (count c k n s).felt = s.felt := by
  unfold count; split <;> simp
@[simp] theorem count_renhar (c k n : Nat) (s : State) : (count c k n s).renhar = s.renhar := by
  unfold count; split <;> simp
@[simp] theorem count_port (c k n : Nat) (s : State) : (count c k n s).port = s.port := by
  unfold count; split <;> simp
@[simp] theorem count_boot (c k n : Nat) (s : State) : (count c k n s).boot = s.boot := by
  unfold count; split <;> simp
@[simp] theorem count_security (c k n : Nat) (s : State) : (count c k n s).security = s.security := by
  unfold count; split <;> simp
@[simp] theorem count_nextHandle (c k n : Nat) (s : State) : (count c k n s).nextHandle = s.nextHandle := by
  unfold count; split <;> simp
@[simp] theorem count_nextOp (c k n : Nat) (s : State) : (count c k n s).nextOp = s.nextOp := by
  unfold count; split <;> simp
@[simp] theorem count_nextRegion (c k n : Nat) (s : State) : (count c k n s).nextRegion = s.nextRegion := by
  unfold count; split <;> simp
@[simp] theorem count_cmdStatus (c k n : Nat) (s : State) : (count c k n s).cmdStatus = s.cmdStatus := by
  unfold count; split <;> simp
@[simp] theorem count_rings (c k n : Nat) (s : State) : (count c k n s).rings = s.rings := by
  unfold count; split <;> simp
@[simp] theorem count_wakes (c k n : Nat) (s : State) : (count c k n s).wakes = s.wakes := by
  unfold count; split <;> simp
@[simp] theorem count_views (c k n : Nat) (s : State) : (count c k n s).views = s.views := by
  unfold count; split <;> simp
end Sys2Proof.Machine
end

