-- ==== Sys2Proof/Laws/Shared.lean ====
section
/-! SUPPORT. What the operations shared by several families can do: packets of the Felt, writes at a home, the caches,
reservations. -/

namespace Sys2Proof.Machine

set_option Elab.async false

/-! ### The Felt: nothing but its own state changes -/

theorem feltPost_felt (s : State) (src dst : Nat) (p : Bool) (tag : Nat) (b : FeltBody) (x : Option (Nat × Nat)) (k : Option AckKind) :
    feltPost s src dst p tag b x k = { s with felt := (feltPost s src dst p tag b x k).felt } := by
  unfold feltPost
  split <;> rfl

theorem threadPost_felt (s : State) (t : Thread) (dst : Nat) (p : Bool) (b : FeltBody) (k : Option AckKind) :
    threadPost s t dst p b k = { s with felt := (threadPost s t dst p b k).felt } := feltPost_felt _ _ _ _ _ _ _ _

theorem deliver_felt (s : State) (p : FeltPacket) : deliver s p = { s with felt := (deliver s p).felt } := rfl

theorem messageOf_felt {n : Nat} {s s' : State} {src dst : Nat} {p : Bool} {tag : Nat}
    (h : messageOf n s src dst p tag = some s') : s' = { s with felt := s'.felt } := by
  unfold messageOf at h
  split at h
  · cases h; rfl
  · split at h
    · cases h
    · simp only at h
      split at h
      · cases h
      · split at h
        · cases h; rw [feltPost_felt]; rfl
        · cases h

theorem message_felt {s s' : State} {src dst : Nat} {p : Bool} {tag : Nat} (h : message s src dst p tag = some s') :
    s' = { s with felt := s'.felt } := messageOf_felt h

theorem messages_felt (tag : Nat) : ∀ (l : List (Nat × Nat)) (s s' : State),
    l.foldlM (fun y p => message y p.1 p.2 true tag) s = some s' → s' = { s with felt := s'.felt } := by
  intro l
  induction l with
  | nil => intro s s' h; cases h; rfl
  | cons x xs ih =>
    intro s s' h
    obtain ⟨s1, h1, h2⟩ := Option.bind_eq_some_iff.mp h
    rw [ih s1 s' h2, message_felt h1]

/-- What dies know is passed on by messages alone. -/
theorem tell_felt {s s' : State} {tag : Nat} {froms tos : List Nat} (h : tell s tag froms tos = some s') :
    s' = { s with felt := s'.felt } := by
  unfold tell at h
  split at h
  · cases h; rfl
  · exact messages_felt tag _ s s' h

/-- Without causal delivery nothing is passed on, and nothing waited for. -/
theorem tell_off (s : State) (tag : Nat) (froms tos : List Nat) (h : s.mode.causal = false) : tell s tag froms tos = some s := by
  simp [tell, h]

theorem peerSend_felt (s : State) (t : Thread) (p : Bool) (peer va : Nat) (k : RenharKind) :
    peerSend s t p peer va k = { s with felt := (peerSend s t p peer va k).felt } := threadPost_felt _ _ _ _ _ _

theorem roundTrip_felt {s s' : State} {src dst : Nat} {p q : Bool} {tag : Nat} (h : roundTrip s src dst p q tag = some s') :
    s' = { s with felt := s'.felt } := by
  obtain ⟨s1, h1, h2⟩ := Option.bind_eq_some_iff.mp h
  rw [messageOf_felt h2, message_felt h1]

/-! ### The host port: nothing but its own state changes -/

theorem sendPort_frame (s : State) (r : PortReply) : sendPort s r = { s with port := (sendPort s r).port } := by
  unfold sendPort
  split <;> rfl

theorem portRead_frame (s : State) (wpa n : Nat) : portRead s wpa n = { s with port := (portRead s wpa n).port } := by
  unfold portRead
  split
  · rfl
  · exact sendPort_frame _ _

theorem portWrite_frame (s : State) (wpa n v : Nat) : portWrite s wpa n v = { s with port := (portWrite s wpa n v).port } := by
  unfold portWrite
  split
  · rfl
  · exact sendPort_frame _ _

/-! ### Writes at a home -/

@[simp] theorem homePut_mem (s : State) (die loc n v : Nat) : (homePut s die loc n v).mem = writeNat s.mem loc n v := rfl

theorem rewrite_frame (s : State) (loc n : Nat) :
    rewrite s loc n = { s with badLines := (rewrite s loc n).badLines, rewritten := (rewrite s loc n).rewritten } := by
  unfold rewrite
  split
  · dsimp only
    split <;> rfl
  · rfl

/-- A write at a home changes memory, the owned words of other dies' copies, and what is known of a bad line. -/
theorem homePut_frame (s : State) (die loc n v : Nat) :
    homePut s die loc n v = { s with mem := writeNat s.mem loc n v, l2data := (homePut s die loc n v).l2data,
                                     badLines := (rewrite s loc n).badLines, rewritten := (rewrite s loc n).rewritten } := by
  have e : rewrite (disownOthers s die loc n) loc n = { rewrite s loc n with l2data := (disownOthers s die loc n).l2data } := by
    simp only [rewrite, show isBad (disownOthers s die loc n) loc = isBad s loc from rfl,
      show (disownOthers s die loc n).rewritten = s.rewritten from rfl]
    split
    · split <;> rfl
    · rfl
  simp only [homePut, e]
  rw [rewrite_frame s loc n]
  rfl

theorem homePut_wf {s : State} (die loc n v : Nat) (h : Memory.wf s.mem = true) : Memory.wf (homePut s die loc n v).mem = true :=
  writeNat_wf _ _ _ h

theorem homePutBytes_wf (die : Nat) : ∀ (fuel loc : Nat) (b : List Byte) (s : State), Memory.wf s.mem = true →
    Memory.wf (homePutBytes s die fuel loc b).mem = true := by
  intro fuel
  induction fuel with
  | zero => intro loc b s h; cases b <;> exact h
  | succ k ih =>
    intro loc b s h
    cases b with
    | nil => exact h
    | cons x xs => exact ih _ _ _ (homePut_wf _ _ _ _ h)

/-! ### Caches -/

/-- Self-invalidation changes the core's row and the die's copies. -/
theorem selfInvalidate_frame (s : State) (c : Nat) :
    selfInvalidate s c = { s with cores := (selfInvalidate s c).cores, l2data := (selfInvalidate s c).l2data } := by
  unfold selfInvalidate
  simp only
  split
  · rfl
  · unfold mapCore putCore
    split <;> rfl

/-! ### Reservations -/

theorem giveUp_frame (s : State) (p : AdmitPlan) :
    giveUp s p = { s with gangs := (giveUp s p).gangs, cores := (giveUp s p).cores } := rfl

theorem releasePlan_frame (s : State) (p : AdmitPlan) :
    releasePlan s p = { s with gangs := (giveUp s p).gangs, cores := (giveUp s p).cores, plans := (releasePlan s p).plans } := rfl

/-! ### Sending depends on the Felt and the mode alone -/

theorem feltPost_congr {u v : State} (hf : u.felt = v.felt) (hm : u.mode = v.mode) (src dst : Nat) (p : Bool) (tag : Nat)
    (b : FeltBody) (x : Option (Nat × Nat)) (k : Option AckKind) :
    (feltPost u src dst p tag b x k).felt = (feltPost v src dst p tag b x k).felt := by
  unfold feltPost isLiveDie clockOf creditsUsed feltQueue putClock
  rw [hf, hm]
  split
  · exact hf
  · rfl

theorem routed_congr {u v : State} (hf : u.felt = v.felt) (src dst : Nat) : routed u src dst = routed v src dst := by
  have h : extendRoutes u = extendRoutes v := by
    unfold extendRoutes feltNeighbours linkUp; rw [hf]
  unfold routed feltRoute routesFrom; rw [hf, h]

theorem feltReady_congr {u v : State} (hf : u.felt = v.felt) (hm : u.mode = v.mode) (src dst : Nat) :
    feltReady u src dst = feltReady v src dst := by
  unfold feltReady isLiveDie creditsUsed sharedUse feltQueue clockOf; rw [hf, hm]

theorem messageOf_isSome (s : State) (n src dst : Nat) (p : Bool) (tag : Nat) :
    (messageOf n s src dst p tag).isSome = ((decide (src = dst) || !(isLiveDie s dst) || !(isLiveDie s src))
      || (!(!(feltQueue s src dst).isEmpty || !feltReady s src dst || !routed s src dst)
        && let s1 := feltPost s src dst p tag (.message n) none none
           (feltQueue s1 src dst).getLast?.any (deliverable s1))) := by
  unfold messageOf
  cases (decide (src = dst) || !(isLiveDie s dst) || !(isLiveDie s src))
  · cases (!(feltQueue s src dst).isEmpty || !feltReady s src dst || !routed s src dst)
    · simp only [Bool.false_eq_true, if_false, Bool.not_false, Bool.true_and, Bool.false_or]
      cases h : (feltQueue (feltPost s src dst p tag (.message n) none none) src dst).getLast? with
      | none => rfl
      | some q =>
        simp only [Option.any]
        cases deliverable (feltPost s src dst p tag (.message n) none none) q <;> rfl
    · rfl
  · rfl

/-- Whether a message can be sent now is a matter of the Felt and of the mode. -/
theorem message_isSome_congr {u v : State} (hf : u.felt = v.felt) (hm : u.mode = v.mode) (src dst : Nat) (p : Bool) (tag : Nat) :
    (message u src dst p tag).isSome = (message v src dst p tag).isSome := by
  have hp := feltPost_congr hf hm src dst p tag (.message 0) none none
  unfold message
  rw [messageOf_isSome, messageOf_isSome, feltReady_congr hf hm, routed_congr hf]
  have hd : deliverable (feltPost u src dst p tag (.message 0) none none)
      = deliverable (feltPost v src dst p tag (.message 0) none none) := by
    unfold deliverable clockOf; rw [hp]
  simp only [isLiveDie, feltQueue, hf, hp, hd]

end Sys2Proof.Machine
end

