-- ==== Sys2Proof/Laws/Words.lean ====
section
/-! SUPPORT. From what a word does in one lane to what it does: one lemma per shape of word. -/

namespace Sys2Proof.Machine

open Sys2Proof (Byte Word DWord Instr)

set_option Elab.async false

/-- Any word whose lanes act each for itself. -/
theorem does_of_lane {i : Instr} {s : State} {iss : Issue} {g : BitVec 2} {h : Thread → Thread}
    {f : State → Issue → Thread → Except LaneEnd Thread} (hs : Alone s iss) (hi : exec i s = laneWord g f s)
    (hf : ∀ t ∈ s.threads, isActive iss g t = true → f s iss t = .ok (h t))
    (hk : ∀ t ∈ s.threads, isActive iss g t = true → Kept t (h t)) : Does i s iss g h := by
  unfold Does; rw [hi]; exact laneWord_kept hs hf hk

theorem leads_of_lane {i : Instr} {s : State} {iss : Issue} {g : BitVec 2} {h : Thread → Thread}
    {f : State → Issue → Thread → Except LaneEnd Thread} (hs : Alone s iss) (hi : exec i s = laneWord g f s)
    (hf : ∀ t ∈ s.threads, isActive iss g t = true → f s iss t = .ok (h t)) : Leads i s iss g h := by
  intro he; rw [hi]; exact laneWord_settled hs hf he

theorem Kept.src2 {s : State} {iss : Issue} {t u v : Thread} {a b : BitVec 7} {x y : Word}
    (h : src32 s iss t a = .ok (x, u)) (k : src32 s iss u b = .ok (y, v)) : Kept t v :=
  (kept_src32 h).trans (kept_src32 k)

theorem word1_of_lane {i : Instr} {g : BitVec 2} {d a : BitVec 7} {w : BitVec 1} {f f' : Word → Word}
    (hi : ∀ s, exec i s = laneWord g (lane1 d a w f') s) (hf : ∀ x, f' x = f x) : Word1 i .ab g d a w f := by
  intro s iss x r hs hr
  have e : ∀ t ∈ s.threads, isActive iss g t = true → lane1 d a w f' s iss t = .ok (result32 iss .ab d w (f (x t)) (r t)) := by
    intro t ht ha
    unfold lane1; rw [hr t ht ha]; dsimp only; rw [hf]
  exact ⟨fun hd => does_of_lane hs (hi s) e fun t ht ha => (kept_src32 (hr t ht ha)).trans (kept_result32 _ _ _ _ _ _ hd),
    leads_of_lane hs (hi s) e⟩

theorem word2_of_lane {i : Instr} {g : BitVec 2} {d a b : BitVec 7} {w : BitVec 1} {f : Thread → Word → Word → Word}
    {f' : Thread → Word → Word → Word}
    (hi : ∀ s, exec i s = laneWord g (fun s iss t => lane2 d a b w (f' t) s iss t) s) (hf : ∀ t x y, f' t x y = f t x y) :
    Word2 i .ab g d a b w f := by
  intro s iss x y r hs hr
  have e : ∀ t ∈ s.threads, isActive iss g t = true →
      lane2 d a b w (f' t) s iss t = .ok (result32 iss .ab d w (f t (x t) (y t)) (r t)) := by
    intro t ht ha
    obtain ⟨u, h1, h2⟩ := hr t ht ha
    unfold lane2; rw [h1]; dsimp only; rw [h2]; dsimp only; rw [hf]
  refine ⟨fun hd => does_of_lane hs (hi s) e fun t ht ha => ?_, leads_of_lane hs (hi s) e⟩
  obtain ⟨u, h1, h2⟩ := hr t ht ha
  exact (Kept.src2 h1 h2).trans (kept_result32 _ _ _ _ _ _ hd)

theorem word3_of_lane {i : Instr} {g : BitVec 2} {d a b : BitVec 7} {w : BitVec 1} {f f' : Word → Word → Word → Word}
    (hi : ∀ s, exec i s = laneWord g (lane3 d a b w f') s) (hf : ∀ x y z, f' x y z = f x y z) :
    Word3 i .ab g d a b w f := by
  intro s iss x y z r hs hr
  have e : ∀ t ∈ s.threads, isActive iss g t = true →
      lane3 d a b w f' s iss t = .ok (result32 iss .ab d w (f (x t) (y t) (z t)) (r t)) := by
    intro t ht ha
    obtain ⟨u, v, h1, h2, h3⟩ := hr t ht ha
    unfold lane3; rw [h1]; dsimp only; rw [h2]; dsimp only; rw [h3]; dsimp only; rw [hf]
  refine ⟨fun hd => does_of_lane hs (hi s) e fun t ht ha => ?_, leads_of_lane hs (hi s) e⟩
  obtain ⟨u, v, h1, h2, h3⟩ := hr t ht ha
  exact ((Kept.src2 h1 h2).trans (kept_src32 h3)).trans (kept_result32 _ _ _ _ _ _ hd)

theorem word64_of_lane {i : Instr} {g : BitVec 2} {d a b : BitVec 7} {w : BitVec 1} {f : DWord → DWord → DWord}
    (hi : ∀ s, exec i s = laneWord g (lane64 d a b w f) s) : Word64 i .ab g d a b w f :=
  fun s _ hs => does_of_lane hs (hi s) (fun _ _ _ => rfl) fun _ _ _ => kept_result64 _ _ _ _ _ _

theorem kept_addFlags (f : BitVec 8) (t : Thread) : Kept t (addFlags f t) := ⟨rfl, rfl, rfl, rfl, rfl, rfl, rfl⟩

theorem kept_resultF (iss : Issue) (p : Pipe) (d : BitVec 7) (w : BitVec 1) (v : Word × BitVec 8) (t : Thread)
    (h : ToRegister d w) : Kept t (resultF iss p d w v t) :=
  (kept_result32 _ _ _ _ _ _ h).trans (kept_addFlags _ _)

theorem fword1_of_lane {i : Instr} {p : Pipe} {g : BitVec 2} {d a : BitVec 7} {w : BitVec 1}
    {f f' : Rounding → Word → Word × BitVec 8} (hi : ∀ s, exec i s = laneWord g (laneF1 p d a w f') s)
    (hf : ∀ r x, f' r x = f r x) : FWord1 i p g d a w f := by
  intro s iss x r hs hr
  have e : ∀ t ∈ s.threads, isActive iss g t = true →
      laneF1 p d a w f' s iss t = .ok (resultF iss p d w (f (laneRounding t) (x t)) (r t)) := by
    intro t ht ha
    unfold laneF1; rw [hr t ht ha]; dsimp only; rw [hf]
  exact ⟨fun hd => does_of_lane hs (hi s) e fun t ht ha => (kept_src32 (hr t ht ha)).trans (kept_resultF _ _ _ _ _ _ hd),
    leads_of_lane hs (hi s) e⟩

theorem fword2_of_lane {i : Instr} {g : BitVec 2} {d a b : BitVec 7} {w : BitVec 1}
    {f f' : Rounding → Word → Word → Word × BitVec 8} (hi : ∀ s, exec i s = laneWord g (laneF2 d a b w f') s)
    (hf : ∀ r x y, f' r x y = f r x y) : FWord2 i .ab g d a b w f := by
  intro s iss x y r hs hr
  have e : ∀ t ∈ s.threads, isActive iss g t = true →
      laneF2 d a b w f' s iss t = .ok (resultF iss .ab d w (f (laneRounding t) (x t) (y t)) (r t)) := by
    intro t ht ha
    obtain ⟨u, h1, h2⟩ := hr t ht ha
    unfold laneF2; rw [h1]; dsimp only; rw [h2]; dsimp only; rw [hf]
  refine ⟨fun hd => does_of_lane hs (hi s) e fun t ht ha => ?_, leads_of_lane hs (hi s) e⟩
  obtain ⟨u, h1, h2⟩ := hr t ht ha
  exact (Kept.src2 h1 h2).trans (kept_resultF _ _ _ _ _ _ hd)

theorem fword3_of_lane {i : Instr} {g : BitVec 2} {d a b : BitVec 7} {w : BitVec 1}
    {f : Rounding → Word → Word → Word → Word × BitVec 8} (hi : ∀ s, exec i s = laneWord g (laneF3 d a b w f) s) :
    FWord3 i .ab g d a b w f := by
  intro s iss x y z r hs hr
  have e : ∀ t ∈ s.threads, isActive iss g t = true →
      laneF3 d a b w f s iss t = .ok (resultF iss .ab d w (f (laneRounding t) (x t) (y t) (z t)) (r t)) := by
    intro t ht ha
    obtain ⟨u, v, h1, h2, h3⟩ := hr t ht ha
    unfold laneF3; rw [h1]; dsimp only; rw [h2]; dsimp only; rw [h3]
  refine ⟨fun hd => does_of_lane hs (hi s) e fun t ht ha => ?_, leads_of_lane hs (hi s) e⟩
  obtain ⟨u, v, h1, h2, h3⟩ := hr t ht ha
  exact ((Kept.src2 h1 h2).trans (kept_src32 h3)).trans (kept_resultF _ _ _ _ _ _ hd)

theorem addFlags_zero (t : Thread) : addFlags 0 t = t := by
  have h : t.flagsSet ||| 0 = t.flagsSet := BitVec.or_zero
  unfold addFlags; rw [h]

theorem kept_test (iss : Issue) (pair : Bool) (p : BitVec 3) (w : BitVec 1) (v : Bool) (t : Thread) :
    Kept t (if pair then resultPair iss .ab p.toNat w v t else resultPred iss .ab p.toNat w v t) := by
  split
  · exact kept_resultPair _ _ _ _ _ _
  · exact kept_resultPred _ _ _ _ _ _

theorem test2_of_cmp {i : Instr} {g : BitVec 2} {pair : Bool} {p : BitVec 3} {a b : BitVec 7} {w : BitVec 1}
    {f f' : Word → Word → Bool} (hi : ∀ s, exec i s = laneWord g (laneCmp pair p a b w f') s)
    (hf : ∀ x y, f' x y = f x y) : Test2 i g pair p a b w fun x y => (f x y, 0) := by
  intro s iss x y r hs hr
  refine does_of_lane hs (hi s) (fun t ht ha => ?_) fun t ht ha => ?_
  · obtain ⟨u, h1, h2⟩ := hr t ht ha
    unfold laneCmp; rw [h1]; dsimp only; rw [h2]; dsimp only; rw [hf, addFlags_zero]
  · obtain ⟨u, h1, h2⟩ := hr t ht ha
    exact ((Kept.src2 h1 h2).trans (kept_test _ _ _ _ _ _)).trans (kept_addFlags _ _)

theorem test1_of_cmpi {i : Instr} {g : BitVec 2} {pair : Bool} {p : BitVec 3} {a : BitVec 7} {f f' : Word → Bool}
    (hi : ∀ s, exec i s = laneWord g (laneCmpi pair p a f') s) (hf : ∀ x, f' x = f x) : Test1 i g pair p a 0 f := by
  intro s iss x r hs hr
  refine does_of_lane hs (hi s) (fun t ht ha => ?_) fun t ht ha => ?_
  · unfold laneCmpi; rw [hr t ht ha]; dsimp only; rw [hf]
  · exact (kept_src32 (hr t ht ha)).trans (kept_test _ _ _ _ _ _)

theorem test2_of_fcmp {i : Instr} {g : BitVec 2} {pair : Bool} {k : BitVec 4} {p : BitVec 3} {a b : BitVec 7} {w : BitVec 1}
    (hi : ∀ s, exec i s = laneWord g (laneFcmp pair k p a b w) s) :
    Test2 i g pair p a b w fun x y => fCompare k x.toNat y.toNat := by
  intro s iss x y r hs hr
  refine does_of_lane hs (hi s) (fun t ht ha => ?_) fun t ht ha => ?_
  · obtain ⟨u, h1, h2⟩ := hr t ht ha
    unfold laneFcmp; rw [h1]; dsimp only; rw [h2]
  · obtain ⟨u, h1, h2⟩ := hr t ht ha
    exact ((Kept.src2 h1 h2).trans (kept_test _ _ _ _ _ _)).trans (kept_addFlags _ _)

/-- A word whose lanes' effects need nothing read. -/
theorem plain_of_lane {i : Instr} {g : BitVec 2} {f : State → Issue → Thread → Thread}
    (hi : ∀ s, exec i s = laneWord g (fun s iss t => .ok (f s iss t)) s) (hk : ∀ s iss t, Kept t (f s iss t)) :
    Plain i g f :=
  fun s iss hs => does_of_lane hs (hi s) (fun _ _ _ => rfl) fun t _ _ => hk s iss t

theorem plainResult_of_lane {i : Instr} {g : BitVec 2} {d : BitVec 7} {w : BitVec 1} {f : State → Issue → Thread → Thread}
    (hi : ∀ s, exec i s = laneWord g (fun s iss t => .ok (f s iss t)) s)
    (hk : ToRegister d w → ∀ s iss t, Kept t (f s iss t)) : PlainResult i g d w f :=
  fun s iss hs => ⟨fun hd => does_of_lane hs (hi s) (fun _ _ _ => rfl) fun t _ _ => hk hd s iss t,
    leads_of_lane hs (hi s) fun _ _ _ => rfl⟩

end Sys2Proof.Machine
end

