-- ==== Sys2Proof/Tests/Slice0.lean ====
section
/-! SUPPORT. Tests: ill-formed terms that the checks refuse, words from the spec's encodings, results from the spec's
tables, and states that meet the hypotheses of the statements. -/

namespace Sys2Proof.Tests

open Sys2Proof Sys2Proof.Machine

set_option Elab.async false

/-! ### Well-formedness -/

theorem test_wf_latch_names_no_register : ¬ (Instr.iadd 0 0 5 1 2 1).WellFormed := by unfold Instr.WellFormed; decide
theorem test_wf_latch_alone : (Instr.iadd 0 0 0 1 2 1).WellFormed := by unfold Instr.WellFormed; decide
theorem test_wf_predicate_latch : ¬ (Instr.pand 0 0 2 1 1 1).WellFormed := by unfold Instr.WellFormed; decide
theorem test_wf_condition : ¬ (Instr.cmp 0 0 10 1 2 3 0).WellFormed := by unfold Instr.WellFormed; decide
theorem test_wf_pair : ¬ (Instr.cmpPair 0 0 1 2 2 3 0).WellFormed := by unfold Instr.WellFormed; decide
theorem test_wf_pair_immediate : ¬ (Instr.cmpiPair 0 0 1 7 2 3).WellFormed := by unfold Instr.WellFormed; decide
theorem test_wf_float_condition : ¬ (Instr.fcmp 0 0 8 1 2 3 0).WellFormed := by unfold Instr.WellFormed; decide
theorem test_wf_special_type : ¬ (Instr.frcp 0 0 1 2 3).WellFormed := by unfold Instr.WellFormed; decide
theorem test_wf_conversion : ¬ (Instr.fcvt 0 0 1 2 16 0).WellFormed := by unfold Instr.WellFormed; decide
theorem test_wf_conversion_rounding : ¬ (Instr.fcvt 0 0 1 2 0 5).WellFormed := by unfold Instr.WellFormed; decide
theorem test_wf_exact_conversion : ¬ (Instr.fcvt 0 0 1 2 2 1).WellFormed := by unfold Instr.WellFormed; decide
theorem test_wf_atomic_operation : ¬ (Instr.atom 0 0 1 2 0 0 12).WellFormed := by unfold Instr.WellFormed; decide
theorem test_wf_atomic_wide_float : ¬ (Instr.atom 0 0 2 4 0 1 10).WellFormed := by unfold Instr.WellFormed; decide
theorem test_wf_reduction_exchange : ¬ (Instr.red 0 0 1 2 0 0 8).WellFormed := by unfold Instr.WellFormed; decide
theorem test_wf_iaddi_zero_is_movi : ¬ (Instr.iaddi 0 0 1 80 3).WellFormed := by unfold Instr.WellFormed; decide
theorem test_wf_syswr_mode : ¬ (Instr.syswr 0 0 2 81).WellFormed := by unfold Instr.WellFormed; decide
theorem test_wf_mode_request : ¬ (Instr.modeRequest 0 0 2 3).WellFormed := by unfold Instr.WellFormed; decide
theorem test_wf_ctrzero : ¬ (Instr.ctrzero 0 0 2 3).WellFormed := by unfold Instr.WellFormed; decide
theorem test_wf_event : ¬ (Instr.drain 0).WellFormed := by unfold Instr.WellFormed; decide

/-! ### Words written out from the encodings: 06 Tables 6-1 to 6-13, 7-1 to 12-5, 19-1 -/

theorem test_decode_r_form : decodeWord 0x06036000 = .ok (.iadd64 0 0 6 96 0 0) := by decide
theorem test_decode_guarded_latch : decodeWord 0x8040040B = .ok (.iadd 1 1 0 4 5 1) := by decide
theorem test_decode_i_form : decodeWord 0xE1005304 = .ok (.imuli 1 0 0 83 4) := by decide
theorem test_decode_shift : decodeWord 0x65015303 = .ok (.shfiShl 0 0 2 83 3) := by decide
theorem test_decode_compare : decodeWord 0x66008100 = .ok (.cmpi 0 0 0 1 1 0) := by decide
theorem test_decode_pair : decodeWord 0x2804C1A0 = .ok (.cmpPair 0 0 1 1 65 80 0) := by decide
theorem test_decode_literal : decodeWord 0x6E018013 = .ok (.ldl32 0 0 3 0x13) := by decide
theorem test_decode_float : decodeWord 0x37038812 = .ok (.fmulF32 0 0 7 8 9 0) := by decide
theorem test_decode_conversion : decodeWord 0x70028401 = .ok (.fcvt 0 0 5 4 0 1) := by decide
theorem test_decode_lane : decodeWord 0x4A8583A2 = .ok (.lxAbove 0 2 11 3 81 0) := by decide
theorem test_decode_vote : decodeWord 0x71018120 = .ok (.lany 0 0 3 1) := by decide
theorem test_decode_load : decodeWord 0x74020281 = .ok (.ldB32 0 0 4 2 1) := by decide
theorem test_decode_store : decodeWord 0x75298280 = .ok (.stB32 0 0 83 2 0) := by decide
theorem test_decode_continuation_load : decodeWord 0x76040283 = .ok (.ldcB32 0 8 2 3) := by decide
theorem test_decode_atomic : decodeWord 0x7202828A = .ok (.atom 0 0 5 2 0 0 10) := by decide
theorem test_decode_reduction : decodeWord 0x7202820A = .ok (.red 0 0 5 2 0 0 10) := by decide
theorem test_decode_branch : decodeWord 0x783FFFFF = .ok (.br 0 (-1)) := by decide
theorem test_decode_exit : decodeWord 0x7A040000 = .ok (.exit 0) := by decide
theorem test_decode_return : decodeWord 0x7A01460D = .ok (.tretSkip 0 12 13) := by decide
theorem test_decode_tile_alloc : decodeWord 0x730A1505 = .ok (.mtileAlloc 0 0 20 21) := by decide
theorem test_decode_task : decodeWord 0x7B044410 = .ok (.mtaskSb 0 0 8 1) := by decide
theorem test_decode_copy : decodeWord 0x7B400828 = .ok (.cpT 0 1 2 20) := by decide
theorem test_decode_seal : decodeWord 0x73438001 = .ok (.seal 0 1 7) := by decide
theorem test_decode_bind : decodeWord 0x4E2260A0 = .ok (.sbind 0 0 68 96 80) := by decide
theorem test_decode_stream : decodeWord 0x4C23448A = .ok (.sisect 0 0 70 68 69) := by decide
theorem test_decode_query : decodeWord 0x7300C60C = .ok (.sdone 0 0 1 70) := by decide
theorem test_decode_privileged : decodeWord 0x7D01B368 = .ok (.modPub 0 0 102 104) := by decide
theorem test_decode_tag : decodeWord 0x7D013000 = .ok (.ctxtag 0 0 96) := by decide
theorem test_decode_unassigned : decodeWord 0x7E000000 = .error .instruction := by decide
theorem test_decode_literal_header : decodeWord 0x7F000001 = .error .literal := by decide
theorem test_decode_reserved_field : decodeWord 0x73000100 = .error .instruction := by decide
theorem test_decode_latch_with_register : decodeWord 0x00008001 = .error .instruction := by decide
theorem test_table_word : decodeTableWord 32 0x7A040000 = some (.exit 0) := by decide

/-! ### A small package: one kernel thread of launch 1 at word 2 of packet 0 -/

/-- The run in progress: one word at word 2 of packet 0, with the mask of a descriptor after it. -/
def labIssue : Issue :=
  { core := 0, launch := 1, gang := 0, lanes := [0], packet := 0, pos := 2, words := [], fall := (3, 0), mask := 0xFFFF }

/-- Its thread, with these registers. -/
def labThread (regs : List Word) : Thread :=
  { launch := 1, gang := 0, thread := 0, core := 0, window := 64, regs := regs ++ List.replicate (64 - regs.length) 0,
    pos := 2, efftag := 1 }

/-- A package in which a thread is about to perform the word of its run. -/
def labWith (t : Thread) : State :=
  { fetchState State.reset (encode (.exit 0)) with agenda := [], issue := some labIssue, threads := [t] }

def lab (regs : List Word) : State := labWith (labThread regs)

/-- What the thread is after a word. -/
def after (s : State) (i : Instr) : Option Thread :=
  match exec i s with
  | .next s => threadAt s 1 0
  | _ => none

/-- Register 0 after a word on these registers. -/
def gives (i : Instr) (regs : List Word) : Option Word := (after (lab regs) i).map fun t => regGet t.regs 0

/-! ### Results of 07 Table 7-5 -/

theorem test_idiv_zero : gives (.idivS32 0 0 0 1 2 0) [0, 7, 0] = some 0xFFFFFFFF := by decide
theorem test_irem_zero : gives (.iremS32 0 0 0 1 2 0) [0, 7, 0] = some 7 := by decide
theorem test_idiv_overflow : gives (.idivS32 0 0 0 1 2 0) [0, 0x80000000, 0xFFFFFFFF] = some 0x80000000 := by decide
theorem test_irem_overflow : gives (.iremS32 0 0 0 1 2 0) [0, 0x80000000, 0xFFFFFFFF] = some 0 := by decide
theorem test_idiv_n32 : gives (.idivN32 0 0 0 1 2 0) [0, 0xFFFFFFF9, 2] = some 0x7FFFFFFC := by decide
theorem test_irem_n32 : gives (.iremN32 0 0 0 1 2 0) [0, 0xFFFFFFF9, 2] = some 1 := by decide
theorem test_iadds_s32 : gives (.iaddsS32 0 0 0 1 2 0) [0, 0x7FFFFFF0, 0x20] = some 0x7FFFFFFF := by decide
theorem test_isubs_n32 : gives (.isubsN32 0 0 0 1 2 0) [0, 5, 9] = some 0 := by decide
theorem test_iabs_least : gives (.iabs 0 0 0 1 0) [0, 0x80000000] = some 0x80000000 := by decide
theorem test_imulh_s32 : gives (.imulhS32 0 0 0 1 2 0) [0, 0xFFFFFFFF, 2] = some 0xFFFFFFFF := by decide
theorem test_imulh_n32 : gives (.imulhN32 0 0 0 1 2 0) [0, 0xFFFFFFFF, 2] = some 1 := by decide
theorem test_shl_width : gives (.shl 0 0 0 1 2 0) [0, 1, 0x20] = some 0 := by decide
theorem test_sar_beyond : gives (.sar 0 0 0 1 2 0) [0, 0x80000000, 0x28] = some 0xFFFFFFFF := by decide
theorem test_rot_modulo : gives (.rot 0 0 0 1 2 0) [0, 0x80000001, 0x21] = some 3 := by decide
theorem test_bfe_s32 : gives (.bfeS32 0 0 0 1 2 0) [0, 0xF000, 0x40C] = some 0xFFFFFFFF := by decide
theorem test_bfe_n32_cut : gives (.bfeN32 0 0 0 1 2 0) [0, 0xF0000000, 0x81C] = some 0xF := by decide
theorem test_clz_zero : gives (.clz 0 0 0 1 0) [0, 0] = some 32 := by decide
theorem test_ctz_zero : gives (.ctz 0 0 0 1 0) [0, 0] = some 32 := by decide
/-- 07 R149: a `.n32` condition keeps the sign-extended bits of the immediate. -/
theorem test_cmpi_n32_sign : (after (lab [0, 0, 0xFFFFFFFE]) (.cmpi 0 0 8 1 2 0xFF)).map (·.pred) = some 1 := by decide

/-! ### Results of 08 Table 8-4, and special values of Table 8-3 -/

theorem test_bf16_tie_rne : gives (.fcvt 0 0 0 1 0 0) [0, 0x3F818000] = some 0x3F82 := by decide
theorem test_bf16_tie_rz : gives (.fcvt 0 0 0 1 0 1) [0, 0x3F818000] = some 0x3F81 := by decide
theorem test_bf16_ru : gives (.fcvt 0 0 0 1 0 2) [0, 0x00000001] = some 1 := by decide
theorem test_bf16_rd : gives (.fcvt 0 0 0 1 0 3) [0, 0xBF808000] = some 0xBF81 := by decide
theorem test_bf16_overflow : gives (.fcvt 0 0 0 1 0 0) [0, 0x7F7FFFFF] = some 0x7F80 := by decide
theorem test_frcp_minus_zero : gives (.frcp 0 0 0 1 0) [0, 0x80000000] = some 0xFF800000 := by decide
theorem test_fsqrt_minus_zero : gives (.fsqrt 0 0 0 1 0) [0, 0x80000000] = some 0x80000000 := by decide
theorem test_fmin_zeros : gives (.fminF32 0 0 0 1 2 0) [0, 0, 0x80000000] = some 0x80000000 := by decide
theorem test_fadd_one : gives (.faddF32 0 0 0 1 2 0) [0, 0x3F800000, 0x3F800000] = some 0x40000000 := by decide

/-! ### The fold of 03 Tables 3-7 and 3-8: E4M3 times TSH8, the products of either group in place -/

/-- An operand's elements of one group: these codes at these k, and elsewhere the code of zero. -/
def groupOf (z : Nat) (l : List (Nat × Nat)) : List (Option Nat) := (List.range 32).map fun k => some ((l.lookup k).getD z)

theorem test_fold_first_group :
    foldElement 0x52 0x4B800000 (groupOf 0 [(0, 0x3C), (5, 0xB0)], some 0x7F) (groupOf 0x77 [(0, 0x01), (5, 0x09)], some 0x7E)
      = 0x4B800000 := by decide +kernel

theorem test_fold_second_group :
    foldElement 0x52 0x4B800000 (groupOf 0 [(8, 0x7E), (31, 0xC5)], some 0x80) (groupOf 0x77 [(8, 0x5E), (31, 0x00)], some 0x7F)
      = 0x4B800000 := by decide +kernel

/-- The group's own sum, 2 under the scale 2^-1, where the accumulator is zero. -/
theorem test_fold_into_zero :
    foldElement 0x52 0 (groupOf 0 [(0, 0x3C), (5, 0xB0)], some 0x7F) (groupOf 0x77 [(0, 0x01), (5, 0x09)], some 0x7E)
      = 0x3F800000 := by decide +kernel

/-! ### Witnesses: words

Each theorem shows a state and operands that meet the hypotheses of a statement, clause by clause, at a boundary where a
clause has a range. -/

/-- The registers of the witnesses: d0 a pointer to 0x100, d2 zero, x4 = 6, x5 odd. -/
def labRegs : List Word := [0x100, 0, 0, 0, 6, 0x80000007]

theorem lab_threads (t : Thread) : (labWith t).threads = [t] := rfl

theorem mem_lab {t u : Thread} (h : u ∈ (labWith t).threads) : u = t := by simpa [lab_threads] using h

/-- IntegerSumsAndProducts and every other statement about words: a run of one word. -/
theorem witness_alone : Alone (lab labRegs) labIssue :=
  ⟨rfl, rfl, by decide, rfl, rfl, by decide, by decide, by unfold Idle; decide⟩

/-- The words of one, two and three sources (IntegerSumsAndProducts to LaneExchanges, DataHints). -/
theorem witness_reads1 : Reads1 (lab labRegs) labIssue 0 4 (fun _ => 6) id := by unfold Reads1; decide

theorem witness_reads2 : Reads2 (lab labRegs) labIssue 0 4 5 (fun _ => 6) (fun _ => 0x80000007) id :=
  fun _ ht _ => by obtain rfl := mem_lab ht; exact ⟨_, rfl, rfl⟩

theorem witness_reads3 : Reads3 (lab labRegs) labIssue 0 4 5 0 (fun _ => 6) (fun _ => 0x80000007) (fun _ => 0x100) id :=
  fun _ ht _ => by obtain rfl := mem_lab ht; exact ⟨_, _, rfl, rfl, rfl⟩

/-- Both ways in which a result keeps away from a stream. -/
theorem witness_to_register : ToRegister 0 0 ∧ ToRegister 68 1 := by unfold ToRegister; decide

/-- FloatArithmetic, FloatPicksAndCompares, SpecialFunctionsAndConversions: codes of every class in each format, a rounding
that is no `sto`, the greatest and the least amounts of `qtsh` and its scale without a value, and a root of each kind. -/
theorem witness_float_classes :
    (∀ f ∈ [fmtF32, fmtBf16, fmtF16], f.Finite 0 ∧ f.Finite f.top ∧ f.Infinite (f.infinity true) ∧ f.NotNumber f.quiet
      ∧ 0 < 2 * f.signBit ∧ f.number 1 ≠ 0 ∧ f.number 0 = 0)
    ∧ isSto .rne = false
    ∧ (128 * 2 ^ (16 + 0) < (fmtF32.number 0x7F7FFFFF).natAbs ∧ (fmtF32.number 0).natAbs ≤ 128 * 2 ^ (16 + 0)
      ∧ fmtF32.Finite 0x7F7FFFFF ∧ (0x2FF : Word).toNat % 256 = 255)
    ∧ (let one := fmtF16.bias * 2 ^ fmtF16.fbits
       fmtF16.Finite one ∧ fmtF16.isNegative one = false ∧ (fmtF16.number one).natAbs ≠ 0
       ∧ fmtF16.isNegative (fmtF16.withSign true one) = true) := by
  unfold Fmt.Finite Fmt.Infinite Fmt.NotNumber; decide +kernel

/-- LaneReductions: values of lanes, the first and the last among them, two of them equal. -/
theorem witness_lane_values :
    let vals : List (Nat × Word) := [(0, 5), (7, 6), (31, 5)]
    (vals.map (·.1)).Nodup ∧ (∀ x ∈ vals, x.1 < 32) ∧ [(5 : Word), 6] ≠ [] := by decide

/-- 08 R179: lane 31's conflict mask, leader bit and rank there. -/
theorem test_conflicts : conflicts [(0, 5), (7, 6), (31, 5)] 31 5 = 0x300000001 ∧ conflicts [(0, 5), (7, 6), (31, 5)] 0 5 = 0 := by decide

/-- Where no lane ends after its run, `Leads` says something. -/
theorem witness_leads : endedLanes (runEffects labIssue (act labIssue 0 id (lab labRegs))) labIssue = [] := by decide

/-- LiteralsAndUniforms: a literal of either width, and the line literal; an elected lane. -/
theorem witness_literals :
    (∀ t ∈ (lab labRegs).threads, isActive labIssue 0 t = true → literalAt (lab labRegs) t 0 4 false = .value 0)
    ∧ (∀ t ∈ (lab labRegs).threads, isActive labIssue 0 t = true → literalAt (lab labRegs) t 0 0x80 true = .value 0)
    ∧ electedLane (lab labRegs) labIssue 0 = some (labThread labRegs)
    ∧ src32 (lab labRegs) labIssue (labThread labRegs) 4 = .ok (6, labThread labRegs) := by decide

/-- Transfers, TrapsAndReturns: the last packet inside the code segment, a literal of zero, a code pointer. -/
theorem witness_transfers :
    TargetsAt (lab labRegs) labIssue 0 (fun _ => 319) (fun _ => 319)
    ∧ TargetsAt (lab labRegs) labIssue 0 (fun _ => sextInt 64 0) (fun _ => 0)
    ∧ (∀ t ∈ (lab [0, 0x50000000]).threads, isActive labIssue 0 t = true →
        src64 (lab [0, 0x50000000]) labIssue t 0 = BitVec.ofNat 64 (0x5000000000000000 + packetAddr 0)
        ∧ packetAddr 0 + 12 ≤ (segAt (gangOf (lab [0, 0x50000000]) t).segs 5).limit.toNat
        ∧ markedAt (lab [0, 0x50000000]) t 0 = false)
    ∧ activeThreads (lab [0, 0x50000000]) labIssue 0 ≠ [] := by unfold TargetsAt; decide +kernel

/-- TrapsAndReturns: a trap word of packet 3, word 2, and the target of either return. -/
theorem witness_returns :
    Reads2 (lab [0x30200, 0]) labIssue 0 0 1 (fun _ => 0x30200) (fun _ => 0) id
    ∧ 0x30200 / 2 ^ 8 % 4 ≠ 3
    ∧ EachActive (lab [0x30200, 0]) labIssue 0 (fun t => TargetAt (lab [0x30200, 0]) t 3 3)
    ∧ EachActive (lab [0x30200, 0]) labIssue 0 (fun t => TargetAt (lab [0x30200, 0]) t 4 4) := by
  refine ⟨fun _ ht _ => by obtain rfl := mem_lab ht; exact ⟨_, rfl, rfl⟩, by decide, ?_, ?_⟩ <;>
    · unfold EachActive TargetAt; decide

/-- TrapEntryAndReturn and the other statements about a group of one thread. -/
theorem witness_one_lane : OneLane (lab labRegs) labIssue 0 (labThread labRegs) :=
  ⟨witness_alone, rfl, rfl, by simp [lab, lab_threads], by decide⟩

/-- The package with another launch record. -/
def withLaunch (f : Launch → Launch) (s : State) : State := { s with launches := s.launches.map f }

/-- TrapEntryAndReturn: a launch with a handler, and a record that fits the gang's reservation. -/
theorem witness_trap_entry :
    let s := withLaunch (fun x => { x with trappkt := 3, rclass := 2 }) (lab [0x30200, 0])
    let t := labThread [0x30200, 0]
    OneLane s labIssue 0 t ∧ (launchOf s 1).trappkt ≠ 0 ∧ CanEnd s t (BitVec.ofNat 64 (2 ^ t.window - 1)) 3
    ∧ (ctxOfLaunch s 1).debug = false ∧ isStream 0 = false ∧ TargetAt s t ((0x30200 / 2 ^ 16 : Nat) + 1) 4 := by
  refine ⟨⟨⟨rfl, rfl, by decide, rfl, rfl, by decide, by decide, by unfold Idle; decide⟩, rfl, rfl, by decide, by decide⟩, by decide,
    ⟨by decide, by decide, by decide, by decide⟩, by decide, by decide, by unfold TargetAt; decide⟩

/-! ### Witnesses: memory and segment words -/

/-- A thread whose pair d0 holds a pointer. -/
def pointing (hi lo : Word) : Thread := labThread [lo, hi, 0, 0, 6, 0x80000007]

/-- A package whose peer 5 is mapped, and a thread whose pair d0 points into its memory; the answers it has to its requests. -/
def peering (l : List (RemoteRead × Nat)) : Thread := { pointing 0x10050000 0x100 with answers := l }

def peerLab (t : Thread) : State := { labWith t with mem := [(40, 3), (42, 9)] }

/-- The location of the peer's byte at 0x100. -/
def peerWord : Nat := peerLoc (peerLab (peering [])) 0 5 9 0x100

/-- A request for it. -/
def peerAsk (n : Nat) (k : RenharKind) (acquire : Bool) : RemoteRead :=
  { peer := some 5, va := 0x100, loc := peerWord, size := n, kind := k, acquire := acquire }

/-- Loads: a word of global space, after REPLAY is counted; a peer's word before its request, and with its answer. -/
theorem witness_loads :
    (let s := lab labRegs
     let s1 := countReplay .load false 4 0 (fun u j t => effective u j t 0 1 4) s
     EachActive s1 labIssue 0 (fun t =>
      access s1 t .load (effective s1 labIssue t 0 1 4) 4 .read .plain = .ok (.virt 0x104 false, 0x104)
      ∧ isRemote (.virt 0x104 false) 0x104 = false ∧ canFetch s1 t (.virt 0x104 false) 0x104 4 = true))
    ∧ (let r := peerAsk 4 (.read 0x100 4) false
       let t := peering []
       let s := peerLab t
       access s t .load (effective s labIssue t 0 0 4) 4 .read .plain = .ok (.peer 5 0x100, peerWord)
       ∧ isHeld s t.core peerWord 4 = false ∧ t.remoteLoad = none ∧ answerTo t r = none)
    ∧ (let r := peerAsk 4 (.read 0x100 4) false
       let s := peerLab (peering [(r, 0)])
       let s1 := countReplay .load false 4 0 (fun u j t => effective u j t 0 0 4) s
       EachActive s1 labIssue 0 (fun t =>
        access s1 t .load (effective s1 labIssue t 0 0 4) 4 .read .plain = .ok (.peer 5 0x100, peerWord)
        ∧ (isRemote (.peer 5 0x100) peerWord && !isHeld s1 t.core peerWord 4) = true
        ∧ Answered t (requestFor s1 t (.peer 5 0x100) peerWord 4 (.read (targetVa (.peer 5 0x100)) 4) false) 0)) := by
  unfold EachActive Answered; decide +kernel

/-- Loads: one lane that asks a peer. -/
theorem witness_peer_lane : OneLane (peerLab (peering [])) labIssue 0 (peering []) :=
  ⟨⟨rfl, rfl, by decide, rfl, rfl, by decide, by decide, by unfold Idle; decide⟩, rfl, rfl, by decide, by decide⟩

/-- A package in which the page of the global space lies behind the first host window, bound at 0x7000. -/
def hostLab (t : Thread) : State :=
  let e : TlbEntry := { tag := 1, base := 0, size := 65536, pa := 2 ^ 40, w := true, x := true, peer := true, level := 3 }
  { labWith t with cores := [{ core := 0, tlb := [e] }],
                   port := { State.reset.port with windows := [{ win := 0, conn := 0, remote := 0x7000, rkey := 0, length := 65536 }] } }

/-- Loads: a word of the host's memory, before its request. -/
theorem witness_host_load :
    let t := pointing 0 0x100
    let s := hostLab t
    access s t .load (effective s labIssue t 0 0 4) 4 .read .plain = .ok (.virt 0x100 false, hostLoc 0x7100)
    ∧ isHostLoc (hostLoc 0x7100) = true ∧ isHeld s t.core (hostLoc 0x7100) 4 = false
    ∧ t.remoteLoad = none
    ∧ answerTo t (requestFor s t (.virt 0x100 false) (hostLoc 0x7100) 4 (.read 0x100 4) false) = none := by decide +kernel

/-- Stores: a posted one, the last byte of the own window, gang-local memory, and a peer's memory. -/
theorem witness_stores :
    (let s := lab labRegs
     let t := labThread labRegs
     storeData 4 4 s labIssue t = .ok (6, t)
     ∧ access s t .store (effective s labIssue t 0 0 4) 4 .write .plain = .ok (.virt 0x100 false, 0x100)
     ∧ CanStore s t (.virt 0x100 false) 0x100 4)
    ∧ (let t := pointing 0x60000000 0xFF
       let s := labWith t
       access s t .store (effective s labIssue t 0 0 1) 1 .write .plain = .ok (.window 255, 255)
       ∧ CanStore s t (.window 255) 255 1)
    ∧ (let t := pointing 0x20000000 0xFFC
       let s := labWith t
       access s t .store (effective s labIssue t 0 0 4) 4 .write .plain = .ok (.cell (gangLoc 1 0 0xFFC) false, gangLoc 1 0 0xFFC)
       ∧ CanStore s t (.cell (gangLoc 1 0 0xFFC) false) (gangLoc 1 0 0xFFC) 4)
    ∧ (∀ l ∈ [[], [(translation 5 0x100 peerWord 4 .write .plain, 0)]],
       let t := peering l
       let s := peerLab t
       access s t .store (effective s labIssue t 0 0 4) 4 .write .plain = .ok (.peer 5 0x100, peerWord)
       ∧ CanStore s t (.peer 5 0x100) peerWord 4 ∧ t.remoteLoad = none
       ∧ (Translates t (.peer 5 0x100) peerWord 4 .write .plain ∨ answerTo t (translation 5 0x100 peerWord 4 .write .plain) = none))
    ∧ Translates (peering [(translation 5 0x100 peerWord 4 .write .plain, 0)]) (.peer 5 0x100) peerWord 4 .write .plain
    ∧ Reads1 (lab labRegs) labIssue 0 4 (fun _ => 6) id := by
  refine ⟨?_, ?_, ?_, ?_, ?_, witness_reads1⟩ <;> · simp only [CanStore, Translates]; decide +kernel

/-- AcquiresAndReleases: an acquire, whose line is on the thread's own die, a peer's before its request and with its answer,
a release, a fence. -/
theorem witness_sync :
    (let s := lab labRegs
     let t := labThread labRegs
     let s1 := countReplay .sync false 4 0 (fun u j t => effective u j t 0 0 4) s
     EachActive s1 labIssue 0 (fun t => t.relUnack = 0 ∧
      access s1 t .sync (effective s1 labIssue t 0 0 4) 4 .read .atomic = .ok (.virt 0x100 false, 0x100)
      ∧ isRemote (.virt 0x100 false) 0x100 = false ∧ (acquireTrip s1 t (.virt 0x100 false) 0x100 4).isSome = true)
     ∧ storeData 4 4 s labIssue t = .ok (6, t)
     ∧ access s t .sync (effective s labIssue t 0 0 4) 4 .write .atomic = .ok (.virt 0x100 false, 0x100)
     ∧ Released s t ∧ CanSend s t (.virt 0x100 false) 0x100
     ∧ EachActive s labIssue 0 (fun t => Released s t ∧ t.relUnack = 0 ∧ t.ownUnack = 0 ∧ t.dieUnack = 0
        ∧ (fenceTell s t).isSome = true))
    ∧ (∀ l ∈ [[], [(peerAsk 4 (.acquire 0x100 4) true, 0)]],
       let t := peering l
       let s := peerLab t
       access s t .sync (effective s labIssue t 0 0 4) 4 .read .atomic = .ok (.peer 5 0x100, peerWord)
       ∧ isRemote (.peer 5 0x100) peerWord = true ∧ t.remoteLoad = none ∧ t.relUnack = 0
       ∧ answerTo t (requestFor s t (.peer 5 0x100) peerWord 4 (.acquire (targetVa (.peer 5 0x100)) 4) true)
         = if l = [] then none else some 0)
    ∧ (let w := translation 5 0x100 peerWord 4 .write .atomic
       let t := peering [(w, 0)]
       let s := peerLab t
       access s t .sync (effective s labIssue t 0 0 4) 4 .write .atomic = .ok (.peer 5 0x100, peerWord)
       ∧ (answerTo t w).isSome = true ∧ Released s t ∧ CanSend s t (.peer 5 0x100) peerWord) := by
  unfold EachActive Released CanSend; decide +kernel

/-- The request of a returning atomic of one lane. -/
def peerAtomic : RemoteRead := { peerAsk 4 (.atomic 0x100 0 false true 0 6) false with lanes := [0] }

/-- Atomics, in every order; a peer's before its request and with its answer, and a reduction sent to a peer. -/
theorem witness_atomics :
    (let s := lab labRegs
     let t := labThread labRegs
     atomicData 0 false 4 s labIssue t = .ok (0, 6, t)
     ∧ access s t .sync (src64 s labIssue t 0) 4 .modify .atomic = .ok (.virt 0x100 false, 0x100)
     ∧ Released s t ∧ t.relUnack = 0 ∧ overlaps t 0x100 4 = false
     ∧ feltReady s (dieOfCore t.core) (targetDie s t (.virt 0x100 false) 0x100) = true
     ∧ isRemote (.virt 0x100 false) 0x100 = false ∧ (atomicTrip s t (.virt 0x100 false) 0x100 true).isSome = true)
    ∧ ∀ l ∈ [[], [(peerAtomic, 0)],
        [(translation 5 0x100 peerWord 4 .modify .atomic, 0)]],
      let t := peering l
      let s := peerLab t
      atomicData 0 false 4 s labIssue t = .ok (0, 6, t)
      ∧ access s t .sync (src64 s labIssue t 0) 4 .modify .atomic = .ok (.peer 5 0x100, peerWord)
      ∧ Released s t ∧ t.relUnack = 0 ∧ overlaps t peerWord 4 = false ∧ peerRoom t 1 = true
      ∧ feltReady s (dieOfCore t.core) (targetDie s t (.peer 5 0x100) peerWord) = true
      ∧ isRemote (.peer 5 0x100) peerWord = true ∧ t.remoteLoad = none
      ∧ (Translates t (.peer 5 0x100) peerWord 4 .modify .atomic
        ∨ answerTo t (requestFor s t (.peer 5 0x100) peerWord 4 (.atomic 0x100 0 false true 0 6) false)
          = (if l = [] then none else some 0)) := by
  unfold Released Translates; decide +kernel

/-- Atomics: one lane that asks has no answer to its request, which names the lanes of its word; an answer is found by what is
asked. -/
theorem witness_peer_atomic :
    answerTo (peering []) peerAtomic = none
    ∧ Translates (peering [(translation 5 0x100 peerWord 4 .modify .atomic, 0)]) (.peer 5 0x100) peerWord 4 .modify .atomic := by
  unfold Translates; decide +kernel

/-- ContinuationLoads: x15 is the last register that the mask carries; one to a peer before and after it has its translation. -/
theorem witness_ldc :
    let s := lab labRegs
    EachActive s labIssue 0 (fun t =>
      access s t .ldc (effective s labIssue t 0 0 4) 4 .read .plain = .ok (.virt 0x100 false, 0x100))
    ∧ isStream 15 = false ∧ (∀ k, k < (4 + 3) / 4 → labIssue.mask.getLsbD ((15 : BitVec 7).toNat + k) = true)
    ∧ ∀ l ∈ [[], [(translation 5 0x100 peerWord 4 .read .plain, 0)]],
      let t := peering l
      let s := peerLab t
      access s t .ldc (effective s labIssue t 0 0 4) 4 .read .plain = .ok (.peer 5 0x100, peerWord) ∧ t.remoteLoad = none
      ∧ answerTo t (translation 5 0x100 peerWord 4 .read .plain) = if l = [] then none else some 0 := by
  unfold EachActive; decide +kernel

/-- DataHints: a count that can be read, a page that a prefetch finds, of a core with room for a line, a pointer of cell space,
and a peer's line that nobody has asked for. -/
theorem witness_data_hints :
    let s := lab labRegs
    let t := labThread labRegs
    src32 s labIssue t 4 = .ok (6, t) ∧ decodePointer s (accessorOf s t) .load 0x100 1 1 = .ok (.virt 0x100 false)
    ∧ locateFor s t.core t.efftag (launchOf s t.launch).ctx (.virt 0x100 false) .read .plain 0 = .ok 0x100
    ∧ cacheable 0x100 = true ∧ isMoving s 0x100 = false ∧ readsBad s t.core .plain (0x100 / 128 * 128) 128 = false
    ∧ targetDie s t (.virt 0x100 false) 0x100 = dieOfCore t.core ∧ 0 < coreLines s t.core
    ∧ decodePointer s (accessorOf s t) .load 0x60000000000000FF 1 1 = .ok (.window 255)
    ∧ let t := peering []
      let s := peerLab t
      decodePointer s (accessorOf s t) .load 0x1005000000000100 1 1 = .ok (.peer 5 0x100)
      ∧ locateFor s t.core t.efftag (launchOf s t.launch).ctx (.peer 5 0x100) .read .plain 0 = .ok peerWord
      ∧ cacheable peerWord = true ∧ isMoving s peerWord = false
      ∧ readsBad s t.core .plain (peerWord / 128 * 128) 128 = false ∧ isHeld s t.core (peerWord / 128 * 128) 128 = false
      ∧ asksPrefetch s t.core peerWord = false
      ∧ (message s (dieOfCore t.core) (fdieOf s t.launch) false t.efftag).isSome = true := by decide +kernel

/-- SegmentEnds, VoluntaryRecords, ExitFrees: an attached thread of a cohort launch whose record fits, with one batch
unreported. -/
theorem witness_segments :
    let t := { labThread labRegs with bsealed := 1 }
    let s := withLaunch (fun x => { x with cohort := true, rclass := 2 }) (labWith t)
    OneLane s labIssue 0 t ∧ EachActive s labIssue 0 (fun t => t.detached = false)
    ∧ EachActive s labIssue 0 (fun t => (launchOf s t.launch).cohort = true)
    ∧ CanEnd s t labIssue.mask (resumePacket labIssue.packet)
    ∧ (0 : BitVec 7).toNat < (t.bsealed + 1 - t.boldest).toNat := by
  refine ⟨⟨⟨rfl, rfl, by decide, rfl, rfl, by decide, by decide, by unfold Idle; decide⟩, rfl, rfl, by decide, by decide⟩, ?_, ?_,
    ⟨by decide, by decide, by decide, by decide⟩, by decide⟩ <;>
  · unfold EachActive; decide

/-- Forwards: to core 191, here; to a displaced entry; with an acknowledgement word, the last of the gang's memory. -/
theorem witness_forwards :
    (let t := labThread [191, 0, 0xFFC]
     let s := labWith t
     EachActive s labIssue 0 (fun t => fwdChecks s t (fwdTarget (src64 s labIssue t 0)) = .ok false)
     ∧ EachActive s labIssue 0 (fun t => (0xFFC : Word).toNat + 4 ≤ (segAt (gangOf s t).segs 2).limit.toNat
         ∧ (0xFFC : Word).toNat % 4 = 0))
    ∧ (let t := labThread [191, 0, 3]
       let s := labWith t
       EachActive s labIssue 0 (fun t => TargetAt s t (labIssue.packet + (3 : Word).toInt) 3
         ∧ maskBefore s t 3 = .ok (some 0))) := by
  unfold EachActive TargetAt; decide

/-- A queue that devices may fill, with its page mapped. -/
def labQueue : Queue := { part := 0, idx := 7, ctx := 1, ring := 0x4000, logn := 6, devprod := true }

/-- QueueWords: a command for a queue with room here, one for a peer before it is sent and accepted, a record, a signal. -/
theorem witness_queue_words :
    (let t := labThread [0x100, 0, 7]
     let s := { labWith t with queues := [{ labQueue with tail := 63 }] }
     src32 s labIssue t 2 = .ok (7, t) ∧ (∃ x, checkCommand s t (src64 s labIssue t 0) = .ok x) ∧ Released s t
     ∧ (∃ b, loadPieces s t (src64 s labIssue t 0) 0 1 = .ok b)
     ∧ let u := putThread s t
       queueAt u (partOfThread u t) 7 = some { labQueue with tail := 63 }
       ∧ (63 + 2 ^ 64 - 0) % 2 ^ 64 + enqueueing u { labQueue with tail := 63 } < 2 ^ 6
       ∧ feltReady u (dieOfCore t.core) labQueue.fdie = true)
    ∧ (∀ r ∈ [none, some .full, some RemoteEnq.accepted],
       let t := { labThread [0x100, 0, 0x10050007] with remoteEnq := r }
       let s := { labWith t with mem := [(40, 3)] }
       src32 s labIssue t 2 = .ok (0x10050007, t) ∧ (∃ x, checkCommand s t (src64 s labIssue t 0) = .ok x) ∧ Released s t
       ∧ (∃ b, loadPieces s t (src64 s labIssue t 0) 0 1 = .ok b) ∧ checkPeer s (partOfThread s t) 5 = .ok ()
       ∧ 0x10050007 / 2 ^ 28 % 2 = 1 ∧ 0x10050007 / 2 ^ 16 % 4096 = 5 ∧ 5 ≠ s.ownPeer
       ∧ remoteSlots s (pathOf s (partOfThread s t) t.launch 5) < 4
       ∧ feltReady s (dieOfCore t.core) (fdieOf s t.launch) = true)
    ∧ (let s := lab labRegs
       let t := labThread labRegs
       (∃ x, decodePointer s (accessorOf s t) .load (src64 s labIssue t 0) 256 64 = .ok x)
       ∧ (∃ b, recordBytes s t (src64 s labIssue t 0) = .ok b
          ∧ ((tell s t.efftag [dieOfCore t.core] [(launchOf s t.launch).fdie]).bind fun u1 =>
              acceptRecord u1 b
                (childLaunch (launchOf s t.launch) b (src64 s labIssue t 0).toNat) (launchOf s t.launch).kernel).isSome = true)
       ∧ src32 s labIssue t 4 = .ok (6, t)
       ∧ access s t .sync (src64 s labIssue t 0) 8 .modify .atomic = .ok (.virt 0x100 false, 0x100)
       ∧ Released s t ∧ overlaps t 0x100 8 = false ∧ CanSend s t (.virt 0x100 false) 0x100) := by
  unfold Released CanSend
  refine ⟨⟨by decide, ⟨_, rfl⟩, by decide, ⟨_, rfl⟩, by decide +kernel, by decide +kernel, by decide +kernel⟩, ?_,
    ⟨_, rfl⟩, ⟨_, rfl, by decide +kernel⟩, by decide +kernel⟩
  simp only [List.forall_mem_cons]
  exact ⟨⟨by decide, ⟨_, rfl⟩, by decide, ⟨_, rfl⟩, by decide +kernel⟩, ⟨by decide, ⟨_, rfl⟩, by decide, ⟨_, rfl⟩, by decide +kernel⟩,
    ⟨by decide, ⟨_, rfl⟩, by decide, ⟨_, rfl⟩, by decide +kernel⟩, by simp⟩

/-! ### Witnesses: tiles, copies, streams -/

/-- A thread that holds a handle of one tile in slot 0. -/
def tiled (regs : List Word) : Thread := { labThread regs with handle0 := 0x80000 }

def labRange : TileRange := { core := 0, engine := 0, base := 0, count := 1, gen := 1, launch := 1, thread := 0 }

/-- The handle's value as 10 Table 10-1 lays it out: core 0, base 0, one tile, generation 1. -/
theorem test_handle_value : handleValue labRange = 0x80000 := by decide

/-- TileHandles: a bad count, the largest range, a handle that resolves. -/
theorem witness_tile_handles :
    (let s := lab [3, 16]
     let t := labThread [3, 16]
     src32 s labIssue t 0 = .ok (3, t) ∧ ¬ ((3 : Word).toNat = 1 ∨ (3 : Word).toNat = 2 ∨ (3 : Word).toNat = 4
       ∨ (3 : Word).toNat = 8 ∨ (3 : Word).toNat = 16)
     ∧ src32 s labIssue t 1 = .ok (16, t) ∧ (t.handle0 = 0 ∨ t.handle1 = 0) ∧ findTiles s 0 16 = some (0, 0)
     ∧ isStream 0 = false)
    ∧ (let t := tiled [0]
       let s := { labWith t with tileRanges := [labRange] }
       src32 s labIssue t 0 = .ok (0, t) ∧ resolve t 0 = .ok 0
       ∧ EachActive s labIssue 0 (fun t => resolve t 0 = .ok 0)) := by unfold EachActive; decide

/-- The registers of a BF16 task of one tile at x16 (10 Table 10-4), and of a tile move. -/
def taskRegs : List Word := List.replicate 16 0 ++ [0x2000, 0, 0x3000, 0, 0, 0, 64, 64]

/-- TileOperations: a task, a sparse task, the four moves and a marker. -/
theorem witness_tile_operations :
    let t := tiled taskRegs
    let s := { labWith t with tileRanges := [labRange] }
    Reads1 s labIssue 0 0 (fun _ => 0) id ∧ electedLane (act labIssue 0 id s) labIssue 0 = some t
    ∧ src32 (act labIssue 0 id s) labIssue t 0 = .ok (0, t)
    ∧ (∀ y ∈ laneValues 0 0 (act labIssue 0 id s) labIssue, y.2 = 0) ∧ formatOk 0 = true
    ∧ (∃ o, checkTask false 0 (16 * (1 : BitVec 2).toNat) (act labIssue 0 id s) t = .ok o)
    ∧ (∃ o, checkTask true 0 (16 * (1 : BitVec 2).toNat) (act labIssue 0 id s) t = .ok o)
    ∧ (∃ o, checkMove .load 0 (8 * (0 : BitVec 3).toNat) (act labIssue 0 id s) t = .ok o)
    ∧ (∃ o, checkMove .store 0 (8 * (0 : BitVec 3).toNat) (act labIssue 0 id s) t = .ok o)
    ∧ (∃ o, checkMove .zero 0 (8 * (0 : BitVec 3).toNat) (act labIssue 0 id s) t = .ok o)
    ∧ (∃ o, checkMove .convert 0 (8 * (0 : BitVec 3).toNat) (act labIssue 0 id s) t = .ok o)
    ∧ heldOps (act labIssue 0 id s) t.core < 128 ∧ resolve t 0 = .ok 0 := by
  refine ⟨by unfold Reads1; decide, by decide, by decide, by decide, by decide, ⟨_, rfl⟩, ⟨_, rfl⟩, ⟨_, rfl⟩, ⟨_, rfl⟩,
    ⟨_, rfl⟩, ⟨_, rfl⟩, by decide, by decide⟩

/-- A layout record of rank 1 at 0x1000 and one of rank 2 at 0x1100 (11 Table 11-2): words, boxes of 16 bytes. -/
def layouts : List Host.Cell :=
  [(0x1000, 1), (0x1001, 2), (0x1010, 15), (0x1050, 4), (0x10D0, 3),
   (0x1100, 2), (0x1101, 2), (0x1110, 3), (0x1114, 7), (0x1150, 4), (0x1158, 16), (0x11D0, 3)]

def rank1 : Layout := { rank := 1, es := 4, extents := [16], strides := [4], box := [4] }

def rank2 : Layout := { rank := 2, es := 4, extents := [4, 8], strides := [4, 16], box := [4, 1] }

/-- Copies: `cp.t` with its coordinates in the last pair, `cp.g` and `cp.s`, `cp.l` and `cp.red` of the greatest type. -/
theorem witness_copies :
    (let t := labThread [0x1000, 0, 0x2000, 0, 0x3000, 0, 1, 0]
     let s := { labWith t with mem := layouts }
     let rs : List (AccessClass × DWord × Nat) :=
      ((boxRange rank1 0x2000 [0]).toList.map fun x => (.copyDest, x.1, x.2)) ++ [(.copySource, 0x3000, 16)]
     readLayout s t (blockPair t 0) boxBad = .ok rank1 ∧ 2 * (31 : BitVec 5).toNat + 2 * rank1.rank ≤ 64
     ∧ (blockPair t 62).toInt = 0 ∧ (blockReg t 6).toNat ≤ 1 ∧ checkCopyRanges s t rs = .ok () ∧ slotsUsed s t.core < 64)
    ∧ (let t := labThread [0x1100, 0, 0x2000, 0, 0x3000, 0, 0, 0, 0x4000, 0]
       let s := { labWith t with mem := layouts }
       readLayout s t (blockPair t 0) (fun l => decide (l.rank ≠ 2)) = .ok rank2 ∧ (blockReg t 6).toNat < 256
       ∧ checkCopyRanges s t [(.copySource, src64 s labIssue t 8, 4), (.copySource, wholeRange rank2 0x2000),
           (.copyDest, 0x3000, 16 + 4)] = .ok ()
       ∧ checkCopyRanges s t [(.copySource, src64 s labIssue t 8, 4), (.copyDest, wholeRange rank2 0x2000),
           (.copySource, 0x3000, 16)] = .ok ())
    ∧ (let t := labThread [0x2000, 0, 0x3000, 0, 64, 2, 0, 0]
       let s := labWith t
       (blockReg t 5).toNat ≤ 2 ∧ checkCopyRanges s t [(.copySource, 0x2000, 64), (.sync, 0x3000, 64)] = .ok ()
       ∧ checkCopyRanges s t [(.copySource, 0x2000, 64), (.copyDest, 0x3000, 64)] = .ok ()) := by decide

/-- Batches: the last seal that does not wait, and a batch number that is open, sealed, or reported. -/
theorem witness_batches :
    (let s := labWith { labThread [] with bsealed := 32766 }
     EachActive s labIssue 0 fun t => (t.bsealed + 1 - t.boldest).toNat + 1 < 32768)
    ∧ (let t := { labThread [0x10000, 2, 1] with bsealed := 2, boldest := 2 }
       (regGet t.regs 0).getLsbD 16 = true
       ∧ ((regGet t.regs 1).getLsbD 16 = false
          ∧ ((regGet t.regs 1).setWidth 16 - t.boldest).toNat < (t.bsealed + 1 - t.boldest).toNat)
       ∧ ((regGet t.regs 2).getLsbD 16 = false
          ∧ (t.bsealed + 1 - t.boldest).toNat ≤ ((regGet t.regs 2).setWidth 16 - t.boldest).toNat
          ∧ (t.bsealed - (regGet t.regs 2).setWidth 16).toNat < 2 ^ 15)) := by unfold EachActive; decide

/-- A dense entry of four positions at 0x100, and one that appends at 0x140 (12 Table 12-2). -/
def entries : List Host.Cell := [(0x104, 4), (0x140, 5), (0x144, 2), (0x149, 0x20)]

def denseEntry : Entry := { kind := 0, ext := 4 }

def dense (n : Nat) : Stream := { snum := n, entry := 0x100, fin := 4, copy := some denseEntry }

def appended : Stream :=
  { snum := 2, entry := 0x140, fin := 2, role := .append, kind := 5, copy := some { kind := 5, ext := 2, a0 := 0x2000 } }

/-- A thread with two dense streams and one that appends. -/
def streaming : Thread := { labThread [0x100, 0, 2] with streams := [dense 0, dense 1, appended] }

/-- A thread with a union of two dense streams. -/
def derivedThread : Thread :=
  { streaming with streams := [{ dense 0 with role := .slave, linkA := 3 }, { dense 1 with role := .slave, linkA := 3, linkB := 1 },
      { snum := 3, role := .union, linkA := 0, linkB := 1 }] }

/-- StreamWords, StreamActs: a binding, a derivation, a release, skips, and an append. -/
theorem witness_stream_acts :
    let t := streaming
    let s := { labWith t with mem := entries }
    OneLane s labIssue 0 t
    ∧ endedLanes (runEffects labIssue (act labIssue 0 (fun t => { t with acts := t.acts ++ [(2, .free 0)] }) s)) labIssue = []
    ∧ isTied t 3 = false ∧ readEntry s t (src64 s labIssue t 0) = .ok denseEntry
    ∧ streamAt t 0 = some (dense 0) ∧ streamAt t 1 = some (dense 1) ∧ (dense 0).role = .level
    ∧ (let w := { t with acts := [(2, StreamAct.skip 0 2)] }
       ∃ u, doSkip (putThread s w) w 0 2 = .ok u)
    ∧ (let w := { t with acts := [(2, StreamAct.skipN 0 2)] }
       ∃ u, doSkipN (putThread s w) w 0 2 = .ok u)
    ∧ (streamAt t 2 = some appended ∧ appended.role = .append ∧ appended.pos < appended.fin
       ∧ let w := setLatch labIssue .ab 7 { t with acts := [(2, StreamAct.append 2 7)] }
         ∃ e s2, streamEntry (putThread s w) w appended = .ok e
          ∧ threadStore (putThread s w) (putStream w { appended with pos := 1, copy := some e }) (plusBytes e.a0 0) 4 7 = .ok s2) := by
  refine ⟨⟨⟨rfl, rfl, by decide, rfl, rfl, by decide, by decide, by unfold Idle; decide⟩, rfl, rfl, by decide, by decide⟩, by decide,
    by decide, by decide, by decide, by decide, by decide, ⟨_, rfl⟩, ⟨_, rfl⟩, ⟨by decide, by decide, by decide, _, _, rfl, rfl⟩⟩

/-- StreamActs: a skip by count of a fibre that has begun, and the release of a derived stream. -/
theorem witness_begun_and_derived :
    (let x := { dense 0 with started := true, pos := 1 }
     let t := { streaming with streams := [x] }
     let w := { t with acts := [(2, StreamAct.skipN 0 2)] }
     streamAt t 0 = some x ∧ x.role = .level ∧ streamEntry (putThread (labWith t) w) w x = .ok denseEntry ∧ denseEntry.kind ≠ 2)
    ∧ (let t := derivedThread
       (∃ x, streamAt t 3 = some x ∧ (x.role = .intersection ∨ x.role = .union) ∧ (streamAt t x.linkA).isSome = true
         ∧ (streamAt t x.linkB).isSome = true)) :=
  ⟨by decide, _, rfl, Or.inr rfl, by decide, by decide⟩

/-- Words for the Carder at 0x2000: 2, 5, 5, 9; the bitmap word 4; and 1, 0. -/
def carderWords : List Host.Cell := [(0x2000, 2), (0x2004, 5), (0x2008, 5), (0x200C, 9), (0x2010, 4), (0x2014, 1)]

def carderState : State := { labWith streaming with mem := carderWords }

/-- An entry of a kind whose words stand at 0x2000 and at 0x2000 + 4n, and a fibre of it that has begun. -/
def carderEntry (kind n : Nat) : Entry :=
  { kind := kind, ext := 10, a0 := 0x2000, a1 := BitVec.ofNat 64 (0x2000 + 4 * n), val := 0x2000 }

def fibre (kind n pos fin : Nat) : Stream :=
  { snum := 0, started := true, pos := pos, fin := fin, kind := kind, copy := some (carderEntry kind n) }

/-- StreamQueries: the words that each kind reads, at, inside and outside its bounds. -/
theorem witness_stream_elements :
    let s := carderState
    let t := streaming
    let word := fun (p : DWord) (k v : Nat) => carderWord s t (p + BitVec.ofNat 64 (4 * k)) = .ok v
    word 0x2000 0 2 ∧ word 0x2000 1 5 ∧ word 0x2000 2 5 ∧ word 0x2000 3 9 ∧ word 0x2000 4 4 ∧ word 0x2000 5 1
    ∧ word 0x2000 6 0 ∧ 4 / 2 ^ (1 % 32) % 2 = 0 ∧ 4 / 2 ^ (2 % 32) % 2 = 1
    ∧ (∀ k ∈ [0, 1, 2, 3, 4], streamEntry s t (fibre k 0 1 3) = .ok (carderEntry k 0)) := by
  refine ⟨by decide, by decide, by decide, by decide, by decide, by decide, by decide, by decide, by decide, by decide⟩

/-- StreamQueries: streams whose element is there, before, at and beyond a coordinate, and one that is exhausted. -/
theorem witness_stream_skips :
    let s := carderState
    let t := streaming
    (∃ x, materialiseLevel s t (fibre 0 0 1 3) = .ok x ∧ x.done = false ∧ x.crd.toNat = 1 ∧ x.pos < x.fin)
    ∧ (∃ x, materialiseLevel s t (fibre 0 0 3 3) = .ok x ∧ x.done = true)
    ∧ (∃ x, materialiseLevel s t (fibre 1 0 0 4) = .ok x ∧ x.done = false ∧ x.crd.toNat = 2
        ∧ ∃ y, skipLevel s t x 5 = .ok y ∧ y.done = false ∧ y.pos = 1)
    ∧ (∃ x, materialiseLevel s t (fibre 1 0 0 2) = .ok x ∧ ∃ y, skipLevel s t x 6 = .ok y ∧ y.done = true)
    ∧ (∃ x, materialiseLevel s t (fibre 2 0 0 3) = .ok x) ∧ (∃ x, materialiseLevel s t (fibre 3 0 0 1) = .ok x)
    ∧ (∃ x, materialiseLevel s t (fibre 4 0 0 3) = .ok x) := by
  exact ⟨⟨_, rfl, by decide⟩, ⟨_, rfl, by decide⟩, ⟨_, rfl, by decide, by decide, _, rfl, by decide⟩, ⟨_, rfl, _, rfl, by decide⟩,
    ⟨_, rfl⟩, ⟨_, rfl⟩, ⟨_, rfl⟩⟩

/-- StreamQueries: the sources of a derived stream, of which the lower one skips to the other's coordinate. -/
theorem witness_stream_meeting :
    let s := carderState
    let a := { fibre 0 0 1 3 with snum := 0 }
    let b := { fibre 0 0 2 3 with snum := 1 }
    let d : Stream := { snum := 3, role := .intersection, linkA := 0, linkB := 1 }
    let t := { streaming with streams := [a, b, d] }
    streamAt t d.linkA = some a ∧ streamAt t d.linkB = some b ∧ d.valid = false
    ∧ ∃ a1 b1 a2, materialiseLevel s t a = .ok a1 ∧ materialiseLevel s t b = .ok b1 ∧ a1.done = false ∧ b1.done = false
      ∧ a1.crd.toNat < b1.crd.toNat ∧ skipLevel s t a1 b1.crd.toNat = .ok a2 ∧ a2.done = false ∧ a2.crd = b1.crd :=
  ⟨by decide, by decide, by decide, _, _, _, rfl, rfl, by decide, by decide, by decide, rfl, by decide, by decide⟩

/-- StreamActs: skips of a derived stream and of the streams that refuse them; by count of a derived stream and of a bitmap, that
go on and that stop at the end. -/
theorem witness_derived_skips :
    (let s := carderState
     let t := { streaming with streams := [{ fibre 0 0 1 3 with role := .slave, linkA := 3 },
                  { fibre 0 0 2 3 with snum := 1, role := .slave, linkA := 3, linkB := 1 },
                  { snum := 3, role := .intersection, linkA := 0, linkB := 1 }, appended] }
     (∃ x, streamAt t 0 = some x ∧ x.role = .slave) ∧ (∃ x, streamAt t 2 = some x ∧ x.role = .append)
     ∧ ∃ x a b a1 b1 t1 y u, streamAt t 3 = some x ∧ x.role = .intersection ∧ streamAt t x.linkA = some a ∧ streamAt t x.linkB = some b
       ∧ skipLevel s t a 2 = .ok a1 ∧ skipLevel s t b 2 = .ok b1 ∧ materialise s t x = .ok t1 ∧ streamAt t1 3 = some y
       ∧ y.done = false ∧ doSkipN s (advanceStream t1 3) 3 (2 - 1) = .ok u)
    ∧ (∀ fin ∈ [1, 3], let x := { fibre 2 0 1 fin with copy := some { carderEntry 2 0 with a0 := 0x2010 } }
       let t := { streaming with streams := [x] }
       ∃ t1 y, streamAt t 0 = some x ∧ x.role = .level ∧ (∃ e, x.copy = some e ∧ e.kind = 2)
         ∧ materialise carderState t x = .ok t1 ∧ streamAt t1 0 = some y ∧ y.done = decide (fin = 1)) := by
  refine ⟨⟨⟨_, rfl, rfl⟩, ⟨_, rfl, rfl⟩, _, _, _, _, _, _, _, _, rfl, rfl, rfl, rfl, rfl, rfl, rfl, rfl, by decide, rfl⟩, ?_⟩
  simp only [List.forall_mem_cons]
  exact ⟨⟨_, _, rfl, rfl, ⟨_, rfl, rfl⟩, rfl, rfl, by decide⟩, ⟨_, _, rfl, rfl, ⟨_, rfl, rfl⟩, rfl, rfl, by decide⟩, by simp⟩

/-- An entry of kind 4: two counts of 2, strides of 4 and 8 bytes, from 0x2000. -/
def affineEntry : Entry := { kind := 4, ext := 4, a0 := 0x2000, counts := [2, 2, 0, 0], strides := [4, 8, 0, 0] }

/-- StreamQueries: what an element read as an operand delivers: its position, its word, an affine walk's word, nothing at the
end; a slave's where its side is present and where it is absent, and a derived stream's coordinate. -/
theorem witness_stream_reads :
    (let s := carderState
     let t := { streaming with streams := [fibre 0 0 1 3] }
     ∃ x1, streamAt t 0 = some (fibre 0 0 1 3) ∧ materialiseLevel s t (fibre 0 0 1 3) = .ok x1 ∧ x1.done = false
      ∧ ∃ e, streamEntry s (putStream t x1) x1 = .ok e ∧ e.kind ≠ 4 ∧ e.valf = false)
    ∧ (let x := { fibre 0 0 1 3 with copy := some { carderEntry 0 0 with valf := true } }
       let s := carderState
       let t := { streaming with streams := [x] }
       ∃ x1 e, materialiseLevel s t x = .ok x1 ∧ streamEntry s (putStream t x1) x1 = .ok e ∧ e.kind ≠ 4 ∧ e.valf = true
        ∧ ∃ w, carderWord s (putStream t x1) (e.val + BitVec.ofNat 64 (4 * x1.pos)) = .ok w)
    ∧ (let x := { fibre 4 0 3 4 with copy := some affineEntry }
       let s := carderState
       let t := { streaming with streams := [x] }
       ∃ x1, materialiseLevel s t x = .ok x1 ∧ x1.done = false ∧ streamEntry s (putStream t x1) x1 = .ok affineEntry
        ∧ affineEntry.counts.length = 4 ∧ affineEntry.strides.length = 4
        ∧ (∀ i < 2, affineEntry.counts.getD i 0 ≠ 0) ∧ affineEntry.counts.getD 2 0 = 0
        ∧ carderWord s (putStream t x1) 0x200C = .ok 9)
    ∧ (∃ x1, materialiseLevel carderState streaming (fibre 0 0 3 3) = .ok x1 ∧ x1.done = true)
    ∧ (∃ x, streamAt streaming 2 = some x ∧ x.role = .append) :=
  ⟨⟨_, by decide, rfl, by decide, _, rfl, by decide, by decide⟩, ⟨_, _, rfl, rfl, by decide, by decide, _, rfl⟩,
    ⟨_, rfl, by decide, by decide, rfl, rfl, by decide, by decide, by decide⟩, ⟨_, rfl, by decide⟩, _, rfl, rfl⟩

/-- A union whose two sources stand at these positions. -/
def joined (i j : Nat) : Thread :=
  { streaming with streams := [{ fibre 0 0 i 3 with role := .slave, linkA := 3 },
      { fibre 0 0 j 3 with snum := 1, role := .slave, linkA := 3, linkB := 1 }, { snum := 3, role := .union, linkA := 0, linkB := 1 }] }

/-- StreamQueries: a slave whose side is present, and one whose is absent; a first and a second read of a stream by a run; what
advances, and what stands. -/
theorem witness_slave_reads :
    (∀ j ∈ [1, 2], ∃ x z t1 y d, let s := carderState
      let t := joined 1 j
      streamAt t 1 = some x ∧ x.role = .slave ∧ streamAt t x.linkA = some z ∧ z.role = .union ∧ materialiseDerived s t z = .ok t1
      ∧ streamAt t1 1 = some y ∧ y.role = .slave ∧ streamAt t1 y.linkA = some d ∧ d.role = z.role ∧ d.done = false ∧ d.valid = true
      ∧ decide (y.valid = false ∨ y.done = true ∨ y.crd ≠ d.crd) = decide (j = 2)
      ∧ (streamAt t1 d.linkA).isSome = true ∧ (streamAt t1 d.linkB).isSome = true)
    ∧ (let t := streaming
       let s := { labWith t with mem := entries }
       isStream 68 = true ∧ t.readS = [] ∧ t.readErr = [] ∧ ∃ v u, peekStream s t 0 = .ok (v, u)
        ∧ ({ u with readS := [(0, v)] } : Thread).readS.find? (fun x => decide (x.1 = 0)) = some (0, v)) := by
  simp only [List.forall_mem_cons]
  exact ⟨⟨⟨_, _, _, _, _, rfl, by decide, rfl, by decide, rfl, rfl, by decide, rfl, by decide⟩,
    ⟨_, _, _, _, _, rfl, by decide, rfl, by decide, rfl, rfl, by decide, rfl, by decide⟩, by simp⟩,
    by decide, rfl, rfl, _, _, rfl, by decide⟩

/-- StreamQueries: a level stream, and a derived one for `sin`. -/
theorem witness_stream_queries :
    (let t := streaming
     let s := { labWith t with mem := entries }
     (∃ v r, peekStream s t 0 = .ok (v, r)) ∧ (∃ x r, queried s t 0 = .ok (x, r)) ∧ (∃ x r, queried s t 2 = .ok (x, r)))
    ∧ (let t := derivedThread
       let s := { labWith t with mem := entries }
       (∃ y, streamAt t 3 = some y ∧ (y.role = .intersection ∨ y.role = .union)) ∧ ∃ x r, queried s t 3 = .ok (x, r)) := by
  refine ⟨⟨⟨_, _, rfl⟩, ⟨_, _, rfl⟩, ⟨_, _, rfl⟩⟩, ⟨_, rfl, Or.inr rfl⟩, ⟨_, _, rfl⟩⟩

/-- Counters: FPSM, its clearing, the trap word, and the first and the last counter. -/
theorem witness_counters : isCounter 0x0100 = true ∧ 2 < 0x0100 ∧ isCounter 0x0335 = true := by decide

/-! ### Witnesses: privileged words -/

/-- PrivilegedTraps: a launch without the kernel flag. -/
theorem witness_privileged_trap :
    let s := withLaunch (fun x => { x with kernel := false }) (lab labRegs)
    Alone s labIssue ∧ (launchOf s labIssue.launch).kernel = false :=
  ⟨⟨rfl, rfl, by decide, rfl, rfl, by decide, by decide, by unfold Idle; decide⟩, by decide⟩

/-- SystemRegisters: a number that has a register, and writes of CTXCTL, CTRZERO and MODE of every outcome. -/
theorem witness_system_registers :
    let s := lab labRegs
    let t := labThread labRegs
    (launchOf s labIssue.launch).kernel = true ∧ electedLane s labIssue 0 = some t ∧ src32 s labIssue t 4 = .ok (6, t)
    ∧ EachActive s labIssue 0 (fun t => sysReg s t ((6 : Word).toNat % 2 ^ 16) = some (1 + 4096))
    ∧ modeBad 0x36 = false ∧ modeBad 0x34 = false ∧ modeBad 0x3A = false
    ∧ (BitVec.ofNat 2 (0x36 / 4) = s.mode.poolsh ∧ decide (0x36 / 16 % 2 = 1) = s.mode.causal
        ∧ clockWatts (BitVec.ofNat 2 0x36) ≤ s.plimit ∧ BitVec.ofNat 2 0x36 = s.mode.clk)
    ∧ BitVec.ofNat 2 (0x3A / 4) ≠ s.mode.poolsh ∧ t.sysWait ≠ .clockDone
    ∧ ({ s with plimit := 1999 } : State).plimit < clockWatts (BitVec.ofNat 2 0x34)
    ∧ t.before = none := by unfold EachActive; decide

/-- A descriptor of 0x1000 bytes from 0x8000, and a module's of one line at 0x100 (19 R293, R298). -/
def descriptors : List Host.Cell := [(0x100, 0x00), (0x101, 0x80), (0x109, 0x10), (0x201, 0x01), (0x208, 0x80)]

/-- A context with modules 1 live and 2 retired. -/
def moduled : Context :=
  { tag := 1, modules := [{ num := 1, state := .live, start := 0x100, length := 0x80 },
                          { num := 2, state := .retired, start := 0x200, length := 0x80 }] }

/-- SystemWords: segld, icinv, tlbinv, pq.set: accepted and refused. -/
theorem witness_system_words :
    let t := { labThread [0x100, 0, 5, 0, 0x10000, 0x10000, 0x10000, 0x20000] with sysWait := .complete }
    let s := { labWith t with mem := descriptors }
    Alone s labIssue ∧ (launchOf s labIssue.launch).kernel = true ∧ electedLane s labIssue 0 = some t
    ∧ src32 s labIssue t 2 = .ok (5, t) ∧ (5 : Word).toNat ≤ 5
    ∧ (∃ b, readDescriptor s t (src64 s labIssue t 0) = .ok b ∧ segRefused s t 5 b = false)
    ∧ (∃ l, icinvLines s t (src64 s labIssue t 0) 5 = .ok l) ∧ Released s t ∧ t.sysWait = .complete
    ∧ ((0x0001000000010000 : DWord).toNat / 2 ^ 60 = 0 ∧ (0x0001000000010000 : DWord).toNat % 65536 = 0
        ∧ liveContext s t ((0x0001000000010000 : DWord).toNat / 2 ^ 48 % 4096) = true)
    ∧ ((0x0002000000010000 : DWord).toNat / 2 ^ 60 = 0 ∧ (0x0002000000010000 : DWord).toNat % 65536 = 0
        ∧ liveContext s t ((0x0002000000010000 : DWord).toNat / 2 ^ 48 % 4096) = false)
    ∧ (liveContext s t 1 = true ∧ liveContext s t 4095 = false ∧ 1024 ≤ (1024 : Word).toNat) := by
  refine ⟨⟨rfl, rfl, by decide, rfl, rfl, by decide, by decide, by unfold Idle; decide⟩, by decide, by decide, by decide, by decide,
    ⟨_, rfl, by decide⟩, ⟨_, rfl⟩, by unfold Released; decide, rfl, by decide, by decide, by decide⟩

/-- SystemWords: a module published, refused as live and as overlapping; one retired, absent, busy or forced. -/
theorem witness_modules :
    let t := { labThread [0x200, 0, 3, 0] with sysWait := .complete }
    let s := { labWith t with mem := descriptors, contexts := [moduled] }
    let x := ctxOf s t.efftag
    (∃ b, readDescriptor s t (src64 s labIssue t 0) = .ok b ∧ natOfBytes (b.take 8) = 0x100
      ∧ natOfBytes ((b.drop 8).take 4) = 0x80 ∧ natOfBytes ((b.drop 12).take 4) = 0)
    ∧ (3 : Word).toNat ≤ 1023 ∧ moduleDetail x 1 = 1 ∧ moduleDetail x 3 ≠ 1 ∧ overlapsLive x 0x100 0x80 = true
    ∧ moduleDetail moduled 3 ≠ 1 ∧ overlapsLive x 0x180 0x80 = false ∧ moduleAt x 1023 = none
    ∧ (∃ e, moduleAt x 2 = some e ∧ e.state = .retired)
    ∧ (∃ e, moduleAt x 1 = some e ∧ e.state = .live ∧ liveCount s t.efftag e = 0)
    ∧ liveCount s t.efftag { num := 1, state := .live, start := 0, length := 0x80 } ≠ 0 := by
  refine ⟨⟨_, rfl, by decide, by decide, by decide⟩, by decide, by decide, by decide, by decide, by decide, by decide,
    by decide, ⟨_, rfl, rfl⟩, ⟨_, rfl, rfl, by decide⟩, by decide⟩

/-- SystemWords: a pool extension granted up to 2^28 bytes, one too many, and one whose pages are not the core's. -/
theorem witness_poolx :
    let t := labThread []
    let s := labWith t
    let ext : PoolExt := { region := 1, frames := [], length := 2 ^ 28, ctx := 1 }
    let full := mapCore s 0 fun k => { k with exts := [ext] }
    ((partOf s (partOfThread s t)).getD noPart).cores.contains 0 = true ∧ regionFrames s t (dieOfCore 0) 0 1 = some [0]
    ∧ extensionBytes (coreOf s 0) + 65536 ≤ 2 ^ 28 ∧ regionFrames full t (dieOfCore 0) 0 1 = some [0]
    ∧ 2 ^ 28 < extensionBytes (coreOf full 0) + 1 * 65536 ∧ regionFrames s t (dieOfCore 191) 0 1 = none := by decide

/-- ContextTags: a live tag and one that is not. -/
theorem witness_context_tags :
    let t := labThread [1, 4095]
    let s := labWith t
    OneLane s labIssue 0 t ∧ src32 s labIssue t 0 = .ok (1, t) ∧ src32 s labIssue t 1 = .ok (4095, t)
    ∧ liveContext s t 1 = true ∧ liveContext s t 4095 = false ∧ t.place = .window := by
  refine ⟨⟨⟨rfl, rfl, by decide, rfl, rfl, by decide, by decide, by unfold Idle; decide⟩, rfl, rfl, by decide, by decide⟩, by decide,
    by decide, by decide, by decide, rfl⟩

/-! ### Witnesses: steps -/

/-- A thread alone on its core, its word about to issue. -/
def ready (i : Instr) : State := { fetchState State.reset (encode i) with agenda := [] }

def readyThread (i : Instr) : Thread := (ready i).threads.headD (labThread [])

/-- IssueGroups, StepRunsDecoded: the only candidate at a word that is its run, and the group formed of it. -/
theorem witness_issue :
    let i : Instr := .br 0 (-1)
    let s := ready i
    let s1 := asking s 0
    Running s ∧ MayIssue s 0 ∧ (s.threads.map rowKey).Nodup ∧ candidates s1 0 = [readyThread i]
    ∧ (∃ l w fall mask, StandsAt s1 (readyThread i) l w i fall mask)
    ∧ hitsLoads (readyThread i) [((readyThread i).pos, i)] = false
    ∧ ∃ g fall mask ready, formGroup s1 0 = some (g, .run [(2, i)] fall mask, ready) := by
  refine ⟨⟨rfl, rfl⟩, ⟨rfl, by decide, by decide, by decide, by decide⟩, by decide, by decide,
    ⟨lineOf (encode (.br 0 (-1))), encode (.br 0 (-1)), (1, 0), 0, ⟨by decide, by decide, by decide, by decide, by decide, by decide, by decide,
      by decide, by decide, by decide, by decide, by decide, by decide⟩⟩, by decide, ⟨_, _, _, _, rfl⟩⟩

/-- StepRunsDecoded: a run of two words, the first chained. -/
theorem witness_chained_run :
    let s := ready (.iadd 1 0 4 5 6 0)
    MayIssue s 0 ∧ ∃ g v w ws fall mask ready, formGroup (asking s 0) 0 = some (g, .run (v :: w :: ws) fall mask, ready) :=
  ⟨⟨rfl, by decide, by decide, by decide, by decide⟩, ⟨_, _, _, _, _, _, _, rfl⟩⟩

/-- The run of `iadd x5, x5, x4` and `isub x6, x5, x4` of the small package. -/
def pairIssue : Issue :=
  { labIssue with pos := 0, chained := true, words := [(1, .iadd 1 0 5 5 4 0), (2, .isub 0 0 6 5 4 0)] }

/-- StepRunsDecoded: a run of two words whose registers are no streams. -/
theorem witness_pair_run :
    Chained { lab labRegs with issue := some pairIssue } pairIssue ∧ pairWords[0]? = some (.iadd, fun _ x y => (x + y, 0))
    ∧ (([5, 5, 4, 6, 5, 4] : List (BitVec 7)).all fun k => !isStream k) = true :=
  ⟨⟨rfl, rfl, rfl, rfl, by decide, by decide, by unfold Idle; decide⟩, rfl, by decide⟩

/-- The second word reads x5 as it was before the run (02 R35). -/
theorem test_pair_run : ((threadAt (conduct (runBody pairIssue) 33 { lab labRegs with issue := some pairIssue }) 1 0).map
    fun t => (regGet t.regs 5, regGet t.regs 6)) = some (0x8000000D, 0x80000001) := by decide

/-- What a step of that run gives: the chained word and the one after it are the run (02 R35). -/
theorem test_step_chained : (match step { ready (.iadd 1 0 4 5 6 0) with agenda := [.runIssue 0] } with
    | .next s => (s.issue, (threadAt s 1 0).map fun t => (t.packet, t.pos))
    | _ => (none, none)) = (none, some (0, 2)) := by decide

/-- A step of one word: the branch goes to its target's packet in order (06 R130). -/
theorem test_step_branch : (match step { ready (.br 0 3) with agenda := [.runIssue 0] } with
    | .next s => (threadAt s 1 0).map fun t => (t.packet, t.pos)
    | _ => none) = some (3, 0) := by decide

/-- FrozenStands. -/
theorem witness_frozen :
    ({ State.reset with frozen := true } : State).issue = none ∧ passesFreeze .coreClockCycle = false
    ∧ State.reset.agenda = [] ∧ ({ State.reset with boot := { failed := some 3 } } : State).boot.failed.isSome = true
    ∧ ({ State.reset with boot := { failed := some 3 } } : State).frozen = false := by decide

/-! ### Witnesses: events of cores, threads and forwards -/

/-- A translation of page 0 to frame 0 in the tables at 0x10000 (21 R322). -/
def tables : List Host.Cell :=
  [(0x10000, 1), (0x10001, 8), (0x10002, 1), (0x10800, 1), (0x10801, 0x10), (0x10802, 1), (0x11000, 1), (0x11001, 0x18),
   (0x11002, 1), (0x11800, 0x1F)]

/-- The small package with a context that has these tables, and memory below them. -/
def labSpace (t : Thread) (m : List Host.Cell) : State :=
  { labWith t with contexts := [{ tag := 1, tbase := 0x10000, savebase := 0x100000, savelen := 0x100000 }], mem := m ++ tables }

/-- What they translate page 0 to. -/
def labEntry : TlbEntry := { tag := 1, base := 0, size := 65536, pa := 0, w := true, x := true, peer := true, level := 3 }

theorem witness_walk : walk (labSpace (labThread []) []) (ctxOf (labSpace (labThread []) []) 1) 0 = .ok labEntry := by decide

/-- A record binned at cycle 0 that a forced save has made. -/
def binnedThread : Thread :=
  { labThread [] with place := .binned 0, forced := true, latchesSaved := true, carry := BitVec.ofNat 64 (2 ^ 64 - 1) }

/-- CoreEvents: a ready bin of one record, a bin of the least age, a line asked for, a window held. -/
theorem witness_core_events :
    let k : BinKey := { launch := 1, gang := 0, packet := 0, pos := 2 }
    let s := mapCore { labWith binnedThread with timeBase := 256 } 0 fun r =>
      { r with bins := [{ launch := 1, gang := 0, packet := 0, pos := 2, ready := true }], fills := [5] }
    (coreOf s 0).drained = false ∧ (coreOf s 0).inService = true ∧ (s.threads.map rowKey).Nodup ∧ readyBins s 0 = [k]
    ∧ (binRecords s 0 k).take 32 = [binnedThread] ∧ drainWindow s binnedThread = .ok 64
    ∧ windowsHeld s 0 + 1 ≤ Config.coreWindows
    ∧ binRecords s 0 k ≠ [] ∧ drainThreshold s ≤ now s - oldestOf (binRecords s 0 k)
    ∧ s.hardErrors = [] ∧ (∀ x ∈ s.contexts, x.run ≠ .stopping)
    ∧ (coreOf s 0).fills = [5] ∧ isBad s (5 * 128) = false ∧ (∀ x ∈ (coreOf s 0).icache, x.1 ≠ 5)
    ∧ (codeTrip s 0 5).isSome = true
    ∧ codeTrip { s with moves := [{ tag := 1, page := 0, die := 8, moving := some (0x7FFFFF, 0) }] } 0 5 = none
    ∧ (let u := { s with badLines := [5] }
       isBad u (5 * 128) = true ∧ cachedLine u 0 5 = false)
    ∧ windowsHeld (lab []) 0 ≠ 0 ∧ (coreOf s 0).tlb.length ≤ 512 := by decide

/-- CoreEvents: a walk whose packets arrive, and one under a tag on its way out. -/
theorem witness_walks :
    (let s := labSpace (labThread []) []
     (ctxAt s 1).isSome = true ∧ isRemoving (ctxOf s 1) = false ∧ (walkTrips s 0 1 (ctxOf s 1) 0).isSome = true)
    ∧ (let s := mapCtx (labSpace (labThread []) []) 1 fun x => { x with run := .removing 0 }
       (ctxAt s 1).isSome = true ∧ isRemoving (ctxOf s 1) = true ∧ walk s (ctxOf s 1) 0 = .ok labEntry) := by decide +kernel

/-- A posted store of eight bytes. -/
def posted (loc : Nat) : SbEntry := { data := 7, vaddr := 0x100, size := 3, loc := loc }

/-- The oldest entry of a store buffer may drain. -/
abbrev drainsNow (s : State) (t : Thread) (e : SbEntry) : Prop :=
  holdsEntries t = true ∧ e.failed = false ∧ isBad s e.loc = false ∧ windowLost s e.wpa = false ∧ windowPaused s e.loc = false
  ∧ feltReady s (dieOfCore t.core) (entryDie s t e) = true

/-- ThreadEvents: a load of the own window, which has no line to wait for. -/
theorem witness_load_of_window :
    let p : PendingLoad := { writes := [(3, 7)], latch := none }
    ∀ loc k, p.loc = some (loc, k) → (coreLine (lab []) 0 (loc / 128)).isSome = true :=
  fun _ _ h => by cases h

/-- A read of a word of peer 5, and one of the host's. -/
def peerRead : RemoteRead := { peer := some 5, va := 0x100, loc := 2 ^ 128 + 0x100, size := 4, kind := .read 0x100 4 }

def hostRead : RemoteRead := { peer := none, va := 0x100, loc := hostLoc 0x7100, size := 4, wpa := 2 ^ 40 + 0x100, kind := .read 0x100 4 }

/-- A thread of a core of die 1, which is not its launch's F-die. -/
def inner (t : Thread) : Thread := { t with core := 24 }

/-- ThreadEvents: reads of a peer and of the host, wanted and sent. -/
theorem witness_remote_reads :
    (let t := inner { labThread [] with remoteLoad := some (.wanted peerRead) }
     let s := labWith t
     threadAt s 1 0 = some t ∧ windowLost s peerRead.wpa = false ∧ feltReady s (dieOfCore t.core) (fdieOf s 1) = true
     ∧ s.threads.any (precedes t peerRead) = false ∧ dieOfCore t.core ≠ fdieOf s 1 ∧ isLiveDie s (fdieOf s 1) = true)
    ∧ (let t := { labThread [] with remoteLoad := some (.wanted hostRead) }
       let s := hostLab t
       threadAt s 1 0 = some t ∧ windowLost s hostRead.wpa = false
       ∧ (message s (dieOfCore t.core) 0 false t.efftag).isSome = true
       ∧ (windowAt s hostRead.wpa).isSome = true ∧ s.port.paused = false)
    ∧ (let t := { labThread [] with remoteLoad := some (.sent peerRead none) }
       let s := labWith t
       threadAt s 1 0 = some t ∧ windowLost s peerRead.wpa = false ∧ (remoteArrives s t peerRead).isSome = true)
    ∧ (∀ x ∈ [none, some 7],
       let r := { peerRead with kind := .atomic 0x100 0 false true 0 1, lanes := [0] }
       let t := { labThread [] with remoteLoad := some (.sent r x) }
       let s := labWith t
       threadAt s 1 0 = some t ∧ windowLost s r.wpa = false ∧ r.peer.isSome = true ∧ (remoteArrives s t r).isSome = true
       ∧ oneWordLanes s t r = if x = none then [t] else [])
    ∧ (let t := { labThread [] with remoteLoad := some (.wanted { peerRead with loc := 0x100, peer := none }) }
       isHostLoc 0x100 = false ∧ windowLost (labWith t) 0 = false) := by decide +kernel

/-- ThreadEvents: one thread for each clause. -/
theorem witness_thread_events :
    (let p : PendingLoad := { writes := [(3, 7)], latch := none, loc := some (0x100, 4) }
     let t := { labThread [] with loads := [p], sysWait := .discard }
     threadAt (labWith t) 1 0 = some t ∧ t.remoteLoad = none ∧ (loadArrives (labWith t) t p).isSome = true ∧ t.sysWait = .discard
     ∧ (discardTrips (labWith t) t).isSome = true
     ∧ let cut := { labWith t with mode := { (labWith t).mode with causal := true }, felt := { (labWith t).felt with cutWanted := true } }
       threadAt cut 1 0 = some t ∧ discardTrips cut t = none)
    ∧ (let p : PendingLoad := { writes := [], latch := none, acks := true }
       let t := { labThread [] with kept := some p, relUnack := 1 }
       threadAt (labWith t) 1 0 = some t ∧ t.loads = [] ∧ t.remoteLoad = none ∧ t.kept = some p)
    ∧ (∀ k ∈ [AckKind.release, .ownership, .otherDie],
       let o : OwedAck := { die := 1, launch := 1, thread := 0, kind := k }
       let s := labWith (labThread [])
       let u := { s with felt := { s.felt with owed := [o] } }
       u.felt.owed.find? (owedTo 1 0 k) = some o ∧ (message u o.die 0 false o.tag).isSome = true
       ∧ s.felt.owed.any (owedTo 1 0 k) = false)
    ∧ (let t := { labThread [] with sysWait := .invalidation 1 0 1 }
       threadAt (labWith t) 1 0 = some t ∧ t.sysWait = .invalidation 1 0 1 ∧ oldAccesses (labWith t) 1 = false)
    ∧ (let t := { labThread [] with place := .stalled (.binned 0) }
       threadAt (labWith t) 1 0 = some t ∧ mayIssue (labWith t) t = true
       ∧ freeSlots (coreOf (labWith t) t.core) (classOf (recordLength t)) ≠ 0)
    ∧ (let d : DeferredLoad := { loc := 0x100, size := 16, signed := false, dest := 60, va := 0x100, peerf := false }
       let t := { labThread [] with place := .ldcWait, ldc := some d }
       let s := labWith t
       threadAt s 1 0 = some t ∧ readsBad s t.core .plain d.loc d.size = false ∧ windowLost s d.wpa = false
       ∧ windowPaused s d.loc = false ∧ asksFirst s t d = false ∧ (ldcData s t d).isSome = true)
    ∧ (let d : DeferredLoad := { loc := 2 ^ 128, size := 4, signed := false, dest := 0, va := 0x100, peerf := true, peer := 5 }
       let t := inner { labThread [] with place := .ldcWait, ldc := some d }
       let s := labWith t
       threadAt s 1 0 = some t ∧ readsBad s t.core .plain d.loc d.size = false ∧ windowLost s d.wpa = false
       ∧ windowPaused s d.loc = false ∧ asksFirst s t d = true ∧ feltReady s (dieOfCore t.core) (fdieOf s 1) = true)
    ∧ (let d : DeferredLoad := { loc := hostLoc 0x7100, size := 4, signed := false, dest := 0, va := 0x100, peerf := false, wpa := 2 ^ 40 + 0x100 }
       let t := { labThread [] with place := .ldcWait, ldc := some d }
       let s := hostLab t
       threadAt s 1 0 = some t ∧ readsBad s t.core .plain d.loc d.size = false ∧ windowLost s d.wpa = false
       ∧ windowPaused s d.loc = false ∧ asksFirst s t d = true
       ∧ (message s (dieOfCore t.core) 0 false d.tag).isSome = true) := by decide +kernel

/-- ThreadEvents: entries that drain: to memory of the own die and of another, to a peer, to the host before and after its
WRITE. -/
theorem witness_drains :
    (let t := { labThread [] with sbuf := [posted 0x100] }
     threadAt (labWith t) 1 0 = some t ∧ drainsNow (labWith t) t (posted 0x100) ∧ homeOf (labWith t) 0x100 = dieOfCore t.core)
    ∧ (let t := { labThread [] with sbuf := [posted (2 ^ 39 - 8)], place := .storeSlot }
       threadAt (labWith t) 1 0 = some t ∧ drainsNow (labWith t) t (posted (2 ^ 39 - 8))
       ∧ homeOf (labWith t) (2 ^ 39 - 8) ≠ dieOfCore t.core ∧ isLiveDie (labWith t) (homeOf (labWith t) (2 ^ 39 - 8)) = true)
    ∧ (let t := inner { labThread [] with sbuf := [{ posted (2 ^ 128) with peerf := true }], place := .stalled .storeSlot }
       threadAt (labWith t) 1 0 = some t ∧ drainsNow (labWith t) t { posted (2 ^ 128) with peerf := true })
    ∧ ∀ b ∈ [false, true],
      let e := { posted (hostLoc 0x7100) with wpa := 2 ^ 40 + 0x100, sent := b }
      let t := { labThread [] with sbuf := [e] }
      threadAt (hostLab t) 1 0 = some t ∧ drainsNow (hostLab t) t e ∧ isHostLoc e.loc = true
      ∧ (message (hostLab t) (dieOfCore t.core) 0 false e.tag).isSome = true := by decide +kernel

/-- ThreadEvents: a barrier's last arrival, and an exit. -/
theorem witness_barrier_and_exit :
    (let t := { labThread [] with place := .barrier .gang false }
     threadAt (labWith t) 1 0 = some t ∧ releaseReady (labWith t) t = true ∧ ((labWith t).threads.map rowKey).Nodup
     ∧ (∀ u ∈ (labWith t).threads, isRetired (ctxOfLaunch (labWith t) u.launch) (codeAddr u) = false)
     ∧ (∀ u ∈ (labWith t).threads, dieOfCore u.core = dieOfCore t.core)
     ∧ instanceComplete (putThread (labWith t) { bumpBarrier .gang t with place := .barrier .gang true }) .gang
         { bumpBarrier .gang t with place := .barrier .gang true } = true)
    ∧ (let t := { labThread [] with place := .exiting }
       threadAt (labWith t) 1 0 = some t ∧ exitReady t = true ∧ t.handle0 = 0 ∧ t.handle1 = 0
       ∧ holdsRange (labWith t) 1 0 = false ∧ releaseReady (labWith t) t = true ∧ (launchAt (labWith t) 1).isSome = true
       ∧ (tell (labWith t) t.efftag [dieOfCore t.core] [(launchOf (labWith t) 1).fdie]).isSome = true
       ∧ ∀ u ∈ (labWith t).threads, u.launch = 1 → sameUnitGang (launchOf (labWith t) 1) t.gang u.gang = true →
           (u.place = .exited ∨ u.thread = 0) ∧ u.fwdAcks = []) := by decide +kernel

/-- A thread with a forward. -/
def forwarded (f : Forward) : Thread := { labThread [] with place := .forward, fwd := some f }

/-- ForwardEvents: ready for a core and for a peer, a back-off that is over, a request that is granted and one that is
not, the sixteenth refusal of either kind, a record on its way, and an addition still to be made. -/
theorem witness_forward_events :
    Canonical (labWith (forwarded { phase := .ready, dest := 1 }))
    ∧ (let f : Forward := { phase := .ready, dest := 1 }
       let s := labWith (forwarded f)
       forwardOf s 1 0 = some (forwarded f, f) ∧ forwardMay s (forwarded f) f = true ∧ forwardReady s (forwarded f) f = true)
    ∧ (let f : Forward := { phase := .ready, dest := 255, peerf := true, peer := 9 }
       let s := labWith (forwarded f)
       forwardOf s 1 0 = some (forwarded f, f) ∧ forwardReady s (forwarded f) f = true ∧ forwardMay s (forwarded f) f = true
       ∧ remoteSlots s (pathOf s (partOfThread s (forwarded f)) 1 f.peer) < 4
       ∧ (message s 0 (fdieOf s 1) true 1).isSome = true)
    ∧ (let f : Forward := { phase := .backoff 0, dest := 1, refusals := 15 }
       let s := labWith (forwarded f)
       forwardOf s 1 0 = some (forwarded f, f) ∧ forwardMay s (forwarded f) f = true ∧ 0 ≤ now s ∧ f.refusals < 16)
    ∧ (let f : Forward := { phase := .requested, dest := 191 }
       let s := labWith (forwarded f)
       forwardOf s 1 0 = some (forwarded f, f) ∧ forwardMay s (forwarded f) f = true ∧ destOf s (forwarded f) f = 191 ∧ canTake s (forwarded f) 191 = true
       ∧ feltReady s (dieOfCore 0) (dieOfCore 191) = true
       ∧ canTake (mapCore s 191 fun r => { r with inService := false }) (forwarded f) 191 = false)
    ∧ (let f : Forward := { phase := .ready, dest := 1, refusals := 16 }
       let s := withLaunch (fun x => { x with trappkt := 3 }) (labWith (forwarded f))
       forwardOf s 1 0 = some (forwarded f, f) ∧ f.byMove = false ∧ (launchOf s 1).trappkt ≠ 0
       ∧ (ctxOfLaunch s 1).run = .running ∧ isRetired (ctxOfLaunch s 1) (packetAddr (launchOf s 1).trappkt) = false)
    ∧ (let f : Forward := { phase := .ready, dest := 1, refusals := 16, byMove := true }
       forwardOf (labWith (forwarded f)) 1 0 = some (forwarded f, f) ∧ (forwarded f).saved = false
       ∧ (∀ k ∈ [BarKind.gang, .cluster, .launch], returnPlace (labWith (forwarded f)) (forwarded f) f ≠ .barrier k true)
       ∧ (let h := { f with fromSave := true }
          forwardOf (labWith { forwarded h with saved := true }) 1 0 = some ({ forwarded h with saved := true }, h)))
    ∧ (let f : Forward := { phase := .transit, dest := 1, ack := some 4 }
       let s := labWith (forwarded f)
       forwardOf s 1 0 = some (forwarded f, f) ∧ mayAccept s (forwarded f) f = true ∧ f.ranges = [] ∧ f.from_ = none
       ∧ residentAt s 1 0 0 = true ∧ residentAt s 1 0 1 = false)
    ∧ (let t := { labThread [] with fwdAcks := [4092] }
       threadAt (labWith t) 1 0 = some t ∧ releaseReady (labWith t) t = true ∧ t.place ≠ .exited
       ∧ (tell (labWith t) t.efftag [dieOfCore t.core] [cellDie (labWith t) (gangLoc 1 0 4092)]).isSome = true) := by
  unfold Canonical; decide +kernel

/-! ### Witnesses: copies, tiles, queues, admission -/

/-- A copy of one word at work. -/
def labCopy (k : CopyKind) : Copy :=
  { id := 1, core := 0, launch := 1, gang := 0, thread := 0, kind := k, cls := .localHbm, src := 0x2000, dst := 0x3000, len := 4,
    tag := 1, segs := (gangOf (labWith (labThread [])) (labThread [])).segs }

/-- EngineEvents: copies. -/
theorem witness_copy_events :
    (let s := { labWith (labThread []) with copies := [labCopy .linear] }
     Canonical s ∧ copyAt s 1 = some (labCopy .linear) ∧ copyReady s (labCopy .linear) = true ∧ (labCopy .linear).asked = none
     ∧ (∃ s1 c1, copySteps (copyPieces (labCopy .linear) - (labCopy .linear).progress) s { labCopy .linear with started := true } = (s1, c1, none))
     ∧ (∃ s1 c1, putBytes s (labCopy .linear) (plusBytes 0x3000 0) 4 7 = (s1, c1, none)))
    ∧ (let s := labWith (labThread [])
       engineLocate s (copyUser s (labCopy .linear)) (plusBytes 0x2000 0) 4 .read = .ok (.virt 0x2000 false, 0x2000)
       ∧ engineLocate s (copyUser s (labCopy .linear)) (plusBytes 0x3000 0) 4 .write = .ok (.virt 0x3000 false, 0x3000)
       ∧ engineLocate s (copyUser s (labCopy .reduce)) (plusBytes 0x2000 0) 4 .read = .ok (.virt 0x2000 false, 0x2000)
       ∧ engineLocate s (copyUser s (labCopy .reduce)) (plusBytes 0x3000 0) 4 .modify = .ok (.virt 0x3000 false, 0x3000)
       ∧ (labCopy .reduce).rtype = 0
       ∧ ∀ a ∈ [0x2000, 0x3000], accessDie s 1 0 (.virt a false) a = dieOfCore 0 ∧ targetPeerf (.virt a false) = false
           ∧ enginePa s (copyUser s (labCopy .linear)) (.virt a false) = 0)
    ∧ (∀ n ∈ [0, 1], let c := { labCopy .linear with state := .moved, unacked := n }
       copyAt { labWith (labThread []) with copies := [c] } 1 = some c) := by
  refine ⟨⟨by unfold Canonical; decide, by decide, by decide, rfl, ⟨_, _, rfl⟩, ⟨_, _, rfl⟩⟩, by decide, by decide⟩

/-- EngineEvents: a copy from a peer that asks for the line it reads first. -/
theorem witness_copy_asks :
    let c := { labCopy .linear with src := 0x1005000000000100 }
    let s := { peerLab (labThread []) with copies := [c] }
    copyAt s 1 = some c ∧ copyReady s c = true ∧ c.asked = none ∧ (copyRun s { c with started := true }).2.2 = some (.ask 5 0x100 peerWord)
    ∧ (message (copyRun s { c with started := true }).1 0 (fdieOf s 1) false 1).isSome = true := by decide +kernel

/-- MatrixFolds: a format of each group shape, elements of the greatest codes, the scale codes, a finite code. -/
theorem witness_folds :
    (∀ fmt ∈ [0x66, 0x00, 0x11], fmt / 4096 % 4 = 0 ∧ fmt % 16 = fmt / 16 % 16)
    ∧ (∀ fmt ∈ [0x22, 0x32, 0x53, 0x44, 0x50], fmt / 4096 % 4 = 0)
    ∧ (0x52 % 16 = 2 ∧ 0x52 / 16 % 16 = 5 ∧ 0x50 % 16 = 0 ∧ 0x50 / 16 % 16 = 5 ∧ 0x44 % 16 = 4)
    ∧ (∀ fmt ∈ [0x1077, 0x2077], fmt % 16 = 7 ∧ fmt / 16 % 16 = 7) ∧ 0x1077 / 4096 % 4 = 1 ∧ 0x2077 / 4096 % 4 = 2
    ∧ (∀ x, some x ∈ [some 0xFFFF, none] → x < 2 ^ typeBits 0) ∧ (0xFFFFFFFF : Nat) < 2 ^ 32
    ∧ fmtF32.Finite 0x7F7FFFFF ∧ scaleMeant (some 254) = some 127 ∧ scaleMeant (some 255) = none := by
  unfold Fmt.Finite
  refine ⟨by decide, by decide, by decide, by decide, by decide, by decide, ?_, by decide, by decide, by decide, by decide⟩
  intro x h
  simp at h
  subst h
  decide

/-- MovedData: an access at a pointer of the small package finds its own die. -/
abbrev nearAt (s : State) (u : EngineUser) (p n : Nat) (a : Acc) : Prop :=
  engineLocate s u (BitVec.ofNat 64 p) n a = .ok (.virt p false, p) ∧ accessDie s u.who.launch u.who.core (.virt p false) p = dieOfCore u.who.core
  ∧ targetPeerf (.virt p false) = false ∧ enginePa s u (.virt p false) = 0

/-- MovedData: a word of each kind of copy: its source, its destination, its index; box points inside and outside, mask words. -/
theorem witness_moved_data :
    let s := labWith (labThread [])
    (∀ k ∈ [CopyKind.linear, .reduce, .tensor, .gather, .scatter], let u := copyUser s (labCopy k)
      nearAt s u 0x2000 4 .read ∧ nearAt s u 0x3000 4 .write ∧ nearAt s u 0x3000 4 .modify)
    ∧ (∀ o ∈ [0, 14, -1], let c := { labCopy .tensor with layout := rank1, origin := [o] }
        c.layout.box ≠ [] ∧ (∀ x ∈ c.layout.box, 0 < x) ∧ c.layout.extents.length = c.layout.box.length
        ∧ c.layout.strides.length = c.layout.box.length ∧ c.origin.length = c.layout.box.length
        ∧ decide (0 ≤ o ∧ o < 16) = decide (o ≠ -1) ∧ copyPieces c = 4 + 1)
    ∧ (let c := { labCopy .gather with layout := rank2, index := 0x2000, origin := [0], count := 2, indices := [7, 8] }
       c.indices.length = c.count ∧ c.layout.extents.length = 2 ∧ c.layout.strides.length = 2 ∧ (7 : Word) ≠ 0xFFFFFFFF
       ∧ rank2.nosent = false ∧ (7 : Word).toNat < rank2.extents.getD 1 1 ∧ ¬ (8 : Word).toNat < rank2.extents.getD 1 1)
    ∧ (∃ r, copyPiece s (labCopy .linear) = r ∧ r.2.2 = none)
    ∧ ∀ i < 4, holdsByte s 0 (0x2000 + i) = false := by
  exact ⟨by decide, by decide, by decide, ⟨_, rfl, by decide⟩, by decide⟩

/-- A task of one tile, and the same with another kind. -/
def labOp (k : TileKind) : TileOp :=
  { id := 1, core := 0, launch := 1, gang := 0, thread := 0, range := 0, kind := k, pa := 0x2000, pb := 0x3000, sa := 64, sb := 64,
    pm := 0x4000, segs := (gangOf (labWith (labThread [])) (labThread [])).segs, tag := 1, state := .dispatched }

def labOps (o : TileOp) (m : List Host.Cell) : State :=
  { labWith (tiled []) with tileRanges := [{ labRange with bound := true }], tileOps := [o], mem := m }

/-- MovedData: the accesses of tile moves; a conversion to each format; blocks of zeros, of a NaN, and of numbers. -/
theorem witness_moved_tiles :
    (∀ k ∈ [TileKind.load, .store, .convert], let s := labOps (labOp k) []
      nearAt s (opUser s (labOp k)) 0x2000 4 .read ∧ nearAt s (opUser s (labOp k)) 0x2000 4 .write
      ∧ nearAt s (opUser s (labOp k)) 0x2000 1 .write)
    ∧ (∀ k < 7, ({ labOp .convert with ctl := BitVec.ofNat 32 (256 * k) } : TileOp).ctl.toNat / 256 % 16 = k)
    ∧ (let o := labOp .store
       let s := labOps o []
       (movePiece s o { labRange with bound := true } 0).2.2 = none)
    ∧ ¬ fmtF32.Finite 0x7F800000
    ∧ ((∀ v ∈ [0, 0x3F800000], fmtF32.Finite v) ∧ 2 ^ 149 ∈ [0, 0x3F800000].map (fun v => (fmtF32.number v).natAbs)
      ∧ (∀ v ∈ [0, 0x3F800000], (fmtF32.number v).natAbs ≤ 2 ^ 149) ∧ (2 : Nat) ^ 149 < 2 ^ (149 + 1))
    ∧ (fmtF32.number 0).natAbs = 0 := by
  unfold Fmt.Finite; decide +kernel

/-- EngineEvents: dispatch of a task that zeroes its tiles, and of a marker. -/
theorem witness_dispatch :
    (let o := { labOp .task with state := .queued, fmt := 0x100 }
     let s := labOps o []
     Canonical s ∧ s.tileOps.find? (fun x => decide (x.core = 0) && opReady s x) = some o
     ∧ rangeAt s 0 = some { labRange with bound := true } ∧ opAt s 1 = some o ∧ isTask o = true ∧ o.fmt.toNat / 256 % 4 = 1
     ∧ o.order = 0)
    ∧ (let o := { labOp .fence with state := .queued }
       let s := labOps o []
       s.tileOps.find? (fun x => decide (x.core = 0) && opReady s x) = some o) := by unfold Canonical; decide

/-- EngineEvents: a step of a dense task, one of a sparse task with the element (0, 0) of each operand present, and one
that is skipped. -/
theorem witness_steps :
    (let o := labOp .task
     let s := labOps o []
     opAt s 1 = some o ∧ rangeAt s 0 = some { labRange with bound := true } ∧ atWork s o = true ∧ o.step < taskSteps o
     ∧ maskRead s o = .ok none ∧ pendingErrors (coreOf s 0) 0 = 0 ∧ (coreOf s 0).retried.contains (stepKey o { labRange with bound := true }) = false
     ∧ executes none = true ∧ isIdleLong s 0 = true ∧ mayStart s 0 = true)
    ∧ (let o := labOp .sparseTask
       let s := labOps o [(0x4000, 1), (0x4080, 1)]
       maskRead s o = .ok none ∧ ∃ b, bitmapsRead s o = .ok b ∧ executes (some b) = true ∧ ∃ p, panelsRead s o (some b) = .ok p)
    ∧ (let o := labOp .sparseTask
       ∃ b, bitmapsRead (labOps o []) o = .ok b ∧ executes (some b) = false) := by
  refine ⟨by decide, ⟨by decide, _, rfl, by decide, _, rfl⟩, ⟨_, rfl, by decide⟩⟩

/-- EngineEvents: every operand of the dense step is read. -/
theorem witness_dense_step : (panelsRead (labOps (labOp .task) []) (labOp .task) none).toOption.isSome = true := by decide +kernel

/-- EngineEvents: the last step taken, a move with its last access to make, a range that is given up. -/
theorem witness_completions :
    (let o := { labOp .task with step := 1 }
     atWork (labOps o []) o = true ∧ taskSteps o ≤ o.step)
    ∧ (let o := { labOp .store with progress := 1023 }
       atWork (labOps o []) o = true ∧ ∃ s1 k, moveSteps { labRange with bound := true } (movePieces o - o.progress) (labOps o []) o = (s1, k, none))
    ∧ atWork (labOps (labOp .zero) []) (labOp .zero) = true
    ∧ (let r := { labRange with freeing := true }
       let s := { labWith (labThread []) with tileRanges := [r] }
       s.tileRanges.find? (fun x => decide (x.core = 0) && decide (x.gen = 1) && releasable s x) = some r ∧ r.saved = false) := by
  refine ⟨by decide, ⟨by decide, _, _, rfl⟩, by decide, by decide⟩

/-- EngineEvents: a page that begins to move to another die, and one that has moved. -/
theorem witness_page_moves :
    (let m : PageMove := { tag := 1, page := 0, die := 8 }
     let s := { labSpace (labThread []) [] with moves := [m] }
     s.moves.find? (fun m => decide (m.tag = 1) && decide (m.page = 0) && m.moving.isNone) = some m
     ∧ walk s (ctxOf s 1) (0 * 65536) = .ok labEntry ∧ frameBusy s (labEntry.pa / 65536) = false
     ∧ (freeFrame s (ctxOf s 1).partition m.die).isSome = true)
    ∧ (let m : PageMove := { tag := 1, page := 0, die := 8, moving := some (0x7FFFFF, 0) }
       let s := { labSpace (labThread []) [] with moves := [m] }
       s.moves.find? (fun m => decide (m.tag = 1) && decide (m.page = 0)) = some m ∧ m.moving = some (0x7FFFFF, 0)) := by
  decide

/-! ### Witnesses: queues, admission and contexts -/

/-- A queue mapped at slot 0 with one command at 0x4000. -/
def hostQueue : Queue := { part := 0, idx := 7, ctx := 1, ring := 0x4000, logn := 4, slot := some 0, tail := 1 }

def queued (q : Queue) (m : List Host.Cell) : State := { labSpace (labThread []) m with queues := [q] }

/-- The bytes at the head of `hostQueue`. -/
def atHead (m : List Host.Cell) : Except DWord (List Byte) := headCommand (queued hostQueue m) hostQueue

/-- QueueEvents: the fullest kick and one too many, a queue without a slot, and one that has aged. -/
theorem witness_kicks :
    let s := queued hostQueue []
    Canonical s ∧ queueAt s 0 65535 = none ∧ (partOf s 0).isSome = true ∧ s.deadQueues.contains (0, 65535) = false
    ∧ ({ s with deadQueues := [(0, 65535)] } : State).deadQueues.contains (0, 65535) = true
    ∧ queueAt s 0 7 = some hostQueue ∧ hostQueue.devprod = false ∧ hostQueue.qstate ≠ 4 ∧ 15 ≤ 2 ^ hostQueue.logn - queueFill hostQueue
    ∧ (((16 : BitVec 64).toNat + 2 ^ 64 - hostQueue.tail) % 2 ^ 64) = 15
    ∧ 2 ^ hostQueue.logn - queueFill hostQueue < ((17 : BitVec 64).toNat + 2 ^ 64 - hostQueue.tail) % 2 ^ 64
    ∧ queueAt (queued { hostQueue with slot := none } []) 0 7 = some { hostQueue with slot := none }
    ∧ (let q := { hostQueue with pendingSince := some 0 }
       let s := { queued q [] with timeBase := 2 ^ 20 }
       q.pendingSince.isSome = true ∧ max q.agedTo q.qprio < queuePriority s q) := by unfold Canonical; decide

/-- A launch record at 0x5000 of one gang of one thread, its entry packet 2 of the code at 0x8000. -/
def recordCells : List Host.Cell :=
  [(0x5000, 0x18), (0x5007, 0x50), (0x5008, 1), (0x500C, 1), (0x500E, 1), (0x5061, 0x80), (0x5069, 0x10), (0x8000, 5), (0x8003, 0x7F)]

/-- The command at the head of a queue is good and of this type, and once it is read this holds. -/
def fetchedAt (q : Queue) (m : List Host.Cell) (k : Nat) (p : State → Queue → List Byte → Bool) : Bool :=
  match headCommand (queued q m) q, readTrip (queued q m) q.fdie q.ctx q.ring 1 with
  | .ok b, some s0 =>
    let q1 := { q with fetched := some b }
    !commandBad q b && decide (field b 0 1 = k) && p (mapQueue s0 q.part q.idx fun _ => q1) q1 b
  | _, _ => false

/-- QueueEvents: each command at HEAD, a bad one, and one that cannot be read. -/
theorem witness_commands :
    hostQueue.slot.isSome = true ∧ hostQueue.qstate = 0 ∧ queueFill hostQueue ≠ 0
    ∧ (headCommand (queued hostQueue []) { hostQueue with ring := 0x40000 }).toBool = false
    ∧ ((atHead [(0x4000, 9)]).toOption.any (commandBad hostQueue)) = true
    ∧ fetchedAt hostQueue [] 0 (fun _ _ _ => true) = true
    ∧ fetchedAt { hostQueue with headwb := 0x100 } [] 0 (fun s q _ =>
        (consume s q id).isSome && decide (walkTo s 1 0x100 .write .plain = .ok 0x100)) = true
    ∧ fetchedAt hostQueue ([(0x4000, 2), (0x4009, 0x50), (0x4010, 1)]) 2 (fun s q _ =>
        earlierDone s q && decide (walkTo s 1 0x5000 .modify .atomic = .ok 0x5000) && !isMoving s 0x5000
          && (message s q.fdie (spaceDie s 0x5000) true 1).isSome) = true
    ∧ fetchedAt hostQueue ([(0x4000, 3), (0x4009, 0x50), (0x4010, 1)]) 3 (fun s q _ =>
        q.waitArmed && decide (walkTo s 1 0x5000 .read .plain = .ok 0x5000) && (readTrip s q.fdie 1 0x5000 1).isSome) = true
    ∧ waitHolds 0 1 1 = true ∧ waitHolds 0 0 1 = false
    ∧ fetchedAt hostQueue [(0x4000, 4)] 4 (fun s q _ => earlierDone s q) = true := by decide +kernel

/-- QueueEvents: a launch that is accepted. -/
theorem witness_launch_command :
    fetchedAt hostQueue ([(0x4000, 1), (0x4009, 0x50)] ++ recordCells) 1 (fun s q b =>
      (readSpace s 1 .write .plain 0x5000 4).toBool && (cmdLaunch s q b).isSome
        && match readSpace s 1 .read .plain 0x5000 4, readTrip s q.fdie 1 0x5000 4 with
          | .ok r, some s2 => refusal s2 r (parseLaunch r 1 0x5000) false == 0
          | _, _ => false) = true := by decide +kernel

/-- A fault on page 0x10 of launch 1 on core 0, and the queue of F-die 0. -/
def labFault : PendingFault := { fdie := 0, word := 0x100001, launch := 1, tag := 1, peer := 0, core := 0 }

def labFaults : FaultQueue := { fdie := 0, log := 6, base := 0x20000, headPA := 0x20800 }

/-- QueueEvents: room for one entry more, and the head word just above the ring. -/
theorem witness_fault_queue :
    let q := { labFaults with tail := 63 }
    let s := { lab [] with faultQueues := [q], faults := [labFault] }
    Canonical s ∧ faultQueueOf s 0 = some q
    ∧ s.faults.find? (fun f => decide (f.fdie = 0) && !f.posted) = some labFault ∧ queueRoom q = true
    ∧ q.base + 32 * 2 ^ q.log ≤ q.headPA := by unfold Canonical; decide

/-- A launch of one gang that awaits admission, in a partition of one core. -/
def labLaunch : Launch := { handle := 1, ctx := 1, ngang := 1, gsize := 2, entry := 2, eligible := some 0 }

def admitting (x : Launch) (ps : List AdmitPlan) : State :=
  { labSpace (labThread []) [] with partitions := [{ Partition.whole with cores := [0] }], threads := [], gangs := [],
                                    launches := [x], plans := ps }

def labPlan : AdmitPlan := { fdie := 0, launch := 1, gangs := [(0, 0)], todo := [0] }

/-- The launch of the small package with its gang in the save area. -/
def savedLaunch : State :=
  let s := labSpace { labThread [] with place := .binned 0, saved := true } []
  { s with gangs := s.gangs.map fun g => { g with saved := true }, launches := [{ labLaunch with state := .running, admitted := [0] }] }

/-- AdmissionEvents: a plan begun, for a unit that waits and for one that returns; a core held by the other distributor, a
core reserved, a commit. -/
theorem witness_admission :
    Canonical (admitting labLaunch [])
    ∧ (let s := admitting labLaunch []
       planOf s 0 = none ∧ movePlan s 0 = none ∧ chooseRestore s 0 = none ∧ choosePlan s 0 = some labPlan)
    ∧ planOf savedLaunch 0 = none ∧ movePlan savedLaunch 0 = none ∧ (chooseRestore savedLaunch 0).isSome = true
    ∧ (let s := admitting labLaunch [labPlan, { fdie := 9, launch := 2, gangs := [(0, 0)], todo := [], held := [0] }]
       planOf s 0 = some labPlan ∧ isOvertaken s labPlan = false ∧ labPlan.kind = .newUnit ∧ launchAt s 1 = some labLaunch
       ∧ (ctxOf s labLaunch.ctx).run = .running ∧ heldByOther s labPlan 0 = true)
    ∧ (let s := admitting labLaunch [labPlan]
       heldByOther s labPlan 0 = false ∧ (reserveCore labLaunch 0 s labPlan.gangs).isSome = true)
    ∧ (let s := admitting labLaunch [{ labPlan with todo := [], held := [0] }]
       labLaunch.state = .accepted ∧ (labPlan.gangs.map (·.1)).Nodup ∧ isRetired (ctxOf s 1) (packetAddr labLaunch.entry) = false ∧ s.threads = [] ∧ 0 < labLaunch.gsize) := by
  unfold Canonical; decide +kernel

/-- A distributor's package after it has told the cores of its plan. -/
def toldPackage : State :=
  (tellCores (admitting labLaunch [{ labPlan with todo := [], held := [0] }]) { labPlan with todo := [], held := [0] }).getD State.reset

/-- AdmissionEvents: from there it can send a message to any die. -/
theorem witness_can_message :
    tellCores (admitting labLaunch [{ labPlan with todo := [], held := [0] }]) { labPlan with todo := [], held := [0] } = some toldPackage
    ∧ CanMessage toldPackage labLaunch.fdie labLaunch.ctx := by
  refine ⟨rfl, fun u dst hf hm => ?_⟩
  rw [message_isSome_congr hf hm]
  rcases Nat.lt_or_ge dst 10 with h | h
  · have all : ∀ d, d < 10 → (message toldPackage labLaunch.fdie d true labLaunch.ctx).isSome = true := by decide +kernel
    exact all dst h
  · have dead : isLiveDie toldPackage dst = false := by
      show (List.range 10).contains dst = false
      simpa using h
    unfold message
    rw [messageOf_isSome, dead]
    simp

/-- AdmissionEvents: a retry, a lock, and a launch that completes. -/
theorem witness_ageing_and_completion :
    (let x := { labLaunch with tries := [{ gang := 0, fails := 1, due := some 0 }] }
     launchAt (admitting x []) 1 = some x)
    ∧ (let x := { labLaunch with top := some 0 }
       let s := { admitting x [] with timeBase := BitVec.ofNat 64 (ageingInterval (admitting x []) x) }
       launchAt s 1 = some x ∧ awaitsAdmission x = true ∧ ageingInterval s x ≤ now s - 0)
    ∧ (let x := { labLaunch with state := .running, admitted := [0], donesig := 0x5000, recordVA := 0x6000 }
       let s := admitting x []
       isComplete s x = true ∧ ((writeStatus s x 3).any fun s1 =>
         decide (walkTo s1 x.ctx x.donesig .modify .atomic = .ok 0x5000) && !isMoving s1 0x5000
           && (message s1 x.fdie (spaceDie s1 0x5000) true x.ctx).isSome && (addDonesig s1 x).isSome) = true) := by decide +kernel

/-- ContextEvents: creation with the greatest numbers, pre-emption, a walk and a deadline, resumption, and every unit of a
removal. -/
theorem witness_contexts :
    (let s := { lab [] with faultQueues := [labFaults, { labFaults with fdie := 9 }] }
     (4095 : Nat) ≠ 0 ∧ ctxAt s 4095 = none ∧ queuesSet s = true ∧ partOf s 0 = some Partition.whole
     ∧ regionInHbm Partition.whole 0x100000 (1 * 65536) = true ∧ saveTaken s 0x100000 (1 * 65536) = false
     ∧ 0x7FFFFFF800 % 2048 = 0 ∧ 0x7FFFFFF800 < 2 ^ 39)
    ∧ (let s := labSpace (labThread []) []
       (∃ x, namedCtx s 1 = some x ∧ x.run = .running ∧ saveNeed s 1 ≤ x.savelen) ∧ (s.threads.map rowKey).Nodup)
    ∧ (let s := { lab [] with contexts := [{ tag := 1, run := .stopped }] }
       ∃ x, namedCtx s 1 = some x ∧ x.run = .stopped ∧ x.modules = [])
    ∧ (let s := { lab [] with contexts := [{ tag := 1, run := .stopping }] }
       ∃ x, launchAt s 1 = some x ∧ (ctxOf s x.ctx).run = .stopping ∧ x.reached = false ∧ walkAllows s x = true)
    ∧ (∀ r ∈ [CtxRun.running, .stopping], let s := { withLaunch (fun x => { x with deadline := some 0 }) (lab []) with contexts := [{ tag := 1, run := r }] }
       ((launchAt s 1).any fun x => decide (x.deadline = some 0) && decide ((ctxOf s x.ctx).run = r)) = true
       ∧ (s.threads.map rowKey).Nodup)
    ∧ (∀ n ∈ [0, 1, 2, 3, 4, 5, 6], let s := { lab [] with contexts := [{ tag := 1, run := .removing n }] }
       ctxAt s 1 = some { tag := 1, run := .removing n } ∧ unitBusy s 1 n = false) := by
  refine ⟨by decide +kernel, ⟨⟨_, rfl, by decide⟩, by decide⟩, ⟨_, rfl, by decide⟩, ⟨_, rfl, by decide⟩, by decide, by decide⟩

/-! ### Witnesses: Milliner, management, fabrics -/

/-- MillinerCommands: the moves of a record and of a gang. -/
theorem witness_moves :
    (let t := { labThread [] with place := .binned 0 }
     let s := withLaunch (fun x => { x with detach := true }) (labWith t)
     (∃ x, namedCtx s 1 = some x ∧ x.run ≠ .held ∧ ((partOf s x.partition).getD noPart).cores.contains 191 = true)
     ∧ threadAt s 1 0 = some t ∧ (launchOf s 1).ctx = 1 ∧ movable t = true ∧ workDone t = true ∧ t.core ≠ 191
     ∧ (residentAt s 1 0 191 = false ∧ (launchOf s 1).detach = true ∨ residentAt s 1 0 191 = true))
    ∧ (let t := { labThread [] with place := .binned 0 }
       let s := labWith t
       let lr := launchOf s 1
       launchAt s 1 = some lr ∧ 0 < lr.clsize ∧ moveBytesBad lr 0 [191, 0xFF, 0xFF, 0xFF] = false
         ∧ moveAllowed s lr (moveTargets lr 0 [191, 0xFF, 0xFF, 0xFF]) = true
         ∧ ∀ p ∈ moveTargets lr 0 [191, 0xFF, 0xFF, 0xFF], isBeingMoved s 1 p.1 = false)
    ∧ (191 < 192 ∧ 192 ≠ 255) ∧ 191 < 254 := by
  refine ⟨⟨⟨_, rfl, by decide⟩, by decide +kernel⟩, by decide +kernel⟩

/-- MillinerCommands: the move of a gang with its core reserved. -/
theorem witness_gang_move :
    let t := { labThread [] with place := .binned 0 }
    let p : AdmitPlan := { fdie := 10, kind := .move, launch := 1, gangs := [(0, 191)], todo := [], held := [191] }
    let s := { labWith t with plans := [p] }
    planOf s 0 = none ∧ movePlan s 0 = some p ∧ planStands s p = true ∧ p.todo = []
    ∧ moveAllowed s (launchOf s 1) p.gangs = true ∧ (p.gangs.map (·.1)).Nodup
    ∧ (∀ q ∈ p.gangs, ∀ t ∈ gangThreads s (launchOf s p.launch).handle q.1, isKnown s t = true)
    ∧ (moveGangs (launchOf s 1) (giveUp s p) p.gangs).isSome = true := by decide +kernel

/-- MillinerCommands: a control block that maps, a queue that is mapped, an ageing interval, modes and fault queues. -/
theorem witness_queue_commands :
    (let s := { lab [] with mem := [(0x2008, 16), (0x200C, 1)] }
     let b := readBytes s.mem 0x2000 256
     Canonical s ∧ queueBad b = false ∧ inSlot s 9 31 = none ∧ (queueAt s 0 65535).bind Queue.slot = none
     ∧ ((partOf s 0).getD noPart).slots.contains 31 = true ∧ ((namedCtx s (parseQueue b 9 0 65535 0x2000).ctx).any fun x => decide (x.partition = 0)) = true)
    ∧ (let s := queued hostQueue []
       (∃ p ∈ s.partitions, ∃ r ∈ p.hbm, r.1 * 2 ^ 30 ≤ 2 ^ 39 - 32 * 2 ^ 16 ∧ 2 ^ 39 - 32 * 2 ^ 16 + 32 * 2 ^ 16 ≤ (r.1 + r.2) * 2 ^ 30)
       ∧ inSlot s 0 0 = some hostQueue ∧ queueAt s hostQueue.part hostQueue.idx = some hostQueue ∧ partOf s 0 = some Partition.whole)
    ∧ modeBad 0x16 = false ∧ modeBad 6 = false ∧ State.reset.contexts = [] ∧ clockWatts (modeOf 0x16).clk ≤ State.reset.plimit
    ∧ (modeOf 0x16).causal = State.reset.mode.causal ∧ (modeOf 6).causal ≠ State.reset.mode.causal
    ∧ (cutClocks State.reset).felt.packets = [] := by
  unfold Canonical; decide +kernel

/-- MillinerCommands: dispositions, and the debugger's commands. -/
theorem witness_dispositions :
    (let f := { labFault with posted := true }
     let t := { labThread [] with place := .faultBin 0x100001 0 }
     let s := { labWith t with faults := [f] }
     (∃ x, namedCtx s 1 = some x) ∧ entryNamed s 1 1 0 0x100001 = true ∧ t.parked = none ∧ (s.threads.map rowKey).Nodup
     ∧ (∀ t ∈ s.threads, isRetired (ctxOfLaunch s t.launch) (codeAddr t) = false) ∧ inFaultBin 1 0 0x100001 t = true
     ∧ s.faults.find? (fun y => sameFault 1 0 0x100001 y && y.posted && decide (y.tag = 1)) = some f
     ∧ ∃ x, namedCtx (mapCtx s 1 fun x => { x with run := .held }) 1 = some x ∧ x.run = .held)
    ∧ (let t := { labThread [] with place := .held }
       let s := withLaunch (fun x => { x with trappkt := 3 }) (labWith t)
       threadAt s 1 0 = some t ∧ t.place = .held ∧ (launchOf s 1).ctx = 1 ∧ (launchOf s 1).trappkt ≠ 0
       ∧ (∃ x, namedCtx s 1 = some x ∧ isRetired x (packetAddr (launchOf s 1).trappkt) = false)
       ∧ (s.threads.map rowKey).Nodup ∧ (∀ t ∈ s.threads, isRetired (ctxOfLaunch s t.launch) (codeAddr (continued t)) = false)) := by
  refine ⟨⟨⟨_, rfl⟩, by decide, by decide, by decide, by decide, by decide, by decide, _, rfl, rfl⟩, by decide, by decide, by decide, by decide, ⟨_, rfl, by decide⟩, by decide, by decide⟩

/-- MillinerCommands: a record that waited at a barrier when a store of its own was refused, and one that waited for its forward. -/
theorem witness_parked_record :
    ∀ p ∈ [Place.barrier .gang true, .unbinned],
      let r : ParkedRecord := { place := p, forced := false, trapRec := true, latchesSaved := false, tfword := 7 }
      let t := { labThread [] with place := .faultBin 0x100001 0, parked := some r }
      inFaultBin 1 0 0x100001 t = true ∧ t.parked = some r
      ∧ (let u := { t with place := .forward, fwd := some { phase := .requested, dest := 1, from_ := some (.faultBin 0x100001 0) } }
         inFaultBin 1 0 0x100001 u = true ∧ u.parked = some r) := by decide

/-- ManagementEvents: requests that are not authentic, images that do not verify, a clock asked for, an exchange. -/
theorem witness_management :
    authentic State.reset { sequence := 0, signature := [] } .freeze = false ∧ portUp State.reset = true
    ∧ slhVerify [] [] [] = false
    ∧ ({ State.reset with frozen := true } : State).frozen = true
    ∧ ({ State.reset with clockWanted := some 0 } : State).clockWanted = some 0
    ∧ ({ State.reset with boot := { failed := some 1 } } : State).boot.failed = some 1 ∧ isAttestation .getVersion = true
    ∧ State.reset.boot.failed = none
    ∧ ({ State.reset with security := { spdmVersioned := true, spdmCapable := true, spdmNegotiated := true } } : State).security.spdmNegotiated = true
    ∧ ([(3, 7)] : List (Nat × Nat)).find? (fun x => decide (x.1 = 3)) = some (3, 7) := by decide

/-- The digest of "abc" (FIPS 180-4). -/
theorem test_sha256 : digest256 [0x61, 0x62, 0x63] = 0xBA7816BF8F01CFEA414140DE5DAE2223B00361A396177A9CB410FF61F20015AD := by
  decide +kernel

/-- A packet from die 1 to die 2 that counts itself as the n-th of its source. -/
def labPacket (n : Nat) : FeltPacket :=
  { src := 1, dst := 2, clkgen := 1, stamped := true, stamp := [0, n, 0, 0, 0, 0, 0, 0, 0, 0], trailer := none, tag := 1,
    body := .write 0x100 4 7 }

/-- A state whose Felt is after a reset but for these packets. -/
def felted (ps : List FeltPacket) : State := { State.reset with felt := { Felt.reset with packets := ps } }

/-- FeltEvents: a packet delivered at once, one held and one that is deliverable at last; a link that fails; beacons. -/
theorem witness_felt :
    (let s := felted [labPacket 1]
     routed s 1 2 = true ∧ (feltQueue s 1 2).find? (fun p => !p.arrived) = some (labPacket 1) ∧ (feltQueue s 1 2).head? = some (labPacket 1)
     ∧ deliverable s (labPacket 1) = true ∧ (labPacket 1).src < (clockOf s 2).v.length
     ∧ s.felt.clocks.any (fun c => decide (c.die = 2)) = true ∧ followers s (labPacket 1) = [])
    ∧ (let p := { labPacket 1 with body := .modify 0x100 4 0 0 1 }
       let q := { labPacket 2 with body := .modify 0x100 4 0 0 1, joined := true }
       let s := felted [p, q]
       (feltQueue s 1 2).find? (fun p => !p.arrived) = some p ∧ (feltQueue s 1 2).head? = some p ∧ deliverable s p = true
       ∧ followers s p = [q])
    ∧ (let s := felted [labPacket 2]
       (feltQueue s 1 2).find? (fun p => !p.arrived) = some (labPacket 2) ∧ deliverable s (labPacket 2) = false)
    ∧ heldDeliverable (felted [{ labPacket 1 with arrived := true }]) 2 = [{ labPacket 1 with arrived := true }]
    ∧ followers (felted [{ labPacket 1 with arrived := true }]) { labPacket 1 with arrived := true } = []
    ∧ (let s := { State.reset with felt := { Felt.reset with retries := [(8, 9, 64)] } }
       linkUp s (linkEnds 9 8) = true ∧ 64 ≤ retriesOf s (linkEnds 9 8))
    ∧ isLiveDie State.reset 0 = true ∧ isLiveDie State.reset 9 = true ∧ routed State.reset 0 9 = true
    ∧ (clockOf State.reset 9).matrix.length = 10 ∧ (∀ r ∈ (clockOf State.reset 9).matrix, r.length = 10)
    ∧ 0 < (clockOf State.reset 9).beacons.length ∧ 0 < (clockOf State.reset 9).acked.length
    ∧ (let s := { State.reset with timeBase := 1024 }
       1024 ≤ now s - (clockOf s 0).beacons.getD 9 0)
    ∧ (minBy (groupRank State.reset) State.reset.felt.live).isSome = true := by decide

/-- A packet of peer 5 for this package. -/
def labRenhar (k : RenharKind) : RenharPacket := { source := 5, destination := 0, rctx := 1, entropy := 0, sequence := 0, kind := k }

/-- A router's entry that waits at F-die 0 for package 4095: a posted write. -/
def passing (va : Nat) : RenharPacket := { labRenhar (.postedWrite va [(0, 7)]) with destination := 4095 }

/-- RenharAndPortEvents: a packet that is passed on, alone and merged; each kind that its home performs, and a line that
another package owns. -/
theorem witness_renhar :
    let s := labSpace (labThread []) []
    Canonical s ∧ (passing 0x100).destination ≠ s.ownPeer ∧ routerTail s 0 (channelOf (passing 0x100).kind) = none
    ∧ (let u := { s with renhar := { s.renhar with router := [(0, passing 0x100)] } }
       routerTail u 0 (channelOf (passing 0x101).kind) = some (passing 0x100)
       ∧ (mergeWrites (passing 0x100) (passing 0x101)).any (fun m => decide (m.count = 2)) = true)
    ∧ (labRenhar (.read 0 8)).destination = s.ownPeer
    ∧ homeTranslate s 1 0x100 .write .plain = .ok 0x100 ∧ homeTranslate s 1 0x100 .read .plain = .ok 0x100
    ∧ homeTranslate s 1 0x100 .modify .atomic = .ok 0x100
    ∧ (∀ k ∈ [RenharKind.postedWrite 0x100 [(0, 7)], .read 0x100 8, .signal 0x100 1], (homeTrip s 0 (labRenhar k) 0x100).isSome = true)
    ∧ (let o : RenharOut := { part := 0, launch := 1, thread := 0, packet := { labRenhar (.enqueue 7 1 0 []) with source := 0, destination := 5 } }
       let t := { labThread [] with remoteEnq := some .sent }
       let u := { s with threads := [t], renhar := { s.renhar with out := [o] } }
       threadAt u 1 0 = some t ∧ u.renhar.out.any (isEnqueueOf 5 1 0) = true)
    ∧ (dirEntry s 2).ownerPackage = none ∧ partOf s 0 = some Partition.whole
    ∧ (let u := { s with directory := [{ line := 2, ownerPackage := some 6 }] }
       (dirEntry u (0x100 / 128)).ownerPackage = some 6 ∧ 6 ≠ (labRenhar (.read 0x100 8)).source)
    ∧ (let o : RenharOut := { part := 0, launch := 1, thread := 0, packet := { labRenhar (.read 0x100 8) with source := 0, destination := 5 } }
       let u := { s with renhar := { s.renhar with out := [o] } }
       (u.renhar.out.find? fun o => isRequestTo u.ownPeer 5 0x100 o
         && (decide (1 = 0) || (decide (o.launch = 1) && decide (o.thread = 0)))) = some o)
    ∧ (∀ x ∈ s.renhar.waiting, x.1 ≠ 5)
    ∧ (let u := { s with threads := [{ labThread [] with peerAck := 1, sbuf := [{ data := 0, vaddr := 0, peer := 5, peerf := true, size := 2, loc := 2 ^ 128 }] }] }
       (peerVictim u 5 (ctxOf u 1)).isSome = true) := by
  unfold Canonical; decide +kernel

/-- RenharAndPortEvents: a packet behind another of its source and channel, one whose page moves or does not translate, a
request for a translation, a third package's copy, an invalidation, and its acknowledgement. -/
theorem witness_renhar_waits :
    let s := labSpace (labThread []) []
    (let u := { s with renhar := { s.renhar with inbound := [(0, labRenhar (.read 0 8))] } }
     waitsBehind u (labRenhar (.read 0x100 8)) = true ∧ waitsBehind u (labRenhar (.fetch 0x100)) = false)
    ∧ (let u := { s with moves := [{ tag := 1, page := 0, die := 8, moving := some (0x7FFFFF, 0) }] }
       homeTranslate u 1 0x100 .read .plain = .ok 0x100 ∧ isMoving u 0x100 = true)
    ∧ (homeTranslate s 1 0x10000 .read .plain).toBool = false
    ∧ (let p := labRenhar (.translate 0x100 1 false)
       requestAddress p.kind = 0x100 ∧ requestAccess p.kind = (.write, .plain) ∧ (homeTrip s 0 p 0x100).isSome = true
       ∧ isMoving s 0x100 = false)
    ∧ (let u := { s with directory := [{ line := 2, packages := [6], names := [(6, 1, 2)] }] }
       (dirEntry u (0x100 / 128)).names = [(6, 1, 2)] ∧ takesLine (.own 0x100) = true ∧ (homeTrip u 0 (labRenhar (.own 0x100)) 0x100).isSome = true)
    ∧ (dropPeerLine s 0 5 1 0x100).isSome = true
    ∧ (let o : RenharOut := { part := 0, packet := { labRenhar (.invalidate 0x100) with source := 0, destination := 5 } }
       let p := labRenhar (.ack 0 0 0x100 1 false)
       thirdOf { s with renhar := { s.renhar with out := [o] } } p (.invalidate (0x100 / 128 * 128)) = some o
       ∧ thirdOf s p (.invalidate (0x100 / 128 * 128)) = none) := by
  decide +kernel

/-- RenharAndPortEvents: connections, pauses, and a region without kicks. -/
theorem witness_host_port :
    let s := labSpace (labThread []) []
    portUp s = true ∧ s.port.paused = false ∧ liveConn s 1 = none ∧ (s.port.connections.filter fun c => !decide (c.num = 1)).length < 1024
    ∧ (let c : Connection := { num := 1, rate := 524288, lastCnp := some 0 }
       let h : Region := { rkey := 7, ctx := 1, va := 0, length := 4096 }
       let u := { s with port := { s.port with connections := [c], regions := [h] } }
       liveConn u 1 = some c ∧ liveConn { u with port := { u.port with paused := true } } 1 = some c
       ∧ regionFor u 8 0 4 = none ∧ regionFor u 7 0x100 1 = some h ∧ h.kick = none ∧ walkTo u 1 0x100 .write .plain = .ok 0x100
       ∧ bytePlaces u 1 .read 0x100 2 = .ok [0x100, 0x101]
       ∧ (∀ x ∈ u.port.inbound, x.1 ≠ 1) ∧ isMoving u 0x100 = false ∧ [0x100, 0x101].any (isMoving u) = false
       ∧ isMoving { u with moves := [{ tag := 1, page := 0, die := 8, moving := some (0x7FFFFF, 0) }] } 0x100 = true
       ∧ (portTrips u 1 true [0x100]).isSome = true ∧ (portTrips u 1 false [0x100, 0x101]).isSome = true) := by
  decide +kernel

/-! ### Witnesses: the invariant, encodings and memory -/

/-- CanonicalStep, MemoryLaws: a step from a state whose tables are canonical. -/
theorem witness_canonical_step :
    Canonical (ready (.br 0 3)) ∧ Memory.wf (ready (.br 0 3)).mem = true
    ∧ ∃ s', step { ready (.br 0 3) with agenda := [.runIssue 0] } = .next s' :=
  ⟨by unfold Canonical; decide, by decide, ⟨_, rfl⟩⟩

/-- SystemRegisters: the first and the last segment's numbers, and the numbers without a register around them. -/
theorem witness_system_register_numbers :
    (labThread []).before = none ∧ 0x10 + 2 * 0 = 0x10 ∧ 0x11 + 2 * 5 = 0x1B ∧ (7 ≤ 7 ∧ 7 < 0x10) ∧ (7 ≤ 15 ∧ 15 < 0x10) ∧ 0x1B < 0x1C := by
  decide

/-- DecodeEncode: well-formed words of several families. -/
theorem witness_well_formed :
    (Instr.exit 0).WellFormed ∧ (Instr.atom 1 2 5 2 0 1 9).WellFormed ∧ (Instr.fcvt 0 0 5 4 0 1).WellFormed := by
  unfold Instr.WellFormed; decide

end Sys2Proof.Tests
end

section
/-! PROOFS. Rows of cores and threads: what is read of a table after a row of it is replaced. -/

namespace Sys2Proof.Machine

open Sys2Proof (Byte Word DWord Instr)

set_option Elab.async false

/-! ### Rows of cores -/

/-- A row inserted where its core has none is found under its core's number; every other row is found as before. -/
theorem find?_insertBy_core (r : Core) (c : Nat) (l : List Core) (hl : ∀ x ∈ l, x.core ≠ r.core) :
    (insertBy Core.core r l).find? (fun x => decide (x.core = c))
      = if r.core = c then some r else l.find? fun x => decide (x.core = c) := by
  induction l with
  | nil => by_cases h : r.core = c <;> simp [insertBy, h]
  | cons y ys ih =>
    have hy := hl y List.mem_cons_self
    have ih := ih fun x hx => hl x (List.mem_cons_of_mem _ hx)
    rw [insertBy]
    by_cases hlt : r.core < y.core
    · rw [if_pos hlt]
      by_cases h : r.core = c <;> simp [h]
    · rw [if_neg hlt, List.find?_cons, List.find?_cons, ih]
      by_cases h : r.core = c
      · simp [h, show y.core ≠ c from h ▸ hy]
      · simp [h]

@[simp] theorem coreOf_core (s : State) (c : Nat) : (coreOf s c).core = c := by
  unfold coreOf
  cases h : s.cores.find? fun x => decide (x.core = c) with
  | none => rfl
  | some r => simpa using List.find?_some h

/-- A core's row put into the table is read under its own number; the rows of other cores stay. -/
theorem coreOf_putCore (s : State) (r : Core) (c : Nat) : coreOf (putCore s r) c = if r.core = c then r else coreOf s c := by
  unfold coreOf putCore
  by_cases hany : (s.cores.any fun x => decide (x.core = r.core)) = true
  · have hp : ((fun x : Core => decide (x.core = c)) ∘ fun x => if x.core = r.core then r else x)
        = fun x => decide (x.core = c) := by
      funext x
      by_cases hx : x.core = r.core <;> simp [hx]
    rw [if_pos hany]
    dsimp only
    rw [List.find?_map, hp]
    cases hf : s.cores.find? fun x => decide (x.core = c) with
    | none =>
      have hne : r.core ≠ c := by
        obtain ⟨x, hx, hxr⟩ := List.any_eq_true.mp hany
        have := List.find?_eq_none.mp hf x hx
        simp_all
      simp [hne]
    | some x =>
      have hx : x.core = c := by simpa using List.find?_some hf
      by_cases h : r.core = c
      · simp [h, hx]
      · simp [h, hx, Ne.symm h]
  · rw [if_neg hany]
    dsimp only
    rw [find?_insertBy_core r c s.cores (by simpa using hany)]
    split <;> rfl

theorem coreOf_mapCore_self {s : State} {c : Nat} {f : Core → Core} (hf : (f (coreOf s c)).core = c) :
    coreOf (mapCore s c f) c = f (coreOf s c) := by
  unfold mapCore; rw [coreOf_putCore, if_pos hf]

theorem coreOf_mapCore_other {s : State} {c d : Nat} {f : Core → Core} (hf : (f (coreOf s c)).core = c) (h : d ≠ c) :
    coreOf (mapCore s c f) d = coreOf s d := by
  unfold mapCore; rw [coreOf_putCore, if_neg (by rw [hf]; exact h.symm)]

theorem mapCore_cores (s : State) (c : Nat) (f : Core → Core) : mapCore s c f = { s with cores := (mapCore s c f).cores } := by
  unfold mapCore putCore; split <;> rfl

/-- Counting changes a core's counters only. -/
theorem bumpCounter_counters (sel n : Nat) (r : Core) :
    bumpCounter sel n r = { r with counters := (bumpCounter sel n r).counters } := by
  unfold bumpCounter
  split
  · rfl
  · split <;> rfl

@[simp] theorem bumpCounter_core (sel n : Nat) (r : Core) : (bumpCounter sel n r).core = r.core := by
  rw [bumpCounter_counters]

theorem coreOf_count (s : State) (c sel n : Nat) (h : n ≠ 0) : coreOf (count c sel n s) c = bumpCounter sel n (coreOf s c) := by
  unfold count; rw [if_neg h, coreOf_mapCore_self (by simp)]

/-! ### Rows of threads -/

/-- Every thread is found as before, but for the one whose row is replaced. -/
theorem threadAt_putThread (s : State) (t : Thread) (l n : Nat) :
    threadAt (putThread s t) l n = (threadAt s l n).map fun x => if isThread t.launch t.thread x then t else x := by
  have hp : (isThread l n ∘ fun x => if isThread t.launch t.thread x then t else x) = isThread l n := by
    funext x
    by_cases hx : isThread t.launch t.thread x = true
    · have := (isThread_key _ _ _).mp hx
      simp only [rowKey, Prod.mk.injEq] at this
      simp [isThread, this]
    · simp [hx]
  unfold threadAt putThread
  rw [List.find?_map, hp]

theorem threadAt_putThread_self {s : State} {t u : Thread} {l n : Nat} (h : threadAt s l n = some u) (hk : rowKey t = (l, n)) :
    threadAt (putThread s t) l n = some t := by
  simp only [rowKey, Prod.mk.injEq] at hk
  rw [threadAt_putThread, h, Option.map_some, if_pos]
  rw [isThread_key, hk.1, hk.2, (mem_of_threadAt h).2]

theorem threadAt_putThread_other {s : State} {t : Thread} {l n : Nat} (h : (l, n) ≠ rowKey t) :
    threadAt (putThread s t) l n = threadAt s l n := by
  rw [threadAt_putThread]
  cases hx : threadAt s l n with
  | none => rfl
  | some x =>
    rw [Option.map_some, if_neg]
    rw [isThread_key, (mem_of_threadAt hx).2]
    exact h

end Sys2Proof.Machine
end

section
/-! PROOFS. The record of a thread: what its forming leaves of the thread, and its way to where it waits. -/

namespace Sys2Proof.Machine

open Sys2Proof (Byte Word DWord Instr)

set_option Elab.async false

/-! ### Load data written into the window -/

/-- The window's registers once all outstanding load data is written. -/
def loadedRegs (t : Thread) : List Word :=
  t.loads.foldl (fun regs p => p.writes.foldl (fun r w => regSet r w.1 w.2) regs) t.regs

/-- Latch M after them: that of the last load that writes it. -/
def loadedLatch (t : Thread) : Option Latch := t.loads.foldl (fun l p => p.latch <|> l) t.lm

/-- Load data that is written changes registers and latch M only. -/
theorem flushLoads_eq (t : Thread) :
    flushLoads t = { t with regs := loadedRegs t, lm := loadedLatch t, loads := [] } := by
  have key : ∀ (l : List PendingLoad) (u : Thread), l.foldl returnLoad u
      = { u with regs := l.foldl (fun regs p => p.writes.foldl (fun r w => regSet r w.1 w.2) regs) u.regs,
                 lm := l.foldl (fun m p => p.latch <|> m) u.lm } := by
    intro l
    induction l with
    | nil => intro u; rfl
    | cons p ps ih =>
      intro u
      rw [List.foldl_cons, ih, returnLoad]
      cases h : p.latch <;> simp [h]
  unfold flushLoads
  rw [key]
  rfl

theorem flushLoads_regs (t : Thread) : (flushLoads t).regs = loadedRegs t := by rw [flushLoads_eq]

/-! ### Carried registers (02 R33) -/

theorem regGet_carried (m : DWord) (regs : List Word) (n : Nat) :
    regGet (carried m regs) n = if m.getLsbD n then regGet regs n else 0 := by
  unfold regGet carried
  by_cases h : n < regs.length
  · simp [List.getD_eq_getElem?_getD, h]
  · simp [List.getD_eq_getElem?_getD, h]

theorem getLsbD_wholeWindow (w : Nat) {n : Nat} (hn : n < 64) : (wholeWindow w).getLsbD n = decide (n < w) := by
  unfold wholeWindow
  rw [BitVec.getLsbD_ofNat, Nat.testBit_two_pow_sub_one]
  simp [hn]

/-! ### The record formed -/

theorem formRecord_eq (t : Thread) (m : DWord) :
    formRecord t m = { t with regs := carried m (loadedRegs t), lm := loadedLatch t, loads := [], carry := m, sysstat := 0,
                              trapWord := 0, passed := 0, waiting := none, sysWait := .none, sysMates := [], inPacket := false,
                              streams := t.streams.map forgetCopy } := by
  unfold formRecord; rw [flushLoads_eq]

/-- The record of a voluntary end (02 Table 2-3), wherever it then waits. -/
def voluntaryRecord (s : State) (t : Thread) (packet : Nat) (m : DWord) : Thread :=
  { killLatches (formRecord t m) with packet := packet, pos := 0, forced := false, trapRec := false, latchesSaved := false,
                                      tfword := 0, efftag := (launchOf s t.launch).ctx }

theorem voluntaryEnd_eq (s : State) (t : Thread) (p : Place) (packet : Nat) (m : DWord) :
    voluntaryEnd s t p packet m = placeRecord s (voluntaryRecord s t packet m) p := rfl

/-- The record of a precise trap (02 R39). -/
def trapTaken (s : State) (t : Thread) (k : Trap) (packet pos : Nat) : Thread :=
  { trapRecord (formRecord t (wholeWindow t.window)) (launchOf s t.launch).trappkt (trapWordOf k packet pos)
      (launchOf s t.launch).ctx with remoteEnq := none, remoteLoad := none }

/-- With a handler in code that stands, and no debugger at a breakpoint, a trap's record goes to its bin. -/
theorem takeTrap_handled {s : State} {t : Thread} {k : Trap} {packet pos : Nat} (hh : (launchOf s t.launch).trappkt ≠ 0)
    (hc : isRetired (ctxOfLaunch s t.launch) (packetAddr (launchOf s t.launch).trappkt) = false)
    (hb : k = .breakpoint → (ctxOfLaunch s t.launch).debug = false) :
    takeTrap s t k packet pos = placeRecord s (trapTaken s t k packet pos) (.binned 0) := by
  have hheld : (k = .breakpoint && (ctxOf s (launchOf s t.launch).ctx).debug) = false := by
    by_cases h : k = .breakpoint
    · simp [h, show (ctxOf s (launchOf s t.launch).ctx).debug = false from hb h]
    · simp [h]
  have hhandler : (decide ((launchOf s t.launch).trappkt = 0)
      || isRetired (ctxOf s (launchOf s t.launch).ctx) (packetAddr (launchOf s t.launch).trappkt)) = false := by
    simp only [hh, decide_false, Bool.false_or]; exact hc
  unfold takeTrap
  simp only [hheld, hhandler]
  rfl

/-! ### Its way to where it waits -/

/-- A record of a thread that carries a mask and resumes at a packet: what names it, and what decides whether it may end as
`CanEnd` says of its thread. -/
structure RecordOf (t : Thread) (m : DWord) (packet : Nat) (r : Thread) : Prop where
  key : rowKey r = rowKey t
  core : r.core = t.core
  here : r.detachedHere = t.detachedHere
  carry : r.carry = m
  streams : r.streams.length = t.streams.length
  sbuf : r.sbuf = t.sbuf
  latches : r.latchesSaved = false
  packet : r.packet = packet
  pos : r.pos = 0

/-- How the thread's run has ended is no matter to its record. -/
theorem voluntaryRecord_of (s : State) (t : Thread) (n : Next) (e : Option (LaneEnd × Nat)) (packet : Nat) (m : DWord) :
    RecordOf t m packet (voluntaryRecord s (clearRun { t with next := n, laneEnd := e }) packet m) := by
  unfold voluntaryRecord; rw [formRecord_eq]
  exact ⟨rfl, rfl, rfl, rfl, List.length_map _, rfl, rfl, rfl, rfl⟩

theorem trapTaken_of (s : State) (t : Thread) (n : Next) (e : Option (LaneEnd × Nat)) (k : Trap) (packet pos : Nat) :
    RecordOf t (wholeWindow t.window) (launchOf s t.launch).trappkt
      (trapTaken s (clearRun { t with next := n, laneEnd := e }) k packet pos) := by
  unfold trapTaken; rw [formRecord_eq]
  exact ⟨rfl, rfl, rfl, rfl, List.length_map _, rfl, rfl, rfl, rfl⟩

/-- Where a record that goes to a place stands in a running context: a binned one since this cycle. -/
def placedAt (s : State) : Place → Place
  | .binned _ => .binned (now s)
  | p => p

theorem binRecord_running {s : State} {t : Thread} (hr : (ctxOfLaunch s t.launch).run = .running)
    (hc : isRetired (ctxOfLaunch s t.launch) (codeAddr t) = false) :
    binRecord s t = putThread s { t with place := .binned (now s) } := by
  unfold binRecord; simp [hc, hr]

theorem settleAt_running {s : State} {t : Thread} {p : Place} (hr : (ctxOfLaunch s t.launch).run = .running)
    (hc : isRetired (ctxOfLaunch s t.launch) (codeAddr t) = false) (hp : ∀ w n, p ≠ .faultBin w n) :
    settleAt s t p = putThread s { t with place := placedAt s p } := by
  cases p with
  | binned _ => exact binRecord_running hr hc
  | faultBin w n => exact absurd rfl (hp w n)
  | _ => rfl

theorem recordWritten_cores (s : State) (c : Nat) : recordWritten s c = { s with cores := (recordWritten s c).cores } :=
  mapCore_cores _ _ _

/-- A record that fits its gang's reservation is written and reaches its place (02 R21, R26). -/
theorem placeRecord_canEnd {s : State} {t r : Thread} {m : DWord} {packet : Nat} {p : Place} (h : CanEnd s t m packet)
    (k : RecordOf t m packet r) (hp : ∀ w n, p ≠ .faultBin w n) :
    placeRecord s r p = putThread (recordWritten s t.core) { r with place := placedAt s p } := by
  have hlaunch : r.launch = t.launch := congrArg Prod.fst k.key
  have hlen : recordLength r = 0x40 + 4 * popMask m + 48 * t.streams.length + 16 * t.sbuf.length := by
    simp [recordLength, k.carry, k.streams, k.sbuf, k.latches]
  have hfits : fitsReservation s r = true := by
    simp [fitsReservation, k.here, h.here, hlen, hlaunch, h.fits]
  have hslot : takeSlotOn s r r.core = some s := by unfold takeSlotOn; rw [if_pos hfits]
  have hwritten : recordWritten s r.core = recordWritten s t.core := by rw [k.core]
  have haddr : codeAddr r = packetAddr packet := by simp [codeAddr, k.packet, k.pos]
  have hctx : ctxOfLaunch (recordWritten s t.core) r.launch = ctxOfLaunch s t.launch := by
    rw [recordWritten_cores, hlaunch]; rfl
  unfold placeRecord
  rw [hslot]
  dsimp only
  rw [hwritten, settleAt_running (by rw [hctx]; exact h.runs) (by rw [hctx, haddr]; exact h.code) hp]
  rw [show placedAt (recordWritten s t.core) p = placedAt s p by rw [recordWritten_cores]; rfl]

/-- The lane's row as `u`, its record placed and the issue over: the record stands in its row, and the rest of the package is
as it was but for the core's counters. -/
theorem placeRecord_frame {s : State} {t u r : Thread} {m : DWord} {packet : Nat} {p : Place}
    (hn : (s.threads.map rowKey).Nodup) (ht : t ∈ s.threads) (hu : rowKey u = rowKey t) (h : CanEnd s t m packet)
    (k : RecordOf t m packet r) (hp : ∀ w n, p ≠ .faultBin w n) :
    threadAt { placeRecord (putThread s u) r p with issue := none } t.launch t.thread = some { r with place := placedAt s p }
    ∧ OthersKept s { placeRecord (putThread s u) r p with issue := none } t := by
  rw [placeRecord_canEnd (s := putThread s u) ⟨h.here, h.fits, h.runs, h.code⟩ k hp]
  change threadAt (putThread (recordWritten (putThread s u) t.core) { r with place := placedAt s p }) t.launch t.thread
    = some { r with place := placedAt s p } ∧ _
  generalize hr : ({ r with place := placedAt s p } : Thread) = r'
  have hkey : rowKey r' = rowKey t := by rw [← hr]; exact k.key
  have hthreads : ∀ l n, threadAt (recordWritten (putThread s u) t.core) l n = threadAt (putThread s u) l n := by
    intro l n; rw [recordWritten_cores]; rfl
  have hself : threadAt (putThread s u) t.launch t.thread = some u := threadAt_putThread_self (threadAt_of_mem hn ht) hu
  refine ⟨threadAt_putThread_self (hthreads _ _ ▸ hself) hkey, ?_, ?_, ?_, ?_⟩
  · intro l n hne
    have hother : threadAt (putThread (recordWritten (putThread s u) t.core) r') l n = threadAt s l n := by
      rw [threadAt_putThread_other (by rw [hkey]; exact hne), hthreads, threadAt_putThread_other (by rw [hu]; exact hne)]
    rw [← hr] at hother
    exact hother
  · rw [recordWritten_cores]; rfl
  · intro c hc
    exact coreOf_mapCore_other (s := putThread s u) (by simp) hc
  · have hcore : coreOf (recordWritten (putThread s u) t.core) t.core = bumpCounter 0x0202 1 (coreOf s t.core) :=
      coreOf_count (putThread s u) t.core 0x0202 1 (by decide)
    have hpool : (bumpCounter 0x0202 1 (coreOf s t.core)).pool = (coreOf s t.core).pool := by rw [bumpCounter_counters]
    change coreOf (recordWritten (putThread s u) t.core) t.core = { coreOf s t.core with
      pool := (coreOf (recordWritten (putThread s u) t.core) t.core).pool,
      counters := (coreOf (recordWritten (putThread s u) t.core) t.core).counters }
    rw [hcore, hpool]
    exact bumpCounter_counters _ _ _

end Sys2Proof.Machine
end

section
/-! PROOFS. A run of one word in a group of one thread, whatever becomes of its lane. -/

namespace Sys2Proof.Machine

open Sys2Proof (Byte Word DWord Instr)

set_option Elab.async false

/-! ### Lanes on which the end of a run has no effect of its own -/

/-- A lane that has read no stream, has noted no act, and neither asks for anything nor has made only a part of its run. -/
structure Still (t : Thread) : Prop where
  reads : t.readS = []
  acts : t.acts = []
  ask : t.ask = none
  posting : t.posting = none

theorem Idle.still {t : Thread} (h : Idle t) : Still t := by
  obtain ⟨hreads, hacts, -, -, -, hask, hposting, -, -⟩ := h
  exact ⟨hreads, hacts, hask, hposting⟩

theorem streamPhase_still {s : State} {iss : Issue} (hi : s.issue = some iss) (hw : iss.away = [])
    (hg : ∀ t ∈ s.threads, inGroup iss t = true → Still t) : streamPhase s = s := by
  have hthreads : s.threads.map (fun t => if inGroup iss t && t.laneEnd.isNone then advanceRead t else t) = s.threads := by
    rw [List.map_congr_left (g := id), List.map_id]
    intro t ht
    by_cases h : (inGroup iss t && t.laneEnd.isNone) = true
    · rw [if_pos h, advanceRead, (hg t ht (Bool.and_eq_true _ _ ▸ h).1).reads]; rfl
    · rw [if_neg h, id]
  unfold streamPhase
  rw [hi]
  dsimp only
  rw [hthreads, ← hi]
  exact acts_none hw _ fun t ht hin => (hg t ht hin).acts

theorem closeRun_still {s : State} {iss : Issue} (hw : iss.away = [])
    (hg : ∀ t ∈ s.threads, inGroup iss t = true → Still t) : closeRun iss s = s := by
  have hthreads : s.threads.map (fun t => if t.launch = iss.launch ∧ t.thread ∈ iss.lanes then closePosting (closeAsk t) else t)
      = s.threads := by
    rw [List.map_congr_left (g := id), List.map_id]
    intro t ht
    by_cases h : t.launch = iss.launch ∧ t.thread ∈ iss.lanes
    · obtain ⟨-, -, hask, hposting⟩ := hg t ht ((inGroup_iff hw t).mpr h)
      rw [if_pos h, closeAsk, hask]
      dsimp only
      rw [closePosting, hposting, id]
    · rw [if_neg h, id]
  unfold closeRun
  rw [hthreads]

theorem runEffects_still {s : State} {iss : Issue} (hi : s.issue = some iss) (hw : iss.away = [])
    (hg : ∀ t ∈ s.threads, inGroup iss t = true → Still t) : runEffects iss s = s := by
  unfold runEffects
  rw [streamPhase_still hi hw hg, closeRun_still hw hg]

/-! ### The one lane of its group -/

section
variable {s : State} {iss : Issue} {g : BitVec 2} {t : Thread} (h : OneLane s iss g t)
include h

theorem OneLane.inGroup_iff {x : Thread} : inGroup iss x = true ↔ rowKey x = rowKey t := by
  rw [Machine.inGroup_iff h.alone.away, h.lanes, List.mem_singleton, ← h.launch]
  simp [rowKey]

theorem OneLane.idle : Idle t := h.alone.idle t h.row (h.inGroup_iff.mpr rfl)

theorem OneLane.isActive : isActive iss g t = true := by
  unfold Machine.isActive
  rw [h.inGroup_iff.mpr rfl, h.on]; rfl

/-- The thread's row is the only one of the group. -/
theorem OneLane.eq_of_inGroup {x : Thread} (hx : x ∈ s.threads) (hin : inGroup iss x = true) : x = t :=
  row_unique h.alone.rows hx h.row (h.inGroup_iff.mp hin)

/-- With the lane's row replaced, that row is the only one of the group. -/
theorem OneLane.eq_of_inGroup_put {u x : Thread} (hu : rowKey u = rowKey t) (hx : x ∈ (putThread s u).threads)
    (hin : inGroup iss x = true) : x = u := by
  obtain ⟨y, hy, rfl⟩ := List.mem_map.mp hx
  by_cases hk : isThread u.launch u.thread y = true
  · rw [if_pos hk]
  · rw [if_neg hk] at hin
    refine absurd ?_ hk
    rw [isThread_key, h.inGroup_iff.mp hin, ← hu]; rfl

theorem OneLane.threadAt_put {u : Thread} (hu : rowKey u = rowKey t) :
    threadAt (putThread s u) iss.launch t.thread = some u := by
  rw [← h.launch]
  exact threadAt_putThread_self (threadAt_of_mem h.alone.rows h.row) hu

/-- A word whose lanes act each for itself changes the one lane's row. -/
theorem OneLane.mapLanes {f : State → Issue → Thread → Except LaneEnd Thread} {u : Thread} (hu : rowKey u = rowKey t)
    (hf : laneStep iss g (f s iss) t = u) : mapLanes g f s = putThread s u := by
  unfold Machine.mapLanes putThread
  rw [h.alone.issue]
  dsimp only
  congr 1
  refine List.map_congr_left fun x hx => ?_
  by_cases hk : inGroup iss x = true
  · rw [h.eq_of_inGroup hx hk, hf, if_pos]
    rw [isThread_key, ← hu]; rfl
  · have hrow : ¬ isThread u.launch u.thread x = true := fun e =>
      hk (h.inGroup_iff.mpr (((isThread_key _ _ _).mp e).trans hu))
    rw [if_neg hrow]
    unfold laneStep isLive Machine.isActive
    simp [hk]

theorem OneLane.isLive : isLive iss g t = true := by
  rw [isLive_idle (h.alone.idle t h.row), h.isActive]

theorem OneLane.runEffects_put {u : Thread} (hu : rowKey u = rowKey t) (hs : Still u) :
    runEffects iss (putThread s u) = putThread s u :=
  runEffects_still h.alone.issue h.alone.away fun _ hx hin => h.eq_of_inGroup_put hu hx hin ▸ hs

/-- The run over, with the lane's row as `u`: the lane settled, and the issue gone. -/
theorem OneLane.settle_put {u : Thread} :
    settle (putThread s u) = { settleLane iss (putThread s u) t.thread with issue := none } := by
  unfold settle
  rw [show (putThread s u).issue = some iss from h.alone.issue]
  dsimp only
  rw [h.alone.after, h.lanes]
  rfl

/-- A lane whose word goes well, whatever the lane does next: it is settled as the word has left it. -/
theorem OneLane.laneWord_ok {f : State → Issue → Thread → Except LaneEnd Thread} {u : Thread} (hf : f s iss t = .ok u)
    (hu : rowKey u = rowKey t) (hs : Still u) (he : u.laneEnd = none) :
    laneWord g f s = .next { settleLane iss (putThread s u) t.thread with issue := none } := by
  have hb : Machine.mapLanes g f s = putThread s u := h.mapLanes hu (by unfold laneStep; rw [if_pos h.isLive, hf])
  have hr := h.runEffects_put hu hs
  have hended : endedLanes (putThread s u) iss = [] := by
    unfold endedLanes
    rw [List.filter_eq_nil_iff]
    intro x hx hin
    rw [Bool.and_eq_true] at hin
    obtain rfl := h.eq_of_inGroup_put hu hx hin.1
    simp [he] at hin
  unfold laneWord
  rw [wordRun_settled h.alone.issue h.alone.chained (by rw [hb, hr]; exact hended), hb, hr, h.settle_put]

/-- In a run of one word no word comes before the one that ends it: the lane has no effect of the run. -/
theorem OneLane.voidLanes_trap {k : Trap} {u : Thread} (hu : u = endLane iss t (.trap k)) : voidLanes s [u] = putThread s u := by
  have hpost : postingWord iss t iss.pos = none := by
    unfold postingWord
    rw [Option.map_eq_none_iff, List.find?_eq_none]
    intro w hw
    simp [h.alone.words w hw]
  have hvoid : voidLane iss t u = u := by
    subst hu
    unfold voidLane
    dsimp only [endLane]
    rw [hpost]
    rfl
  have hkey : rowKey u = rowKey t := by rw [hu]; rfl
  have hissue : s.issue.map (fun iss => { iss with away := iss.away ++ ([u].filter isWaitEnd).map Thread.thread }) = s.issue := by
    rw [h.alone.issue, hu]
    simp [isWaitEnd, endLane]
  unfold voidLanes putThread
  rw [hissue]
  congr 1
  refine List.map_congr_left fun x hx => ?_
  rw [h.alone.issue, List.find?_singleton]
  by_cases hk : inGroup iss x = true
  · obtain rfl := h.eq_of_inGroup hx hk
    have hx : isThread x.launch x.thread u = true := (isThread_key _ _ _).mpr hkey
    have hu' : isThread u.launch u.thread x = true := (isThread_key _ _ _).mpr hkey.symm
    rw [if_pos hx, if_pos hu']
    exact hvoid
  · have hne : rowKey x ≠ rowKey u := fun e => hk (h.inGroup_iff.mpr (e.trans hkey))
    have hx : ¬ isThread x.launch x.thread u = true := fun e => hne ((isThread_key _ _ _).mp e).symm
    have hu' : ¬ isThread u.launch u.thread x = true := fun e => hne ((isThread_key _ _ _).mp e)
    rw [if_neg hx, if_neg hu']

theorem OneLane.endedLanes_put {u : Thread} (hu : rowKey u = rowKey t) (he : u.laneEnd.isSome = true) :
    endedLanes (putThread s u) iss = [u] := by
  have hmem : u ∈ (putThread s u).threads := (mem_of_threadAt (h.threadAt_put hu)).1
  have hnodup : (putThread s u).threads.Nodup := List.Nodup.of_map rowKey (by rw [putThread_keys]; exact h.alone.rows)
  have hfilter : endedLanes (putThread s u) iss = (putThread s u).threads.filter (· == u) := by
    unfold endedLanes
    refine List.filter_congr fun x hx => ?_
    by_cases hk : inGroup iss x = true
    · rw [h.eq_of_inGroup_put hu hx hk, h.inGroup_iff.mpr hu, he, beq_self_eq_true]; rfl
    · have : x ≠ u := fun e => hk (e ▸ h.inGroup_iff.mpr hu)
      simp [hk, this]
  rw [hfilter, List.filter_beq, List.count_eq_one_of_mem hnodup hmem]
  rfl

theorem OneLane.endedLanes_none : endedLanes s iss = [] := by
  unfold endedLanes
  rw [List.filter_eq_nil_iff]
  intro x hx hin
  rw [Bool.and_eq_true] at hin
  obtain rfl := h.eq_of_inGroup hx hin.1
  obtain ⟨-, -, hend, -⟩ := h.idle
  simp [hend] at hin

/-- A lane that has ended takes no effect of a word. -/
theorem OneLane.mapLanes_ended {f : State → Issue → Thread → Except LaneEnd Thread} {u : Thread} (hu : rowKey u = rowKey t)
    (he : u.laneEnd.isSome = true) : Machine.mapLanes g f (putThread s u) = putThread s u := by
  have hstep : ∀ x ∈ (putThread s u).threads, laneStep iss g (f (putThread s u) iss) x = x := by
    intro x hx
    have hlive : ¬ Machine.isLive iss g x = true := by
      by_cases hk : inGroup iss x = true
      · obtain rfl := h.eq_of_inGroup_put hu hx hk
        simp [Machine.isLive, ← Option.not_isSome, he]
      · simp [Machine.isLive, Machine.isActive, hk]
    unfold laneStep
    rw [if_neg hlive]
  unfold Machine.mapLanes
  rw [show (putThread s u).issue = some iss from h.alone.issue]
  dsimp only
  rw [List.map_congr_left (g := id) hstep, List.map_id, ← h.alone.issue]
  rfl

/-- A lane that its word ends in a trap: the run, made again without it, leaves the lane to its trap (02 R39). -/
theorem OneLane.laneWord_trap {f : State → Issue → Thread → Except LaneEnd Thread} {k : Trap}
    (hf : ∀ s iss t, f s iss t = .error (.trap k)) :
    laneWord g f s = .next { settleLane iss (putThread s (endLane iss t (.trap k))) t.thread with issue := none } := by
  generalize hdef : endLane iss t (.trap k) = u
  have hu : rowKey u = rowKey t := by rw [← hdef]; rfl
  have he : u.laneEnd = some (.trap k, iss.pos) := by rw [← hdef]; rfl
  have hstill : Still u := by
    obtain ⟨hreads, hacts, hask, hposting⟩ := h.idle.still
    rw [← hdef]; exact ⟨hreads, hacts, hask, hposting⟩
  have hsome : u.laneEnd.isSome = true := by rw [he]; rfl
  have hfirst : Machine.mapLanes g f s = putThread s u :=
    h.mapLanes hu (by unfold laneStep; rw [if_pos h.isLive, hf]; exact hdef)
  have hvoid : nextVoid [u] = [u] := by simp [nextVoid, endRank, he]
  have hnone : ([u].filter fun x => [u].all fun y => !decide (y.thread = x.thread)) = [] := by simp
  unfold laneWord wordRun
  rw [h.alone.issue]
  dsimp only
  rw [h.alone.chained, if_neg (by simp), show (33 : Nat) = 31 + 1 + 1 from rfl, conduct, h.alone.issue]
  dsimp only
  rw [hfirst, h.runEffects_put hu hstill, h.endedLanes_put hu hsome, h.endedLanes_none]
  simp only [List.all_nil, List.filter_true, List.cons_ne_nil, if_false]
  rw [hvoid, h.voidLanes_trap hdef.symm, conduct, show (putThread s u).issue = some iss from h.alone.issue]
  dsimp only
  rw [h.mapLanes_ended hu hsome, h.runEffects_put hu hstill, h.endedLanes_put hu hsome, hnone, if_pos rfl, h.settle_put]

end

end Sys2Proof.Machine
end

section
/-! PROOFS. Segment ends, traps and returns from a handler, in a group of one thread. -/

namespace Sys2Proof.Machine

open Sys2Proof (Byte Word DWord Instr)

set_option Elab.async false

/-! ### A lane settled -/

section
variable {iss : Issue} {s : State} {l : Nat} {u : Thread} (ha : threadAt s iss.launch l = some u)
include ha

theorem settleLane_segment {p : Place} {q : Nat} {m : DWord} (he : u.laneEnd = none) (hn : u.next = .segment p q m) :
    settleLane iss s l = voluntaryEnd s (clearRun u) p q m := by
  unfold settleLane; rw [ha]; dsimp only; rw [he]; dsimp only; rw [hn]

theorem settleLane_handlerReturn {p q : Nat} (he : u.laneEnd = none) (hn : u.next = .handlerReturn p q) :
    settleLane iss s l = handlerReturn s (clearRun u) p q := by
  unfold settleLane; rw [ha]; dsimp only; rw [he]; dsimp only; rw [hn]

theorem settleLane_trap {k : Trap} {pos : Nat} (he : u.laneEnd = some (.trap k, pos)) :
    settleLane iss s l = takeTrap s (clearRun u) k iss.packet pos := by
  unfold settleLane; rw [ha]; dsimp only; rw [he]

end

/-! ### Voluntary ends (02 R20, R33) -/

/-- The record of a lane that its word ends voluntarily: written, and at its place. -/
theorem leavesRecord_of_end {i : Instr} {s : State} {iss : Issue} {g : BitVec 2} {t : Thread} {p : Place}
    {f : State → Issue → Thread → Except LaneEnd Thread} (h : OneLane s iss g t)
    (hc : CanEnd s t iss.mask (resumePacket iss.packet)) (hi : exec i s = laneWord g f s)
    (hf : f s iss t = .ok (endAt iss p t)) (hp : ∀ w n, p ≠ .faultBin w n) :
    LeavesRecord i s t (placedAt s p) (resumePacket iss.packet) iss.mask := by
  obtain ⟨hreads, hacts, hend, -, -, hask, hposting, -, -⟩ := h.idle
  have hlane := h.threadAt_put (u := endAt iss p t) rfl
  have hrecord : RecordOf t iss.mask (resumePacket iss.packet)
      (voluntaryRecord (putThread s (endAt iss p t)) (clearRun (endAt iss p t)) (resumePacket iss.packet) iss.mask) :=
    voluntaryRecord_of _ t _ t.laneEnd _ _
  obtain ⟨hrow, hkept⟩ := placeRecord_frame (u := endAt iss p t) h.alone.rows h.row rfl hc hrecord hp
  refine ⟨_, _, ?_, hrow, hkept, ?_⟩
  · rw [hi, h.laneWord_ok hf rfl ⟨hreads, hacts, hask, hposting⟩ hend, settleLane_segment hlane hend rfl, voluntaryEnd_eq]
  · unfold voluntaryRecord
    rw [formRecord_eq]
    refine ⟨rfl, rfl, rfl, rfl, fun n _ => ?_, rfl, rfl, rfl, rfl, rfl, rfl, rfl, rfl, rfl, rfl, rfl, rfl, rfl, rfl⟩
    rw [flushLoads_regs]
    exact regGet_carried _ _ _

/-! ### Traps (02 R25, R39) -/

/-- The record of a lane that its word ends in a trap, with a handler in code that stands and no debugger at a breakpoint. -/
theorem trapsTo_of_trap {i : Instr} {s : State} {iss : Issue} {g : BitVec 2} {t : Thread} {k : Trap} (h : OneLane s iss g t)
    (hh : (launchOf s t.launch).trappkt ≠ 0) (hc : CanEnd s t (wholeWindow t.window) (launchOf s t.launch).trappkt)
    (hb : k = .breakpoint → (ctxOfLaunch s t.launch).debug = false)
    (hi : exec i s = laneWord g (fun _ _ _ => .error (.trap k)) s) : TrapsTo i s t (trapCode k) iss.packet iss.pos := by
  have hlane := h.threadAt_put (u := endLane iss t (.trap k)) rfl
  have hrecord : RecordOf t (wholeWindow t.window) (launchOf s t.launch).trappkt
      (trapTaken (putThread s (endLane iss t (.trap k))) (clearRun (endLane iss t (.trap k))) k iss.packet iss.pos) :=
    trapTaken_of (putThread s (endLane iss t (.trap k))) t t.next _ k _ _
  obtain ⟨hrow, hkept⟩ := placeRecord_frame (u := endLane iss t (.trap k)) (p := .binned 0) h.alone.rows h.row rfl hc hrecord nofun
  refine ⟨_, _, ?_, hrow, hkept, ?_⟩
  · rw [hi, h.laneWord_trap fun _ _ _ => rfl, settleLane_trap hlane rfl, takeTrap_handled
      (s := putThread s (endLane iss t (.trap k))) (t := clearRun (endLane iss t (.trap k))) hh hc.code hb]
  · unfold trapTaken
    rw [formRecord_eq]
    refine ⟨rfl, rfl, rfl, rfl, rfl, rfl, fun n hn hw => ?_, rfl, rfl, rfl, rfl, rfl, rfl⟩
    rw [flushLoads_regs]
    refine (regGet_carried _ _ _).trans ?_
    rw [getLsbD_wholeWindow _ hn]
    exact if_pos (decide_eq_true hw)

/-! ### Returns from a handler (07 R160) -/

theorem displacedTarget_targetAt {s : State} {t : Thread} {target : Int} {p : Nat} (h : TargetAt s t target p) :
    displacedTarget s t target = .ok p := by
  obtain ⟨rfl, hlimit, hmark⟩ := h
  unfold displacedTarget
  rw [if_neg (by omega), Int.toNat_natCast, if_neg (by omega), hmark]
  rfl

theorem src32_plain {s : State} {iss : Issue} {t : Thread} {c : BitVec 7} (h : isStream c = false) :
    src32 s iss t c = .ok (plain32 s iss t c, t) := by
  unfold src32; rw [h]; rfl

/-- `tret.skip` sends its lane to the packet after that of its trap word. -/
theorem laneTret_skip {s : State} {iss : Issue} {t : Thread} {a b : BitVec 7} {p : Nat} (ha : isStream a = false)
    (hb : isStream b = false) :
    let word := (plain32 s iss t a).toNat + 2 ^ 32 * (plain32 s iss t b).toNat
    word / 2 ^ 8 % 4 ≠ 3 → TargetAt s t ((word / 2 ^ 16 : Nat) + 1) p →
      laneTret false a b s iss t = .ok { t with next := .handlerReturn p 0 } := by
  intro word hw ht
  unfold laneTret
  rw [src32_plain ha]
  dsimp only
  rw [src32_plain hb]
  dsimp only
  rw [if_neg hw, if_neg Bool.false_ne_true, displacedTarget_targetAt ht]
  rfl

/-- What a return from a handler leaves of its thread: the window and its registers, at the packet that it names. -/
def returned (t : Thread) (p q : Nat) : Thread :=
  { killLatches (flushLoads t) with packet := p, pos := q, trapWord := 0, sysstat := 0, inPacket := false,
                                    streams := (killLatches (flushLoads t)).streams.map forgetCopy }

theorem handlerReturn_eq (s : State) (t : Thread) (p q : Nat) : handlerReturn s t p q = putThread s (returned t p q) := rfl

theorem returned_key (t : Thread) (p q : Nat) : rowKey (returned t p q) = rowKey t := by
  unfold returned; rw [flushLoads_eq]; rfl

/-- The lane's row replaced and the issue over: the rest of the package is as it was. -/
theorem othersKept_put {s : State} {t u r : Thread} (hu : rowKey u = rowKey t) (hr : rowKey r = rowKey t) :
    OthersKept s { putThread (putThread s u) r with issue := none } t := by
  refine ⟨fun l n hne => ?_, rfl, fun _ _ => rfl, rfl⟩
  have : threadAt (putThread (putThread s u) r) l n = threadAt s l n := by
    rw [threadAt_putThread_other (by rw [hr]; exact hne), threadAt_putThread_other (by rw [hu]; exact hne)]
  exact this

end Sys2Proof.Machine

open Sys2Proof Sys2Proof.Machine

/-- Settles O15: the trap record is that of `trapsTo_of_trap`; a return that skips its word settles the lane's row in place. -/
theorem trapEntryAndReturn : Obligations.TrapEntryAndReturn := by
  intro g s iss t h
  refine ⟨fun hh hc => ⟨trapsTo_of_trap (k := .userTrap) h hh hc nofun rfl,
    fun hd => trapsTo_of_trap (k := .breakpoint) h hh hc (fun _ => hd) rfl⟩, ?_⟩
  intro a b p ha hb word hw ht
  obtain ⟨hreads, hacts, hend, -, -, hask, hposting, -, -⟩ := h.idle
  generalize hu : ({ t with next := .handlerReturn p 0 } : Thread) = u
  have hkey : rowKey u = rowKey t := by rw [← hu]; rfl
  have hret : rowKey (returned (clearRun u) p 0) = rowKey t := (returned_key _ _ _).trans hkey
  have hlane := h.threadAt_put hkey
  have hf : laneTret false a b s iss t = .ok u := hu ▸ laneTret_skip ha hb hw ht
  have hnext : u.next = .handlerReturn p 0 := by rw [← hu]
  have hend' : u.laneEnd = none := by rw [← hu]; exact hend
  have hstill : Still u := by rw [← hu]; exact ⟨hreads, hacts, hask, hposting⟩
  refine ⟨_, returned (clearRun u) p 0, ?_, ?_, othersKept_put hkey hret, ?_⟩
  · change laneWord g (laneTret false a b) s = _
    rw [h.laneWord_ok hf hkey hstill hend', settleLane_handlerReturn hlane hend' hnext, handlerReturn_eq]
  · exact threadAt_putThread_self (s := putThread s u) (by rw [← h.launch] at hlane; exact hlane) hret
  · unfold returned
    rw [flushLoads_eq, flushLoads_eq, ← hu]
    exact ⟨rfl, rfl, rfl, rfl, rfl, rfl, rfl, rfl, rfl, rfl, rfl, rfl⟩

/-- Settles O24: each of the five words ends its lane's segment in the record that `leavesRecord_of_end` gives. -/
theorem voluntaryRecords : Obligations.VoluntaryRecords := by
  intro g n s iss t h hc
  refine ⟨?_, fun hn => ?_, fun hd => ⟨?_, ?_, fun hcohort => ?_⟩⟩
  · exact leavesRecord_of_end (p := .binned 0) h hc rfl rfl nofun
  · exact leavesRecord_of_end (p := .batchWait n.toNat) h hc rfl
      (by rw [laneWaitBatch, if_neg (by unfold unfinished; omega)]) nofun
  · exact leavesRecord_of_end (p := .barrier .gang false) h hc rfl (by simp [laneBar, hd]) nofun
  · exact leavesRecord_of_end (p := .barrier .cluster false) h hc rfl (by simp [laneBar, hd]) nofun
  · exact leavesRecord_of_end (p := .barrier .launch false) h hc rfl (by simp [laneBar, hd, hcohort]) nofun
end

section
/-! PROOFS. The picker: what a core issues is a run for an issue group of ready threads (02 R35, R36). -/

namespace Sys2Proof.Machine

open Sys2Proof (Byte Word DWord Instr)

set_option Elab.async false

/-! ### Lists ordered by a key -/

theorem insertBy_perm {α : Type} (f : α → Nat) (x : α) (l : List α) : (insertBy f x l).Perm (x :: l) := by
  induction l with
  | nil => exact .refl _
  | cons y ys ih =>
    rw [insertBy]
    split
    · exact .refl _
    · exact (ih.cons y).trans (.swap x y ys)

theorem insertBy_rises {α : Type} (f : α → Nat) (x : α) {l : List α} (h : l.Pairwise fun a b => f a ≤ f b) :
    (insertBy f x l).Pairwise fun a b => f a ≤ f b := by
  induction l with
  | nil => exact List.pairwise_singleton _ _
  | cons y ys ih =>
    rw [List.pairwise_cons] at h
    obtain ⟨hy, hys⟩ := h
    rw [insertBy]
    split
    · rename_i hlt
      refine List.pairwise_cons.mpr ⟨fun z hz => ?_, List.pairwise_cons.mpr ⟨hy, hys⟩⟩
      rcases List.mem_cons.mp hz with rfl | hz
      · omega
      · have := hy z hz; omega
    · rename_i hge
      refine List.pairwise_cons.mpr ⟨fun z hz => ?_, ih hys⟩
      rcases List.mem_cons.mp ((insertBy_perm f x ys).mem_iff.mp hz) with rfl | hz
      · omega
      · exact hy z hz

theorem sortBy_perm {α : Type} (f : α → Nat) (l : List α) : (sortBy f l).Perm l := by
  have key : ∀ (l acc : List α), (l.foldl (fun acc x => insertBy f x acc) acc).Perm (acc ++ l) := by
    intro l
    induction l with
    | nil => intro acc; rw [List.append_nil]; exact .refl _
    | cons x xs ih =>
      intro acc
      exact (ih _).trans (((insertBy_perm f x acc).append_right xs).trans List.perm_middle.symm)
  exact key l []

theorem sortBy_rises {α : Type} (f : α → Nat) (l : List α) : (sortBy f l).Pairwise fun a b => f a ≤ f b := by
  have key : ∀ (l acc : List α), acc.Pairwise (fun a b => f a ≤ f b) →
      (l.foldl (fun acc x => insertBy f x acc) acc).Pairwise fun a b => f a ≤ f b := by
    intro l
    induction l with
    | nil => exact fun _ h => h
    | cons x xs ih => exact fun acc h => ih _ (insertBy_rises f x h)
  exact key l [] .nil

theorem mem_of_minBy {α : Type} {f : α → Nat} {x : α} : ∀ {l : List α}, minBy f l = some x → x ∈ l := by
  intro l
  induction l generalizing x with
  | nil => intro h; cases h
  | cons y ys ih =>
    intro h
    rw [minBy] at h
    split at h
    · cases h; exact List.mem_cons_self
    · rename_i z hz
      split at h
      · cases h; exact List.mem_cons_of_mem _ (ih hz)
      · cases h; exact List.mem_cons_self

/-! ### The threads taken into a group -/

/-- A group takes its threads from those offered, in their order. -/
theorem takeGroup_sublist (ls : List Nat) (waited : List (List Nat)) : ∀ ts got : List Thread,
    ∃ more, takeGroup ls waited got ts = got ++ more ∧ more.Sublist ts := by
  intro ts
  induction ts with
  | nil => exact fun got => ⟨[], by rw [takeGroup, List.append_nil], .slnil⟩
  | cons t ts ih =>
    intro got
    rw [takeGroup]
    split
    · obtain ⟨more, he, hs⟩ := ih (got ++ [t])
      exact ⟨t :: more, by rw [he, List.append_assoc]; rfl, hs.cons_cons t⟩
    · obtain ⟨more, he, hs⟩ := ih got
      exact ⟨more, he, hs.cons t⟩

theorem takeGroup_length (ls : List Nat) (waited : List (List Nat)) : ∀ ts got : List Thread, got.length ≤ 32 →
    (takeGroup ls waited got ts).length ≤ 32 := by
  intro ts
  induction ts with
  | nil => exact fun got h => h
  | cons t ts ih =>
    intro got h
    rw [takeGroup]
    split
    · rename_i hroom
      simp only [Bool.and_eq_true, decide_eq_true_eq] at hroom
      exact ih _ (by rw [List.length_append, List.length_singleton]; omega)
    · exact ih _ h

/-- Of threads that are offered at least the first is taken. -/
theorem takeGroup_ne_nil (ls : List Nat) (waited : List (List Nat)) {ts : List Thread} (h : ts ≠ []) :
    takeGroup ls waited [] ts ≠ [] := by
  obtain ⟨t, ts, rfl⟩ := List.exists_cons_of_ne_nil h
  obtain ⟨more, he, -⟩ := takeGroup_sublist ls waited ts [t]
  rw [takeGroup, if_pos (by simp), List.nil_append, he]
  simp

/-! ### The ready threads of the chosen gang -/

theorem readyThreads_sublist (s : State) (c : Nat) : ((readyThreads s c).map (·.1)).Sublist (candidates s c) := by
  have h : ((candidates s c).map fun t => (t, runView s t)).map (·.1) = candidates s c := by
    rw [List.map_map]; exact List.map_id' _
  exact h ▸ (List.filter_sublist (l := (candidates s c).map fun t => (t, runView s t))).map _

theorem mem_chosenGang {s : State} {rs : List (Thread × RunView)} {x y : Thread × RunView} (hx : x ∈ chosenGang s rs)
    (hy : y ∈ chosenGang s rs) : x ∈ rs ∧ x.1.launch = y.1.launch ∧ x.1.gang = y.1.gang := by
  unfold chosenGang at hx hy
  split at hx
  · cases hx
  · rename_i z hz
    rw [hz] at hy
    have hx := List.mem_filter.mp ((sortBy_perm _ _).mem_iff.mp hx)
    have hy := List.mem_filter.mp ((sortBy_perm _ _).mem_iff.mp hy)
    simp only [sameGang, Bool.and_eq_true, decide_eq_true_eq] at hx hy
    obtain ⟨hmem, ⟨hxl, hxg⟩, -⟩ := hx
    obtain ⟨-, ⟨hyl, hyg⟩, -⟩ := hy
    exact ⟨hmem, hxl.symm.trans hyl, hxg.symm.trans hyg⟩

/-- The chosen gang's ready threads, each once, stand in rising THREAD. -/
theorem chosenGang_rises {s : State} {rs : List (Thread × RunView)} (hn : (rs.map fun x => rowKey x.1).Nodup) :
    ((chosenGang s rs).map (·.1)).Pairwise fun t u => t.thread < u.thread := by
  have hle : (chosenGang s rs).Pairwise fun x y => x.1.thread ≤ y.1.thread := by
    unfold chosenGang
    split
    · exact .nil
    · exact sortBy_rises _ _
  have hkeys : ((chosenGang s rs).map fun x => rowKey x.1).Nodup := by
    unfold chosenGang
    split
    · exact List.nodup_nil
    · exact ((sortBy_perm _ _).map _).nodup_iff.mpr ((List.filter_sublist.map _).nodup hn)
  rw [List.pairwise_map]
  refine List.Pairwise.imp_of_mem (R := fun x y => x.1.thread ≤ y.1.thread ∧ rowKey x.1 ≠ rowKey y.1) ?_
    (hle.and (List.pairwise_map.mp hkeys))
  intro x y hx hy h
  obtain ⟨hthread, hkey⟩ := h
  obtain ⟨-, hlaunch, -⟩ := mem_chosenGang hx hy
  refine Nat.lt_of_le_of_ne hthread fun e => hkey ?_
  rw [rowKey, rowKey, hlaunch, e]

/-- The program counter that the picker takes is that of a thread it chooses from. -/
theorem mem_of_pcLeader {ts : List Thread} {t : Thread} (h : pcLeader ts = some t) : t ∈ ts := by
  unfold pcLeader at h
  split at h
  · rename_i u hu
    cases h
    exact (List.mem_filter.mp (mem_of_minBy hu)).1
  · exact mem_of_minBy h

/-! ### The group -/

/-- An issue group (02 R36): ready threads of one gang at one program counter, in rising THREAD, at least one and at most 32. -/
structure IssueGroup (s : State) (c : Nat) (g : List Thread) : Prop where
  nonempty : g ≠ []
  most : g.length ≤ 32
  rising : g.Pairwise fun t u => t.thread < u.thread
  ready : ∀ t ∈ g, t ∈ candidates s c
  together : ∀ t ∈ g, ∀ u ∈ g, t.launch = u.launch ∧ t.gang = u.gang ∧ t.packet = u.packet ∧ t.pos = u.pos

/-- What a group is formed of: the chosen gang's ready threads at one program counter. -/
theorem formGroup_inv {s : State} {c : Nat} {g ready : List Thread} {v : RunView} (h : formGroup s c = some (g, v, ready)) :
    ∃ t ls waited, t ∈ ready ∧ ready = (chosenGang s (readyThreads s c)).map (·.1)
      ∧ g = takeGroup ls waited [] (ready.filter (samePc t)) := by
  unfold formGroup at h
  dsimp only at h
  split at h
  · cases h
  · rename_i t ht
    split at h
    · cases h
    · cases h
      exact ⟨t, _, _, mem_of_pcLeader ht, rfl, rfl⟩

theorem issueGroup_of_formGroup {s : State} {c : Nat} {g ready : List Thread} {v : RunView}
    (hn : (s.threads.map rowKey).Nodup) (h : formGroup s c = some (g, v, ready)) : IssueGroup s c g := by
  obtain ⟨t, ls, waited, ht, hready, hg⟩ := formGroup_inv h
  have hsub : g.Sublist (ready.filter (samePc t)) := by
    obtain ⟨more, he, hs⟩ := takeGroup_sublist ls waited (ready.filter (samePc t)) []
    rw [hg, he]; exact hs
  have hsub' : g.Sublist ready := hsub.trans List.filter_sublist
  have hnodup : ((readyThreads s c).map fun x => rowKey x.1).Nodup := by
    have := ((readyThreads_sublist s c).trans List.filter_sublist).map rowKey
    rw [List.map_map] at this
    exact this.nodup hn
  have hgang : ∀ u ∈ g, ∃ x ∈ chosenGang s (readyThreads s c), x.1 = u := fun u hu =>
    List.mem_map.mp (hready ▸ hsub'.subset hu)
  refine ⟨?_, ?_, ?_, fun u hu => ?_, fun u hu w hw => ?_⟩
  · rw [hg]
    exact takeGroup_ne_nil _ _ (List.ne_nil_of_mem (List.mem_filter.mpr ⟨ht, by simp [samePc]⟩))
  · rw [hg]; exact takeGroup_length _ _ _ _ (Nat.zero_le _)
  · exact (hready ▸ chosenGang_rises hnodup : ready.Pairwise _).sublist hsub'
  · obtain ⟨x, hx, rfl⟩ := hgang u hu
    exact (readyThreads_sublist s c).subset (List.mem_map_of_mem (mem_chosenGang hx hx).1)
  · obtain ⟨x, hx, rfl⟩ := hgang u hu
    obtain ⟨y, hy, rfl⟩ := hgang w hw
    have hpx := (List.mem_filter.mp (hsub.subset hu)).2
    have hpy := (List.mem_filter.mp (hsub.subset hw)).2
    simp only [samePc, Bool.and_eq_true, decide_eq_true_eq] at hpx hpy
    obtain ⟨-, hlaunch, hgang⟩ := mem_chosenGang hx hy
    exact ⟨hlaunch, hgang, hpx.1.symm.trans hpy.1, hpx.2.symm.trans hpy.2⟩

/-! ### The issue -/

/-- With no error to meet and none met before, a residue check lets the effect stand (21 R337). -/
theorem checkResidue_clean {s effect : State} {c tag : Nat} {k : Retry} {spent : State → State}
    (he : pendingErrors (coreOf s c) k.unit = 0) (hr : (coreOf s c).retried.contains k = false) :
    checkResidue s c tag k spent effect = effect := by
  unfold checkResidue
  dsimp only
  rw [if_pos he, hr, if_neg Bool.false_ne_true]

/-- A core that may issue, and on which no pipe has an error to show, issues the run of the group that it forms. -/
theorem execRunIssue_run {s : State} {c : Nat} {g ready : List Thread} {ws : List (Nat × Instr)} {fall : Nat × Nat}
    {mask : DWord} (hm : MayIssue s c) (hf : formGroup (asking s c) c = some (g, .run ws fall mask, ready)) :
    execRunIssue c s = .next { asking s c with issue := some (issueOf (asking s c) c g ready ws fall mask) } := by
  have hcore : coreOf (asking s c) c = addFills (missingLines s c) (coreOf s c) := coreOf_mapCore_self (by simp [addFills])
  have herrors : pendingErrors (coreOf (asking s c) c) 4 = 0 := by rw [hcore]; exact hm.errors
  have hretried : ∀ k : Retry, k.unit = 4 → (coreOf (asking s c) c).retried.contains k = false := by
    intro k hk
    rw [hcore, Bool.eq_false_iff]
    intro hc
    exact hm.retried k (List.contains_iff_mem.mp hc) hk
  have hpick : pick c (asking s c)
      = { asking s c with issue := some (issueOf (asking s c) c g ready ws fall mask) } := by
    unfold pick; rw [hf]
  have hfree : ((coreOf s c).issued || !(coreOf s c).inService || s.issue.isSome) = false := by
    rw [hm.fresh, hm.inService, hm.issue]; rfl
  unfold execRunIssue
  rw [hfree, if_neg Bool.false_ne_true, show mapCore s c (addFills (missingLines s c)) = asking s c from rfl, hpick]
  dsimp only
  rw [checkResidue_clean herrors (hretried _ rfl)]

end Sys2Proof.Machine

open Sys2Proof Sys2Proof.Machine

/-- Settles O41: the issue in progress is that of the group formed, and `issueGroup_of_formGroup` says what its threads are. -/
theorem issueGroups : Obligations.IssueGroups := by
  intro s c g ready ws fall mask s1 hm hn hf
  have hthreads : s1.threads = s.threads := mapCore_threads _ _ _
  have hg := issueGroup_of_formGroup (by rw [hthreads]; exact hn) hf
  obtain ⟨t, more, rfl⟩ := List.exists_cons_of_ne_nil hg.nonempty
  refine ⟨_, execRunIssue_run hm hf, rfl, rfl, rfl, rfl, rfl, List.cons_ne_nil _ _, ?_, ?_, fun u hu => ?_⟩
  · exact (List.length_map _).trans_le hg.most
  · exact List.pairwise_map.mpr hg.rising
  · have hcand := hg.ready u hu
    unfold candidates at hcand
    simp only [List.mem_filter, Bool.and_eq_true, decide_eq_true_eq, beq_iff_eq, Option.isNone_iff_eq_none] at hcand
    obtain ⟨hmem, ⟨⟨⟨⟨hcore, hplace⟩, hwaiting⟩, -⟩, -⟩, hmay⟩ := hcand
    exact ⟨hthreads ▸ hmem, hcore, hplace, hwaiting, hmay, hg.together u hu t List.mem_cons_self⟩
end

section
/-! PROOFS. Counting on a core whose counters have been zeroed in the cycle. -/

namespace Sys2Proof.Machine

set_option Elab.async false

/-- In a cycle that has zeroed a core's counters nothing is counted on it (19 R291; log 36). -/
theorem bumpCounter_zeroed {r : Core} (h : r.zeroed = true) (sel n : Nat) : bumpCounter sel n r = r := by
  unfold bumpCounter; rw [if_pos h]

/-- So a compactor move in that cycle leaves COMPACT as it was. -/
theorem compactorMove_zeroed {s : State} {c : Nat} (hz : (coreOf s c).zeroed = true) (hw : windowsHeld s c ≠ 0) :
    ∃ s', exec (.compactorMove c) s = .next s' ∧ readCounter (coreOf s' c) 0x0201 = readCounter (coreOf s c) 0x0201 := by
  refine ⟨count c 0x0201 1 s, ?_, ?_⟩
  · change execCompactorMove c s = _
    unfold execCompactorMove
    rw [if_neg hw]
  · rw [coreOf_count s c 0x0201 1 Nat.one_ne_zero, bumpCounter_zeroed hz]

end Sys2Proof.Machine

open Sys2Proof Sys2Proof.Machine

/-- Refutes O44: the clause of the compactor has COMPACT rise by 1 in every state with a window held, but in the rest of a
cycle in which a write of CTRZERO has zeroed the core's counters nothing is counted there (19 R291; log 36). The state is the
reset one with a thread in a window of core 0, right after such a write. -/
theorem not_coreEvents : ¬ Obligations.CoreEvents := by
  intro h
  let s : State := applyAfter { State.reset with threads := [{ launch := 1, gang := 0, thread := 0, core := 0 }] } (.zeroCounters 0)
  have hz : (coreOf s 0).zeroed = true := by decide
  have hw : windowsHeld s 0 ≠ 0 := by decide
  obtain ⟨-, -, -, -, hmove, -⟩ := h s 0
  obtain ⟨s', hs', -, -, hcounted⟩ := hmove hw
  obtain ⟨u, hu, hsame⟩ := compactorMove_zeroed hz hw
  obtain rfl : s' = u := Host.Outcome.next.inj (hs'.symm.trans hu)
  have hnone : readCounter (coreOf s 0) 0x0201 = 0 := by decide
  rw [hsame, hnone] at hcounted
  exact absurd hcounted (by decide)
end

section
/-! PROOFS. Rounding: a format's codes count up without a gap, and `Fmt.round` is the one rounding of 03 R49 to R52. -/

namespace Sys2Proof.Machine

/-! ### Codes and the magnitudes they count (03 R47) -/

/-- The code `u` steps above the start of binade `k` counts `u` units of that binade; the last step is the next binade's first. -/
theorem Fmt.count_binade (f : Fmt) {k u : Nat} (hu : u ≤ 2 ^ (f.fbits + 1)) (hk : k = 0 ∨ 2 ^ f.fbits ≤ u) :
    f.count (k * 2 ^ f.fbits + u) = u * 2 ^ k := by
  have hpos : 0 < 2 ^ f.fbits := Nat.two_pow_pos _
  rw [Nat.pow_succ] at hu
  unfold Fmt.count
  generalize 2 ^ f.fbits = p at *
  rcases Nat.lt_or_ge u p with hlow | hhigh
  · obtain rfl : k = 0 := hk.resolve_right (by omega)
    simp [hlow]
  · rw [if_neg (by nlinarith)]
    rcases Nat.lt_or_ge u (2 * p) with hin | hout
    · obtain ⟨v, rfl⟩ := Nat.exists_eq_add_of_le hhigh
      have hv : v < p := by omega
      have heq : k * p + (p + v) = v + p * (k + 1) := by ring
      rw [heq, Nat.add_mul_mod_self_left, Nat.add_mul_div_left _ _ hpos, Nat.mod_eq_of_lt hv, Nat.div_eq_of_lt hv]
      simp
    · obtain rfl : u = 2 * p := by omega
      have heq : k * p + 2 * p = 0 + p * (k + 2) := by ring
      rw [heq, Nat.add_mul_mod_self_left, Nat.add_mul_div_left _ _ hpos]
      simp [Nat.pow_succ]
      ring

/-- Every code stands in one binade. -/
theorem Fmt.exists_binade (f : Fmt) (c : Nat) :
    ∃ k u, c = k * 2 ^ f.fbits + u ∧ u < 2 ^ (f.fbits + 1) ∧ (k = 0 ∨ 2 ^ f.fbits ≤ u) := by
  have hmod : c % 2 ^ f.fbits < 2 ^ f.fbits := Nat.mod_lt _ (Nat.two_pow_pos _)
  have hdiv := Nat.div_add_mod' c (2 ^ f.fbits)
  have hpow := Nat.pow_succ 2 f.fbits
  rcases hq : c / 2 ^ f.fbits with _ | k
  · exact ⟨0, c, by omega, by rw [hq] at hdiv; omega, .inl rfl⟩
  · rw [hq, Nat.succ_mul] at hdiv
    exact ⟨k, 2 ^ f.fbits + c % 2 ^ f.fbits, by omega, by omega, .inr (by omega)⟩

theorem Fmt.count_strictMono (f : Fmt) : StrictMono f.count := by
  refine strictMono_nat_of_lt_succ fun c => ?_
  obtain ⟨k, u, rfl, hu, hk⟩ := f.exists_binade c
  rw [Nat.add_assoc, f.count_binade hu.le hk, f.count_binade hu (hk.imp_right Nat.le_succ_of_le)]
  exact Nat.mul_lt_mul_of_pos_right (Nat.lt_succ_self u) (Nat.two_pow_pos k)

@[simp] theorem Fmt.count_zero (f : Fmt) : f.count 0 = 0 := by
  simpa using f.count_binade (k := 0) (u := 0) (Nat.zero_le _) (.inl rfl)

@[simp] theorem Fmt.count_one (f : Fmt) : f.count 1 = 1 := by
  simpa using f.count_binade (k := 0) (u := 1) Nat.one_le_two_pow (.inl rfl)

/-- The smallest normal number. -/
theorem Fmt.count_normal (f : Fmt) : f.count (2 ^ f.fbits) = 2 ^ f.fbits := by
  simpa using f.count_binade (k := 0) (u := 2 ^ f.fbits) (Nat.pow_le_pow_right (by decide) (Nat.le_succ _)) (.inl rfl)

/-- A magnitude that fits the significand is that of some code. -/
theorem Fmt.exists_count_eq (f : Fmt) (k : Nat) {r : Nat} (hr : r < 2 ^ (f.fbits + 1)) : ∃ c, f.count c = r * 2 ^ k := by
  induction k generalizing r with
  | zero => exact ⟨r, by simpa using f.count_binade (k := 0) hr.le (.inl rfl)⟩
  | succ k ih =>
    rcases Nat.lt_or_ge r (2 ^ f.fbits) with hlow | hhigh
    · obtain ⟨c, hc⟩ := ih (r := 2 * r) (by rw [Nat.pow_succ]; omega)
      exact ⟨c, by rw [hc, Nat.pow_succ]; ring⟩
    · exact ⟨_, f.count_binade hr.le (.inr hhigh)⟩

/-! ### Which of two neighbours is taken -/

theorem takesUpper_scale (r : Rounding) (neg odd : Bool) (lo hi m : Nat) {s : Nat} (hs : 0 < s) :
    takesUpper r neg odd (lo * s) (hi * s) (m * s) = takesUpper r neg odd lo hi m := by
  cases r with
  | rne =>
    have hsum : lo * s + hi * s = (lo + hi) * s := (Nat.add_mul ..).symm
    have htwice : 2 * (m * s) = 2 * m * s := (Nat.mul_assoc ..).symm
    simp only [takesUpper, hsum, htwice, Nat.mul_lt_mul_right hs, Nat.mul_left_inj hs.ne']
  | rz => rfl
  | ru => simp only [takesUpper, Nat.mul_lt_mul_right hs]
  | rd => simp only [takesUpper, Nat.mul_lt_mul_right hs]
  | sto k =>
    simp only [takesUpper, ← Nat.sub_mul, ← Nat.mul_assoc, Nat.mul_le_mul_right_iff hs]

/-- A value of the format, or one below both neighbours, is not taken up. -/
theorem takesUpper_of_le (r : Rounding) (neg odd : Bool) {lo hi m : Nat} (hm : m ≤ lo) (h : lo < hi) :
    takesUpper r neg odd lo hi m = false := by
  cases r with
  | rne => simp [takesUpper]; omega
  | rz => rfl
  | ru => simp [takesUpper]; omega
  | rd => simp [takesUpper]; omega
  | sto k =>
    have hpos : 0 < (k + 1) * (hi - lo) := Nat.mul_pos k.succ_pos (by omega)
    simp only [takesUpper, Nat.sub_eq_zero_of_le hm]
    simp; omega

/-- A magnitude `v` between the neighbours `lo` and `hi`: the rest and the fraction that `Mag.units` answers with it decide what the
distances to the two decide. -/
structure UnitsOf (u : Nat × Nat × Nat) (lo hi v : Nat) : Prop where
  below : lo ≤ v
  above : v < hi
  exact_iff : u.2.1 = 0 ↔ lo = v
  up : ∀ r neg odd, roundsUp r neg odd u.2.1 u.2.2 = takesUpper r neg odd lo hi v

theorem Mag.units_of_le {x : Mag} {q : Int} (hx : x.more = false) (h : q ≤ x.e) :
    x.units q = (x.m * 2 ^ (x.e - q).toNat, 0, 0) := by
  unfold Mag.units; simp [h, hx]

/-- A magnitude that is a whole number of units. -/
theorem unitsOf_whole (u b : Nat) : UnitsOf (u, 0, 0) (u * 2 ^ b) ((u + 1) * 2 ^ b) (u * 2 ^ b) := by
  have hlt : u * 2 ^ b < (u + 1) * 2 ^ b := Nat.mul_lt_mul_of_pos_right u.lt_succ_self (Nat.two_pow_pos b)
  refine ⟨le_rfl, hlt, by simp, fun r neg odd => ?_⟩
  rw [takesUpper_of_le r neg odd le_rfl hlt]
  cases r <;> simp [roundsUp]

/-- A rest below one unit, as the model classes it: none, below half a unit, half, above. -/
def restClass (rest half : Nat) : Nat := if rest = 0 then 0 else if rest < half then 1 else if rest = half then 2 else 3

theorem restClass_eq_zero {rest half : Nat} : restClass rest half = 0 ↔ rest = 0 := by
  unfold restClass; split_ifs <;> simp_all

theorem restClass_eq_two {rest half : Nat} (h : 0 < half) : restClass rest half = 2 ↔ rest = half := by
  unfold restClass; split_ifs <;> simp_all <;> omega

theorem restClass_eq_three {rest half : Nat} : restClass rest half = 3 ↔ half < rest := by
  unfold restClass; split_ifs <;> simp_all <;> omega

theorem Mag.units_of_lt {x : Mag} {q : Int} {n : Nat} (hx : x.more = false) (h : (q - x.e).toNat = n + 1) :
    x.units q = (x.m / 2 ^ (n + 1), restClass (x.m % 2 ^ (n + 1)) (2 ^ n), x.m % 2 ^ (n + 1) * 65536 / 2 ^ (n + 1)) := by
  unfold Mag.units
  rw [if_neg (by omega), hx]
  dsimp only
  rw [h]
  rfl

/-- The model's decision by the class of the rest is that by the distances to the two neighbours. -/
theorem roundsUp_restClass (r : Rounding) (neg odd : Bool) (lo : Nat) {rest half : Nat} (h : 0 < half) :
    roundsUp r neg odd (restClass rest half) (rest * 65536 / (2 * half)) = takesUpper r neg odd lo (lo + 2 * half) (lo + rest) := by
  have hzero : (restClass rest half != 0) = decide (lo < lo + rest) := by
    rw [Bool.eq_iff_iff, bne_iff_ne, Ne, restClass_eq_zero, decide_eq_true_eq]; omega
  cases r with
  | rne =>
    have htwo : (restClass rest half == 2) = decide (lo + (lo + 2 * half) = 2 * (lo + rest)) := by
      rw [Bool.eq_iff_iff, beq_iff_eq, restClass_eq_two h, decide_eq_true_eq]; omega
    have hthree : (restClass rest half == 3) = decide (lo + (lo + 2 * half) < 2 * (lo + rest)) := by
      rw [Bool.eq_iff_iff, beq_iff_eq, restClass_eq_three, decide_eq_true_eq]; omega
    simp only [roundsUp, takesUpper, htwo, hthree]
  | rz => rfl
  | ru => simp only [roundsUp, takesUpper, hzero, Bool.and_comm]
  | rd => simp only [roundsUp, takesUpper, hzero, Bool.and_comm]
  | sto k =>
    simp only [roundsUp, takesUpper, Nat.add_sub_cancel_left, decide_eq_decide]
    rw [← Nat.succ_le_iff, Nat.le_div_iff_mul_le (by omega), Nat.mul_comm 65536]

/-- A magnitude cut to whole units of a coarser power of two. -/
theorem unitsOf_cut {x : Mag} {q : Int} {n : Nat} (hx : x.more = false) (h : (q - x.e).toNat = n + 1) :
    UnitsOf (x.units q) ((x.units q).1 * 2 ^ (n + 1)) (((x.units q).1 + 1) * 2 ^ (n + 1)) x.m := by
  rw [Mag.units_of_lt hx h]
  have hsplit := Nat.div_add_mod' x.m (2 ^ (n + 1))
  have hrest := Nat.mod_lt x.m (Nat.two_pow_pos (n + 1))
  have hup := fun r neg odd =>
    roundsUp_restClass r neg odd (x.m / 2 ^ (n + 1) * 2 ^ (n + 1)) (rest := x.m % 2 ^ (n + 1)) (Nat.two_pow_pos n)
  rw [← Nat.pow_succ', hsplit, ← Nat.succ_mul] at hup
  dsimp only
  exact ⟨by omega, by rw [Nat.succ_mul]; omega, restClass_eq_zero.trans (by omega), hup⟩

theorem UnitsOf.scale {u : Nat × Nat × Nat} {lo hi v s : Nat} (h : UnitsOf u lo hi v) (hs : 0 < s) :
    UnitsOf u (lo * s) (hi * s) (v * s) :=
  ⟨Nat.mul_le_mul_right s h.below, Nat.mul_lt_mul_of_pos_right h.above hs,
    h.exact_iff.trans (Nat.mul_left_inj hs.ne').symm, fun r neg odd => (h.up r neg odd).trans (takesUpper_scale r neg odd _ _ _ hs).symm⟩

/-- `Mag.units` counts the whole units below a magnitude, both over any common denominator. -/
theorem Mag.units_spec {x : Mag} {q : Int} {a b : Nat} (hx : x.more = false) (h : (a : Int) - b = x.e - q) :
    UnitsOf (x.units q) ((x.units q).1 * 2 ^ b) (((x.units q).1 + 1) * 2 ^ b) (x.m * 2 ^ a) := by
  rcases le_or_gt q x.e with hle | hgt
  · rw [Mag.units_of_le hx hle, show a = (x.e - q).toNat + b by omega, Nat.pow_add, ← Nat.mul_assoc]
    exact unitsOf_whole _ b
  · obtain ⟨n, hn⟩ : ∃ n, (q - x.e).toNat = n + 1 := ⟨(q - x.e).toNat - 1, by omega⟩
    rw [show b = n + 1 + a by omega, Nat.pow_add 2 (n + 1), ← Nat.mul_assoc, ← Nat.mul_assoc]
    exact (unitsOf_cut hx hn).scale (Nat.two_pow_pos a)

/-- The place of a magnitude's leading bit. -/
def Mag.lead (x : Mag) : Int := (bitLength x.m : Int) - 1 + x.e

theorem Mag.lead_eq {x : Mag} (hm : x.m ≠ 0) : x.lead = Nat.log2 x.m + x.e := by
  simp [Mag.lead, bitLength, hm]

/-- A magnitude lies between the powers of two of its leading bit's place. -/
theorem Mag.lt_pow_lead {x : Mag} (hm : x.m ≠ 0) {a b : Nat} (h : x.lead + a < b + x.e) : x.m * 2 ^ a < 2 ^ b := by
  have hlead := Mag.lead_eq hm
  calc x.m * 2 ^ a < 2 ^ (Nat.log2 x.m + 1) * 2 ^ a := Nat.mul_lt_mul_of_pos_right Nat.lt_log2_self (Nat.two_pow_pos _)
    _ ≤ 2 ^ b := by rw [← Nat.pow_add]; exact Nat.pow_le_pow_right (by decide) (by omega)

theorem Mag.pow_lead_le {x : Mag} (hm : x.m ≠ 0) {a b : Nat} (h : b + x.e ≤ x.lead + a) : 2 ^ b ≤ x.m * 2 ^ a := by
  have hlead := Mag.lead_eq hm
  calc 2 ^ b ≤ 2 ^ Nat.log2 x.m * 2 ^ a := by rw [← Nat.pow_add]; exact Nat.pow_le_pow_right (by decide) (by omega)
    _ ≤ x.m * 2 ^ a := Nat.mul_le_mul_right _ (Nat.log2_self_le hm)

theorem Mag.units_lt {x : Mag} (hx : x.more = false) (hm : x.m ≠ 0) {q : Int} {k : Nat} (h : x.lead < q + k) :
    (x.units q).1 < 2 ^ k := by
  have hu := Mag.units_spec hx (q := q) (a := (x.e - q).toNat) (b := (q - x.e).toNat) (by omega)
  refine Nat.lt_of_mul_lt_mul_right (a := 2 ^ (q - x.e).toNat) (hu.below.trans_lt ?_)
  rw [← Nat.pow_add]
  exact Mag.lt_pow_lead hm (by omega)

theorem Mag.le_units {x : Mag} (hx : x.more = false) (hm : x.m ≠ 0) {q : Int} {k : Nat} (h : q + k ≤ x.lead) :
    2 ^ k ≤ (x.units q).1 := by
  have hu := Mag.units_spec hx (q := q) (a := (x.e - q).toNat) (b := (q - x.e).toNat) (by omega)
  refine Nat.le_of_lt_succ (Nat.lt_of_mul_lt_mul_right (a := 2 ^ (q - x.e).toNat) (lt_of_le_of_lt ?_ hu.above))
  rw [← Nat.pow_add]
  exact Mag.pow_lead_le hm (by omega)

/-! ### The parts of `Fmt.round` -/

/-- The exponent of the unit that a magnitude is rounded to. -/
def Fmt.unitExp (f : Fmt) (x : Mag) : Int := if x.lead - f.fbits < f.low then f.low else x.lead - f.fbits

/-- The code of the value just below a magnitude. -/
def Fmt.lowerCode (f : Fmt) (x : Mag) : Nat := (f.unitExp x - f.low).toNat * 2 ^ f.fbits + (x.units (f.unitExp x)).1

def Fmt.raises (f : Fmt) (r : Rounding) (neg : Bool) (x : Mag) : Bool :=
  roundsUp r neg (decide (f.lowerCode x % 2 = 1)) (x.units (f.unitExp x)).2.1 (x.units (f.unitExp x)).2.2

/-- A magnitude just below the smallest normal number is raised to it where exponents have no bound. -/
def Fmt.reachesNormal (f : Fmt) (r : Rounding) (neg : Bool) (x : Mag) : Bool :=
  let v := x.units (x.lead - f.fbits)
  decide (x.lead = f.low + f.fbits - 1) && roundsUp r neg (decide (v.1 % 2 = 1)) v.2.1 v.2.2 && decide (v.1 + 1 = 2 ^ (f.fbits + 1))

/-- Tininess, detected after rounding (03 R52). -/
def Fmt.isTiny (f : Fmt) (r : Rounding) (neg : Bool) (x : Mag) : Bool :=
  decide (x.lead < f.low + f.fbits) && !f.reachesNormal r neg x

/-- The largest finite magnitude is exceeded: by the rounded code, or under `round_sto` by the value (03 R50, R51). -/
def Fmt.isBeyond (f : Fmt) (r : Rounding) (code c : Nat) (inexact : Bool) : Bool :=
  match r with
  | .sto _ => decide (f.top < code) || (decide (f.top = code) && inexact)
  | _ => decide (f.top < c)

/-- The code that a magnitude is rounded to. -/
def Fmt.roundedCode (f : Fmt) (r : Rounding) (neg : Bool) (x : Mag) : Nat :=
  if f.raises r neg x then f.lowerCode x + 1 else f.lowerCode x

def Fmt.isInexact (f : Fmt) (x : Mag) : Bool := decide ((x.units (f.unitExp x)).2.1 ≠ 0)

theorem Fmt.round_eq (f : Fmt) (r : Rounding) (neg : Bool) {x : Mag} (hm : x.m ≠ 0) :
    f.round r neg x = if f.isBeyond r (f.lowerCode x) (f.roundedCode r neg x) (f.isInexact x) then (f.overflow r neg, flagOF ||| flagNX)
      else (f.withSign neg (f.roundedCode r neg x),
        (if f.isInexact x then flagNX else 0) ||| (if f.isInexact x && f.isTiny r neg x then flagUF else 0)) := by
  unfold Fmt.round
  rw [if_neg hm]
  rfl

theorem Fmt.overflow_eq (f : Fmt) (r : Rounding) (neg : Bool) :
    f.overflow r neg = f.withSign neg (if f.hasInf && overflowsUp r neg then f.top + 1 else f.top) := by
  cases r <;> cases neg <;> simp [Fmt.overflow, Fmt.infinity, overflowsUp]

section
variable {x : Mag} (hx : x.more = false) (hm : x.m ≠ 0) (f : Fmt)
include hx hm

/-- The lower code counts the whole units; the code after it one more. -/
theorem Fmt.count_lowerCode :
    f.count (f.lowerCode x) = (x.units (f.unitExp x)).1 * 2 ^ (f.unitExp x - f.low).toNat
    ∧ f.count (f.lowerCode x + 1) = ((x.units (f.unitExp x)).1 + 1) * 2 ^ (f.unitExp x - f.low).toNat := by
  have hlt : (x.units (f.unitExp x)).1 < 2 ^ (f.fbits + 1) := Mag.units_lt hx hm (by unfold Fmt.unitExp; split <;> omega)
  have hk : (f.unitExp x - f.low).toNat = 0 ∨ 2 ^ f.fbits ≤ (x.units (f.unitExp x)).1 := by
    unfold Fmt.unitExp
    split
    · exact .inl (by simp)
    · exact .inr (Mag.le_units hx hm (by omega))
  refine ⟨f.count_binade hlt.le hk, ?_⟩
  rw [Fmt.lowerCode, Nat.add_assoc]
  exact f.count_binade hlt (hk.imp_right Nat.le_succ_of_le)

/-- The two codes around a magnitude, over a denominator in which it is whole. -/
theorem Fmt.unitsOf_lowerCode {a b : Nat} (h : (a : Int) - b = x.e - f.low) :
    UnitsOf (x.units (f.unitExp x)) (f.count (f.lowerCode x) * 2 ^ b) (f.count (f.lowerCode x + 1) * 2 ^ b) (x.m * 2 ^ a) := by
  obtain ⟨hlo, hhi⟩ := f.count_lowerCode hx hm
  rw [hlo, hhi, Nat.mul_assoc, Nat.mul_assoc, ← Nat.pow_add]
  have hq : f.low ≤ f.unitExp x := by unfold Fmt.unitExp; split <;> omega
  exact Mag.units_spec hx (by omega)

/-- A magnitude is raised to the smallest normal number only from the last unit below it. -/
theorem Fmt.reachesNormal_eq (r : Rounding) (neg : Bool) {a b : Nat} (h : (a : Int) - b = x.e - f.low)
    (hlow : x.lead < f.low + f.fbits) :
    f.reachesNormal r neg x
      = takesUpper r neg true ((2 ^ (f.fbits + 1) - 1) * 2 ^ b) (2 ^ (f.fbits + 1) * 2 ^ b) (x.m * 2 ^ (a + 1)) := by
  have hpow : 2 ^ (f.fbits + 1) = 2 * 2 ^ f.fbits := Nat.pow_succ'
  have hpos := Nat.two_pow_pos f.fbits
  have hrefuses : x.m * 2 ^ (a + 1) ≤ (2 ^ (f.fbits + 1) - 1) * 2 ^ b →
      takesUpper r neg true ((2 ^ (f.fbits + 1) - 1) * 2 ^ b) (2 ^ (f.fbits + 1) * 2 ^ b) (x.m * 2 ^ (a + 1)) = false :=
    fun hle => takesUpper_of_le r neg true hle (Nat.mul_lt_mul_of_pos_right (by omega) (Nat.two_pow_pos b))
  unfold Fmt.reachesNormal
  by_cases hlead : x.lead = f.low + f.fbits - 1
  · have hlt : (x.units (x.lead - f.fbits)).1 < 2 ^ (f.fbits + 1) := Mag.units_lt hx hm (by omega)
    have hu := Mag.units_spec hx (q := x.lead - f.fbits) (a := a + 1) (b := b) (by omega)
    generalize x.units (x.lead - f.fbits) = v at *
    by_cases hlast : v.1 + 1 = 2 ^ (f.fbits + 1)
    · have hodd : v.1 % 2 = 1 := by omega
      rw [← hlast, Nat.add_sub_cancel, ← hu.up]
      simp [hlead, hodd]
    · rw [hrefuses (hu.above.le.trans (Nat.mul_le_mul_right _ (by omega)))]
      simp [hlast]
  · have hvalue : x.m * 2 ^ (a + 1) < 2 ^ (f.fbits + b) := Mag.lt_pow_lead hm (by omega)
    rw [Nat.pow_add 2 f.fbits] at hvalue
    rw [hrefuses (hvalue.le.trans (Nat.mul_le_mul_right _ (by omega)))]
    simp [hlead]

/-- The model's tininess is that of the value and of its rounding just below the smallest normal number. -/
theorem Fmt.isTiny_eq (r : Rounding) (neg : Bool) {a b : Nat} (h : (a : Int) - b = x.e - f.low) :
    f.isTiny r neg x = (decide (x.m * 2 ^ a < 2 ^ (f.fbits + b))
      && !(takesUpper r neg true (2 * 2 ^ (f.fbits + b) - 2 ^ b) (2 * 2 ^ (f.fbits + b)) (2 * (x.m * 2 ^ a)))) := by
  have hleast : x.lead < f.low + f.fbits ↔ x.m * 2 ^ a < 2 ^ (f.fbits + b) := by
    refine ⟨fun hl => Mag.lt_pow_lead hm (by omega), fun hv => ?_⟩
    by_contra hl
    exact absurd (Mag.pow_lead_le hm (a := a) (b := f.fbits + b) (by omega)) (by omega)
  have hnext : 2 * 2 ^ (f.fbits + b) = 2 ^ (f.fbits + 1) * 2 ^ b := by rw [Nat.pow_add, Nat.pow_succ', Nat.mul_assoc]
  have htwice : 2 * (x.m * 2 ^ a) = x.m * 2 ^ (a + 1) := by rw [Nat.pow_succ', Nat.mul_left_comm]
  rw [hnext, htwice, show 2 ^ (f.fbits + 1) * 2 ^ b - 2 ^ b = (2 ^ (f.fbits + 1) - 1) * 2 ^ b by rw [Nat.sub_mul, Nat.one_mul]]
  unfold Fmt.isTiny
  by_cases hlow : x.lead < f.low + f.fbits
  · rw [f.reachesNormal_eq hx hm r neg h hlow]
    simp only [hlow, hleast.mp hlow]
  · simp [hlow, hleast.not.mp hlow]

end

/-- A magnitude exceeds the largest finite one by its lower code, or at that code by its rest. -/
theorem Fmt.exceeds_top_iff (f : Fmt) {u : Nat × Nat × Nat} {l v s : Nat} (hs : 0 < s)
    (hu : UnitsOf u (f.count l * s) (f.count (l + 1) * s) v) :
    f.count f.top * s < v ↔ f.top < l ∨ (f.top = l ∧ f.count l * s ≠ v) := by
  have hmono : ∀ {p q : Nat}, p < q → f.count p * s < f.count q * s :=
    fun h => Nat.mul_lt_mul_of_pos_right (f.count_strictMono h) hs
  rcases Nat.lt_trichotomy f.top l with hlt | rfl | hgt
  · simp [hlt, (hmono hlt).trans_le hu.below]
  · simp [lt_iff_le_and_ne, hu.below]
  · have hle : f.count (l + 1) * s ≤ f.count f.top * s := Nat.mul_le_mul_right s (f.count_strictMono.monotone hgt)
    simp only [hgt.not_gt, hgt.ne', false_and, or_false, iff_false]
    exact (hu.above.trans_le hle).not_gt

/-- What lies beyond the largest finite magnitude by its codes lies beyond it in value. -/
theorem Fmt.isBeyond_iff (f : Fmt) (r : Rounding) (neg odd : Bool) {u : Nat × Nat × Nat} {l v s : Nat} (hs : 0 < s)
    (hu : UnitsOf u (f.count l * s) (f.count (l + 1) * s) v) :
    let c := if takesUpper r neg odd (f.count l * s) (f.count (l + 1) * s) v then l + 1 else l
    f.isBeyond r l c (decide (u.2.1 ≠ 0)) = true ↔ f.top < c ∨ (isSto r = true ∧ f.count f.top * s < v) := by
  intro c
  have hc : f.top < c → f.top < l ∨ (f.top = l ∧ f.count l * s ≠ v) := by
    intro h
    by_cases hup : takesUpper r neg odd (f.count l * s) (f.count (l + 1) * s) v = true
    · have hne : f.count l * s ≠ v := fun heq => by
        rw [takesUpper_of_le r neg odd heq.ge (hu.below.trans_lt hu.above)] at hup
        exact Bool.false_ne_true hup
      have : f.top < l + 1 := by rwa [show c = l + 1 from if_pos hup] at h
      simp only [hne, ne_eq, not_false_eq_true, and_true]
      omega
    · exact .inl (by rwa [show c = l from if_neg hup] at h)
  cases r with
  | sto k =>
    rw [f.exceeds_top_iff hs hu]
    simpa [Fmt.isBeyond, isSto, hu.exact_iff] using hc
  | _ => simp [Fmt.isBeyond, isSto]

/-- `Fmt.round` rounds once, over whatever power of two the magnitude is stated in (03 R49 to R52). -/
theorem Fmt.round_roundedTo (f : Fmt) (r : Rounding) (neg : Bool) {x : Mag} (hx : x.more = false) (hm : x.m ≠ 0) {e : Int}
    (he : e ≤ x.e) : RoundedTo f r neg (x.m * 2 ^ (x.e - e).toNat) 1 e (f.round r neg x) := by
  unfold RoundedTo
  simp only [Nat.mul_one, Nat.mul_assoc, ← Nat.pow_add, f.count_normal, f.count_one, Nat.one_mul]
  generalize ha : (x.e - e).toNat + (e - f.low).toNat = a
  generalize hb : (f.low - e).toNat = b
  have hab : (a : Int) - b = x.e - f.low := by omega
  have hu := f.unitsOf_lowerCode hx hm hab
  have hcode : (if takesUpper r neg (decide (f.lowerCode x % 2 = 1)) (f.count (f.lowerCode x) * 2 ^ b)
      (f.count (f.lowerCode x + 1) * 2 ^ b) (x.m * 2 ^ a) = true then f.lowerCode x + 1 else f.lowerCode x)
      = f.roundedCode r neg x := by rw [← hu.up]; rfl
  have hinexact : f.isInexact x = decide (f.count (f.lowerCode x) * 2 ^ b ≠ x.m * 2 ^ a) :=
    decide_eq_decide.mpr (not_congr hu.exact_iff)
  have hbeyond : f.isBeyond r (f.lowerCode x) (f.roundedCode r neg x) (f.isInexact x) = true
      ↔ f.top < f.roundedCode r neg x ∨ (isSto r = true ∧ f.count f.top * 2 ^ b < x.m * 2 ^ a) := by
    rw [← hcode]; exact f.isBeyond_iff r neg _ (Nat.two_pow_pos b) hu
  refine ⟨f.lowerCode x, hu.below, hu.above, ?_⟩
  rw [hcode, ← f.isTiny_eq hx hm r neg hab, f.round_eq r neg hm, f.overflow_eq]
  by_cases hover : f.isBeyond r (f.lowerCode x) (f.roundedCode r neg x) (f.isInexact x) = true
  · rw [if_pos hover, if_pos (hbeyond.mp hover)]
  · rw [if_neg hover, if_neg (hbeyond.not.mp hover), hinexact]
    simp

end Sys2Proof.Machine
end

section
/-! PROOFS. Exact values: what a value amounts to, sums and products of amounts, and their delivery in a format. -/

namespace Sys2Proof.Machine

/-! ### Signs -/

@[simp] theorem signed_zero (n : Bool) : signed n 0 = 0 := by cases n <;> rfl

theorem signed_eq_zero {n : Bool} {m : Nat} : signed n m = 0 ↔ m = 0 := by cases n <;> simp [signed]

@[simp] theorem natAbs_signed (n : Bool) (m : Nat) : (signed n m).natAbs = m := by cases n <;> simp [signed]

theorem signed_lt_zero {n : Bool} {m : Nat} (hm : m ≠ 0) : signed n m < 0 ↔ n = true := by cases n <;> simp [signed]; omega

theorem signed_mul_signed (a b : Bool) (m n : Nat) : signed (a != b) (m * n) = signed a m * signed b n := by
  cases a <;> cases b <;> simp [signed]

theorem signed_mul_natCast (n : Bool) (m k : Nat) : signed n m * (k : Int) = signed n (m * k) := by cases n <;> simp [signed]

theorem signed_natAbs (v : Int) : signed (decide (v < 0)) v.natAbs = v := by
  unfold signed
  by_cases h : v < 0
  · rw [if_pos (decide_eq_true h)]; omega
  · rw [if_neg (by simpa using h)]; omega

theorem signed_add (n : Bool) (m k : Nat) : signed n (m + k) = signed n m + signed n k := by
  cases n with
  | false => exact Int.natCast_add m k
  | true => simp only [signed, if_true, Nat.cast_add, neg_add]

theorem neg_signed (n : Bool) (m : Nat) : -signed n m = signed (!n) m := by cases n <;> simp [signed]

/-! ### Amounts of values -/

/-- What an exact value amounts to in units of 2^u. -/
def Val.amount (u : Int) : Val → Amount
  | .nan _ => .nan
  | .inf n => .infinite n
  | .fin n m e => .number (signed n m * ((2 ^ (e - u).toNat : Nat) : Int))

/-- The value is a whole number of such units. -/
def Val.Above (u : Int) : Val → Prop
  | .fin _ _ e => u ≤ e
  | _ => True

/-- A value that is no number amounts to the same in every unit. -/
theorem Val.amount_eq_of_not_number {u w : Int} {v : Val} (h : ∀ k, v.amount u ≠ .number k) : v.amount w = v.amount u ∧ v.Above w := by
  cases v with
  | fin n m e => exact absurd rfl (h _)
  | _ => exact ⟨rfl, trivial⟩

/-- A finite code's value. -/
theorem Fmt.magnitude_eq_fin (f : Fmt) (neg : Bool) (c : Nat) :
    ∃ m e, f.magnitude neg c = .fin neg m e ∧ f.low ≤ e ∧ m * 2 ^ (e - f.low).toNat = f.count c := by
  unfold Fmt.magnitude Fmt.count
  by_cases h : c / 2 ^ f.fbits = 0
  · have hlt : c < 2 ^ f.fbits := by simpa using h
    exact ⟨c, f.low, by simp [h], le_rfl, by simp [hlt]⟩
  · have hge : ¬ c < 2 ^ f.fbits := by simpa using h
    have hpos := Nat.pos_of_ne_zero h
    generalize c / 2 ^ f.fbits = q at *
    refine ⟨2 ^ f.fbits + c % 2 ^ f.fbits, f.low + q - 1, by simp only [h]; rfl, by omega, ?_⟩
    rw [if_neg hge]
    congr 2
    omega

theorem Fmt.decode_finite (f : Fmt) {x : Nat} (h : x % f.signBit ≤ f.top) :
    ∃ m e, f.decode x = .fin (f.isNegative x) m e ∧ f.low ≤ e
      ∧ signed (f.isNegative x) m * ((2 ^ (e - f.low).toNat : Nat) : Int) = f.number x := by
  obtain ⟨m, e, hm, he, hc⟩ := f.magnitude_eq_fin (f.isNegative x) (x % f.signBit)
  refine ⟨m, e, ?_, he, by rw [signed_mul_natCast, hc]; rfl⟩
  unfold Fmt.decode
  rw [if_pos h]
  exact hm

/-- The value of a code amounts to what the code does. -/
theorem Fmt.decode_amount (f : Fmt) (x : Nat) : (f.decode x).amount f.low = f.amount x ∧ (f.decode x).Above f.low := by
  by_cases h : x % f.signBit ≤ f.top
  · obtain ⟨m, e, hd, he, hn⟩ := f.decode_finite h
    have hfin : ¬ (if f.hasInf then f.top + 1 else f.top) < x % f.signBit := by split <;> omega
    rw [hd]
    exact ⟨by simp only [Val.amount, hn, Fmt.amount, if_neg hfin, if_neg h.not_gt], he⟩
  · unfold Fmt.decode Fmt.amount
    rw [if_neg h]
    cases hi : f.hasInf with
    | false => simp [lt_of_not_ge h, Val.amount, Val.Above]
    | true =>
      by_cases heq : x % f.signBit = f.top + 1
      · simp [heq, Val.amount, Val.Above, Fmt.isNegative]
      · simp [heq, Val.amount, Val.Above]
        omega

/-! ### Products -/

/-- An infinity times a number: a NaN where the number is zero, and the product of the signs where not. -/
theorem Amount.infinite_times (n b : Bool) (m k : Nat) :
    (Amount.infinite n).times (.number (signed b m * ((2 ^ k : Nat) : Int))) = if m = 0 then .nan else .infinite (n != b) := by
  rw [signed_mul_natCast]
  by_cases hm : m = 0
  · simp [hm, Amount.times]
  · have hne : m * 2 ^ k ≠ 0 := by simp [hm]
    simp only [hm, Amount.times, signed_eq_zero, hne, signed_lt_zero hne, Bool.decide_eq_true, if_false]

theorem Amount.times_comm (a b : Amount) : a.times b = b.times a := by
  cases a <;> cases b <;> simp [Amount.times, Int.mul_comm, bne_comm]

theorem mulVal_amount {u w : Int} {x y : Val} (hx : x.Above u) (hy : y.Above w) :
    (mulVal x y).1.amount (u + w) = (x.amount u).times (y.amount w) ∧ (mulVal x y).1.Above (u + w) := by
  cases x with
  | nan p => cases y <;> exact ⟨rfl, trivial⟩
  | inf n =>
    cases y with
    | nan q => exact ⟨rfl, trivial⟩
    | inf b => exact ⟨rfl, trivial⟩
    | fin b m e =>
      simp only [mulVal, Val.amount, Amount.infinite_times]
      by_cases hm : m = 0 <;> simp [hm, Val.Above]
  | fin a m e =>
    cases y with
    | nan q => exact ⟨rfl, trivial⟩
    | inf b =>
      simp only [mulVal, Val.amount, Amount.times_comm (.number _), Amount.infinite_times, bne_comm (a := a)]
      by_cases hm : m = 0 <;> simp [hm, Val.Above]
    | fin b k d =>
      simp only [Val.Above] at hx hy
      refine ⟨?_, Int.add_le_add hx hy⟩
      simp only [mulVal, Val.amount, Amount.times, signed_mul_natCast]
      rw [← signed_mul_signed, show (e + d - (u + w)).toNat = (e - u).toNat + (d - w).toNat by omega, Nat.pow_add, Nat.mul_mul_mul_comm]

/-! ### Sums -/

/-- The sum of two amounts. -/
def Amount.plus : Amount → Amount → Amount
  | .number u, .number v => .number (u + v)
  | .infinite m, .infinite n => if m = n then .infinite m else .nan
  | .infinite m, .number _ => .infinite m
  | .number _, .infinite n => .infinite n
  | _, _ => .nan

theorem Amount.zero_plus (a : Amount) : (Amount.number 0).plus a = a := by cases a <;> simp [Amount.plus]

theorem Amount.plus_zero (a : Amount) : a.plus (.number 0) = a := by cases a <;> simp [Amount.plus]

theorem Amount.plus_assoc (a b c : Amount) : (a.plus b).plus c = a.plus (b.plus c) := by
  cases a <;> cases b <;> cases c <;> simp [Amount.plus, Int.add_assoc] <;> split_ifs <;> simp_all

@[simp] theorem Amount.total_nil : Amount.total [] = .number 0 := rfl

/-- A total is taken term by term. -/
theorem Amount.total_cons (a : Amount) (l : List Amount) : Amount.total (a :: l) = a.plus (Amount.total l) := by
  cases a with
  | nan => simp [Amount.total, Amount.plus]
  | infinite n =>
    cases n <;> simp [Amount.total] <;> split_ifs <;> simp_all [Amount.plus]
  | number v =>
    simp [Amount.total]
    split_ifs <;> simp_all [Amount.plus, Amount.value]

/-- A sum of finite values is finite: exact, and a zero of the sign that rounding gives it. -/
theorem addFin_eq_fin (r : Rounding) {u ea eb : Int} (na nb : Bool) (ma mb : Nat) (ha : u ≤ ea) (hb : u ≤ eb) :
    ∃ n m e, addFin r na ma ea nb mb eb = .fin n m e ∧ (m = 0 → n = zeroSign r na nb ∧ e = 0) ∧ (m ≠ 0 → u ≤ e)
      ∧ signed n m * ((2 ^ (e - u).toNat : Nat) : Int)
        = signed na ma * ((2 ^ (ea - u).toNat : Nat) : Int) + signed nb mb * ((2 ^ (eb - u).toNat : Nat) : Int) := by
  have hexact : (addExact (signed na ma) ea (signed nb mb) eb).1
        * ((2 ^ ((addExact (signed na ma) ea (signed nb mb) eb).2 - u).toNat : Nat) : Int)
      = signed na ma * ((2 ^ (ea - u).toNat : Nat) : Int) + signed nb mb * ((2 ^ (eb - u).toNat : Nat) : Int)
      ∧ u ≤ (addExact (signed na ma) ea (signed nb mb) eb).2 := by
    unfold addExact
    split
    · refine ⟨?_, ha⟩
      rw [show (eb - u).toNat = (eb - ea).toNat + (ea - u).toNat by omega, Nat.pow_add 2 (eb - ea).toNat]
      push_cast; ring
    · refine ⟨?_, hb⟩
      rw [show (ea - u).toNat = (ea - eb).toNat + (eb - u).toNat by omega, Nat.pow_add 2 (ea - eb).toNat]
      push_cast; ring
  unfold addFin
  generalize addExact (signed na ma) ea (signed nb mb) eb = s at *
  obtain ⟨hsum, habove⟩ := hexact
  by_cases h : s.1 = 0
  · exact ⟨_, 0, 0, if_pos h, fun _ => ⟨by simp [zeroSign, beq_eq_decide], rfl⟩, fun h0 => absurd rfl h0, by rw [← hsum, h]; simp⟩
  · exact ⟨_, _, _, if_neg h, fun h0 => absurd (Int.natAbs_eq_zero.mp h0) h, fun _ => habove, by rw [signed_natAbs, hsum]⟩

theorem addVal_amount (r : Rounding) {u : Int} {x y : Val} (hx : x.Above u) (hy : y.Above u) (hu : u ≤ 0) :
    (addVal r x y).1.amount u = (x.amount u).plus (y.amount u) ∧ (addVal r x y).1.Above u := by
  cases x with
  | nan p => cases y <;> exact ⟨rfl, trivial⟩
  | inf n =>
    cases y with
    | inf b => by_cases h : n = b <;> simp [addVal, Val.amount, Val.Above, Amount.plus, h]
    | _ => exact ⟨rfl, trivial⟩
  | fin a m e =>
    cases y with
    | fin b k d =>
      obtain ⟨n, j, c, heq, hzero, hne, hsum⟩ := addFin_eq_fin r a b m k hx hy
      simp only [addVal, heq, Val.amount, Amount.plus, hsum, true_and]
      by_cases hj : j = 0
      · exact (hzero hj).2 ▸ hu
      · exact hne hj
    | _ => exact ⟨rfl, trivial⟩

/-! ### Delivery -/

/-- A finite value delivered in a format is its number delivered, in whatever units that is stated. -/
theorem Fmt.deliver_fin (f : Fmt) (r : Rounding) {z n : Bool} {m : Nat} {e low : Int} (hz : m = 0 → n = z) (he : m ≠ 0 → low ≤ e) :
    Delivers f r z (signed n m * ((2 ^ (e - low).toNat : Nat) : Int)) low (f.deliver r (.fin n m e)) := by
  rw [signed_mul_natCast]
  unfold Delivers
  simp only [signed_eq_zero, natAbs_signed]
  by_cases hm : m = 0
  · rw [if_pos (by simp [hm]), ← hz hm]
    simp [Fmt.deliver, Fmt.round, Fmt.zero, hm]
  · have hne : m * 2 ^ (e - low).toNat ≠ 0 := by simp [hm]
    rw [if_neg hne]
    simp only [signed_lt_zero hne, Bool.decide_eq_true]
    exact f.round_roundedTo r n (x := ⟨m, e, false⟩) rfl hm (he hm)

theorem Fmt.finish_noFlags (f : Fmt) (r : Rounding) (v : Val) : f.finish r (v, 0) = f.deliver r v :=
  Prod.ext rfl (BitVec.or_zero)

/-- A sum of finite values delivered. -/
theorem Fmt.finish_addFin (f : Fmt) (r : Rounding) {low ea eb : Int} (na nb : Bool) (ma mb : Nat) (ha : low ≤ ea) (hb : low ≤ eb) :
    Delivers f r (zeroSign r na nb)
      (signed na ma * ((2 ^ (ea - low).toNat : Nat) : Int) + signed nb mb * ((2 ^ (eb - low).toNat : Nat) : Int)) low
      (f.finish r (addVal r (.fin na ma ea) (.fin nb mb eb))) := by
  obtain ⟨n, m, e, heq, hzero, hne, hsum⟩ := addFin_eq_fin r na nb ma mb ha hb
  rw [addVal, Fmt.finish_noFlags, heq, ← hsum]
  exact f.deliver_fin r (fun h => (hzero h).1) hne

/-- A number that the format holds is delivered as it is. -/
theorem Delivers.exact {f : Fmt} {r : Rounding} {z : Bool} {v : Int} {y : Nat × BitVec 8} {c : Nat} (h : Delivers f r z v f.low y)
    (hc : v.natAbs = f.count c) (ht : c ≤ f.top) : y.1 = f.withSign (if v = 0 then z else decide (v < 0)) c := by
  unfold Delivers at h
  by_cases hv : v = 0
  · obtain rfl : c = 0 := f.count_strictMono.injective (by rw [← hc, hv]; simp)
    rw [if_pos hv] at h ⊢
    rw [h]
  · rw [if_neg hv] at h ⊢
    unfold RoundedTo at h
    simp only [sub_self, Int.toNat_zero, pow_zero, Nat.mul_one, hc] at h
    obtain ⟨l, hle, hlt, h⟩ := h
    obtain rfl : l = c := le_antisymm (f.count_strictMono.le_iff_le.mp hle) (Nat.le_of_lt_succ (f.count_strictMono.lt_iff_lt.mp hlt))
    rw [takesUpper_of_le r _ _ le_rfl hlt] at h
    simp only [Bool.false_eq_true, if_false] at h
    rw [if_neg (by simp [ht.not_gt, f.count_strictMono.lt_iff_lt])] at h
    rw [h]

/-- The code of a finite magnitude with a sign. -/
theorem Fmt.withSign_finite (f : Fmt) (hf : f.top < f.signBit) (n : Bool) {c : Nat} (hc : c ≤ f.top) :
    f.Finite (f.withSign n c) ∧ f.number (f.withSign n c) = signed n (f.count c) := by
  have hlt : c < f.signBit := hc.trans_lt hf
  have hpos : 0 < f.signBit := by omega
  unfold Fmt.Finite Fmt.number Fmt.isNegative Fmt.withSign
  cases n with
  | false => simp [Nat.mod_eq_of_lt hlt, Nat.div_eq_of_lt hlt, hc]; omega
  | true => simp [Nat.mod_eq_of_lt hlt, Nat.add_div_right _ hpos, Nat.div_eq_of_lt hlt, hc]; omega

/-- The difference of two finite codes is delivered (03 R70 asks for an exact one). -/
theorem Fmt.fSub_delivers (f : Fmt) (r : Rounding) {x y : Nat} (hx : f.Finite x) (hy : f.Finite y) :
    Delivers f r (zeroSign r (f.isNegative x) (!f.isNegative y)) (f.number x - f.number y) f.low (fSub f r x y) := by
  obtain ⟨m, e, hdx, he, hnx⟩ := f.decode_finite hx.2
  obtain ⟨k, d, hdy, hd, hny⟩ := f.decode_finite hy.2
  rw [← hnx, ← hny, sub_eq_add_neg, ← neg_mul, neg_signed]
  unfold fSub
  rw [hdx, hdy]
  exact f.finish_addFin r _ _ m k he hd

theorem Fmt.fSub_exact (f : Fmt) (hf : f.top < f.signBit) (r : Rounding) {x y c : Nat} (hx : f.Finite x) (hy : f.Finite y)
    (hc : (f.number x - f.number y).natAbs = f.count c) (ht : c ≤ f.top) :
    f.Finite (fSub f r x y).1 ∧ f.number (fSub f r x y).1 = f.number x - f.number y := by
  rw [(f.fSub_delivers r hx hy).exact hc ht]
  obtain ⟨hfin, hnum⟩ := f.withSign_finite hf
    (if f.number x - f.number y = 0 then zeroSign r (f.isNegative x) (!f.isNegative y) else decide (f.number x - f.number y < 0)) ht
  refine ⟨hfin, hnum.trans ?_⟩
  rw [← hc]
  split
  next h => rw [h]; simp
  next h => exact signed_natAbs _

end Sys2Proof.Machine
end

section
/-! PROOFS. The matrix fold (03 R60, R65 to R72): slices, group sums, and what they fold into an accumulator element. -/

namespace Sys2Proof.Machine

/-! ### Slices (03 R70) -/

/-- An FP32 code cut to its upper 16 bits. -/
def cutCode (x : Nat) : Nat := x / 65536 * 65536

theorem cutCode_finite {x : Nat} (hx : fmtF32.Finite x) : fmtF32.Finite (cutCode x) := by
  obtain ⟨hlt, hle⟩ := hx
  have hbit : fmtF32.signBit = 2 ^ 31 := rfl
  simp only [Fmt.Finite, hbit, cutCode] at *
  omega

/-- Cutting leaves the binade and the sign: what is cut off is below 2^16 units of the binade. -/
theorem cutCode_number (x : Nat) :
    ∃ k r, r < 2 ^ 16 ∧ fmtF32.count (x % fmtF32.signBit) = fmtF32.count (cutCode x % fmtF32.signBit) + r * 2 ^ k
      ∧ fmtF32.number x - fmtF32.number (cutCode x) = signed (fmtF32.isNegative x) (r * 2 ^ k) := by
  have hbit : fmtF32.signBit = 2 ^ 31 := rfl
  obtain ⟨k, u, hc, hu, hk⟩ := fmtF32.exists_binade (x % fmtF32.signBit)
  have hcut : cutCode x % fmtF32.signBit = k * 2 ^ fmtF32.fbits + u / 2 ^ 16 * 2 ^ 16 := by
    simp only [cutCode, hbit] at *
    omega
  have hsign : fmtF32.isNegative (cutCode x) = fmtF32.isNegative x := by
    simp only [Fmt.isNegative, cutCode, hbit, decide_eq_decide]
    omega
  have hsum : fmtF32.count (x % fmtF32.signBit) = fmtF32.count (cutCode x % fmtF32.signBit) + u % 2 ^ 16 * 2 ^ k := by
    rw [hcut, hc, fmtF32.count_binade hu.le hk, fmtF32.count_binade (by omega) (hk.imp_right (by simp only; omega)), ← Nat.add_mul,
      Nat.div_add_mod']
  refine ⟨k, u % 2 ^ 16, Nat.mod_lt _ (by decide), hsum, ?_⟩
  simp only [Fmt.number, hsign, hsum]
  cases fmtF32.isNegative x <;> simp [signed]

/-- What a cut leaves is an FP32 number, and the model's subtraction delivers it. -/
theorem fSub_cutCode {x : Nat} (hx : fmtF32.Finite x) :
    fmtF32.Finite (fSub fmtF32 .rne x (cutCode x)).1
    ∧ fmtF32.number (fSub fmtF32 .rne x (cutCode x)).1 = fmtF32.number x - fmtF32.number (cutCode x) := by
  obtain ⟨k, r, hr, hcount, hdiff⟩ := cutCode_number x
  obtain ⟨c, hc⟩ := fmtF32.exists_count_eq k (r := r) (hr.trans (by decide))
  have htop : c ≤ fmtF32.top := by
    rw [← fmtF32.count_strictMono.le_iff_le, hc]
    exact (by omega : r * 2 ^ k ≤ fmtF32.count (x % fmtF32.signBit)).trans (fmtF32.count_strictMono.monotone hx.2)
  exact fmtF32.fSub_exact (by decide) .rne hx (cutCode_finite hx) (by rw [hdiff, natAbs_signed, hc]) htop

/-! ### Group sums (03 R67, R68) -/

/-- What a product adds to a sum; one that is left out adds nothing. -/
def Enters (u : Int) : Option Val → Amount → Prop
  | none, a => a = .number 0
  | some v, a => v.amount u = a ∧ v.Above u

@[simp] theorem pairsIn_nil_left (b : List (Option Nat)) : pairsIn [] b = [] := rfl

@[simp] theorem pairsIn_nil_right (a : List (Option Nat)) : pairsIn a [] = [] := by cases a <;> rfl

/-- One step of a group's sum. -/
def addProduct (acc : Val) : Option Val → Val
  | none => acc
  | some v => (addVal .rne acc v).1

theorem groupSum_eq (ps : List (Option Val)) : groupSum ps = ps.foldl addProduct (.fin false 0 0) := rfl

theorem addProduct_amount {u : Int} (hu : u ≤ 0) {acc : Val} (hacc : acc.Above u) {p : Option Val} {a : Amount} (hp : Enters u p a) :
    (addProduct acc p).amount u = (acc.amount u).plus a ∧ (addProduct acc p).Above u := by
  cases p with
  | none => rw [hp, Amount.plus_zero]; exact ⟨rfl, hacc⟩
  | some v => rw [← hp.1]; exact addVal_amount .rne hacc hp.2 hu

section
variable {u : Int} (hu : u ≤ 0) {f : Nat → Nat → Option Val} {g : Nat × Nat → Amount} (h : ∀ x y, Enters u (f x y) (g (x, y)))
include hu h

/-- Products taken into a sum one after another: those of the pairs that no bitmap leaves out. -/
theorem foldl_products (a b : List (Option Nat)) {acc : Val} (hacc : acc.Above u) :
    ((products f a b).foldl addProduct acc).amount u = (acc.amount u).plus (Amount.total ((pairsIn a b).map g))
    ∧ ((products f a b).foldl addProduct acc).Above u := by
  induction a generalizing b acc with
  | nil => simp [products, Amount.plus_zero, hacc]
  | cons x a ih =>
    cases b with
    | nil => simp [products, Amount.plus_zero, hacc]
    | cons y b =>
      cases x with
      | none => exact ih b hacc
      | some v =>
        cases y with
        | none => exact ih b hacc
        | some w =>
          obtain ⟨hamount, habove⟩ := addProduct_amount hu hacc (h v w)
          obtain ⟨hrest, hstays⟩ := ih b habove
          refine ⟨hrest.trans ?_, hstays⟩
          rw [hamount, Amount.plus_assoc, ← Amount.total_cons]
          rfl

/-- The exact sum of a group (03 R67). -/
theorem groupSum_products (a b : List (Option Nat)) :
    (groupSum (products f a b)).amount u = Amount.total ((pairsIn a b).map g) ∧ (groupSum (products f a b)).Above u := by
  rw [groupSum_eq]
  obtain ⟨hamount, habove⟩ := foldl_products hu h a b (acc := .fin false 0 0) hu
  refine ⟨hamount.trans ?_, habove⟩
  rw [show (Val.fin false 0 0).amount u = .number 0 by simp [Val.amount], Amount.zero_plus]

end

/-- An element's value amounts to what its type says of the code. -/
theorem elementVal_amount {ty : Nat} (h : ty ≠ 6) (x : Nat) :
    (elementVal ty x).amount (typeAmount ty 0).2 = (typeAmount ty x).1 ∧ (elementVal ty x).Above (typeAmount ty 0).2 := by
  match ty with
  | 0 => exact fmtBf16.decode_amount x
  | 1 => exact fmtF16.decode_amount x
  | 2 => exact fmtE4m3.decode_amount x
  | 3 => exact fmtE5m2.decode_amount x
  | 4 => exact fmtE2m1.decode_amount x
  | 5 => exact ⟨by simp [elementVal, typeAmount, Val.amount, signed_natAbs], le_rfl⟩
  | 6 => exact absurd rfl h
  | n + 7 => exact fmtF32.decode_amount x

theorem typeAmount_unit_nonpos (ty : Nat) : (typeAmount ty 0).2 ≤ 0 := by
  match ty with
  | 0 | 1 | 2 | 3 | 4 | 5 | 6 => decide
  | n + 7 => exact (by decide : fmtF32.low ≤ 0)

theorem notFinite_eq (x : Nat) : notFinite x = !decide (x % 2 ^ 31 ≤ fmtF32.top) := by
  unfold notFinite
  rw [← decide_not, decide_eq_decide]
  simp only
  omega

theorem amount_ne_number_of_notFinite {x : Nat} (h : notFinite x = true) (k : Int) : fmtF32.amount x ≠ .number k := by
  have htop : fmtF32.top < x % fmtF32.signBit := by
    rw [notFinite_eq, Bool.not_eq_true', decide_eq_false_iff_not] at h
    exact lt_of_not_ge h
  unfold Fmt.amount
  rw [if_pos htop]
  split_ifs <;> nofun

theorem Amount.times_ne_number {a b : Amount} (h : (∀ k, a ≠ .number k) ∨ ∀ k, b ≠ .number k) (k : Int) : a.times b ≠ .number k := by
  cases a <;> cases b <;> simp_all [Amount.times] <;> split <;> simp

/-- The term of a pair of FP32 codes in the sum of A's p slice and B's q slice (03 R71, R72). -/
def sliceTerm (p q : Nat) (x : Nat × Nat) : Amount :=
  if decide (x.1 % 2 ^ 31 ≤ fmtF32.top) && decide (x.2 % 2 ^ 31 ≤ fmtF32.top) then
    (fmtBf16.amount (slice x.1 p)).times (fmtBf16.amount (slice x.2 q))
  else if p = 2 ∧ q = 2 then (fmtF32.amount x.1).times (fmtF32.amount x.2)
  else .number 0

theorem sliceProduct_enters (p q x y : Nat) : Enters (2 * fmtBf16.low) (sliceProduct p q x y) (sliceTerm p q (x, y)) := by
  have hfinite : (decide (x % 2 ^ 31 ≤ fmtF32.top) && decide (y % 2 ^ 31 ≤ fmtF32.top)) = !(notFinite x || notFinite y) := by
    simp [notFinite_eq]
  unfold sliceProduct sliceTerm
  rw [hfinite]
  cases hn : notFinite x || notFinite y with
  | false =>
    rw [two_mul]
    obtain ⟨hx, hax⟩ := fmtBf16.decode_amount (slice x p)
    obtain ⟨hy, hay⟩ := fmtBf16.decode_amount (slice y q)
    obtain ⟨hm, ham⟩ := mulVal_amount hax hay
    exact ⟨by rw [hm, hx, hy]; rfl, ham⟩
  | true =>
    by_cases hpq : p = 2 ∧ q = 2
    · simp only [hpq, and_self, if_true, Bool.not_true, Bool.false_eq_true, if_false]
      obtain ⟨hx, hax⟩ := fmtF32.decode_amount x
      obtain ⟨hy, hay⟩ := fmtF32.decode_amount y
      obtain ⟨hm, -⟩ := mulVal_amount hax hay
      rw [hx, hy] at hm
      have hnone : ∀ k, (fmtF32.amount x).times (fmtF32.amount y) ≠ .number k :=
        Amount.times_ne_number ((Bool.or_eq_true _ _ ▸ hn).imp amount_ne_number_of_notFinite amount_ne_number_of_notFinite)
      obtain ⟨hsame, habove⟩ := Val.amount_eq_of_not_number (w := 2 * fmtBf16.low) (hm.symm ▸ hnone)
      exact ⟨hsame.trans hm, habove⟩
    · simp only [hpq, if_true, Bool.not_true, Bool.false_eq_true, if_false]
      rfl

theorem elementProduct_enters {ta tb : Nat} (ha : ta ≠ 6) (hb : tb ≠ 6) (x y : Nat) :
    Enters ((typeAmount ta 0).2 + (typeAmount tb 0).2) (some (mulVal (elementVal ta x) (elementVal tb y)).1)
      ((typeAmount ta x).1.times (typeAmount tb y).1) := by
  obtain ⟨hx, hax⟩ := elementVal_amount ha x
  obtain ⟨hy, hay⟩ := elementVal_amount hb y
  obtain ⟨hm, ham⟩ := mulVal_amount hax hay
  exact ⟨by rw [hm, hx, hy], ham⟩

/-! ### A sum taken into an accumulator (03 R66) -/

theorem Fmt.withSign_lt (f : Fmt) (n : Bool) {c : Nat} (h : c < f.signBit) : f.withSign n c < 2 * f.signBit := by
  unfold Fmt.withSign; split <;> omega

/-- A rounded magnitude is a code of the format. -/
theorem RoundedTo.lt {f : Fmt} {r : Rounding} {n : Bool} {m q : Nat} {e : Int} {y : Nat × BitVec 8} (h : RoundedTo f r n m q e y)
    (hf : f.top + 1 < f.signBit) : y.1 < 2 * f.signBit := by
  obtain ⟨l, -, -, h⟩ := h
  dsimp only at h
  have hcode : ∃ c ≤ f.top + 1, y.1 = f.withSign n c := by
    split_ifs at h <;> exact ⟨_, by omega, congrArg Prod.fst h⟩
  obtain ⟨c, hc, hy⟩ := hcode
  rw [hy]
  exact f.withSign_lt n (by omega)

theorem deliver_f32_lt (r : Rounding) (v : Val) : (fmtF32.deliver r v).1 < 2 ^ 32 := by
  cases v with
  | nan p => exact (by decide : fmtF32.quiet < 2 ^ 32)
  | inf n => exact fmtF32.withSign_lt n (by decide)
  | fin n m e =>
    by_cases hm : m = 0
    · subst hm; exact fmtF32.withSign_lt n (by decide)
    · exact (fmtF32.round_roundedTo r n (x := ⟨m, e, false⟩) rfl hm le_rfl).lt (by decide)

theorem foldGroup_lt {acc : Nat} (hacc : acc < 2 ^ 32) (scale : Option Int) (t : Val) : foldGroup acc scale t < 2 ^ 32 := by
  have hquiet : fmtF32.quiet < 2 ^ 32 := by decide
  have hfinish : ∀ x, (fmtF32.finish .rne x).1 < 2 ^ 32 := fun x => deliver_f32_lt .rne x.1
  unfold foldGroup
  cases scale with
  | none => exact hquiet
  | some e =>
    cases t with
    | nan p => exact hquiet
    | inf n => exact hfinish _
    | fin n m x => dsimp only; split; exacts [hacc, hfinish _]

/-- An infinity's value belongs to its code alone. -/
theorem Fmt.eq_infinity_of_decode {f : Fmt} {x : Nat} {n : Bool} (h : f.decode x = .inf n) (hx : x < 2 * f.signBit) :
    x = f.infinity n := by
  unfold Fmt.decode Fmt.magnitude at h
  dsimp only at h
  split_ifs at h with hfin hzero hinf
  rw [Bool.and_eq_true, decide_eq_true_eq] at hinf
  obtain ⟨hhas, hcode⟩ := hinf
  obtain rfl := Val.inf.inj h
  have hpos : 0 < f.signBit := by omega
  have hdiv := Nat.div_add_mod' x f.signBit
  have hq : x / f.signBit < 2 := Nat.div_lt_of_lt_mul (by omega : x < f.signBit * 2)
  unfold Fmt.infinity Fmt.withSign
  rw [if_pos hhas, ← hcode]
  generalize x / f.signBit = q at *
  obtain rfl | rfl : q = 0 ∨ q = 1 := by omega
  · simp; omega
  · simp; omega

/-- An exact zero sum with a number that is not zero is of opposite signs, and so +0 (03 R49). -/
theorem zeroSign_rne_of_sum {a b : Bool} {m n i j : Nat} (hn : n ≠ 0)
    (h : signed a m * ((2 ^ i : Nat) : Int) + signed b n * ((2 ^ j : Nat) : Int) = 0) : zeroSign .rne a b = false := by
  have hpos : 0 < n * 2 ^ j := Nat.mul_pos (Nat.pos_of_ne_zero hn) (Nat.two_pow_pos j)
  rw [signed_mul_natCast, signed_mul_natCast] at h
  rcases eq_or_ne a b with rfl | hab
  · rw [← signed_add, signed_eq_zero] at h
    omega
  · simp [zeroSign, hab]

/-- The sign given for a zero matters only where the number is zero. -/
theorem Delivers.of_zeroSign {f : Fmt} {r : Rounding} {z z' : Bool} {v e : Int} {y : Nat × BitVec 8} (h : Delivers f r z v e y)
    (hz : v = 0 → z = z') : Delivers f r z' v e y := by
  unfold Delivers at *
  split
  next hv => rw [if_pos hv, hz hv] at h; exact h
  next hv => rw [if_neg hv] at h; exact h

theorem two_pow_toNat_mul {a b c : Int} (hab : a ≤ b) (hbc : b ≤ c) :
    ((2 ^ (c - b).toNat : Nat) : Int) * 2 ^ (b - a).toNat = ((2 ^ (c - a).toNat : Nat) : Int) := by
  rw [show (c - a).toNat = (c - b).toNat + (b - a).toNat by omega, Nat.pow_add]
  push_cast
  rfl

/-- A group's sum is taken in as 03 R66 says. -/
theorem foldGroup_takesIn {acc : Nat} (hacc : acc < 2 ^ 32) (scale : Option Int) {unit : Int} {t : Val} (ht : t.Above unit) :
    TakesIn scale unit acc (t.amount unit) (foldGroup acc scale t) := by
  cases scale with
  | none => cases t <;> rfl
  | some e =>
    have hinf : ∀ {m}, fmtF32.decode acc = .inf m → fmtF32.infinity m = acc :=
      fun h => (Fmt.eq_infinity_of_decode h (by exact hacc)).symm
    obtain ⟨hdecode, habove⟩ := fmtF32.decode_amount acc
    cases t with
    | nan p => rfl
    | inf n =>
      simp only [TakesIn, foldGroup, Val.amount, ← hdecode]
      cases hd : fmtF32.decode acc with
      | nan p => rfl
      | inf m =>
        by_cases h : m = n
        · simp [h, addVal, Fmt.finish, Fmt.deliver, ← hinf hd]
        · simp [h, addVal, Fmt.finish, Fmt.deliver]
      | fin s m x => rfl
    | fin n k x =>
      simp only [TakesIn, foldGroup, Val.amount, ← hdecode]
      by_cases hk : k = 0
      · simp [hk]
      · have hne : signed n k * ((2 ^ (x - unit).toNat : Nat) : Int) ≠ 0 := by
          rw [signed_mul_natCast, Ne, signed_eq_zero]; simp [hk]
        rw [if_neg hne, if_neg hk]
        cases hd : fmtF32.decode acc with
        | nan p => rfl
        | inf m => exact hinf hd
        | fin s m d =>
          rw [hd] at habove
          refine ⟨(fmtF32.finish .rne (addVal .rne (.fin s m d) (.fin n k (x + e)))).2, ?_⟩
          have hfirst : min fmtF32.low (unit + e) ≤ d := (min_le_left _ _).trans habove
          have hsecond : min fmtF32.low (unit + e) ≤ x + e := (min_le_right _ _).trans (Int.add_le_add_right ht e)
          have hsum := fmtF32.finish_addFin .rne s n m k hfirst hsecond
          rw [show x - unit = x + e - (unit + e) by omega, mul_assoc, mul_assoc, two_pow_toNat_mul (min_le_left _ _) habove,
            two_pow_toNat_mul (min_le_right _ _) (Int.add_le_add_right ht e)]
          exact hsum.of_zeroSign (zeroSign_rne_of_sum hk)

/-! ### Folds -/

theorem FoldsTo.append {scale : Option Int} {unit : Int} {l l' : List Amount} {acc c z : Nat} (h : FoldsTo scale unit acc l c)
    (h' : FoldsTo scale unit c l' z) : FoldsTo scale unit acc (l ++ l') z := by
  induction l generalizing acc with
  | nil => exact (show c = acc from h) ▸ h'
  | cons t ts ih =>
    obtain ⟨d, hd, hrest⟩ := h
    exact ⟨d, hd, ih hrest⟩

/-- One group's products folded: their exact sum is taken in once. -/
theorem foldGroup_products {unit : Int} (hu : unit ≤ 0) {f : Nat → Nat → Option Val} {g : Nat × Nat → Amount}
    (h : ∀ x y, Enters unit (f x y) (g (x, y))) {acc : Nat} (hacc : acc < 2 ^ 32) (scale : Option Int) (a b : List (Option Nat)) :
    TakesIn scale unit acc (Amount.total ((pairsIn a b).map g)) (foldGroup acc scale (groupSum (products f a b))) := by
  obtain ⟨hamount, habove⟩ := groupSum_products hu h a b
  rw [← hamount]
  exact foldGroup_takesIn hacc scale habove

/-- The sums of a group's slice terms, in the order of the terms. -/
def slicesMeant (terms : List (Nat × Nat)) (a b : List (Option Nat)) : List Amount :=
  terms.map fun pq => Amount.total ((pairsIn a b).map (sliceTerm pq.1 pq.2))

/-- A group's slice terms folded one after another (03 R71). -/
theorem foldsTo_terms (scale : Option Int) (a b : List (Option Nat)) (terms : List (Nat × Nat)) {acc : Nat} (hacc : acc < 2 ^ 32) :
    FoldsTo scale (2 * fmtBf16.low) acc (slicesMeant terms a b)
      (terms.foldl (fun c pq => foldGroup c scale (groupSum (products (sliceProduct pq.1 pq.2) a b))) acc) := by
  induction terms generalizing acc with
  | nil => rfl
  | cons pq rest ih =>
    exact ⟨_, foldGroup_products (by decide) (sliceProduct_enters pq.1 pq.2) hacc scale a b, ih (foldGroup_lt hacc scale _)⟩

theorem foldPart_lt (fmt : Nat) (scale : Option Int) {acc : Nat} (hacc : acc < 2 ^ 32) (a b : List (Option Nat)) :
    foldPart fmt scale acc a b < 2 ^ 32 := by
  unfold foldPart
  dsimp only
  split
  · exact foldGroup_lt hacc scale _
  · generalize sliceTerms (fmt / 4096 % 4) = terms
    induction terms generalizing acc with
    | nil => exact hacc
    | cons pq rest ih => exact ih (foldGroup_lt hacc scale _)

/-- A part in a format without slices folds the exact sum of its products. -/
theorem foldPart_plain {fmt : Nat} (hsyn : fmt / 4096 % 4 = 0) (ha : fmt % 16 ≠ 6) (hb : fmt / 16 % 16 ≠ 6) (scale : Option Int) {acc : Nat}
    (hacc : acc < 2 ^ 32) (a b : List (Option Nat)) :
    FoldsTo scale ((typeAmount (fmt % 16) 0).2 + (typeAmount (fmt / 16 % 16) 0).2) acc
      [Amount.total ((pairsIn a b).map fun x => (typeAmount (fmt % 16) x.1).1.times (typeAmount (fmt / 16 % 16) x.2).1)]
      (foldPart fmt scale acc a b) := by
  unfold foldPart
  simp only [hsyn, if_true]
  exact ⟨_, foldGroup_products (Int.add_nonpos (typeAmount_unit_nonpos _) (typeAmount_unit_nonpos _)) (elementProduct_enters ha hb) hacc
    scale a b, rfl⟩

/-- A part of FP32X6 or FP32X9 folds its slice terms. -/
theorem foldPart_sliced {fmt : Nat} (hsyn : fmt / 4096 % 4 ≠ 0) (scale : Option Int) {acc : Nat} (hacc : acc < 2 ^ 32)
    (a b : List (Option Nat)) :
    FoldsTo scale (2 * fmtBf16.low) acc (slicesMeant (sliceTerms (fmt / 4096 % 4)) a b) (foldPart fmt scale acc a b) := by
  unfold foldPart
  simp only [hsyn, if_false]
  exact foldsTo_terms scale a b _ hacc

/-- An element of a format of two groups: all that the first folds is taken in before the second. -/
theorem foldElement_twoGroups {fmt acc : Nat} {a b : List (Option Nat) × Option Nat} {unit : Int}
    {sums : List (Option Nat) → List (Option Nat) → List Amount} (hacc : acc < 2 ^ 32) (h6 : fmt % 16 ≠ 6) (hsize : groupSize fmt = 16)
    (hpart : ∀ {c}, c < 2 ^ 32 → ∀ p q, FoldsTo (some 0) unit c (sums p q) (foldPart fmt (some 0) c p q)) :
    FoldsTo (some 0) unit acc (sums (a.1.take 16) (b.1.take 16) ++ sums (a.1.drop 16) (b.1.drop 16)) (foldElement fmt acc a b) := by
  unfold foldElement
  rw [if_neg h6, if_pos hsize]
  exact (hpart hacc _ _).append (hpart (foldPart_lt fmt (some 0) hacc _ _) _ _)

theorem foldElement_oneGroup {fmt acc : Nat} {a b : List (Option Nat) × Option Nat} (h6 : fmt % 16 ≠ 6) (hsize : groupSize fmt ≠ 16) :
    foldElement fmt acc a b = foldPart fmt (pairScale a.2 b.2) acc a.1 b.1 := by
  unfold foldElement
  rw [if_neg h6, if_neg hsize]

theorem pairScale_eq (a b : Option Nat) :
    pairScale a b = (scaleMeant a).bind fun x => (scaleMeant b).map fun y => x + y := by
  have hmeant : ∀ c, scaleExp c = scaleMeant c := by intro c; cases c <;> rfl
  unfold pairScale
  rw [hmeant, hmeant]
  cases scaleMeant a <;> cases scaleMeant b <;> rfl

/-! ### INT8 (03 R69) -/

theorem sextInt_eq_toInt (u : Nat) : sextInt 8 u = (BitVec.ofNat 8 u).toInt := by
  simp only [sextInt, BitVec.toInt_eq_toNat_cond, BitVec.toNat_ofNat]
  split <;> split <;> omega

/-- An integer product; one that is left out adds nothing. -/
def intProduct : Option Nat → Option Nat → Int
  | some u, some v => sextInt 8 u * sextInt 8 v
  | _, _ => 0

theorem foldInt_def (acc : Nat) (a b : List (Option Nat)) :
    foldInt acc a b = wrapInt 32 ((acc : Int) + (List.zipWith intProduct a b).foldl (· + ·) 0) := rfl

theorem foldl_intProduct (a b : List (Option Nat)) (t : Int) :
    (List.zipWith intProduct a b).foldl (· + ·) t
      = t + ((pairsIn a b).map fun x => (BitVec.ofNat 8 x.1).toInt * (BitVec.ofNat 8 x.2).toInt).sum := by
  induction a generalizing b t with
  | nil => simp
  | cons x a ih =>
    cases b with
    | nil => simp
    | cons y b =>
      rw [List.zipWith_cons_cons, List.foldl_cons, ih]
      cases x with
      | none => rw [intProduct, Int.add_zero]; rfl; nofun
      | some u =>
        cases y with
        | none => rw [intProduct, Int.add_zero]; rfl; nofun
        | some v => rw [intProduct, sextInt_eq_toInt, sextInt_eq_toInt, Int.add_assoc]; rfl

theorem wrapInt_add (acc : Nat) (t : Int) : wrapInt 32 ((acc : Int) + t) = (BitVec.ofNat 32 acc + BitVec.ofInt 32 t).toNat := by
  simp only [wrapInt, BitVec.toNat_add, BitVec.toNat_ofNat, BitVec.toNat_ofInt]
  omega

/-- An INT8 fold adds the exact sum modulo 2^32. -/
theorem foldInt_eq (acc : Nat) (a b : List (Option Nat)) :
    foldInt acc a b = (BitVec.ofNat 32 acc + BitVec.ofInt 32
      ((pairsIn a b).map fun x => (BitVec.ofNat 8 x.1).toInt * (BitVec.ofNat 8 x.2).toInt).sum).toNat := by
  rw [foldInt_def, foldl_intProduct, Int.zero_add, wrapInt_add]

/-! ### TSH8 (03 R60, R61) -/

/-- A half of a code, in sixty-fourths. -/
theorem tshHalf_eq (s : Nat) {e : Nat} (he : e < 8) :
    tshHalf s e = if e = 7 then 0 else if s = 1 then -2 ^ (6 - e) else 2 ^ (6 - e) := by
  have hpow : ∀ e < 8, e ≠ 7 → ((64 / 2 ^ e : Nat) : Int) = 2 ^ (6 - e) := by decide
  unfold tshHalf
  split_ifs with h7 hs
  · rfl
  · rw [hpow e he h7]
  · rw [hpow e he h7]

end Sys2Proof.Machine

open Sys2Proof Sys2Proof.Machine

/-- Settles O38: `foldPart_plain` and `foldPart_sliced` say what a group folds, `fSub_cutCode` what its slices are. -/
theorem matrixFolds : Obligations.MatrixFolds := by
  refine ⟨fun fmt acc a b hacc _ _ => ?_, fun x hx => ?_, fun c hc => ?_⟩
  · have hsliced : ∀ {syn}, fmt / 4096 % 4 = syn → syn ≠ 0 → fmt % 16 = 7 → FoldsTo (some 0) (2 * fmtBf16.low) acc
        (slicesMeant (sliceTerms syn) (a.1.take 16) (b.1.take 16) ++ slicesMeant (sliceTerms syn) (a.1.drop 16) (b.1.drop 16))
        (foldElement fmt acc a b) := by
      rintro _ rfl hsyn h7
      exact foldElement_twoGroups hacc (by omega) (by simp [groupSize, h7]) fun hc => foldPart_sliced hsyn (some 0) hc
    refine ⟨fun h6 _ => ?_, fun hsyn htypes => ?_, fun hsyn htypes => ?_,
      fun h7 _ => ⟨fun hsyn => hsliced hsyn (by decide) h7, fun hsyn => hsliced hsyn (by decide) h7⟩⟩
    · unfold foldElement
      rw [if_pos h6]
      exact foldInt_eq acc a.1 b.1
    · exact foldElement_twoGroups hacc (by omega) (if_pos (by omega))
        fun hc => foldPart_plain hsyn (by omega) (by omega) (some 0) hc
    · rw [foldElement_oneGroup (by omega) (by unfold groupSize; dsimp only; split <;> omega), pairScale_eq]
      exact foldPart_plain hsyn (by omega) (by omega) _ hacc _ _
  · obtain ⟨hy, hny⟩ := fSub_cutCode hx
    obtain ⟨hw, hnw⟩ := fSub_cutCode hy
    exact ⟨rfl, _, _, hy, hw, hny, rfl, hnw, rfl⟩
  · have hbit : c / 128 % 2 = c / 128 := Nat.mod_eq_of_lt (by omega)
    refine ⟨?_, ?_⟩
    · unfold tshValue
      rw [hbit, tshHalf_eq _ (by omega), tshHalf_eq _ (by omega)]
    · unfold tshCanonical
      rw [hbit]
      simp
end

section
/-! PROOFS. The step that issues a run: the word at the program counter of the only candidate, or the run of the group formed (02
R35, 06 R121, R135). -/

namespace Sys2Proof.Machine

open Sys2Proof (Byte Word DWord Instr)

/-! ### The run at a word that stands by itself -/

/-- Bit 31 of a word chains it to the next (06 R121). -/
theorem fldn_chain {w : Word} (h : w.getLsbD 31 = false) : fldn w 31 1 = 0 := by
  rw [BitVec.getLsbD, Nat.testBit_eq_decide_div_mod_eq, decide_eq_false_iff_not] at h
  unfold fldn
  omega

/-- An unchained word is a run by itself. -/
theorem chainedWords_unchained {l : List Byte} {p i n : Nat} (h : fldn (packetWord l p i) 31 1 = 0) :
    chainedWords l p (n + 1) i = [(i, packetWord l p i)] := by
  rw [chainedWords, h]
  rfl

section
variable {s : State} {t : Thread} {l : List Byte} {w : Word} {i : Instr} {fall : Nat × Nat} {mask : DWord}
  (h : StandsAt s t l w i fall mask)
include h

theorem StandsAt.chainBad : chainBad [] (instrInfo i).pipe (instrInfo i).ends t.pos w = false := by
  have hroom : ∀ p : Pipe, ¬ pipeRoom p ≤ 0 := by intro p; cases p <;> decide
  unfold Machine.chainBad
  rw [fldn_chain h.single]
  rcases h.place with hends | hpos
  · simp [hends, hroom]
  · simp [hpos, hroom]

theorem StandsAt.checkWord : checkWord s t t.packet [] t.pos w = .ok i := by
  have hallowed : ((instrInfo i).privileged && !(launchOf s t.launch).kernel) = false := by
    cases hp : (instrInfo i).privileged with
    | false => rfl
    | true => rw [h.allowed hp]; rfl
  unfold Machine.checkWord
  simp only [h.decoded, h.chainBad, hallowed, h.operands, h.literal, Bool.not_true, Bool.false_eq_true, if_false]

theorem StandsAt.runFrom : runFrom s t l [(t.pos, i)] = .run [(t.pos, i)] fall mask := by
  have hpos := h.pos
  unfold Machine.runFrom
  dsimp only [List.getLast?_singleton]
  by_cases hlt : t.pos < 2
  · obtain ⟨rfl, rfl⟩ := h.inner hlt
    rw [if_pos hlt]
  · have htwo : t.pos = 2 := by omega
    rw [if_neg hlt]
    split
    · rename_i hends
      obtain ⟨rfl, hmask⟩ := h.record htwo hends
      rw [hmask]
    · rename_i hends
      obtain ⟨rfl, rfl⟩ := h.after htwo hends
      rfl

/-- The run at the program counter is the one word that stands there. -/
theorem StandsAt.runView : runView s t = .run [(t.pos, i)] fall mask := by
  have hpos := h.pos
  obtain ⟨n, hn⟩ : ∃ n, 3 - t.pos = n + 1 := ⟨2 - t.pos, by omega⟩
  have hword : w = packetWord l t.packet t.pos := h.word
  unfold Machine.runView
  simp only [h.fetch, h.code, Bool.false_eq_true, if_false, hn,
    chainedWords_unchained (hword ▸ fldn_chain h.single), ← hword, checkWords, h.checkWord, h.runFrom]

end

/-! ### The group of the only candidate -/

theorem minBy_singleton {α : Type} (f : α → Nat) (x : α) : minBy f [x] = some x := rfl

theorem sameGang_self (t : Thread) : sameGang t t = true := by simp [sameGang]

theorem samePc_self (t : Thread) : samePc t t = true := by simp [samePc]

theorem pcLeader_singleton (t : Thread) : pcLeader [t] = some t := by
  unfold pcLeader
  by_cases h : 256 ≤ t.passed <;> simp [h, minBy]

/-- The only candidate, its run at hand, is the issue group. -/
theorem formGroup_only {s : State} {c : Nat} {t : Thread} {ws : List (Nat × Instr)} {fall : Nat × Nat} {mask : DWord}
    (hc : candidates s c = [t]) (hv : runView s t = .run ws fall mask) (hl : hitsLoads t ws = false) :
    formGroup s c = some ([t], .run ws fall mask, [t]) := by
  have hready : isReady t (.run ws fall mask) = true := by simp [isReady, viewWords, hl]
  have hthreads : readyThreads s c = [(t, .run ws fall mask)] := by simp [readyThreads, hc, hv, hready]
  have hgang : chosenGang s [(t, .run ws fall mask)] = [(t, .run ws fall mask)] := by
    simp [chosenGang, minBy_singleton, sameGang_self, sortBy, insertBy]
  unfold formGroup
  simp [hthreads, hgang, pcLeader_singleton, samePc_self, takeGroup]

/-! ### The step -/

theorem admits_running {s : State} (h : Running s) (i : Instr) : admits s i = true := by
  obtain ⟨hfrozen, hboot⟩ := h
  simp [admits, hfrozen, hboot]

/-- An event that may act stands first on the agenda: the step is that event. -/
theorem step_event {s : State} {i : Instr} {rest : List Instr} (hi : s.issue = none) (ha : s.agenda = i :: rest)
    (hadmits : admits s i = true) : step s = finishEvent (exec i { s with agenda := rest }) := by
  unfold step
  split
  · rename_i hissue
    cases hi.symm.trans hissue
  · split
    · rename_i hagenda
      cases ha.symm.trans hagenda
      rw [if_pos hadmits]
    · rename_i hagenda
      cases ha.symm.trans hagenda

/-- The step whose event is the issue of a core runs the run of the group that the core forms. -/
theorem step_runIssue {s : State} {c : Nat} {rest : List Instr} {g ready : List Thread} {ws : List (Nat × Instr)}
    {fall : Nat × Nat} {mask : DWord} (ha : s.agenda = .runIssue c :: rest) (hr : Running s)
    (hm : MayIssue { s with agenda := rest } c)
    (hf : formGroup (asking { s with agenda := rest } c) c = some (g, .run ws fall mask, ready)) :
    let s1 := asking { s with agenda := rest } c
    let iss := issueOf s1 c g ready ws fall mask
    step s = runIssued iss { s1 with issue := some iss } := by
  intro s1 iss
  rw [step_event (s := s) hm.issue ha (admits_running hr _),
    show exec (.runIssue c) { s with agenda := rest } = _ from execRunIssue_run hm hf]
  rfl

/-- A run of one word is the word's instruction, and then the books of the run. -/
theorem runIssued_one {iss : Issue} {s : State} {pos : Nat} {i : Instr} (h : iss.words = [(pos, i)]) :
    runIssued iss s = match exec i { s with issue := some { iss with pos := pos } } with
      | .next s2 => .next (finishRun iss s2)
      | o => o := by
  unfold runIssued
  split
  · rename_i hw
    cases h.symm.trans hw
    rfl
  · rename_i hw
    exact absurd h (hw _ _)

/-- A run of more words is its words one after another. -/
theorem runIssued_more {iss : Issue} {s : State} {v w : Nat × Instr} {ws : List (Nat × Instr)} (h : iss.words = v :: w :: ws) :
    runIssued iss s = .next (finishRun iss (conduct (runBody iss) 33 s)) := by
  unfold runIssued
  split
  · rename_i hw
    cases h.symm.trans hw
  · rfl

end Sys2Proof.Machine
end

section
/-! PROOFS. A run of two words of class A/B (02 R35, 06 R123): its lanes in the middle of the run, word by word, and its end. -/

namespace Sys2Proof.Machine

open Sys2Proof (Byte Word DWord Instr)

/-! ### Words of two sources -/

/-- A word of class A/B with two 32-bit sources, which every lane reads for itself: its issue facts and its lanes' effect. -/
structure TwoSources (i : Instr) (g : BitVec 2) (d a b : BitVec 7) (w : BitVec 1) (f : Rounding → Word → Word → Word × BitVec 8) :
    Prop where
  pipe : (instrInfo i).pipe = .ab
  operands : (instrInfo i).operands = [.s32 a, .s32 b] ++ unlessLatch w (.d32 d)
  queried : queriedStream i = []
  peeked : peekedStream i = []
  lanes : ∀ s, exec i s = laneWord g (laneF2 d a b w f) s

/-- A word that sets no flags is one whose flags are 0. -/
theorem lane2_eq_laneF2 (d a b : BitVec 7) (w : BitVec 1) (f : Word → Word → Word) :
    lane2 d a b w f = laneF2 d a b w fun _ x y => (f x y, 0) := by
  funext s iss t
  unfold lane2 laneF2
  cases src32 s iss t a with
  | error e => rfl
  | ok x =>
    dsimp only
    cases src32 s iss x.2 b with
    | error e => rfl
    | ok y =>
      dsimp only [resultF]
      rw [addFlags_zero]

theorem twoSources_of_pairWords {m : PairWord} (hm : m ∈ pairWords) (c : BitVec 1) (g : BitVec 2) (d a b : BitVec 7)
    (w : BitVec 1) : TwoSources (m.1 c g d a b w) g d a b w m.2 := by
  have integer : ∀ f s, laneWord g (lane2 d a b w f) s = laneWord g (laneF2 d a b w fun _ x y => (f x y, 0)) s := by
    intro f s; rw [lane2_eq_laneF2]
  unfold pairWords at hm
  simp only [List.mem_cons, List.not_mem_nil, or_false] at hm
  rcases hm with rfl | rfl | rfl | rfl | rfl | rfl | rfl | rfl | rfl | rfl | rfl | rfl
  iterate 7 exact ⟨rfl, rfl, rfl, rfl, integer _⟩
  iterate 5 exact ⟨rfl, rfl, rfl, rfl, fun _ => rfl⟩

/-! ### A lane in the middle of its run -/

/-- The lane `t` in the middle of its run: what the run reads is kept, and of its results it has those that `u` has. -/
def midRun (t u : Thread) : Thread :=
  { snapshot t with regs := u.regs, la := u.la, lb := u.lb, lm := u.lm, ls := u.ls, flagsSet := u.flagsSet }

/-- `u` is the lane `t` with results of its run. -/
def HasResults (t u : Thread) : Prop := u = { midRun t u with before := t.before }

theorem HasResults.refl (t : Thread) : HasResults t t := rfl

theorem setLatch_frame (iss : Issue) (p : Pipe) (v : Word) (t : Thread) :
    setLatch iss p v t = { t with la := (setLatch iss p v t).la, lb := (setLatch iss p v t).lb,
                                  lm := (setLatch iss p v t).lm, ls := (setLatch iss p v t).ls } := by
  unfold setLatch; split <;> rfl

theorem put32_register {iss : Issue} {d : BitVec 7} (h : isStream d = false) (v : Word) (t : Thread) :
    put32 iss d v t = { t with regs := regSet t.regs d.toNat v } := by
  unfold put32; rw [h]; rfl

theorem resultF_hasResults {iss : Issue} {p : Pipe} {d : BitVec 7} {w : BitVec 1} (h : isStream d = false) (r : Word × BitVec 8)
    (t : Thread) : HasResults t (resultF iss p d w r t) := by
  unfold resultF result32 HasResults
  rw [put32_register h, setLatch_frame]
  split <;> rfl

theorem HasResults.trans {t u v : Thread} (h : HasResults t u) (k : HasResults u v) : HasResults t v := by
  unfold HasResults at h k ⊢
  rw [k, h]
  rfl

theorem setLatch_midRun (iss : Issue) (p : Pipe) (v : Word) (t u : Thread) :
    setLatch iss p v (midRun t u) = midRun t (setLatch iss p v u) := by
  unfold setLatch; split <;> rfl

theorem put32_midRun {iss : Issue} {d : BitVec 7} (h : isStream d = false) (v : Word) (t u : Thread) :
    put32 iss d v (midRun t u) = midRun t (put32 iss d v u) := by
  rw [put32_register h, put32_register h]; rfl

/-- A result made in the middle of the run is one more result. -/
theorem resultF_midRun {iss : Issue} {p : Pipe} {d : BitVec 7} {w : BitVec 1} (h : isStream d = false) (r : Word × BitVec 8)
    (t u : Thread) : resultF iss p d w r (midRun t u) = midRun t (resultF iss p d w r u) := by
  unfold resultF result32
  by_cases hw : w = 1
  · rw [if_pos hw, if_pos hw, setLatch_midRun]; rfl
  · rw [if_neg hw, if_neg hw, put32_midRun h, setLatch_midRun]; rfl

/-- The end of its run clears what the lane has kept of before. -/
theorem landed_midRun {iss : Issue} {t u : Thread} (h : HasResults t u) : landed iss (midRun t u) = landed iss u := by
  conv_rhs => rw [h]
  rfl

section
variable {t u : Thread} (hb : t.before = none)
include hb

theorem guardOn_midRun (g : BitVec 2) : guardOn g (midRun t u) = guardOn g t := by
  unfold guardOn oldPred
  rw [hb]; rfl

theorem laneRounding_midRun : laneRounding (midRun t u) = laneRounding t := by
  unfold laneRounding oldFpsm
  rw [hb]; rfl

theorem oldRegs_midRun : oldRegs (midRun t u) = oldRegs t := by
  unfold oldRegs
  rw [hb]; rfl

theorem latchVal_midRun (i : Nat) : latchVal (midRun t u) i = latchVal t i := by
  unfold latchVal oldLatch
  rw [hb]; rfl

/-- In the middle of its run a lane reads what it held before it. -/
theorem plain32_midRun (s : State) (iss : Issue) (c : BitVec 7) : plain32 s iss (midRun t u) c = plain32 s iss t c := by
  unfold plain32
  dsimp only
  rw [oldRegs_midRun hb, latchVal_midRun hb]
  rfl

end

/-! ### Before the words of the run -/

/-- Operands that are no streams are not read ahead. -/
theorem aheadFor_noStream {s : State} {iss : Issue} {t0 t : Thread} {i : Instr} {g : BitVec 2} {d a b : BitVec 7} {w : BitVec 1}
    {f : Rounding → Word → Word → Word × BitVec 8} (h : TwoSources i g d a b w f) (ha : isStream a = false)
    (hb : isStream b = false) : aheadFor s iss t0 t i = t := by
  have hoperands : (instrInfo i).operands.flatMap operandStream = [] := by
    rw [h.operands]
    by_cases hw : w = 1 <;> simp [unlessLatch, operandStream, ha, hb, hw]
  unfold aheadFor
  rw [hoperands, h.queried, h.peeked]
  dsimp only [List.foldl_nil]
  split <;> rfl

/-- The issue in progress at one word of its run. -/
def issueAt (iss : Issue) (p : Nat) (second : Bool) : Issue := { iss with pos := p, second := second }

/-- The run `iss` of the lanes of `s` where its words have got to position `p`, the word there being the second of its class or
not: each lane `t` of the group has the results that `r t` has. -/
def midway (s : State) (iss : Issue) (p : Nat) (second : Bool) (r : Thread → Thread) : State :=
  { s with issue := some (issueAt iss p second),
           threads := s.threads.map fun t => if inGroup iss t then midRun t (r t) else t }

theorem pairLane_hasResults {f : Rounding → Word → Word → Word × BitVec 8} {s : State} {iss : Issue} {g : BitVec 2}
    {d a b : BitVec 7} {w : BitVec 1} (hd : isStream d = false) (t u : Thread) : HasResults u (pairLane f s iss g d a b w t u) := by
  unfold pairLane
  split
  · exact resultF_hasResults hd _ _
  · exact .refl _

theorem wordRun_chained {s : State} {iss : Issue} {body : State → State} (hi : s.issue = some iss) (hc : iss.chained = true) :
    wordRun body s = body s := by
  unfold wordRun
  rw [hi]
  dsimp only
  rw [if_pos hc]

theorem laneStep_outside {iss : Issue} {g : BitVec 2} {f : Thread → Except LaneEnd Thread} {t : Thread}
    (h : inGroup iss t = false) : laneStep iss g f t = t := by
  unfold laneStep isLive isActive
  rw [h]; rfl

theorem dropLoadWrites_outside {iss : Issue} {i : Instr} {t : Thread} (h : inGroup iss t = false) : dropLoadWrites iss i t = t := by
  unfold dropLoadWrites isLive isActive
  rw [h]; rfl

theorem dropLoadWrites_noLoads {iss : Issue} {i : Instr} {t : Thread} (h : t.loads = []) : dropLoadWrites iss i t = t := by
  cases t
  cases h
  unfold dropLoadWrites
  split <;> rfl

section
variable {s : State} {iss : Issue} (h : Chained s iss)
include h

/-! ### One word of the run -/

/-- No lane of the run has load data on its way for a word to drop. -/
theorem Chained.dropLoadWrites_midway {p q : Nat} {j k : Bool} {r : Thread → Thread} {i : Instr} :
    (midway s iss p j r).threads.map (dropLoadWrites (issueAt iss q k) i) = (midway s iss p j r).threads := by
  rw [List.map_congr_left (g := id), List.map_id]
  intro x hx
  obtain ⟨t, ht, rfl⟩ := List.mem_map.mp hx
  by_cases hin : inGroup iss t = true
  · obtain ⟨-, -, hloads⟩ := h.idle t ht hin
    rw [if_pos hin]
    exact dropLoadWrites_noLoads (t := midRun t (r t)) hloads
  · rw [if_neg hin]
    exact dropLoadWrites_outside (Bool.eq_false_iff.mpr hin)

section
variable {g : BitVec 2} {d a b : BitVec 7} {w : BitVec 1} {f : Rounding → Word → Word → Word × BitVec 8}
  (ha : isStream a = false) (hb : isStream b = false) (hd : isStream d = false)
include ha hb hd

/-- A lane in the middle of its run and guarded on takes one more result; its operands are those of before the run. -/
theorem Chained.laneStep_midRun {q : Nat} {k : Bool} {r : Thread → Thread} {t x : Thread} (ht : t ∈ s.threads)
    (hin : inGroup iss t = true) :
    laneStep (issueAt iss q k) g (laneF2 d a b w f (midway s iss q k r) (issueAt iss q k)) (midRun t x)
      = midRun t (pairLane f s (issueAt iss q k) g d a b w t x) := by
  obtain ⟨⟨-, -, hend, -⟩, hbefore, -⟩ := h.idle t ht hin
  have hlive : isLive (issueAt iss q k) g (midRun t x) = guardOn g t := by
    have hin' : inGroup (issueAt iss q k) (midRun t x) = true := hin
    have hend' : (midRun t x).laneEnd = none := hend
    unfold isLive isActive
    rw [hin', hend', guardOn_midRun hbefore, Bool.true_and, Option.isNone_none, Bool.and_true]
  have hplain : ∀ c, plain32 (midway s iss q k r) (issueAt iss q k) (midRun t x) c = plain32 s (issueAt iss q k) t c :=
    fun c => plain32_midRun hbefore _ _ c
  unfold laneStep pairLane
  rw [hlive]
  by_cases hg : guardOn g t = true
  · rw [if_pos hg, if_pos hg, ← resultF_midRun hd, laneF2, src32_plain ha]
    dsimp only
    rw [src32_plain hb, hplain, hplain, laneRounding_midRun hbefore]
  · rw [if_neg hg, if_neg hg]

/-- A word of the run adds its result to those of every lane. -/
theorem Chained.runWord_midway {p q : Nat} {j k : Bool} {r : Thread → Thread} {i : Instr} (hi : TwoSources i g d a b w f)
    (hk : isSecond iss.words q = k) :
    runWord iss (midway s iss p j r) (q, i)
      = midway s iss q k fun t => pairLane f s (issueAt iss q k) g d a b w t (r t) := by
  have haway : ∀ P : Nat → Bool, iss.away.filter P = iss.away := by intro P; rw [h.away]; rfl
  have hexec : exec i (midway s iss q k r)
      = .next (midway s iss q k fun t => pairLane f s (issueAt iss q k) g d a b w t (r t)) := by
    rw [hi.lanes, laneWord, wordRun_chained (iss := issueAt iss q k) rfl h.chained]
    unfold mapLanes
    dsimp only [midway]
    rw [List.map_map]
    congr 2
    refine List.map_congr_left fun t ht => ?_
    rw [Function.comp]
    by_cases hin : inGroup iss t = true
    · rw [if_pos hin, if_pos hin]
      exact h.laneStep_midRun ha hb hd ht hin
    · rw [if_neg hin, if_neg hin]
      exact laneStep_outside (Bool.eq_false_iff.mpr hin)
  unfold runWord
  rw [hk, show (midway s iss p j r).issue.getD iss = issueAt iss p j from rfl]
  dsimp only [issueAt]
  rw [haway, show ({ iss with pos := q, second := k } : Issue) = issueAt iss q k from rfl, h.dropLoadWrites_midway,
    show ({ midway s iss p j r with issue := some (issueAt iss q k) } : State) = midway s iss q k r from rfl, hexec]
  rfl

end

/-- Before its words act every lane of the run keeps what they read. -/
theorem Chained.prepared (hw : ∀ x ∈ iss.words, ∀ t0 t, aheadFor s iss t0 t x.2 = t) :
    { s with threads := s.threads.map (prepareLane s (s.issue.getD iss)) } = midway s iss iss.pos iss.second id := by
  have hahead : ∀ (ws : List (Nat × Instr)) (t0 t : Thread), (∀ x ∈ ws, ∀ t0 t, aheadFor s iss t0 t x.2 = t) →
      ws.foldl (fun x w => aheadFor s iss t0 x w.2) t = t := by
    intro ws t0
    induction ws with
    | nil => exact fun _ _ => rfl
    | cons x xs ih =>
      intro t hx
      rw [List.foldl_cons, hx x List.mem_cons_self, ih t fun y hy => hx y (List.mem_cons_of_mem _ hy)]
  unfold midway
  rw [h.issue]
  congr 1
  refine List.map_congr_left fun t _ => ?_
  rw [Option.getD_some, prepareLane, hahead _ _ _ hw]
  rfl

/-! ### The end of the run -/

/-- A lane of the run in its middle goes on, with nothing to be done at the run's end but to land. -/
theorem Chained.midRun_still {t x : Thread} (ht : t ∈ s.threads) (hin : inGroup iss t = true) :
    Still (midRun t x) ∧ GoesOn (midRun t x) := by
  obtain ⟨hidle, -, -⟩ := h.idle t ht hin
  obtain ⟨hreads, hacts, hend, hnext, hposted, hask, hposting, -, -⟩ := hidle
  exact ⟨⟨hreads, hacts, hask, hposting⟩, ⟨hend, hacts, .inl hnext, hask, hposting, hposted⟩⟩

theorem Chained.midway_still {q : Nat} {k : Bool} {r : Thread → Thread} {x : Thread} (hx : x ∈ (midway s iss q k r).threads)
    (hin : inGroup (issueAt iss q k) x = true) : Still x ∧ GoesOn x := by
  obtain ⟨t, ht, rfl⟩ := List.mem_map.mp hx
  by_cases hg : inGroup iss t = true
  · rw [if_pos hg]; exact h.midRun_still ht hg
  · rw [if_neg hg] at hin; exact absurd hin hg

/-- A run whose words leave its lanes with their results ends with the lanes landed. -/
theorem Chained.conduct_midway {body : State → State} {q : Nat} {k : Bool} {r : Thread → Thread} {n : Nat}
    (hb : body s = midway s iss q k r) (hr : ∀ t, HasResults t (r t)) :
    conduct body (n + 1) s = closed iss { s with threads := s.threads.map fun t => if inGroup iss t then r t else t } := by
  have hissue : (midway s iss q k r).issue = some (issueAt iss q k) := rfl
  have heffects : runEffects iss (midway s iss q k r) = midway s iss q k r :=
    runEffects_still (iss := issueAt iss q k) hissue h.away fun _ hx hin => (h.midway_still hx hin).1
  have hended : endedLanes (midway s iss q k r) iss = [] := by
    unfold endedLanes
    rw [List.filter_eq_nil_iff]
    intro x hx hin
    rw [Bool.and_eq_true] at hin
    obtain ⟨hend, -⟩ := (h.midway_still (q := q) (k := k) hx hin.1).2
    rw [hend] at hin
    exact absurd hin.2 (by simp)
  have hrows : ((midway s iss q k r).threads.map rowKey).Nodup := by
    unfold midway
    dsimp only
    rw [map_rowKey _ fun t _ => by split <;> rfl]
    exact h.rows
  rw [conduct, h.issue]
  dsimp only
  rw [hb, heffects, hended, List.filter_nil, if_pos rfl,
    settle_closed hissue h.after h.away h.lanes hrows fun _ hx hin => (h.midway_still hx hin).2]
  unfold closed midway
  dsimp only
  congr 1
  rw [List.map_map, List.map_map]
  refine List.map_congr_left fun t ht => ?_
  rw [Function.comp, Function.comp]
  by_cases hin : inGroup iss t = true
  · have hresults := hr t
    have hin1 : inGroup iss (r t) = true := by rw [hresults]; exact hin
    have hin2 : inGroup (issueAt iss q k) (midRun t (r t)) = true := hin
    obtain ⟨⟨hreads, -⟩, -⟩ := h.idle t ht hin
    have hreads' : (r t).readS = [] := by rw [hresults]; exact hreads
    rw [if_pos hin, if_pos hin, if_pos hin1, if_pos hin2, advanceRead, hreads', List.foldl_nil, ← landed_midRun hresults]
    rfl
  · have hin2 : ¬ inGroup (issueAt iss q k) t = true := hin
    rw [if_neg hin, if_neg hin, if_neg hin, if_neg hin2]

end

/-! ### Two words -/

theorem isSecond_first {p q : Nat} {i j : Instr} (hpq : p < q) : isSecond [(p, i), (q, j)] p = false := by
  simp [isSecond, show ¬ q < p by omega]

theorem isSecond_later {p q : Nat} {i j : Instr} (hpq : p < q) (hi : (instrInfo i).pipe = .ab) :
    isSecond [(p, i), (q, j)] q = true := by
  simp [isSecond, hpq, hi]

/-- Both words of the run read what each lane held before it, and the results of the second come after those of the first. -/
theorem conduct_pair {s : State} {iss : Issue} (h : Chained s iss) {p q : Nat} {i j : Instr} {g1 g2 : BitVec 2}
    {d1 a1 b1 d2 a2 b2 : BitVec 7} {w1 w2 : BitVec 1} {f1 f2 : Rounding → Word → Word → Word × BitVec 8}
    (hi : TwoSources i g1 d1 a1 b1 w1 f1) (hj : TwoSources j g2 d2 a2 b2 w2 f2) (hpq : p < q)
    (hw : iss.words = [(p, i), (q, j)]) (hn : ∀ k ∈ [d1, a1, b1, d2, a2, b2], isStream k = false) (n : Nat) :
    conduct (runBody iss) (n + 1) s = closed iss { s with
      threads := s.threads.map fun t =>
        if inGroup iss t then
          pairLane f2 s (issueAt iss q true) g2 d2 a2 b2 w2 t (pairLane f1 s (issueAt iss p false) g1 d1 a1 b1 w1 t t)
        else t } := by
  obtain ⟨hd1, ha1, hb1, hd2, ha2, hb2⟩ : isStream d1 = false ∧ isStream a1 = false ∧ isStream b1 = false ∧ isStream d2 = false
      ∧ isStream a2 = false ∧ isStream b2 = false := by simpa using hn
  have hahead : ∀ x ∈ iss.words, ∀ t0 t, aheadFor s iss t0 t x.2 = t := by
    rw [hw]
    intro x hx t0 t
    rcases List.mem_pair.mp hx with rfl | rfl
    · exact aheadFor_noStream hi ha1 hb1
    · exact aheadFor_noStream hj ha2 hb2
  refine h.conduct_midway (q := q) (k := true) ?_ fun t => (pairLane_hasResults hd1 t t).trans (pairLane_hasResults hd2 t _)
  have hfirst := isSecond_first (i := i) (j := j) hpq
  have hlater := isSecond_later (j := j) hpq hi.pipe
  rw [← hw] at hfirst hlater
  unfold runBody
  rw [h.prepared hahead, hw, List.foldl_cons, List.foldl_cons, List.foldl_nil,
    h.runWord_midway ha1 hb1 hd1 hi hfirst, h.runWord_midway ha2 hb2 hd2 hj hlater]
  rfl

end Sys2Proof.Machine

open Sys2Proof Sys2Proof.Machine

/-- Settles O42: `step_runIssue` says which run the step makes, `StandsAt.runView` and `formGroup_only` that it is the word that
stands at the program counter, and `conduct_pair` what a run of two words does. -/
theorem stepRunsDecoded : Obligations.StepRunsDecoded := by
  intro s c rest s0 s1 after ha hr hm
  refine ⟨fun t l w i fall mask hc hstands hloads => ?_, fun g ready pos i fall mask hf => ?_,
    fun g ready v w ws fall mask hf => ?_, ?_⟩
  · have hf := formGroup_only hc hstands.runView hloads
    exact (step_runIssue ha hr hm hf).trans (runIssued_one rfl)
  · exact (step_runIssue ha hr hm hf).trans (runIssued_one rfl)
  · exact (step_runIssue ha hr hm hf).trans (runIssued_more rfl)
  · intro u iss p q m n c1 c2 g1 g2 d1 a1 b1 d2 a2 b2 w1 w2 hmem hmem' hpq hchained hwords hstreams first later lane
    have hnone : ∀ k ∈ [d1, a1, b1, d2, a2, b2], isStream k = false := fun k hk => by
      simpa using List.all_eq_true.mp hstreams k hk
    exact conduct_pair hchained (twoSources_of_pairWords hmem c1 g1 d1 a1 b1 w1)
      (twoSources_of_pairWords hmem' c2 g2 d2 a2 b2 w2) hpq hwords hnone 32
end

section
/-! PROOFS. Integer results (07 R143 to R150): the arithmetic by which the model forms them, as operations on words. -/

namespace Sys2Proof.Machine

open Sys2Proof (Byte Word DWord Instr)

set_option Elab.async false

/-! ### Products (R143) -/

/-- The upper half of a 64-bit number is its floor quotient by 2^32. -/
theorem extractLsb'_upper (p : DWord) : BitVec.extractLsb' 32 32 p = BitVec.ofInt 32 (p.toInt / 2 ^ 32) := by
  apply BitVec.eq_of_toNat_eq
  rw [BitVec.extractLsb'_toNat, BitVec.toNat_ofInt, BitVec.toInt_eq_toNat_cond, Nat.shiftRight_eq_div_pow]
  have := p.isLt
  split <;> omega

theorem mulHighS_eq (x y : Word) : mulHighS x y = BitVec.extractLsb' 32 32 (x.signExtend 64 * y.signExtend 64) := by
  have hx := x.le_toInt
  have hx' := x.toInt_lt
  have hy := y.le_toInt
  have hy' := y.toInt_lt
  have hproduct : |x.toInt * y.toInt| ≤ 2 ^ 31 * 2 ^ 31 := by
    rw [abs_mul]
    exact mul_le_mul (abs_le.mpr ⟨by omega, by omega⟩) (abs_le.mpr ⟨by omega, by omega⟩) (abs_nonneg _) (by norm_num)
  rw [abs_le] at hproduct
  rw [extractLsb'_upper, BitVec.toInt_mul, BitVec.toInt_signExtend_of_le (by decide), BitVec.toInt_signExtend_of_le (by decide),
    Int.bmod_eq_of_le (by omega) (by omega)]
  rfl

theorem mulHighN_eq (x y : Word) : mulHighN x y = BitVec.extractLsb' 32 32 (x.setWidth 64 * y.setWidth 64) := by
  have hproduct : x.toNat * y.toNat < 2 ^ 32 * 2 ^ 32 := Nat.mul_lt_mul'' x.isLt y.isLt
  apply BitVec.eq_of_toNat_eq
  rw [BitVec.extractLsb'_toNat, BitVec.toNat_mul, BitVec.toNat_setWidth_of_le (by decide), BitVec.toNat_setWidth_of_le (by decide),
    Nat.mod_eq_of_lt (Nat.lt_of_lt_of_eq hproduct (by norm_num)), Nat.shiftRight_eq_div_pow]
  exact BitVec.toNat_ofNat _ _

/-! ### Counts and reversal of bits (R143) -/

theorem popFrom_eq_countP (x : Word) (n : Nat) : popFrom x n = (List.range n).countP fun k => x.getLsbD k := by
  induction n with
  | zero => rfl
  | succ n ih => rw [popFrom, ih, List.range_succ, List.countP_append, List.countP_singleton]

/-- Above bit `n` there are 31 - n bits, which the library's count takes to be zero. -/
theorem clzAuxRec_eq_clzFrom (x : Word) (n : Nat) (hn : n < 32) :
    x.clzAuxRec n = BitVec.ofNat 32 (31 - n + clzFrom x (n + 1)) := by
  induction n with
  | zero => rw [BitVec.clzAuxRec_zero, clzFrom]; split <;> rfl
  | succ n ih =>
    rw [BitVec.clzAuxRec_succ, clzFrom]
    split
    · rfl
    · rw [ih (by omega)]
      congr 1
      omega

theorem countLeading_eq (x : Word) : countLeading x = x.clz := by
  rw [BitVec.clz, clzAuxRec_eq_clzFrom x (32 - 1) (by decide), Nat.sub_self, Nat.zero_add]
  rfl

theorem reverse_getLsbD (x : Word) {i : Nat} (hi : i < 32) : x.reverse.getLsbD i = x.getLsbD (31 - i) := by
  rw [BitVec.getLsbD_reverse, BitVec.getMsbD, decide_eq_true hi, Bool.true_and]

theorem ctzFrom_eq_clzFrom_reverse (x : Word) (n : Nat) (hn : n ≤ 32) : ctzFrom x n = clzFrom x.reverse n := by
  induction n with
  | zero => rfl
  | succ n ih => rw [ctzFrom, clzFrom, ih (by omega), reverse_getLsbD x (by omega)]

theorem countTrailing_eq (x : Word) : countTrailing x = x.reverse.clz := by
  rw [← countLeading_eq, countLeading, ← ctzFrom_eq_clzFrom_reverse x 32 (Nat.le_refl 32)]
  rfl

/-- The lowest `n` bits of a word are the highest of its reversal. -/
theorem revFrom_eq (x : Word) (n : Nat) (hn : n ≤ 32) : revFrom x n = x.reverse.toNat / 2 ^ (32 - n) * 2 ^ (32 - n) := by
  induction n with
  | zero => rw [revFrom, Nat.div_eq_of_lt x.reverse.isLt, Nat.zero_mul]
  | succ n ih =>
    have hbit : x.reverse.toNat / 2 ^ (31 - n) % 2 = (x.getLsbD n).toNat := by
      rw [← Nat.toNat_testBit, ← BitVec.getLsbD, reverse_getLsbD x (by omega), show 31 - (31 - n) = n by omega]
    have hpow : 2 ^ (32 - n) = 2 ^ (31 - n) * 2 := by rw [← Nat.pow_succ, show (31 - n).succ = 32 - n by omega]
    rw [revFrom, ih (by omega), show 32 - (n + 1) = 31 - n by omega, hpow, ← Nat.div_div_eq_div_mul]
    generalize x.reverse.toNat / 2 ^ (31 - n) = q at hbit
    have hterm : (if x.getLsbD n then 2 ^ (31 - n) else 0) = q % 2 * 2 ^ (31 - n) := by
      rw [hbit]; cases x.getLsbD n <;> simp
    calc (if x.getLsbD n then 2 ^ (31 - n) else 0) + q / 2 * (2 ^ (31 - n) * 2)
        = (2 * (q / 2) + q % 2) * 2 ^ (31 - n) := by rw [hterm]; ring
      _ = q * 2 ^ (31 - n) := by rw [Nat.div_add_mod]

theorem bitReverse_eq (x : Word) : bitReverse x = x.reverse := by
  rw [bitReverse, revFrom_eq x 32 (Nat.le_refl 32), Nat.sub_self, Nat.pow_zero, Nat.div_one, Nat.mul_one, BitVec.ofNat_toNat,
    BitVec.setWidth_eq]

/-! ### Shifts (R145) -/

theorem shiftLeft_eq (x y : Word) : shiftLeft x y = x <<< y.toNat := by
  unfold shiftLeft
  split
  · apply BitVec.eq_of_toNat_eq
    rw [BitVec.toNat_ofNat, BitVec.toNat_shiftLeft, Nat.shiftLeft_eq]
  · rw [BitVec.shiftLeft_eq_zero (by omega)]; rfl

theorem shiftRight_eq (x y : Word) : shiftRight x y = x >>> y.toNat := by
  unfold shiftRight
  split
  · apply BitVec.eq_of_toNat_eq
    rw [BitVec.toNat_ofNat, BitVec.toNat_ushiftRight, Nat.shiftRight_eq_div_pow]
    exact Nat.mod_eq_of_lt (Nat.lt_of_le_of_lt (Nat.div_le_self _ _) x.isLt)
  · rw [BitVec.ushiftRight_eq_zero (by omega)]; rfl

theorem shiftArith_eq (x y : Word) : shiftArith x y = x.sshiftRight y.toNat := by
  unfold shiftArith
  split
  · rw [BitVec.sshiftRight_eq, Int.shiftRight_eq_div_pow]
  · have hmsb : x.getLsbD 31 = x.msb := rfl
    rw [hmsb]
    cases h : x.msb with
    | false => rw [BitVec.sshiftRight_eq_of_msb_false h, BitVec.ushiftRight_eq_zero (by omega)]; rfl
    | true => rw [BitVec.sshiftRight_eq_of_msb_true h, BitVec.ushiftRight_eq_zero (by omega)]; rfl

theorem rotateLeft_eq (x y : Word) : rotateLeft x y = x.rotateLeft (y.toNat % 32) := by
  have hleft : BitVec.ofNat 32 (x.toNat * 2 ^ (y.toNat % 32)) = x <<< (y.toNat % 32) := by
    apply BitVec.eq_of_toNat_eq
    rw [BitVec.toNat_ofNat, BitVec.toNat_shiftLeft, Nat.shiftLeft_eq]
  have hright : BitVec.ofNat 32 (x.toNat / 2 ^ (32 - y.toNat % 32)) = x >>> (32 - y.toNat % 32) := by
    apply BitVec.eq_of_toNat_eq
    rw [BitVec.toNat_ofNat, BitVec.toNat_ushiftRight, Nat.shiftRight_eq_div_pow]
    exact Nat.mod_eq_of_lt (Nat.lt_of_le_of_lt (Nat.div_le_self _ _) x.isLt)
  rw [BitVec.rotateLeft_def, Nat.mod_mod, ← hleft, ← hright]
  rfl

theorem toNat_amount (n : BitVec 5) : (n.setWidth 32 : Word).toNat = n.toNat := BitVec.toNat_setWidth_of_le (by decide)

/-! ### Extremes and the absolute value (R143) -/

theorem minS_eq (x y : Word) : minS x y = if y.slt x then y else x := by
  unfold minS; simp only [BitVec.slt_eq_decide, decide_eq_true_eq, ← Int.not_lt, ite_not]

theorem minN_eq (x y : Word) : minN x y = if y.ult x then y else x := by
  unfold minN; simp only [BitVec.ult_eq_decide, decide_eq_true_eq, ← Nat.not_lt, ite_not]

theorem maxS_eq (x y : Word) : maxS x y = if x.slt y then y else x := by
  unfold maxS; simp only [BitVec.slt_eq_decide, decide_eq_true_eq, ← Int.not_lt, ite_not]

theorem maxN_eq (x y : Word) : maxN x y = if x.ult y then y else x := by
  unfold maxN; simp only [BitVec.ult_eq_decide, decide_eq_true_eq, ← Nat.not_lt, ite_not]

theorem absS_eq (x : Word) : absS x = if x.msb then 0 - x else x := by
  unfold absS; rw [BitVec.msb_eq_toInt]; simp

/-! ### Saturation (R146) -/

theorem clampS_eq {v : Int} {z : Word} (hz : BitVec.ofInt 32 v = z) :
    clampS v = if 2 ^ 31 ≤ v then 0x7FFFFFFF else if v < -2 ^ 31 then 0x80000000 else z := by
  unfold clampS
  by_cases hhigh : 2 ^ 31 ≤ v
  · rw [if_pos hhigh, if_neg (by omega), if_pos (by omega)]; rfl
  · by_cases hlow : v < -2 ^ 31
    · rw [if_neg hhigh, if_pos hlow, if_pos hlow]; rfl
    · rw [if_neg hhigh, if_neg hlow, if_neg hlow, if_neg (by omega), hz]

theorem clampS_add (x y : Word) : clampS (x.toInt + y.toInt)
    = if 2 ^ 31 ≤ x.toInt + y.toInt then 0x7FFFFFFF else if x.toInt + y.toInt < -2 ^ 31 then 0x80000000 else x + y :=
  clampS_eq (by rw [BitVec.ofInt_add, BitVec.ofInt_toInt, BitVec.ofInt_toInt])

theorem clampS_sub (x y : Word) : clampS (x.toInt - y.toInt)
    = if 2 ^ 31 ≤ x.toInt - y.toInt then 0x7FFFFFFF else if x.toInt - y.toInt < -2 ^ 31 then 0x80000000 else x - y :=
  clampS_eq (by rw [Int.sub_eq_add_neg, BitVec.ofInt_add, BitVec.ofInt_neg, BitVec.ofInt_toInt, BitVec.ofInt_toInt,
    BitVec.sub_eq_add_neg])

theorem clampN_add (x y : Word) : clampN ((x.toNat : Int) + y.toNat)
    = if 2 ^ 32 ≤ x.toNat + y.toNat then 0xFFFFFFFF else x + y := by
  unfold clampN
  rw [if_neg (by omega)]
  by_cases h : 2 ^ 32 ≤ x.toNat + y.toNat
  · rw [if_pos h, if_pos (by omega)]; rfl
  · rw [if_neg h, if_neg (by omega), ← Int.natCast_add, BitVec.ofInt_natCast, BitVec.ofNat_add, BitVec.ofNat_toNat,
      BitVec.ofNat_toNat, BitVec.setWidth_eq, BitVec.setWidth_eq]

theorem clampN_sub (x y : Word) : clampN ((x.toNat : Int) - y.toNat) = if x.ult y then 0 else x - y := by
  unfold clampN
  have := x.isLt
  rw [BitVec.ult_eq_decide]
  by_cases h : x.toNat < y.toNat
  · rw [if_pos (by omega), decide_eq_true h]; rfl
  · rw [if_neg (by omega), if_neg (by omega), decide_eq_false h]
    apply BitVec.eq_of_toNat_eq
    rw [BitVec.toNat_ofInt, if_neg Bool.false_ne_true, BitVec.toNat_sub_of_le (BitVec.le_def.mpr (by omega))]
    omega

/-! ### Division (R147) -/

theorem divS_eq (x y : Word) : divS x y = if y = 0 then 0xFFFFFFFF else x.sdiv y := by
  unfold divS
  by_cases hy : y = 0
  · rw [if_pos hy, if_pos hy]
  · rw [if_neg hy, if_neg hy]
    split
    · rename_i h
      rw [h.1, h.2]; rfl
    · apply BitVec.eq_of_toInt_eq
      rw [BitVec.toInt_ofInt, BitVec.toInt_sdiv]

theorem remS_eq (x y : Word) : remS x y = if y = 0 then x else x.srem y := by
  unfold remS
  by_cases hy : y = 0
  · rw [if_pos hy, if_pos hy]
  · rw [if_neg hy, if_neg hy]
    split
    · rename_i h
      rw [h.1, h.2]; rfl
    · have htmod : x.toInt - x.toInt.tdiv y.toInt * y.toInt = (x.srem y).toInt := by
        rw [BitVec.toInt_srem, Int.tmod_def, Int.mul_comm]
      rw [htmod, BitVec.ofInt_toInt]

theorem divN_eq (x y : Word) : divN x y = if y = 0 then 0xFFFFFFFF else x.udiv y := by
  unfold divN
  split
  · rfl
  · apply BitVec.eq_of_toNat_eq
    rw [BitVec.toNat_ofNat]
    exact Nat.mod_eq_of_lt (Nat.lt_of_le_of_lt (Nat.div_le_self _ _) x.isLt)

theorem remN_eq (x y : Word) : remN x y = if y = 0 then x else x.umod y := by
  unfold remN
  split
  · rfl
  · apply BitVec.eq_of_toNat_eq
    rw [BitVec.toNat_ofNat]
    exact Nat.mod_eq_of_lt (Nat.lt_of_le_of_lt (Nat.mod_le _ _) x.isLt)

/-! ### Bit fields (R148) -/

/-- The word whose lowest `n` bits are ones. -/
def lowOnes (n : Nat) : Word := (1#32 <<< n) - 1#32

theorem toNat_lowOnes {n : Nat} (hn : n ≤ 32) : (lowOnes n).toNat = 2 ^ n - 1 := by
  have hpos := Nat.two_pow_pos n
  unfold lowOnes
  rcases Nat.lt_or_eq_of_le hn with hlt | rfl
  · have hpow : 2 ^ n < 2 ^ 32 := Nat.pow_lt_pow_right (by decide) hlt
    rw [BitVec.toNat_sub, BitVec.toNat_shiftLeft, BitVec.toNat_ofNat, Nat.shiftLeft_eq, Nat.one_mod, Nat.one_mul,
      Nat.mod_eq_of_lt hpow]
    omega
  · rfl

theorem getLsbD_lowOnes {n : Nat} (hn : n ≤ 32) (i : Nat) : (lowOnes n).getLsbD i = decide (i < n) := by
  rw [BitVec.getLsbD, toNat_lowOnes hn, Nat.testBit_two_pow_sub_one]

theorem fieldWidth_le (y : Word) : fieldPos y + fieldWidth y ≤ 32 := by
  unfold fieldWidth fieldPos; omega

theorem extractN_eq (x y : Word) : extractN x y = (x >>> fieldPos y) &&& lowOnes (fieldWidth y) := by
  have hw := fieldWidth_le y
  apply BitVec.eq_of_toNat_eq
  rw [extractN, BitVec.toNat_and, toNat_lowOnes (by omega), Nat.and_two_pow_sub_one_eq_mod, BitVec.toNat_ushiftRight,
    Nat.shiftRight_eq_div_pow, BitVec.toNat_ofNat]
  exact Nat.mod_eq_of_lt (Nat.lt_of_le_of_lt (Nat.mod_le _ _) (Nat.lt_of_le_of_lt (Nat.div_le_self _ _) x.isLt))

/-- The field of a word, as a bit vector of the field's width. -/
def fieldOf (x y : Word) : BitVec (fieldWidth y) := x.extractLsb' (fieldPos y) (fieldWidth y)

theorem toNat_fieldOf (x y : Word) : (fieldOf x y).toNat = x.toNat / 2 ^ fieldPos y % 2 ^ fieldWidth y := by
  rw [fieldOf, BitVec.extractLsb'_toNat, Nat.shiftRight_eq_div_pow]

/-- A signed extract extends the field by its sign. -/
theorem extractS_eq_signExtend (x y : Word) : extractS x y = (fieldOf x y).signExtend 32 := by
  have hw : fieldWidth y ≤ 32 := by have := fieldWidth_le y; omega
  have hpow : 2 ^ fieldWidth y ≤ 2 ^ 32 := Nat.pow_le_pow_right (by decide) hw
  have hlt := (fieldOf x y).isLt
  unfold extractS
  dsimp only
  rw [← toNat_fieldOf]
  apply BitVec.eq_of_toNat_eq
  rw [BitVec.toNat_signExtend, BitVec.toNat_setWidth_of_le hw, BitVec.msb_eq_decide]
  by_cases hzero : fieldWidth y = 0
  · have hval : (fieldOf x y).toNat = 0 := by
      have hone : 2 ^ fieldWidth y = 1 := by rw [hzero]; rfl
      omega
    rw [if_pos hzero, hval]
    simp
  · rw [if_neg hzero]
    by_cases hneg : (fieldOf x y).toNat < 2 ^ (fieldWidth y - 1)
    · rw [if_pos hneg, if_neg (by simpa using hneg), BitVec.toNat_ofNat, Nat.mod_eq_of_lt (by omega)]; rfl
    · rw [if_neg hneg, if_pos (by simpa using hneg), BitVec.toNat_ofNat]
      omega

theorem extractS_eq (x y : Word) : extractS x y = if fieldWidth y = 0 then 0
    else (x <<< (32 - fieldPos y - fieldWidth y)).sshiftRight (32 - fieldWidth y) := by
  have hw := fieldWidth_le y
  by_cases hzero : fieldWidth y = 0
  · rw [if_pos hzero, extractS, if_pos hzero]
  · rw [if_neg hzero, extractS_eq_signExtend]
    apply BitVec.eq_of_getLsbD_eq
    intro i hi
    rw [BitVec.getLsbD_signExtend, BitVec.getLsbD_sshiftRight, fieldOf, BitVec.msb_extractLsb', BitVec.getLsbD_extractLsb',
      BitVec.msb_shiftLeft, BitVec.getLsbD_shiftLeft, BitVec.getMsbD, BitVec.getMsbD]
    by_cases hin : i < fieldWidth y
    · rw [if_pos hin, if_pos (by omega), show 32 - fieldWidth y + i - (32 - fieldPos y - fieldWidth y) = fieldPos y + i by omega]
      simp [hi, hin, show ¬ 32 ≤ i by omega, show 32 - fieldWidth y + i < 32 by omega,
        show ¬ 32 - fieldWidth y + i < 32 - fieldPos y - fieldWidth y by omega]
    · rw [if_neg hin, if_neg (by omega),
        show 32 - 1 - (32 - (fieldPos y + fieldWidth y)) = 32 - 1 - (32 - fieldPos y - fieldWidth y) by omega]
      simp [hi, hw, show ¬ 32 ≤ i by omega, show 0 < fieldWidth y by omega, show 32 - (fieldPos y + fieldWidth y) < 32 by omega,
        show 32 - fieldPos y - fieldWidth y < 32 by omega]

/-- `c` with the `w` bits from `p` replaced by those of `a`. -/
theorem testBit_replaceBits (a c p w i : Nat) :
    (c - c / 2 ^ p % 2 ^ w * 2 ^ p + a % 2 ^ w * 2 ^ p).testBit i
      = if p ≤ i ∧ i < p + w then a.testBit (i - p) else c.testBit i := by
  have hparts : c - c / 2 ^ p % 2 ^ w * 2 ^ p + a % 2 ^ w * 2 ^ p
      = 2 ^ p * (2 ^ w * (c / 2 ^ p / 2 ^ w) + a % 2 ^ w) + c % 2 ^ p := by
    have h1 := Nat.div_add_mod c (2 ^ p)
    have h2 := Nat.div_add_mod (c / 2 ^ p) (2 ^ w)
    have h3 : c = 2 ^ p * (2 ^ w * (c / 2 ^ p / 2 ^ w)) + c / 2 ^ p % 2 ^ w * 2 ^ p + c % 2 ^ p := by
      conv_lhs => rw [← h1, ← h2]
      ring
    rw [Nat.mul_add, Nat.mul_comm (a % 2 ^ w)]
    omega
  rw [hparts, Nat.testBit_two_pow_mul_add _ (Nat.mod_lt _ (Nat.two_pow_pos p)),
    Nat.testBit_two_pow_mul_add _ (Nat.mod_lt _ (Nat.two_pow_pos w)), Nat.testBit_mod_two_pow, Nat.testBit_mod_two_pow,
    Nat.testBit_div_two_pow, Nat.testBit_div_two_pow]
  by_cases hlow : i < p
  · simp [hlow, show ¬ p ≤ i by omega]
  · by_cases hin : i < p + w
    · simp [hlow, hin, show p ≤ i by omega, show i - p < w by omega]
    · simp [hlow, hin, show ¬ i - p < w by omega, show i - p - w + w + p = i by omega]

theorem insertField_eq (x y z : Word) : insertField x y z
    = (z &&& ~~~(lowOnes (fieldWidth y) <<< fieldPos y)) ||| ((x &&& lowOnes (fieldWidth y)) <<< fieldPos y) := by
  have hw := fieldWidth_le y
  apply BitVec.eq_of_getLsbD_eq
  intro i hi
  rw [insertField, BitVec.getLsbD_ofNat, testBit_replaceBits, BitVec.getLsbD_or, BitVec.getLsbD_and, BitVec.getLsbD_not,
    BitVec.getLsbD_shiftLeft, BitVec.getLsbD_shiftLeft, BitVec.getLsbD_and, getLsbD_lowOnes (by omega)]
  simp only [hi, decide_true, Bool.true_and, ← BitVec.getLsbD.eq_1]
  by_cases hlow : i < fieldPos y
  · simp [hlow, show ¬ fieldPos y ≤ i by omega]
  · by_cases hin : i < fieldPos y + fieldWidth y
    · simp [hlow, hin, show fieldPos y ≤ i by omega, show i - fieldPos y < fieldWidth y by omega]
    · simp [hlow, hin, show ¬ i - fieldPos y < fieldWidth y by omega]

theorem bitMask_eq (x y : Word) : bitMask x y = lowOnes (min y.toNat (32 - x.toNat % 32)) <<< (x.toNat % 32) := by
  apply BitVec.eq_of_toNat_eq
  rw [bitMask, BitVec.toNat_ofNat, BitVec.toNat_shiftLeft, toNat_lowOnes (by omega), Nat.shiftLeft_eq]

/-! ### Conditions (R150, 06 Table 6-3) -/

theorem condition_eq (k : BitVec 4) (x y : Word) : condition k x y = conditionMeant k x y := by
  unfold condition conditionMeant
  rw [BitVec.slt_eq_decide, BitVec.sle_eq_decide, BitVec.slt_eq_decide, BitVec.sle_eq_decide, BitVec.ult_eq_decide,
    BitVec.ule_eq_decide, BitVec.ult_eq_decide, BitVec.ule_eq_decide]
  match k.toNat with
  | 0 | 1 | 2 | 3 | 4 | 5 | 6 | 7 | 8 => rfl
  | _ + 9 => rfl

end Sys2Proof.Machine

open Sys2Proof Sys2Proof.Machine

/-- Settles O1: of the eleven words only the high halves of products are computed otherwise than they are stated. -/
theorem integerSumsAndProducts : Obligations.IntegerSumsAndProducts := by
  intro c g d a b w i
  refine ⟨?iadd, ?isub, ?imul, ?imulhS32, ?imulhN32, ?imad, ?iaddi, ?imuli, ?movi, ?iadd64, ?isub64⟩
  case iadd | isub | imul => exact word2_of_lane (fun _ => rfl) fun _ _ _ => rfl
  case imulhS32 => exact word2_of_lane (fun _ => rfl) fun _ => mulHighS_eq
  case imulhN32 => exact word2_of_lane (fun _ => rfl) fun _ => mulHighN_eq
  case imad => exact word3_of_lane (fun _ => rfl) fun _ _ _ => rfl
  case iaddi | imuli => exact word1_of_lane (fun _ => rfl) fun _ => rfl
  case movi => exact plainResult_of_lane (fun _ => rfl) fun hd _ _ _ => kept_result32 _ _ _ _ _ _ hd
  case iadd64 | isub64 => exact word64_of_lane fun _ => rfl

/-- Settles O2: bitwise words as they stand, counts and shifts by the lemmas on bits; an immediate amount is below 32. -/
theorem bitwiseWordsAndShifts : Obligations.BitwiseWordsAndShifts := by
  intro c g d a b w i n
  refine ⟨?and, ?or, ?xor, ?andn, ?andi, ?ori, ?xori, ?popc, ?clz, ?ctz, ?brev, ?shl, ?shr, ?sar, ?rot, ?shfiShl, ?shfiShr,
    ?shfiSar, ?shfiRot⟩
  case and | or | xor | andn => exact word2_of_lane (fun _ => rfl) fun _ _ _ => rfl
  case andi | ori | xori => exact word1_of_lane (fun _ => rfl) fun _ => rfl
  case popc => exact word1_of_lane (fun _ => rfl) fun x => by rw [popCount, popFrom_eq_countP]
  case clz => exact word1_of_lane (fun _ => rfl) countLeading_eq
  case ctz => exact word1_of_lane (fun _ => rfl) countTrailing_eq
  case brev => exact word1_of_lane (fun _ => rfl) bitReverse_eq
  case shl => exact word2_of_lane (fun _ => rfl) fun _ => shiftLeft_eq
  case shr => exact word2_of_lane (fun _ => rfl) fun _ => shiftRight_eq
  case sar => exact word2_of_lane (fun _ => rfl) fun _ => shiftArith_eq
  case rot => exact word2_of_lane (fun _ => rfl) fun _ => rotateLeft_eq
  case shfiShl => exact word1_of_lane (fun _ => rfl) fun x => by rw [shiftLeft_eq, toNat_amount]
  case shfiShr => exact word1_of_lane (fun _ => rfl) fun x => by rw [shiftRight_eq, toNat_amount]
  case shfiSar => exact word1_of_lane (fun _ => rfl) fun x => by rw [shiftArith_eq, toNat_amount]
  case shfiRot => exact word1_of_lane (fun _ => rfl) fun x => by rw [rotateLeft_eq, toNat_amount, Nat.mod_eq_of_lt n.isLt]

/-- Settles O3: each result of the model is the stated one, by the lemma on it. -/
theorem extremesSaturationDivision : Obligations.ExtremesSaturationDivision := by
  intro c g d a b w
  refine ⟨?iminS32, ?iminN32, ?imaxS32, ?imaxN32, ?iabs, ?iaddsS32, ?iaddsN32, ?isubsS32, ?isubsN32, ?idivS32, ?idivN32,
    ?iremS32, ?iremN32⟩
  case iminS32 => exact word2_of_lane (fun _ => rfl) fun _ => minS_eq
  case iminN32 => exact word2_of_lane (fun _ => rfl) fun _ => minN_eq
  case imaxS32 => exact word2_of_lane (fun _ => rfl) fun _ => maxS_eq
  case imaxN32 => exact word2_of_lane (fun _ => rfl) fun _ => maxN_eq
  case iabs => exact word1_of_lane (fun _ => rfl) absS_eq
  case iaddsS32 => exact word2_of_lane (fun _ => rfl) fun _ => clampS_add
  case iaddsN32 => exact word2_of_lane (fun _ => rfl) fun _ => clampN_add
  case isubsS32 => exact word2_of_lane (fun _ => rfl) fun _ => clampS_sub
  case isubsN32 => exact word2_of_lane (fun _ => rfl) fun _ => clampN_sub
  case idivS32 => exact word2_of_lane (fun _ => rfl) fun _ => divS_eq
  case idivN32 => exact word2_of_lane (fun _ => rfl) fun _ => divN_eq
  case iremS32 => exact word2_of_lane (fun _ => rfl) fun _ => remS_eq
  case iremN32 => exact word2_of_lane (fun _ => rfl) fun _ => remN_eq

/-- Settles O4: the field's bits taken, extended by its sign or put in, by the lemmas on fields; `sel` guards no lane off. -/
theorem bitFieldsAndSelect : Obligations.BitFieldsAndSelect := by
  intro c g d a b w
  refine ⟨?bfeN32, ?bfeS32, ?bfi, ?bmsk, ?sel⟩
  case bfeN32 => exact word2_of_lane (fun _ => rfl) fun _ => extractN_eq
  case bfeS32 => exact word2_of_lane (fun _ => rfl) fun _ => extractS_eq
  case bfi => exact word3_of_lane (fun _ => rfl) insertField_eq
  case bmsk => exact word2_of_lane (fun _ => rfl) fun _ => bitMask_eq
  case sel => exact word2_of_lane (fun _ => rfl) fun _ _ _ => rfl

/-- Settles O5: the model's condition of each number is that of 06 Table 6-3. -/
theorem compares : Obligations.Compares := by
  intro c g k p a b w i
  refine ⟨?cmp, ?cmpPair, ?cmpi, ?cmpiPair⟩
  case cmp | cmpPair => exact test2_of_cmp (fun _ => rfl) (condition_eq k)
  case cmpi | cmpiPair => exact test1_of_cmpi (fun _ => rfl) fun x => condition_eq k x _

/-- Settles O6: the lanes of the predicate words change each for itself; `pset` reads its two sources first. -/
theorem predicateWords : Obligations.PredicateWords := by
  intro c g d a b e x y w
  refine ⟨?pand, ?por, ?pxor, ?pnot, ?pget, ?pset⟩
  case pand | por | pxor | pnot => exact plain_of_lane (fun _ => rfl) fun _ _ _ => kept_resultPred _ _ _ _ _ _
  case pget => exact plainResult_of_lane (fun _ => rfl) fun hd _ _ _ => kept_result32 _ _ _ _ _ _ hd
  case pset =>
    intro s iss u v r hs hr
    refine does_of_lane hs rfl (fun t ht ha => ?_) fun t ht ha => ?_
    · obtain ⟨z, hx, hy⟩ := hr t ht ha
      unfold lanePset
      rw [hx]
      dsimp only
      rw [hy]
      rfl
    · obtain ⟨z, hx, hy⟩ := hr t ht ha
      refine ((Kept.src2 hx hy).trans ?_).trans (kept_setLatch _ _ _ _)
      split <;> exact ⟨rfl, rfl, rfl, rfl, rfl, rfl, rfl⟩
end

section
/-! PROOFS. Literals, uniform registers, code prefetch and transfers (07 R152 to R157), in every lane of the group. -/

namespace Sys2Proof.Machine

open Sys2Proof (Byte Word DWord Instr)

set_option Elab.async false

/-! ### Runs that go on -/

/-- A run whose active lanes have been changed goes on if each of these does. -/
theorem going_act {s : State} {iss : Issue} {g : BitVec 2} {h : Thread → Thread} (hs : Alone s iss)
    (hk : ∀ t ∈ s.threads, isActive iss g t = true → rowKey (h t) = rowKey t)
    (hg : ∀ t ∈ s.threads, isActive iss g t = true → GoesOn (h t)) : Going (act iss g h s) iss := by
  refine ⟨hs.issue, ?_, fun t ht hin => ?_⟩
  · unfold act
    dsimp only
    rw [map_rowKey _ fun t ht => ?_]
    · exact hs.rows
    · split
      · exact hk t ht ‹_›
      · rfl
  · obtain ⟨u, hu, rfl⟩ := List.mem_map.mp ht
    by_cases ha : isActive iss g u = true
    · rw [if_pos ha]; exact hg u hu ha
    · rw [if_neg ha] at hin ⊢
      exact goesOn_idle (hs.idle u hu hin)

theorem mem_activeThreads {s : State} {iss : Issue} {g : BitVec 2} (hn : (s.threads.map rowKey).Nodup) (t : Thread) :
    t ∈ activeThreads s iss g ↔ t ∈ s.threads ∧ isActive iss g t = true := by
  unfold activeThreads isActive inGroup
  simp only [List.mem_filterMap, Option.filter_eq_some_iff, Bool.and_eq_true, decide_eq_true_eq, List.contains_iff_mem]
  constructor
  · rintro ⟨l, hl, ha, hon⟩
    obtain ⟨hm, hk⟩ := mem_of_threadAt ha
    simp only [rowKey, Prod.mk.injEq] at hk
    exact ⟨hm, ⟨hk.1, hk.2 ▸ hl⟩, hon⟩
  · rintro ⟨hm, ⟨hlaunch, hl⟩, hon⟩
    exact ⟨t.thread, hl, hlaunch ▸ threadAt_of_mem hn hm, hon⟩

/-- In a run that goes on every active lane takes a word's effect. -/
theorem liveThreads_going {s : State} {iss : Issue} {g : BitVec 2} (h : Going s iss) :
    liveThreads s iss g = activeThreads s iss g := by
  unfold liveThreads
  rw [List.filter_eq_self]
  intro t ht
  obtain ⟨hm, ha⟩ := (mem_activeThreads h.rows t).mp ht
  obtain ⟨hend, -⟩ := h.lanes t hm (isActive_group ha)
  rw [hend]; rfl

/-! ### Literals (R152, 06 R133) -/

theorem laneLiteral_value {s : State} {iss : Issue} {t : Thread} {i : BitVec 8} {wide : Bool} {v : Nat}
    (h : literalAt s t iss.packet i wide = .value v) : laneLiteral s iss t i wide = .ok v := by
  unfold laneLiteral; rw [h]

theorem laneLdl_value {s : State} {iss : Issue} {t : Thread} {d : BitVec 7} {i : BitVec 8} {wide : Bool} {v : Nat}
    (h : literalAt s t iss.packet i wide = .value v) : laneLdl d i wide s iss t
      = .ok (if wide then put64 d (BitVec.ofNat 64 v) t else put32 iss d (BitVec.ofNat 32 v) t) := by
  unfold laneLdl; rw [laneLiteral_value h]

/-! ### Code prefetch (R157) -/

theorem readOperand_ok {s : State} {iss : Issue} {t t' : Thread} {b : BitVec 7} {n : Word} (h : src32 s iss t b = .ok (n, t')) :
    readOperand b s iss t = .ok t' := by
  unfold readOperand; rw [h]

/-! ### Targets (R153 to R155, 06 R130) -/

theorem packetAddr_split (p : Nat) : packetAddr p / 128 = p / 10 ∧ packetAddr p % 128 = p % 10 * 12 := by
  unfold packetAddr; omega

/-- A code pointer to a packet within the limit passes the checks of a register target. -/
theorem registerTarget_codePointer {s : State} {t : Thread} {p : Nat}
    (hlimit : packetAddr p + 12 ≤ (segAt (gangOf s t).segs 5).limit.toNat) (hmark : markedAt s t p = false) :
    registerTarget s t (codePointer p) = .ok p := by
  have hbound := (segAt (gangOf s t).segs 5).limit.isLt
  have hpointer : (codePointer p).toNat = 5 * 2 ^ 60 + packetAddr p := by
    rw [codePointer, BitVec.toNat_ofNat]; omega
  have htag : (codePointer p).toNat / 2 ^ 60 = 5 := by omega
  have haddr : (codePointer p).toNat % 2 ^ 60 = packetAddr p := by omega
  obtain ⟨hline, hoffset⟩ := packetAddr_split p
  unfold registerTarget
  dsimp only
  rw [haddr, hline, hoffset, if_neg (by omega), if_neg (by omega), if_neg (by omega), if_neg (by omega),
    show p / 10 * 10 + p % 10 * 12 / 12 = p by omega, hmark]
  rfl

/-- A lane that jumps goes on. -/
theorem goesOn_jumpTo {t u : Thread} {p pos : Nat} (ht : Idle t) (k : Kept t u) : GoesOn (jumpTo p pos u) := by
  obtain ⟨hend, hacts, -, hask, hposting, hposted⟩ := goesOn_kept ht k
  exact ⟨hend, hacts, .inr ⟨p, pos, rfl⟩, hask, hposting, hposted⟩

/-- The link of a transfer written to its pair, where it has one (R154). -/
def linked (link : Option (BitVec 7)) (packet : Nat) (t : Thread) : Thread :=
  match link with
  | none => t
  | some d => put64 d (linkOf packet) t

theorem kept_linked (link : Option (BitVec 7)) (packet : Nat) (t : Thread) : Kept t (linked link packet t) := by
  cases link with
  | none => exact Kept.refl t
  | some d => exact kept_put64 _ _ _

/-- What a transfer leaves of its lane: its link, and its target as what comes next. -/
def transferred (link : Option (BitVec 7)) (packet p : Nat) (t : Thread) : Thread := jumpTo p 0 (linked link packet t)

theorem rowKey_transferred (link : Option (BitVec 7)) (packet p : Nat) (t : Thread) :
    rowKey (transferred link packet p t) = rowKey t := (kept_linked link packet t).key

theorem goesOn_transferred {t : Thread} (h : Idle t) (link : Option (BitVec 7)) (packet p : Nat) :
    GoesOn (transferred link packet p t) := goesOn_jumpTo h (kept_linked link packet t)

theorem setRegs_frame (l : List Word) : ∀ (t : Thread) (i : Nat), setRegs t i l = { t with regs := (setRegs t i l).regs } := by
  induction l with
  | nil => exact fun _ _ => rfl
  | cons v vs ih => intro t i; rw [setRegs, ih]

/-- A transfer changes nothing that guards read. -/
theorem guardOn_transferred {g : BitVec 2} {t : Thread} (link : Option (BitVec 7)) (packet p : Nat) (h : guardOn g t = true) :
    guardOn g (transferred link packet p t) = true := by
  cases link with
  | none => exact h
  | some d =>
    unfold transferred linked put64
    dsimp only
    rw [setRegs_frame]
    exact h

theorem laneBranch_target {s : State} {iss : Issue} {t : Thread} {disp : Int} {p : Nat} (link : Bool)
    (h : TargetAt s t (iss.packet + disp) p) :
    laneBranch disp link s iss t = .ok (transferred (if link then some 62 else none) iss.packet p t) := by
  unfold laneBranch
  rw [displacedTarget_targetAt h]
  cases link <;> rfl

theorem laneRegister_target {s : State} {iss : Issue} {t : Thread} {a : BitVec 7} {p : Nat} (link : Option (BitVec 7))
    (hp : src64 s iss t a = codePointer p) (hlimit : packetAddr p + 12 ≤ (segAt (gangOf s t).segs 5).limit.toNat)
    (hmark : markedAt s t p = false) : laneRegister a link s iss t = .ok (transferred link iss.packet p t) := by
  unfold laneRegister
  rw [hp, registerTarget_codePointer hlimit hmark]
  cases link <;> rfl

/-- A word whose lanes all transfer. -/
theorem does_transfer {i : Instr} {s : State} {iss : Issue} {g : BitVec 2} {f : State → Issue → Thread → Except LaneEnd Thread}
    {link : Option (BitVec 7)} {p : Thread → Nat} (hs : Alone s iss) (hi : exec i s = laneWord g f s)
    (hf : ∀ t ∈ s.threads, isActive iss g t = true → f s iss t = .ok (transferred link iss.packet (p t) t)) :
    Does i s iss g fun t => transferred link iss.packet (p t) t := by
  unfold Does
  rw [hi]
  exact laneWord_closed hs hf (fun _ _ _ => rowKey_transferred _ _ _ _)
    fun t ht ha => goesOn_transferred (hs.idle t ht (isActive_group ha)) _ _ _

/-- The same for a transfer that is counted, in a run with an active lane (13 R267). -/
theorem countedTransfer_closed {s : State} {iss : Issue} {g : BitVec 2} {f : State → Issue → Thread → Except LaneEnd Thread}
    {link : Option (BitVec 7)} {p : Thread → Nat} {sel : Nat} (hs : Alone s iss) (hn : activeThreads s iss g ≠ [])
    (hf : ∀ t ∈ s.threads, isActive iss g t = true → f s iss t = .ok (transferred link iss.packet (p t) t)) :
    wordRun (countedLanes sel g f) s
      = closed iss (count iss.core sel 1 (act iss g (fun t => transferred link iss.packet (p t) t) s)) := by
  generalize hdef : (fun t => transferred link iss.packet (p t) t) = h
  have hgoing : Going (act iss g h s) iss := by
    subst hdef
    exact going_act hs (fun _ _ _ => rowKey_transferred _ _ _ _)
      fun t ht ha => goesOn_transferred (hs.idle t ht (isActive_group ha)) _ _ _
  have hlive : liveThreads (act iss g h s) iss g ≠ [] := by
    rw [liveThreads_going hgoing]
    obtain ⟨t, ht⟩ := List.exists_mem_of_ne_nil _ hn
    obtain ⟨hm, ha⟩ := (mem_activeThreads hs.rows t).mp ht
    refine List.ne_nil_of_mem (a := h t) ((mem_activeThreads hgoing.rows _).mpr ⟨?_, ?_⟩)
    · exact List.mem_map.mpr ⟨t, hm, if_pos ha⟩
    · unfold isActive at ha ⊢
      rw [Bool.and_eq_true] at ha ⊢
      subst hdef
      exact ⟨(inGroup_key (rowKey_transferred _ _ _ _)).trans ha.1, guardOn_transferred _ _ _ ha.2⟩
  have hbody : countedLanes sel g f s = count iss.core sel 1 (act iss g h s) := by
    unfold countedLanes
    rw [hs.issue]
    dsimp only
    rw [mapLanes_act hs (h := h) (by subst hdef; exact hf), if_neg hlive]
  rw [wordRun_going hs (by rw [hbody]; exact going_same hgoing (count_issue _ _ _ _) (count_threads _ _ _ _)), hbody]

end Sys2Proof.Machine

open Sys2Proof Sys2Proof.Machine

/-- Settles O12: `ldl` and `nop` change each lane by itself, `kmov` acts once for the elected lane, and `ipf` for the group. -/
theorem literalsAndUniforms : Obligations.LiteralsAndUniforms := by
  intro c g e d a b i s iss hs
  refine ⟨fun v hv => ?ldl32, fun v hv => ?ldl64, fun t u v he hsrc => ?kmov, ?nop, fun n r hr => ?ipf⟩
  case ldl32 =>
    have hlane : ∀ t ∈ s.threads, isActive iss g t = true →
        laneLdl d i false s iss t = .ok (put32 iss d (BitVec.ofNat 32 (v t)) t) := fun t ht ha => laneLdl_value (hv t ht ha)
    exact ⟨fun hd => does_of_lane hs rfl hlane fun t _ _ => kept_put32 _ _ _ _ hd, leads_of_lane hs rfl hlane⟩
  case ldl64 =>
    exact does_of_lane hs rfl (fun t ht ha => laneLdl_value (hv t ht ha)) fun t _ _ => kept_put64 _ _ _
  case kmov =>
    have hlane : laneKmov e a s iss t = .ok (mapGangOf (putThread s u) t fun x =>
        { x with kregs := regSet x.kregs e.toNat v }) := by
      unfold laneKmov; rw [hsrc]
    have hgoing := going_put (going_alone hs) (mem_of_elected he) (kept_src32 hsrc)
    change electWord g (laneKmov e a) s = _
    unfold electWord
    rw [electWord_closed hs he hlane (going_same hgoing rfl rfl)]
  case nop => exact does_of_lane hs rfl (fun _ _ _ => rfl) fun t _ _ => Kept.refl t
  case ipf =>
    intro s1 lines
    have hgoing : Going s1 iss := going_act hs (fun t ht ha => (kept_src32 (hr t ht ha)).key)
      fun t ht ha => goesOn_kept (hs.idle t ht (isActive_group ha)) (kept_src32 (hr t ht ha))
    have hbody : ipfBody g a b s
        = count iss.core 0x0207 lines.length (mapCore s1 iss.core (addFills (linesToFill s1 iss.core lines))) := by
      unfold ipfBody
      rw [hs.issue]
      dsimp only
      rw [mapLanes_act hs (h := r) fun t ht ha => readOperand_ok (hr t ht ha), liveThreads_going hgoing]
      generalize hasked : List.foldl _ [] (activeThreads s1 iss g) = asked
      have hlines : asked = lines := hasked.symm.trans <| congrArg (fun f => List.foldl f [] (activeThreads s1 iss g)) <|
        funext₂ fun l t => by cases src32 s1 iss t b <;> rfl
      rw [hlines]
    change Host.Outcome.next (wordRun (ipfBody g a b) s) = _
    rw [wordRun_going hs (by rw [hbody]; exact going_same hgoing (by simp) (by simp)), hbody]

/-- Settles O13: every transfer leaves its lanes `transferred`; those by register are counted too. -/
theorem transfers : Obligations.Transfers := by
  intro g d a x i s iss p hs _ _ _
  refine ⟨fun ht => ?displaced, fun v hv ht => ?long, fun ht hn => ?register⟩
  case displaced =>
    exact ⟨does_transfer (link := none) hs rfl fun t hm ha => laneBranch_target false (ht t hm ha),
      does_transfer (link := some 62) hs rfl fun t hm ha => laneBranch_target true (ht t hm ha)⟩
  case long =>
    have hlong : ∀ (l : Bool) (t : Thread), t ∈ s.threads → isActive iss g t = true →
        laneLong i l s iss t = .ok (transferred (if l then some 62 else none) iss.packet (p t) t) := by
      intro l t hm ha
      unfold laneLong
      rw [laneLiteral_value (hv t hm ha)]
      exact laneBranch_target l (ht t hm ha)
    exact ⟨does_transfer (link := none) hs rfl (hlong false), does_transfer (link := some 62) hs rfl (hlong true)⟩
  case register =>
    have hregister : ∀ (l : Option (BitVec 7)) (t : Thread), t ∈ s.threads → isActive iss g t = true →
        laneRegister a l s iss t = .ok (transferred l iss.packet (p t) t) := by
      intro l t hm ha
      obtain ⟨hp, hlimit, hmark⟩ := ht t hm ha
      exact laneRegister_target l hp hlimit hmark
    exact ⟨congrArg _ (countedTransfer_closed hs hn (hregister none)),
      congrArg _ (countedTransfer_closed hs hn (hregister none)),
      congrArg _ (countedTransfer_closed hs hn (hregister (some d)))⟩
end

section
/-! PROOFS. Traps and returns from a handler in every lane of the group (07 R158, R160). -/

namespace Sys2Proof.Machine

open Sys2Proof (Byte Word DWord Instr)

set_option Elab.async false

/-! ### Words that trap in every active lane (R158, 02 R39) -/

/-- The run in whose active lanes its word has trapped. -/
def trappedRun (iss : Issue) (g : BitVec 2) (k : Trap) (s : State) : State := act iss g (fun t => endLane iss t (.trap k)) s

theorem least_endRank_zero (l : List Thread) : l.foldl (fun n t => min n (endRank t)) 0 = 0 := by
  induction l with
  | nil => rfl
  | cons t ts ih => rw [List.foldl_cons, Nat.zero_min, ih]

/-- Lanes whose ends depend on no other lane become void together. -/
theorem nextVoid_of_rank_zero {l : List Thread} (h : ∀ t ∈ l, endRank t = 0) : nextVoid l = l := by
  cases l with
  | nil => rfl
  | cons t ts =>
    have hleast : (t :: ts).foldl (fun n t => min n (endRank t)) 2 = 0 := by
      rw [List.foldl_cons, h t List.mem_cons_self, Nat.min_zero, least_endRank_zero]
    unfold nextVoid
    rw [hleast]
    exact List.filter_eq_self.mpr fun u hu => decide_eq_true (h u hu)

theorem endedLanes_nil {s : State} {iss : Issue} (h : ∀ t ∈ s.threads, inGroup iss t = true → t.laneEnd = none) :
    endedLanes s iss = [] := by
  unfold endedLanes
  rw [List.filter_eq_nil_iff]
  intro t ht hin
  rw [Bool.and_eq_true] at hin
  rw [h t ht hin.1] at hin
  exact absurd hin.2 (by simp)

section
variable {s : State} {iss : Issue} (hs : Alone s iss)
include hs

theorem Alone.mapLanes_trap (g : BitVec 2) (k : Trap) :
    mapLanes g (fun _ _ _ => .error (.trap k)) s = trappedRun iss g k s := by
  unfold mapLanes trappedRun act
  rw [hs.issue]
  dsimp only
  congr 1
  refine List.map_congr_left fun t ht => ?_
  unfold laneStep
  rw [isLive_idle (hs.idle t ht)]

/-- A lane that has trapped takes no effect of the word. -/
theorem Alone.mapLanes_trappedRun (g : BitVec 2) (k : Trap) (f : State → Issue → Thread → Except LaneEnd Thread) :
    mapLanes g f (trappedRun iss g k s) = trappedRun iss g k s := by
  have hissue : (trappedRun iss g k s).issue = some iss := hs.issue
  have hstep : ∀ t ∈ (trappedRun iss g k s).threads, laneStep iss g (f (trappedRun iss g k s) iss) t = t := by
    intro t ht
    obtain ⟨u, -, rfl⟩ := List.mem_map.mp ht
    have hlive : isLive iss g (if isActive iss g u then endLane iss u (.trap k) else u) = false := by
      by_cases ha : isActive iss g u = true
      · rw [if_pos ha]; exact Bool.and_false _
      · unfold isLive
        rw [if_neg ha, Bool.eq_false_iff.mpr ha, Bool.false_and]
    unfold laneStep
    rw [if_neg (by rw [hlive]; exact Bool.false_ne_true)]
  unfold mapLanes
  rw [hissue]
  dsimp only
  rw [List.map_congr_left (g := id) hstep, List.map_id, ← hissue]

theorem Alone.runEffects_trappedRun (g : BitVec 2) (k : Trap) : runEffects iss (trappedRun iss g k s) = trappedRun iss g k s := by
  refine runEffects_still hs.issue hs.away fun t ht hin => ?_
  obtain ⟨u, hu, rfl⟩ := List.mem_map.mp ht
  by_cases ha : isActive iss g u = true
  · obtain ⟨hreads, hacts, hask, hposting⟩ := (hs.idle u hu (isActive_group ha)).still
    rw [if_pos ha]
    exact ⟨hreads, hacts, hask, hposting⟩
  · rw [if_neg ha] at hin ⊢
    exact (hs.idle u hu hin).still

theorem Alone.endedLanes_none : endedLanes s iss = [] :=
  endedLanes_nil fun t ht hin => (goesOn_idle (hs.idle t ht hin)).1

/-- The lanes that have trapped are the active ones. -/
theorem Alone.endedLanes_trappedRun (g : BitVec 2) (k : Trap) :
    endedLanes (trappedRun iss g k s) iss = (s.threads.filter (isActive iss g)).map fun t => endLane iss t (.trap k) := by
  have hended : ∀ t ∈ s.threads, ((fun x => inGroup iss x && x.laneEnd.isSome) ∘
      fun x => if isActive iss g x then endLane iss x (.trap k) else x) t = isActive iss g t := by
    intro t ht
    rw [Function.comp]
    by_cases ha : isActive iss g t = true
    · rw [if_pos ha, ha]
      exact Bool.and_eq_true _ _ ▸ ⟨isActive_group ha, rfl⟩
    · rw [if_neg ha, Bool.eq_false_iff.mpr ha]
      by_cases hin : inGroup iss t = true
      · obtain ⟨-, -, hend, -⟩ := hs.idle t ht hin
        rw [hend]; exact Bool.and_false _
      · rw [Bool.eq_false_iff.mpr hin]; rfl
  unfold endedLanes trappedRun act
  dsimp only
  rw [List.filter_map, List.filter_congr hended]
  exact List.map_congr_left fun t ht => if_pos (List.mem_filter.mp ht).2

/-- In a run of one word no word that posts comes before it. -/
theorem Alone.postingWord_none (t : Thread) : postingWord iss t iss.pos = none := by
  unfold postingWord
  rw [Option.map_eq_none_iff, List.find?_eq_none]
  intro w hw
  simp [hs.words w hw]

/-- With the trapped lanes void the run stands before its word, each of them marked with its trap. -/
theorem Alone.voidLanes_trappedRun (g : BitVec 2) (k : Trap) :
    voidLanes s (endedLanes (trappedRun iss g k s) iss) = trappedRun iss g k s := by
  rw [hs.endedLanes_trappedRun g k]
  generalize hended : ((s.threads.filter (isActive iss g)).map fun t => endLane iss t (.trap k)) = ended
  have hwaits : ended.filter isWaitEnd = [] := by
    rw [← hended, List.filter_eq_nil_iff]
    intro t ht
    obtain ⟨u, -, rfl⟩ := List.mem_map.mp ht
    exact Bool.false_ne_true
  have hfound : ∀ t ∈ s.threads,
      ended.find? (isThread t.launch t.thread) = if isActive iss g t then some (endLane iss t (.trap k)) else none := by
    intro t ht
    cases hf : ended.find? (isThread t.launch t.thread) with
    | none =>
      rw [if_neg]
      intro ha
      have hmem : endLane iss t (.trap k) ∈ ended := hended ▸ List.mem_map.mpr ⟨t, List.mem_filter.mpr ⟨ht, ha⟩, rfl⟩
      exact List.find?_eq_none.mp hf _ hmem ((isThread_key _ _ _).mpr rfl)
    | some e =>
      have hmem := List.mem_of_find?_eq_some hf
      rw [← hended] at hmem
      obtain ⟨u, hu, rfl⟩ := List.mem_map.mp hmem
      rw [List.mem_filter] at hu
      have hkey : isThread t.launch t.thread (endLane iss u (.trap k)) = true := by simpa using List.find?_some hf
      obtain rfl : u = t := row_unique hs.rows hu.1 ht ((isThread_key _ _ _).mp hkey)
      rw [if_pos hu.2]
  have hissue : s.issue.map (fun iss => { iss with away := iss.away ++ (ended.filter isWaitEnd).map Thread.thread }) = s.issue := by
    rw [hs.issue, hwaits]
    simp
  unfold voidLanes trappedRun act
  rw [hissue]
  congr 1
  refine List.map_congr_left fun t ht => ?_
  rw [hfound t ht, hs.issue]
  by_cases ha : isActive iss g t = true
  · rw [if_pos ha, if_pos ha]
    dsimp only [voidLane, endLane]
    rw [hs.postingWord_none]
    rfl
  · rw [if_neg ha, if_neg ha]

/-- A word that traps: its active lanes are left to their traps, and nothing else of the run happens. -/
theorem Alone.laneWord_trap (g : BitVec 2) (k : Trap) :
    laneWord g (fun _ _ _ => .error (.trap k)) s = .next (settle (trappedRun iss g k s)) := by
  generalize hdef : trappedRun iss g k s = s1
  have hissue : s1.issue = some iss := by rw [← hdef]; exact hs.issue
  have hended : ∀ t ∈ endedLanes s1 iss, endRank t = 0 := by
    rw [← hdef, hs.endedLanes_trappedRun]
    intro t ht
    obtain ⟨u, -, rfl⟩ := List.mem_map.mp ht
    rfl
  have hnone : (endedLanes s1 iss).filter (fun t => (endedLanes s1 iss).all fun x => !decide (x.thread = t.thread)) = [] := by
    rw [List.filter_eq_nil_iff]
    intro t ht hall
    simpa using List.all_eq_true.mp hall t ht
  unfold laneWord wordRun
  rw [hs.issue]
  dsimp only
  rw [hs.chained, if_neg (by simp), show (33 : Nat) = 31 + 1 + 1 from rfl, conduct, hs.issue]
  dsimp only
  rw [hs.mapLanes_trap, hs.runEffects_trappedRun, hs.endedLanes_none, hdef]
  simp only [List.all_nil, List.filter_true]
  split
  · rfl
  · rw [nextVoid_of_rank_zero hended, ← hdef, hs.voidLanes_trappedRun, conduct, hdef, hissue]
    dsimp only
    rw [← hdef, hs.mapLanes_trappedRun, hs.runEffects_trappedRun, hdef, if_pos hnone]

end

/-! ### Runs in which no lane ends (12 R253) -/

/-- A lane that has neither ended nor noted an act, asks for nothing and has made all of its run, whatever comes next. -/
structure Unended (t : Thread) : Prop where
  laneEnd : t.laneEnd = none
  acts : t.acts = []
  ask : t.ask = none
  posting : t.posting = none

theorem Idle.unended {t : Thread} (h : Idle t) : Unended t := by
  obtain ⟨-, hacts, hend, -, -, hask, hposting, -, -⟩ := h
  exact ⟨hend, hacts, hask, hposting⟩

theorem Unended.kept {t u : Thread} (h : Unended t) (k : Kept t u) : Unended u :=
  ⟨k.laneEnd.trans h.laneEnd, k.acts.trans h.acts, k.ask.trans h.ask, k.posting.trans h.posting⟩

theorem closeRun_unended {s : State} {iss : Issue} (hw : iss.away = [])
    (hg : ∀ t ∈ s.threads, inGroup iss t = true → Unended t) : closeRun iss s = s := by
  have hthreads : s.threads.map (fun t => if t.launch = iss.launch ∧ t.thread ∈ iss.lanes then closePosting (closeAsk t) else t)
      = s.threads := by
    rw [List.map_congr_left (g := id), List.map_id]
    intro t ht
    by_cases h : t.launch = iss.launch ∧ t.thread ∈ iss.lanes
    · have hunended := hg t ht ((inGroup_iff hw t).mpr h)
      rw [if_pos h, closeAsk, hunended.ask]
      dsimp only
      rw [closePosting, hunended.posting, id]
    · rw [if_neg h, id]
  unfold closeRun
  rw [hthreads]

/-- At the end of such a run its lanes advance their streams, and nothing ends. -/
theorem endedLanes_unended {s : State} {iss : Issue} (hi : s.issue = some iss) (hw : iss.away = [])
    (hg : ∀ t ∈ s.threads, inGroup iss t = true → Unended t) : endedLanes (runEffects iss s) iss = [] := by
  generalize hdef : { s with threads := s.threads.map fun t => if inGroup iss t && t.laneEnd.isNone then advanceRead t else t } = s1
  have hadvanced : ∀ t ∈ s1.threads, inGroup iss t = true → Unended t := by
    rw [← hdef]
    intro t ht hin
    obtain ⟨u, hu, rfl⟩ := List.mem_map.mp ht
    by_cases h : (inGroup iss u && u.laneEnd.isNone) = true
    · rw [if_pos h]
      exact (hg u hu (Bool.and_eq_true _ _ ▸ h).1).kept (kept_advanceRead u)
    · rw [if_neg h] at hin ⊢
      exact hg u hu hin
  have hphase : streamPhase s = s1 := by
    unfold streamPhase
    rw [hi]
    dsimp only
    rw [← hi, hdef]
    exact acts_none hw _ fun t ht hin => (hadvanced t ht hin).acts
  unfold runEffects
  rw [hphase, closeRun_unended hw hadvanced]
  exact endedLanes_nil fun t ht hin => (hadvanced t ht hin).laneEnd

/-! ### Returns from a handler (R160) -/

/-- Where a return from a handler sends its lane. -/
def returning (p pos : Nat) (t : Thread) : Thread := { t with next := .handlerReturn p pos }

section
variable {s : State} {iss : Issue} {t u v : Thread} {a b : BitVec 7} {x y : Word} (hx : src32 s iss t a = .ok (x, u))
  (hy : src32 s iss u b = .ok (y, v))
include hx hy

theorem laneTret_redo_read {p : Nat} {l : List Byte} (hw : (x.toNat + 2 ^ 32 * y.toNat) / 2 ^ 8 % 4 ≠ 3)
    (ht : TargetAt s v ((x.toNat + 2 ^ 32 * y.toNat) / 2 ^ 16 : Nat) p) (hl : codeLine s v p = .ok l) :
    laneTret true a b s iss t = .ok (returning p (runStart l p ((x.toNat + 2 ^ 32 * y.toNat) / 2 ^ 8 % 4)) v) := by
  unfold laneTret
  rw [hx]
  dsimp only
  rw [hy]
  dsimp only
  rw [if_neg hw, if_pos rfl, displacedTarget_targetAt ht]
  dsimp only
  rw [if_pos rfl, hl]
  rfl

theorem laneTret_skip_read {p : Nat} (hw : (x.toNat + 2 ^ 32 * y.toNat) / 2 ^ 8 % 4 ≠ 3)
    (ht : TargetAt s v (((x.toNat + 2 ^ 32 * y.toNat) / 2 ^ 16 : Nat) + 1) p) :
    laneTret false a b s iss t = .ok (returning p 0 v) := by
  unfold laneTret
  rw [hx]
  dsimp only
  rw [hy]
  dsimp only
  rw [if_neg hw, if_neg Bool.false_ne_true, displacedTarget_targetAt ht]
  rfl

end

/-- A word that sends its active lanes back from a handler: its outcome is those lanes' ends, whatever they meet there. -/
theorem ends_returning {i : Instr} {s : State} {iss : Issue} {g : BitVec 2} {f : State → Issue → Thread → Except LaneEnd Thread}
    {r : Thread → Thread} {p pos : Thread → Nat} (hs : Alone s iss) (hi : exec i s = laneWord g f s)
    (hk : ∀ t ∈ s.threads, isActive iss g t = true → Kept t (r t))
    (hf : ∀ t ∈ s.threads, isActive iss g t = true → f s iss t = .ok (returning (p t) (pos t) (r t))) :
    Ends i s iss g fun t => returning (p t) (pos t) (r t) := by
  have hunended : ∀ t ∈ (act iss g (fun t => returning (p t) (pos t) (r t)) s).threads, inGroup iss t = true → Unended t := by
    intro t ht hin
    obtain ⟨u, hu, rfl⟩ := List.mem_map.mp ht
    by_cases ha : isActive iss g u = true
    · obtain ⟨hend, hacts, hask, hposting⟩ := (hs.idle u hu (isActive_group ha)).unended.kept (hk u hu ha)
      rw [if_pos ha]
      exact ⟨hend, hacts, hask, hposting⟩
    · rw [if_neg ha] at hin ⊢
      exact (hs.idle u hu hin).unended
  unfold Ends EndsFrom
  rw [hi, laneWord_settled hs hf (endedLanes_unended hs.issue hs.away hunended)]

end Sys2Proof.Machine

open Sys2Proof Sys2Proof.Machine

/-- Settles O14: `Alone.laneWord_trap` makes the run again without its active lanes; a `tret` ends none, and `ends_returning`
settles its lanes where they return to. -/
theorem trapsAndReturns : Obligations.TrapsAndReturns := by
  intro g a b s iss hs trapped
  refine ⟨hs.laneWord_trap g .userTrap, hs.laneWord_trap g .breakpoint, ?returns⟩
  intro x y r p hr word hw
  have hkept : ∀ t ∈ s.threads, isActive iss g t = true → Kept t (r t) := fun t hm ha => by
    obtain ⟨u, hx, hy⟩ := hr t hm ha
    exact Kept.src2 hx hy
  refine ⟨fun l ht => ?redo, fun ht => ?skip⟩
  case redo =>
    refine ends_returning hs rfl hkept fun t hm ha => ?_
    obtain ⟨u, hx, hy⟩ := hr t hm ha
    obtain ⟨htarget, hline⟩ := ht t hm ha
    exact laneTret_redo_read hx hy (hw t hm ha) htarget hline
  case skip =>
    refine ends_returning hs rfl hkept fun t hm ha => ?_
    obtain ⟨u, hx, hy⟩ := hr t hm ha
    exact laneTret_skip_read hx hy (hw t hm ha) (ht t hm ha)
end

section
/-! PROOFS. Lane words (08 R176 to R179): exchanges, votes, masks, sums and extremes over the active lanes, and `cdet`. -/

namespace Sys2Proof.Machine

open Sys2Proof (Byte Word DWord Instr)

set_option Elab.async false

/-! ### Exchanges (R177) -/

theorem lookup_eq_find? (vals : List (Nat × Word)) (j : Nat) :
    vals.lookup j = (vals.find? fun x => decide (x.1 = j)).map (·.2) := by
  induction vals with
  | nil => rfl
  | cons x xs ih =>
    obtain ⟨k, v⟩ := x
    by_cases h : k = j
    · simp [h]
    · rw [List.lookup_cons, beq_eq_false_iff_ne.mpr (Ne.symm h), List.find?_cons, decide_eq_false h]
      exact ih

/-- What a lane hears: its source's value, else its own, or zero where bit 5 of its operand is set. -/
theorem exchange_eq (k : Exchange) (vals : List (Nat × Word)) (l : Nat) (own b : Word) :
    exchange k vals l own b
      = ((exchangeSource k l (b.toNat % 32)).bind fun j => vals.lookup j).getD (if b.getLsbD 5 then 0 else own) := by
  unfold exchange
  cases exchangeSource k l (b.toNat % 32) with
  | none => rfl
  | some j =>
    rw [Option.bind_some, Option.bind_some, lookup_eq_find?]
    cases vals.find? fun x => decide (x.1 = j) <;> rfl

theorem laneLx_read {k : Exchange} {g : BitVec 2} {d a b : BitVec 7} {w : BitVec 1} {s : State} {iss : Issue} {t u v : Thread}
    {x y : Word} (hx : src32 s iss t a = .ok (x, u)) (hy : src32 s iss u b = .ok (y, v)) :
    laneLx k g d a b w s iss t
      = .ok (result32 iss .s d w (exchange k (laneValues g a s iss) (laneNo iss t) x y) v) := by
  unfold laneLx; rw [hx]; dsimp only; rw [hy]

/-- What an exchange of a kind does to its lanes. -/
theorem exchange_of_lane {i : Instr} {k : Exchange} {g : BitVec 2} {d a b : BitVec 7} {w : BitVec 1} {s : State} {iss : Issue}
    {x y : Thread → Word} {r heard : Thread → Thread} (hs : Alone s iss) (hr : Reads2 s iss g a b x y r)
    (hi : exec i s = laneWord g (laneLx k g d a b w) s)
    (hh : ∀ t, heard t = result32 iss .s d w (exchange k (laneValues g a s iss) (laneNo iss t) (x t) (y t)) (r t)) :
    (ToRegister d w → Does i s iss g heard) ∧ Leads i s iss g heard := by
  have hlane : ∀ t ∈ s.threads, isActive iss g t = true → laneLx k g d a b w s iss t = .ok (heard t) := by
    intro t ht ha
    obtain ⟨u, hx, hy⟩ := hr t ht ha
    rw [laneLx_read hx hy, hh]
  refine ⟨fun hd => does_of_lane hs hi hlane fun t ht ha => ?_, leads_of_lane hs hi hlane⟩
  obtain ⟨u, hx, hy⟩ := hr t ht ha
  rw [hh]
  exact (Kept.src2 hx hy).trans (kept_result32 _ _ _ _ _ _ hd)

/-! ### Masks (R178) -/

theorem getLsbD_foldl_mask (l : List Nat) (m : Word) (i : Nat) :
    (l.foldl (fun m i => m ||| BitVec.ofNat 32 (2 ^ i)) m).getLsbD i = (m.getLsbD i || (decide (i < 32) && l.contains i)) := by
  induction l generalizing m with
  | nil => simp
  | cons j l ih =>
    rw [List.foldl_cons, ih, BitVec.getLsbD_or, BitVec.getLsbD_ofNat, Nat.testBit_two_pow, List.contains_cons, Bool.or_assoc,
      ← Bool.and_or_distrib_left]
    simp [eq_comm, beq_eq_decide]

theorem getLsbD_laneMask (l : List Nat) (i : Nat) : (laneMask l).getLsbD i = true ↔ i < 32 ∧ i ∈ l := by
  unfold laneMask
  rw [getLsbD_foldl_mask]
  simp

/-! ### Extremes (R178) -/

/-- A choice between two, made along a list, takes a member that precedes all. -/
theorem foldl_choice {α : Type} {R : α → α → Prop} {f : α → α → α} (hrefl : ∀ u, R u u) (htrans : ∀ u v w, R u v → R v w → R u w)
    (hf : ∀ u v, (f u v = u ∨ f u v = v) ∧ R (f u v) u ∧ R (f u v) v) (l : List α) (x : α) :
    l.foldl f x ∈ x :: l ∧ ∀ u ∈ x :: l, R (l.foldl f x) u := by
  induction l generalizing x with
  | nil => exact ⟨List.mem_cons_self, fun u hu => by rw [List.mem_singleton.mp hu]; exact hrefl x⟩
  | cons y ys ih =>
    obtain ⟨hmem, hfirst⟩ := ih (f x y)
    obtain ⟨hone, hx, hy⟩ := hf x y
    have hlast := hfirst (f x y) List.mem_cons_self
    rw [List.foldl_cons]
    refine ⟨?_, fun u hu => ?_⟩
    · rcases List.mem_cons.mp hmem with h | h
      · rw [h]; rcases hone with h | h <;> rw [h] <;> simp
      · exact List.mem_cons_of_mem _ (List.mem_cons_of_mem _ h)
    · rcases List.mem_cons.mp hu with rfl | hu
      · exact htrans _ _ _ hlast hx
      rcases List.mem_cons.mp hu with rfl | hu
      · exact htrans _ _ _ hlast hy
      · exact hfirst u (List.mem_cons_of_mem _ hu)

/-- The extreme under an order is a member that no other precedes. -/
theorem extreme_spec {lt : Word → Word → Bool} {f : Word → Word → Word} (hf : ∀ u v, f u v = if lt v u then v else u)
    (hasymm : ∀ u v, lt u v = true → lt v u = false) (htrans : ∀ u v w, lt v u = false → lt w v = false → lt w u = false)
    {l : List Word} (hl : l ≠ []) : extreme f l ∈ l ∧ ∀ u ∈ l, lt u (extreme f l) = false := by
  have hirrefl : ∀ u, lt u u = false := fun u =>
    Bool.eq_false_iff.mpr fun h => Bool.false_ne_true ((hasymm u u h).symm.trans h)
  obtain ⟨x, xs, rfl⟩ := List.exists_cons_of_ne_nil hl
  refine foldl_choice (R := fun u v => lt v u = false) hirrefl htrans (fun u v => ?_) xs x
  rw [hf]
  by_cases h : lt v u = true
  · rw [if_pos h]; exact ⟨.inr rfl, hasymm v u h, hirrefl v⟩
  · rw [if_neg h]; exact ⟨.inl rfl, hirrefl u, Bool.eq_false_iff.mpr h⟩

theorem extreme_slt {l : List Word} (hl : l ≠ []) :
    (extreme (fun u v => if v.slt u then v else u) l ∈ l
      ∧ ∀ u ∈ l, u.slt (extreme (fun u v => if v.slt u then v else u) l) = false)
    ∧ (extreme (fun u v => if u.slt v then v else u) l ∈ l
      ∧ ∀ u ∈ l, (extreme (fun u v => if u.slt v then v else u) l).slt u = false) := by
  refine ⟨extreme_spec (fun _ _ => rfl) ?_ ?_ hl, extreme_spec (lt := fun u v => v.slt u) (fun _ _ => rfl) ?_ ?_ hl⟩ <;>
  · simp only [BitVec.slt, decide_eq_true_eq, decide_eq_false_iff_not]; omega

theorem extreme_ult {l : List Word} (hl : l ≠ []) :
    (extreme (fun u v => if v.ult u then v else u) l ∈ l
      ∧ ∀ u ∈ l, u.ult (extreme (fun u v => if v.ult u then v else u) l) = false)
    ∧ (extreme (fun u v => if u.ult v then v else u) l ∈ l
      ∧ ∀ u ∈ l, (extreme (fun u v => if u.ult v then v else u) l).ult u = false) := by
  refine ⟨extreme_spec (fun _ _ => rfl) ?_ ?_ hl, extreme_spec (lt := fun u v => v.ult u) (fun _ _ => rfl) ?_ ?_ hl⟩ <;>
  · simp only [BitVec.ult, decide_eq_true_eq, decide_eq_false_iff_not]; omega

/-! ### Conflicts (R179) -/

/-- The lanes below a lane whose value is the same. -/
def sameBelow (vals : List (Nat × Word)) (l : Nat) (v : Word) : List Nat :=
  ((vals.filter fun x => x.2 == v).filter fun x => decide (x.1 < l)).map (·.1)

/-- No lane above a lane has the same value. -/
def isLastOf (vals : List (Nat × Word)) (l : Nat) (v : Word) : Bool :=
  !((vals.filter fun x => x.2 == v).any fun x => decide (l < x.1))

theorem mem_sameBelow {vals : List (Nat × Word)} {l : Nat} {v : Word} {j : Nat} :
    j ∈ sameBelow vals l v ↔ j < l ∧ (j, v) ∈ vals := by
  unfold sameBelow
  simp only [List.mem_map, List.mem_filter, decide_eq_true_eq, beq_iff_eq]
  constructor
  · rintro ⟨⟨k, u⟩, ⟨⟨hm, rfl⟩, hlt⟩, rfl⟩; exact ⟨hlt, hm⟩
  · rintro ⟨hlt, hm⟩; exact ⟨(j, v), ⟨⟨hm, rfl⟩, hlt⟩, rfl⟩

theorem isLastOf_iff {vals : List (Nat × Word)} {l : Nat} {v : Word} : isLastOf vals l v = true ↔ ∀ j, l < j → (j, v) ∉ vals := by
  unfold isLastOf
  simp only [Bool.not_eq_true', List.any_eq_false, List.mem_filter, beq_iff_eq, decide_eq_true_eq]
  constructor
  · exact fun h j hlt hm => h (j, v) ⟨hm, rfl⟩ hlt
  · rintro h ⟨j, u⟩ ⟨hm, rfl⟩ hlt; exact h j hlt hm

section
variable {vals : List (Nat × Word)} (hn : (vals.map (·.1)).Nodup)
include hn

theorem sameBelow_nodup (l : Nat) (v : Word) : (sameBelow vals l v).Nodup :=
  ((List.filter_sublist.trans List.filter_sublist).map _).nodup hn

variable (h32 : ∀ x ∈ vals, x.1 < 32)
include h32

/-- The lanes below with the same value, in rising order. -/
theorem sameBelow_perm (l : Nat) (v : Word) :
    (sameBelow vals l v).Perm ((List.range 32).filter fun j => (laneMask (sameBelow vals l v)).getLsbD j) := by
  rw [List.perm_ext_iff_of_nodup (sameBelow_nodup hn l v) (List.nodup_range.filter _)]
  intro j
  rw [List.mem_filter, List.mem_range, getLsbD_laneMask]
  exact ⟨fun h => ⟨h32 _ (mem_sameBelow.mp h).2, h32 _ (mem_sameBelow.mp h).2, h⟩, fun h => h.2.2⟩

theorem sameBelow_length (l : Nat) (v : Word) : (sameBelow vals l v).length ≤ 32 := by
  rw [(sameBelow_perm hn h32 l v).length_eq]
  exact (List.length_filter_le _ _).trans_eq List.length_range

/-- The parts of a conflict word: mask, leader bit and rank. -/
theorem conflicts_toNat (l : Nat) (v : Word) : (conflicts vals l v).toNat
    = (laneMask (sameBelow vals l v)).toNat + (if isLastOf vals l v then 1 else 0) * 2 ^ 32 + (sameBelow vals l v).length * 2 ^ 33 := by
  have hlen := sameBelow_length hn h32 l v
  have hmask := (laneMask (sameBelow vals l v)).isLt
  have hlast : (if ((vals.filter fun x => x.2 == v).any fun x => decide (l < x.1)) = true then 0 else 1)
      = if isLastOf vals l v then 1 else 0 := by
    unfold isLastOf; cases (vals.filter fun x => x.2 == v).any fun x => decide (l < x.1) <;> rfl
  unfold conflicts
  dsimp only
  rw [hlast, BitVec.toNat_ofNat]
  refine Nat.mod_eq_of_lt ?_
  change (laneMask (sameBelow vals l v)).toNat + _ + (sameBelow vals l v).length * 2 ^ 33 < _
  split <;> omega

theorem conflicts_getLsbD (l : Nat) (v : Word) (j : Nat) : (conflicts vals l v).getLsbD j
    = if j < 32 then (laneMask (sameBelow vals l v)).getLsbD j
      else ((sameBelow vals l v).length * 2 + if isLastOf vals l v then 1 else 0).testBit (j - 32) := by
  have hsplit : (conflicts vals l v).toNat = 2 ^ 32 * ((sameBelow vals l v).length * 2 + if isLastOf vals l v then 1 else 0)
      + (laneMask (sameBelow vals l v)).toNat := by rw [conflicts_toNat hn h32]; ring
  rw [BitVec.getLsbD, hsplit, Nat.testBit_two_pow_mul_add _ (laneMask (sameBelow vals l v)).isLt]
  rfl

theorem conflicts_mask (l : Nat) (v : Word) {j : Nat} (hj : j < 32) :
    (conflicts vals l v).getLsbD j = true ↔ j < l ∧ (j, v) ∈ vals := by
  rw [conflicts_getLsbD hn h32, if_pos hj, getLsbD_laneMask, mem_sameBelow]
  exact and_iff_right hj

theorem conflicts_leader (l : Nat) (v : Word) : (conflicts vals l v).getLsbD 32 = true ↔ ∀ j, l < j → (j, v) ∉ vals := by
  rw [conflicts_getLsbD hn h32, if_neg (Nat.lt_irrefl 32), ← isLastOf_iff, Nat.sub_self, Nat.testBit_zero]
  cases isLastOf vals l v <;> simp [Nat.add_mod]

theorem conflicts_rank (l : Nat) (v : Word) : (conflicts vals l v).toNat / 2 ^ 33
    = ((List.range 32).filter fun j => (conflicts vals l v).getLsbD j).length := by
  have hbits : ((List.range 32).filter fun j => (conflicts vals l v).getLsbD j)
      = (List.range 32).filter fun j => (laneMask (sameBelow vals l v)).getLsbD j :=
    List.filter_congr fun j hj => by rw [conflicts_getLsbD hn h32, if_pos (List.mem_range.mp hj)]
  rw [hbits, ← (sameBelow_perm hn h32 l v).length_eq, conflicts_toNat hn h32]
  have hmask := (laneMask (sameBelow vals l v)).isLt
  split <;> omega

end

/-! ### The words of the group's lanes (R178) -/

/-- Every active lane's operand can be read: the values of the active lanes are those of each. -/
theorem laneValues_read {g : BitVec 2} {a : BitVec 7} {s : State} {iss : Issue} {x : Thread → Word} {r : Thread → Thread}
    (hs : Alone s iss) (hr : Reads1 s iss g a x r) :
    laneValues g a s iss = (activeThreads s iss g).map fun t => (laneNo iss t, x t) := by
  unfold laneValues
  rw [← List.filterMap_eq_map]
  refine List.filterMap_congr fun t ht => ?_
  obtain ⟨hm, ha⟩ := (mem_activeThreads hs.rows t).mp ht
  rw [hr t hm ha]
  rfl

section
variable {i : Instr} {g : BitVec 2} {s : State} {iss : Issue} (hs : Alone s iss)
include hs

/-- A word that gives each lane a predicate. -/
theorem does_of_laneShared {p : BitVec 3} {f : State → Issue → Nat → Bool} (hi : exec i s = laneWord g (laneShared p f) s) :
    Does i s iss g fun t => resultPred iss .s p.toNat 0 (f s iss (laneNo iss t)) t :=
  does_of_lane hs hi (fun _ _ _ => rfl) fun _ _ _ => kept_resultPred _ _ _ _ _ _

variable {d a : BitVec 7} {x : Thread → Word} {r : Thread → Thread} (hr : Reads1 s iss g a x r)
include hr

/-- A word that gives each lane what the values of all come to. -/
theorem reduction_of_lane {f f' : List Word → Word} (hi : exec i s = laneWord g (laneReduce g d a f') s) (hf : f' = f) :
    let all := fun t => result32 iss .s d 0 (f ((laneValues g a s iss).map (·.2))) (r t)
    (ToRegister d 0 → Does i s iss g all) ∧ Leads i s iss g all := by
  subst hf
  intro all
  have hlane : ∀ t ∈ s.threads, isActive iss g t = true → laneReduce g d a f' s iss t = .ok (all t) := fun t ht ha => by
    unfold laneReduce; rw [hr t ht ha]
  exact ⟨fun hd => does_of_lane hs hi hlane fun t ht ha => (kept_src32 (hr t ht ha)).trans (kept_result32 _ _ _ _ _ _ hd),
    leads_of_lane hs hi hlane⟩

theorem does_of_laneCdet (hi : exec i s = laneWord g (laneCdet g d a) s) :
    Does i s iss g fun t => result64 iss .s d 0 (conflicts (laneValues g a s iss) (laneNo iss t) (x t)) (r t) :=
  does_of_lane hs hi (fun t ht ha => by unfold laneCdet; rw [hr t ht ha])
    fun t ht ha => (kept_src32 (hr t ht ha)).trans (kept_result64 _ _ _ _ _ _)

end

end Sys2Proof.Machine

open Sys2Proof Sys2Proof.Machine

/-- Settles O10: each word is an exchange of its kind, whose source lane the model computes as stated. -/
theorem laneExchanges : Obligations.LaneExchanges := by
  intro c g d a b w s iss x y r hs hr heard does
  have hheard : ∀ (k : Exchange) (src : Nat → Nat → Option Nat), (∀ l n, exchangeSource k l n = src l n) → ∀ t,
      heard src t = result32 iss .s d w (exchange k (laneValues g a s iss) (laneNo iss t) (x t) (y t)) (r t) := by
    intro k src hsrc t
    rw [exchange_eq, hsrc]
    dsimp only [heard]
    cases (src (laneNo iss t) ((y t).toNat % 32)).bind fun j => (laneValues g a s iss).lookup j <;> rfl
  refine ⟨?lxAt, ?lxBelow, ?lxAbove, ?lxMirror⟩
  case lxAt => exact exchange_of_lane hs hr rfl (hheard .at _ fun _ _ => rfl)
  case lxBelow => exact exchange_of_lane hs hr rfl (hheard .below _ fun _ _ => rfl)
  case lxAbove => exact exchange_of_lane hs hr rfl (hheard .above _ fun _ _ => rfl)
  case lxMirror => exact exchange_of_lane hs hr rfl (hheard .mirror _ fun _ _ => rfl)

/-- Settles O11: masks, extremes and conflict words by their bits and members; each word gives its lanes what the model
computes of all their values. -/
theorem laneReductions : Obligations.LaneReductions := by
  refine ⟨getLsbD_laneMask, fun l hl => ?extremes, fun vals l v hn h32 => ?conflicts, fun c g p q d a s iss hs => ?words⟩
  case extremes =>
    obtain ⟨hminS, hmaxS⟩ := extreme_slt hl
    obtain ⟨hminN, hmaxN⟩ := extreme_ult hl
    exact ⟨hminS, hminN, hmaxS, hmaxN⟩
  case conflicts =>
    exact ⟨fun _ hj => conflicts_mask hn h32 l v hj, conflicts_leader hn h32 l v, conflicts_rank hn h32 l v⟩
  case words =>
    refine ⟨?lany, ?lall, ?lfirst, ?lmask, fun x r hr => ?reductions⟩
    case lany => exact does_of_laneShared (f := fun s iss _ => (lanePreds g q s iss).any (·.2)) hs rfl
    case lall => exact does_of_laneShared (f := fun s iss _ => (lanePreds g q s iss).all (·.2)) hs rfl
    case lfirst =>
      have h := does_of_laneShared (i := .lfirst c g p) hs rfl
      unfold lanePreds at h
      simp only [List.head?_map, Option.map_map] at h
      exact h
    case lmask =>
      exact ⟨fun hd => does_of_lane hs rfl (fun _ _ _ => rfl) fun _ _ _ => kept_result32 _ _ _ _ _ _ hd,
        leads_of_lane hs rfl fun _ _ _ => rfl⟩
    case reductions =>
      refine ⟨laneValues_read hs hr, ?lsum, ?lminS32, ?lminN32, ?lmaxS32, ?lmaxN32, ?cdet⟩
      case lsum => exact reduction_of_lane (f := sumWords) hs hr rfl rfl
      case lminS32 => exact reduction_of_lane hs hr rfl (congrArg extreme (funext₂ minS_eq))
      case lminN32 => exact reduction_of_lane hs hr rfl (congrArg extreme (funext₂ minN_eq))
      case lmaxS32 => exact reduction_of_lane hs hr rfl (congrArg extreme (funext₂ maxS_eq))
      case lmaxN32 => exact reduction_of_lane hs hr rfl (congrArg extreme (funext₂ maxN_eq))
      case cdet => exact does_of_laneCdet hs hr rfl
end

section
/-! PROOFS. Floating-point arithmetic on codes (08 R164, R165): each class of operands, and what is delivered of it. -/

namespace Sys2Proof.Machine

open Sys2Proof (Byte Word DWord Instr)

set_option Elab.async false

/-! ### Classes of codes -/

/-- A format of arithmetic: infinities, a canonical NaN, and room for them below the sign. -/
structure Fmt.Arithmetic (f : Fmt) : Prop where
  hasInf : f.hasInf = true
  nan : f.nan.isSome = true
  low : f.low ≤ 0
  exponent : 0 < f.ebits
  room : f.top + 1 < f.signBit

theorem arithmetic_of_mem {f : Fmt} (h : f ∈ [fmtF32, fmtBf16, fmtF16]) : f.Arithmetic := by
  simp only [List.mem_cons, List.not_mem_nil, or_false] at h
  obtain rfl | rfl | rfl := h <;> exact ⟨rfl, rfl, by decide, by decide, by decide⟩

theorem Fmt.class_cases (f : Fmt) {x : Nat} (h : x < 2 * f.signBit) : f.Finite x ∨ f.Infinite x ∨ f.NotNumber x := by
  unfold Fmt.Finite Fmt.Infinite Fmt.NotNumber
  cases f.hasInf <;> simp [h] <;> omega

section
variable {f : Fmt} {x : Nat}

theorem Fmt.Finite.not_notNumber (h : f.Finite x) : ¬ f.NotNumber x := by
  rintro ⟨-, hn⟩; have := h.2; split at hn <;> omega

theorem Fmt.Infinite.not_notNumber (h : f.Infinite x) : ¬ f.NotNumber x := by
  obtain ⟨-, hi, hx⟩ := h
  rintro ⟨-, hn⟩
  rw [hi, if_pos rfl] at hn
  omega

/-- Only a NaN signals. -/
theorem Fmt.signals_of_not_notNumber (h : ¬ f.NotNumber x) (hx : x < 2 * f.signBit) : f.signals x = false := by
  unfold Fmt.signals
  rw [decide_eq_false fun hn => h ⟨hx, hn⟩, Bool.false_and]

theorem Fmt.Infinite.decode (h : f.Infinite x) : f.decode x = .inf (f.isNegative x) := by
  obtain ⟨-, hi, hx⟩ := h
  unfold Fmt.decode Fmt.isNegative
  rw [hx, hi]
  simp

theorem Fmt.Infinite.eq_infinity (h : f.Infinite x) : x = f.infinity (f.isNegative x) := Fmt.eq_infinity_of_decode h.decode h.1

/-- The fraction's leading bit lies below the sign. -/
theorem Fmt.quietBit_mod (he : 0 < f.ebits) : x % f.signBit / 2 ^ (f.fbits - 1) % 2 = x / 2 ^ (f.fbits - 1) % 2 := by
  have hsplit : f.signBit = 2 ^ (f.fbits - 1) * 2 * 2 ^ (f.ebits + f.fbits - (f.fbits - 1) - 1) := by
    unfold Fmt.signBit
    rw [← Nat.pow_succ, ← Nat.pow_add]
    congr 1
    omega
  rw [hsplit, Nat.mul_assoc, Nat.mod_mul_right_div_self, Nat.mod_mul_right_mod]

theorem Fmt.NotNumber.decode (h : f.NotNumber x) (he : 0 < f.ebits) : f.decode x = .nan (f.signals x) := by
  obtain ⟨-, hn⟩ := h
  unfold Fmt.decode Fmt.signals
  dsimp only
  rw [decide_eq_true hn, Fmt.quietBit_mod he, Bool.true_and]
  cases hi : f.hasInf with
  | false =>
    rw [hi, if_neg Bool.false_ne_true] at hn
    rw [if_neg (by omega)]
    simp
  | true =>
    rw [hi, if_pos rfl] at hn
    rw [if_neg (by omega), decide_eq_false (by omega)]
    simp

theorem Fmt.isSnan_decode (he : 0 < f.ebits) (hx : x < 2 * f.signBit) : isSnan (f.decode x) = f.signals x := by
  rcases f.class_cases hx with h | h | h
  · obtain ⟨m, e, hd, -⟩ := f.decode_finite h.2
    rw [hd, Fmt.signals_of_not_notNumber h.not_notNumber hx]; rfl
  · rw [h.decode, Fmt.signals_of_not_notNumber h.not_notNumber hx]; rfl
  · rw [h.decode he]; rfl

end

/-- A finite code of number zero is a zero. -/
theorem Fmt.number_eq_zero (f : Fmt) {x : Nat} : f.number x = 0 ↔ x % f.signBit = 0 := by
  have h := f.count_strictMono.injective.eq_iff (a := x % f.signBit) (b := 0)
  rw [f.count_zero] at h
  unfold Fmt.number
  rw [signed_eq_zero, h]

/-! ### NaN operands (R165) -/

theorem invalidIf_or (a b : Bool) : invalidIf a ||| invalidIf b = invalidIf (a || b) := by cases a <;> cases b <;> rfl

/-- A NaN among the operands of a sum gives a NaN, invalid where one of them is signalling. -/
theorem addVal_nan (r : Rounding) {a b : Val} (h : isNan a = true ∨ isNan b = true) :
    addVal r a b = (.nan false, invalidIf (isSnan a || isSnan b)) := by
  cases a with
  | nan p => cases b <;> simp [addVal, isSnan, invalidIf]
  | _ => cases b <;> simp [isNan] at h; simp [addVal, isSnan, invalidIf]

theorem mulVal_nan {a b : Val} (h : isNan a = true ∨ isNan b = true) :
    mulVal a b = (.nan false, invalidIf (isSnan a || isSnan b)) := by
  cases a with
  | nan p => cases b <;> simp [mulVal, isSnan, invalidIf]
  | _ => cases b <;> simp [isNan] at h; simp [mulVal, isSnan, invalidIf]

@[simp] theorem isNan_negVal (v : Val) : isNan (negVal v) = isNan v := by cases v <;> rfl

@[simp] theorem isSnan_negVal (v : Val) : isSnan (negVal v) = isSnan v := by cases v <;> rfl

/-- A product that sets no flag is added to as it is. -/
theorem Fmt.fFma_eq (f : Fmt) (r : Rounding) {x y : Nat} {p : Val} (h : mulVal (f.decode x) (f.decode y) = (p, 0)) (z : Nat) :
    fFma f r x y z = f.finish r (addVal r p (f.decode z)) := by
  unfold fFma
  rw [h]
  exact congrArg (f.finish r) (Prod.ext rfl BitVec.or_zero)

theorem addVal_inf_fin (r : Rounding) (n a : Bool) (m : Nat) (e : Int) :
    addVal r (.inf n) (.fin a m e) = (.inf n, 0) ∧ addVal r (.fin a m e) (.inf n) = (.inf n, 0) := ⟨rfl, rfl⟩

section
variable {f : Fmt} (hf : f.Arithmetic) (r : Rounding)
include hf

theorem Fmt.finish_nan (b : Bool) : f.finish r (.nan false, invalidIf b) = (f.quiet, invalidIf b) := by
  have hn := Option.isNone_eq_false_iff.mpr hf.nan
  simp [Fmt.finish, Fmt.deliver, hn]

theorem Fmt.finish_inf (n : Bool) : f.finish r (.inf n, 0) = (f.infinity n, 0) := by
  simp [Fmt.finish, Fmt.deliver, hf.hasInf]

variable {x y : Nat}

theorem Fmt.isNan_decode_of_or (h : f.NotNumber x ∧ y < 2 * f.signBit ∨ x < 2 * f.signBit ∧ f.NotNumber y) :
    (isNan (f.decode x) = true ∨ isNan (f.decode y) = true) ∧ isSnan (f.decode x) = f.signals x
      ∧ isSnan (f.decode y) = f.signals y := by
  obtain ⟨hx, hy⟩ | ⟨hx, hy⟩ := h
  · exact ⟨.inl (by rw [hx.decode hf.exponent]; rfl), Fmt.isSnan_decode hf.exponent hx.1, Fmt.isSnan_decode hf.exponent hy⟩
  · exact ⟨.inr (by rw [hy.decode hf.exponent]; rfl), Fmt.isSnan_decode hf.exponent hx, Fmt.isSnan_decode hf.exponent hy.1⟩

/-- With a NaN among its operands every operation delivers the canonical NaN. -/
theorem Fmt.arithmetic_nan (h : f.NotNumber x ∧ y < 2 * f.signBit ∨ x < 2 * f.signBit ∧ f.NotNumber y) :
    let nan := fun (flag : Bool) => (f.quiet, invalidIf flag)
    fAdd f r x y = nan (f.signals x || f.signals y) ∧ fSub f r x y = nan (f.signals x || f.signals y)
      ∧ fMul f r x y = nan (f.signals x || f.signals y)
      ∧ ∀ z < 2 * f.signBit, fFma f r x y z = nan (f.signals x || f.signals y || f.signals z) := by
  obtain ⟨hnan, hsx, hsy⟩ := Fmt.isNan_decode_of_or hf h
  refine ⟨?_, ?_, ?_, fun z hz => ?_⟩
  · rw [fAdd, addVal_nan r hnan, Fmt.finish_nan hf, hsx, hsy]
  · rw [fSub, addVal_nan r (by simpa using hnan), Fmt.finish_nan hf, isSnan_negVal, hsx, hsy]
  · rw [fMul, mulVal_nan hnan, Fmt.finish_nan hf, hsx, hsy]
  · rw [fFma, mulVal_nan hnan]
    dsimp only
    rw [addVal_nan r (.inl rfl), invalidIf_or, Fmt.finish_nan hf, hsx, hsy, Fmt.isSnan_decode hf.exponent hz, Bool.or_comm]
    rfl

/-! ### Infinite operands (R165) -/

/-- An invalid product makes a fused product invalid whatever is added. -/
theorem Fmt.fFma_invalid {z : Nat} (h : mulVal (f.decode x) (f.decode y) = (.nan false, flagNV)) :
    fFma f r x y z = (f.quiet, flagNV) := by
  have hflags : ∀ b, invalidIf b ||| flagNV = invalidIf true := by decide
  rw [fFma, h]
  dsimp only
  rw [addVal_nan r (.inl rfl), hflags, Fmt.finish_nan hf]
  rfl

omit hf in
/-- An infinity times a finite value: invalid where that is zero. -/
theorem Fmt.mulVal_infinite_finite (hx : f.Infinite x) (hy : f.Finite y) :
    mulVal (f.decode x) (f.decode y)
      = (if f.number y = 0 then (.nan false, flagNV) else (.inf (f.isNegative x != f.isNegative y), 0))
    ∧ mulVal (f.decode y) (f.decode x)
      = (if f.number y = 0 then (.nan false, flagNV) else (.inf (f.isNegative x != f.isNegative y), 0)) := by
  obtain ⟨m, e, hd, -, hn⟩ := f.decode_finite hy.2
  have hzero : m = 0 ↔ f.number y = 0 := by rw [← hn, signed_mul_natCast, signed_eq_zero]; simp
  rw [hx.decode, hd, bne_comm (a := f.isNegative x)]
  simp only [mulVal, hzero, bne_comm (a := f.isNegative x), and_self]

/-- An infinity and a finite number: the infinity stays, and a product takes both signs. -/
theorem Fmt.arithmetic_infinite_finite (hx : f.Infinite x) (hy : f.Finite y) :
    let inf := (f.infinity (f.isNegative x != f.isNegative y), (0 : BitVec 8))
    let nan := (f.quiet, invalidIf true)
    fAdd f r x y = (x, 0) ∧ fAdd f r y x = (x, 0) ∧ fSub f r x y = (x, 0) ∧ fSub f r y x = (f.infinity (!f.isNegative x), 0)
      ∧ (f.number y ≠ 0 → fMul f r x y = inf ∧ fMul f r y x = inf ∧ ∀ z, f.Finite z → fFma f r x y z = inf)
      ∧ (f.number y = 0 → fMul f r x y = nan ∧ fMul f r y x = nan ∧ ∀ z, fFma f r x y z = nan ∧ fFma f r y x z = nan) := by
  obtain ⟨hxy, hyx⟩ := Fmt.mulVal_infinite_finite hx hy
  obtain ⟨m, e, hd, -⟩ := f.decode_finite hy.2
  have hself := hx.eq_infinity.symm
  refine ⟨?_, ?_, ?_, ?_, fun hn => ⟨?_, ?_, fun z hz => ?_⟩, fun hn => ⟨?_, ?_, fun z => ⟨?_, ?_⟩⟩⟩
  · rw [fAdd, hx.decode, hd, (addVal_inf_fin ..).1, Fmt.finish_inf hf, hself]
  · rw [fAdd, hx.decode, hd, (addVal_inf_fin ..).2, Fmt.finish_inf hf, hself]
  · rw [fSub, hx.decode, hd, negVal, (addVal_inf_fin ..).1, Fmt.finish_inf hf, hself]
  · rw [fSub, hx.decode, hd, negVal, (addVal_inf_fin ..).2, Fmt.finish_inf hf]
  · rw [fMul, hxy, if_neg hn, Fmt.finish_inf hf]
  · rw [fMul, hyx, if_neg hn, Fmt.finish_inf hf]
  · obtain ⟨k, d, hdz, -⟩ := f.decode_finite hz.2
    rw [f.fFma_eq r (hxy.trans (if_neg hn)), hdz, (addVal_inf_fin ..).1, Fmt.finish_inf hf]
  · rw [fMul, hxy, if_pos hn]; exact Fmt.finish_nan hf r true
  · rw [fMul, hyx, if_pos hn]; exact Fmt.finish_nan hf r true
  · exact Fmt.fFma_invalid hf r (by rw [hxy, if_pos hn])
  · exact Fmt.fFma_invalid hf r (by rw [hyx, if_pos hn])

/-- Infinities of both signs are no sum. -/
theorem Fmt.finish_addVal_infinities (a b : Bool) :
    f.finish r (addVal r (.inf a) (.inf b)) = if a = b then (f.infinity a, 0) else (f.quiet, invalidIf true) := by
  by_cases h : a = b
  · rw [addVal, if_pos (beq_iff_eq.mpr h), if_pos h, Fmt.finish_inf hf]
  · rw [addVal, if_neg (by simpa using h), if_neg h]; exact Fmt.finish_nan hf r true

theorem Fmt.arithmetic_infinities (hx : f.Infinite x) (hy : f.Infinite y) :
    let nan := (f.quiet, invalidIf true)
    fAdd f r x y = (if f.isNegative x = f.isNegative y then (x, 0) else nan)
      ∧ fSub f r x y = (if f.isNegative x = f.isNegative y then nan else (x, 0))
      ∧ fMul f r x y = (f.infinity (f.isNegative x != f.isNegative y), 0)
      ∧ ∀ z, f.Infinite z → fFma f r x y z = if (f.isNegative x != f.isNegative y) = f.isNegative z then (z, 0) else nan := by
  have hself := hx.eq_infinity.symm
  refine ⟨?_, ?_, ?_, fun z hz => ?_⟩
  · rw [fAdd, hx.decode, hy.decode, Fmt.finish_addVal_infinities hf, hself]
  · rw [fSub, hx.decode, hy.decode, negVal, Fmt.finish_addVal_infinities hf, hself]
    cases f.isNegative x <;> cases f.isNegative y <;> rfl
  · rw [fMul, hx.decode, hy.decode, mulVal, Fmt.finish_inf hf]
  · have hproduct : mulVal (f.decode x) (f.decode y) = (.inf (f.isNegative x != f.isNegative y), 0) := by
      rw [hx.decode, hy.decode, mulVal]
    rw [f.fFma_eq r hproduct, hz.decode, Fmt.finish_addVal_infinities hf]
    split
    next h => rw [h, ← hz.eq_infinity]
    next => rfl

/-! ### Finite operands (R164) -/

omit hf in
theorem Fmt.fAdd_delivers (hx : f.Finite x) (hy : f.Finite y) :
    Delivers f r (zeroSign r (f.isNegative x) (f.isNegative y)) (f.number x + f.number y) f.low (fAdd f r x y) := by
  obtain ⟨m, e, hdx, he, hnx⟩ := f.decode_finite hx.2
  obtain ⟨k, d, hdy, hd, hny⟩ := f.decode_finite hy.2
  rw [← hnx, ← hny, fAdd, hdx, hdy]
  exact f.finish_addFin r _ _ m k he hd

omit hf in
/-- The exact product of finite codes. -/
theorem Fmt.mulVal_finite (hx : f.Finite x) (hy : f.Finite y) :
    ∃ m e, mulVal (f.decode x) (f.decode y) = (.fin (f.isNegative x != f.isNegative y) m e, 0) ∧ 2 * f.low ≤ e
      ∧ signed (f.isNegative x != f.isNegative y) m * ((2 ^ (e - 2 * f.low).toNat : Nat) : Int) = f.number x * f.number y := by
  obtain ⟨m, e, hdx, he, hnx⟩ := f.decode_finite hx.2
  obtain ⟨k, d, hdy, hd, hny⟩ := f.decode_finite hy.2
  refine ⟨m * k, e + d, by rw [hdx, hdy, mulVal], by omega, ?_⟩
  rw [← hnx, ← hny, signed_mul_natCast, signed_mul_natCast, signed_mul_natCast, ← signed_mul_signed,
    show (e + d - 2 * f.low).toNat = (e - f.low).toNat + (d - f.low).toNat by omega, Nat.pow_add, Nat.mul_mul_mul_comm]

omit hf in
theorem Fmt.fMul_delivers (hx : f.Finite x) (hy : f.Finite y) :
    Delivers f r (f.isNegative x != f.isNegative y) (f.number x * f.number y) (2 * f.low) (fMul f r x y) := by
  obtain ⟨m, e, hm, he, hn⟩ := Fmt.mulVal_finite hx hy
  rw [fMul, hm, Fmt.finish_noFlags, ← hn]
  exact f.deliver_fin r (fun _ => rfl) fun _ => he

/-- A fused product of finite operands is rounded once. -/
theorem Fmt.fFma_delivers {z : Nat} (hx : f.Finite x) (hy : f.Finite y) (hz : f.Finite z) :
    Delivers f r (zeroSign r (f.isNegative x != f.isNegative y) (f.isNegative z))
      (f.number x * f.number y + f.number z * 2 ^ (-f.low).toNat) (2 * f.low) (fFma f r x y z) := by
  obtain ⟨m, e, hm, he, hn⟩ := Fmt.mulVal_finite hx hy
  obtain ⟨k, d, hdz, hd, hnz⟩ := f.decode_finite hz.2
  have hlow := hf.low
  have hscale := two_pow_toNat_mul (a := 2 * f.low) (by omega : 2 * f.low ≤ f.low) hd
  rw [show f.low - 2 * f.low = -f.low by omega] at hscale
  rw [← hn, ← hnz, mul_assoc, hscale, f.fFma_eq r hm, hdz]
  exact f.finish_addFin r _ _ m k he (by omega)

/-- Finite factors and a summand that is no number. -/
theorem Fmt.fFma_special {z : Nat} (hx : f.Finite x) (hy : f.Finite y) :
    (f.Infinite z → fFma f r x y z = (z, 0)) ∧ (f.NotNumber z → fFma f r x y z = (f.quiet, invalidIf (f.signals z))) := by
  obtain ⟨m, e, hm, -⟩ := Fmt.mulVal_finite hx hy
  refine ⟨fun hz => ?_, fun hz => ?_⟩
  · rw [f.fFma_eq r hm, hz.decode, (addVal_inf_fin ..).2, Fmt.finish_inf hf, ← hz.eq_infinity]
  · rw [f.fFma_eq r hm, hz.decode hf.exponent, addVal_nan r (.inr rfl), Fmt.finish_nan hf]
    rfl

end

end Sys2Proof.Machine

open Sys2Proof Sys2Proof.Machine

/-- Settles O7: the words are their operations on elements; a result by the class of its operands. -/
theorem floatArithmetic : Obligations.FloatArithmetic := by
  intro c g d a b w i
  refine ⟨?faddF32, ?faddBf16x2, ?faddF16x2, ?fsubF32, ?fsubBf16x2, ?fsubF16x2, ?fmulF32, ?fmulBf16x2, ?fmulF16x2,
    ?ffmaF32, ?ffmaBf16x2, ?ffmaF16x2, ?faddiF32, ?faddiBf16x2, ?faddiF16x2, ?fmuliF32, ?fmuliBf16x2, ?fmuliF16x2, ?results⟩
  case faddF32 | faddBf16x2 | faddF16x2 | fsubF32 | fsubBf16x2 | fsubF16x2 | fmulF32 | fmulBf16x2 | fmulF16x2 =>
    exact fword2_of_lane (fun _ => rfl) fun _ _ _ => rfl
  case ffmaF32 | ffmaBf16x2 | ffmaF16x2 => exact fword3_of_lane fun _ => rfl
  case faddiF32 | faddiBf16x2 | faddiF16x2 | fmuliF32 | fmuliBf16x2 | fmuliF16x2 =>
    exact fword1_of_lane (fun _ => rfl) fun _ _ => rfl
  case results =>
    intro f hmem r x y z _ neg nan
    have hf := arithmetic_of_mem hmem
    refine ⟨fun hx hy => ?finite, fun h => ?nan, fun hx hy => ?infiniteFinite, fun hx hy => ?infinite⟩
    case finite =>
      exact ⟨Fmt.fAdd_delivers r hx hy, f.fSub_delivers r hx hy, Fmt.fMul_delivers r hx hy, Fmt.fFma_delivers hf r hx hy,
        Fmt.fFma_special hf r hx hy⟩
    case nan =>
      obtain ⟨hadd, hsub, hmul, hfma⟩ := Fmt.arithmetic_nan hf r h
      exact ⟨hadd, hsub, hmul, hfma z⟩
    case infiniteFinite =>
      obtain ⟨hxy, hyx, hsub, hbus, hnum, hzero⟩ := Fmt.arithmetic_infinite_finite hf r hx hy
      refine ⟨hxy, hyx, hsub, hbus, fun hn => ?_, fun hn => ?_⟩
      · obtain ⟨h, k, hfma⟩ := hnum hn
        exact ⟨h, k, hfma z⟩
      · obtain ⟨h, k, hfma⟩ := hzero hn
        exact ⟨h, k, fun _ => hfma z⟩
    case infinite =>
      obtain ⟨hadd, hsub, hmul, hfma⟩ := Fmt.arithmetic_infinities hf r hx hy
      exact ⟨hadd, hsub, hmul, hfma z⟩
end

section
/-! PROOFS. Floating-point minima, maxima and compares by the numbers and infinities of codes (08 R166, R168), and `qtsh` (08 R175). -/

namespace Sys2Proof.Machine

open Sys2Proof (Byte Word DWord Instr)

set_option Elab.async false

/-! ### The order of codes (R166) -/

/-- A code is its sign and its magnitude. -/
theorem Fmt.eq_withSign (f : Fmt) {x : Nat} (h : x < 2 * f.signBit) : x = f.withSign (f.isNegative x) (x % f.signBit) := by
  have hdiv := Nat.div_add_mod' x f.signBit
  have hq : x / f.signBit < 2 := Nat.div_lt_of_lt_mul (by omega)
  unfold Fmt.withSign Fmt.isNegative
  generalize x / f.signBit = q at *
  obtain rfl | rfl : q = 0 ∨ q = 1 := by omega
  · simp; omega
  · simp; omega

theorem orderKey_eq (f : Fmt) (x : Nat) :
    orderKey f x = if f.isNegative x then -((x % f.signBit : Nat) : Int) - 1 else ((x % f.signBit : Nat) : Int) := by
  simp [orderKey, Fmt.isNegative]

theorem orderKey_inj (f : Fmt) {x y : Nat} (hx : x < 2 * f.signBit) (hy : y < 2 * f.signBit) (h : orderKey f x = orderKey f y) :
    x = y := by
  rw [orderKey_eq, orderKey_eq] at h
  have hsame : f.isNegative x = f.isNegative y ∧ x % f.signBit = y % f.signBit := by
    generalize x % f.signBit = a at *
    generalize y % f.signBit = b at *
    generalize f.isNegative x = m at *
    generalize f.isNegative y = n at *
    cases m <;> cases n <;> simp at h ⊢ <;> omega
  rw [f.eq_withSign hx, f.eq_withSign hy, hsame.1, hsame.2]

/-- x comes before y: a smaller number, or -0 before +0. -/
def Fmt.Below (f : Fmt) (x y : Nat) : Prop := f.number x < f.number y ∨ (f.number x = f.number y ∧ f.isNegative x = true)

/-- The model's order of codes is that of their numbers, -0 below +0. -/
theorem Fmt.below_of_key_lt (f : Fmt) {x y : Nat} (h : orderKey f x < orderKey f y) : f.Below x y := by
  have hx := f.count_strictMono.lt_iff_lt (a := x % f.signBit) (b := y % f.signBit)
  have hy := f.count_strictMono.lt_iff_lt (a := y % f.signBit) (b := x % f.signBit)
  rw [orderKey_eq, orderKey_eq] at h
  unfold Fmt.Below Fmt.number
  generalize x % f.signBit = a at *
  generalize y % f.signBit = b at *
  generalize f.isNegative x = m at *
  generalize f.isNegative y = n at *
  cases m <;> cases n <;> simp [signed] at h ⊢ <;> omega

theorem Fmt.key_le_of_below (f : Fmt) {x y : Nat} (h : f.Below x y) : orderKey f x ≤ orderKey f y := by
  by_contra hlt
  have hback := f.below_of_key_lt (not_le.mp hlt)
  have hnum : f.number x = f.number y := by
    rcases h with h | ⟨h, -⟩
    · rcases hback with k | ⟨k, -⟩ <;> omega
    · exact h
  have hneg : f.isNegative x = true ∧ f.isNegative y = true :=
    ⟨(h.resolve_left hnum.not_lt).2, (hback.resolve_left hnum.symm.not_lt).2⟩
  have hsame : x % f.signBit = y % f.signBit := by
    unfold Fmt.number at hnum
    rw [hneg.1, hneg.2] at hnum
    exact f.count_strictMono.injective (by simpa [signed] using hnum)
  rw [orderKey_eq, orderKey_eq, hneg.1, hneg.2, hsame] at hlt
  exact hlt le_rfl

/-! ### Minima and maxima (R166) -/

section
variable {f : Fmt} {x y : Nat}

theorem Fmt.isNan_decode (he : 0 < f.ebits) (hx : x < 2 * f.signBit) : isNan (f.decode x) = true ↔ f.NotNumber x := by
  rcases f.class_cases hx with h | h | h
  · obtain ⟨m, e, hd, -⟩ := f.decode_finite h.2
    rw [hd]; exact iff_of_false Bool.false_ne_true h.not_notNumber
  · rw [h.decode]; exact iff_of_false Bool.false_ne_true h.not_notNumber
  · rw [h.decode he]; exact iff_of_true rfl h

variable (he : 0 < f.ebits) (hx : x < 2 * f.signBit) (hy : y < 2 * f.signBit)
include he hx hy

/-- Which operand a pick delivers, by NaNs and the order of codes. -/
theorem fPick_spec (b : Bool) :
    let nv := invalidIf (f.signals x || f.signals y)
    (¬ f.NotNumber x → ¬ f.NotNumber y → fPick f b x y
      = (if b then (if orderKey f x ≤ orderKey f y then x else y) else (if orderKey f y ≤ orderKey f x then x else y), 0))
    ∧ (f.NotNumber x → f.NotNumber y → fPick f b x y = (f.quiet, nv))
    ∧ (f.NotNumber x → ¬ f.NotNumber y → fPick f b x y = (y, nv))
    ∧ (¬ f.NotNumber x → f.NotNumber y → fPick f b x y = (x, nv)) := by
  have hnx := Fmt.isNan_decode he hx
  have hny := Fmt.isNan_decode he hy
  unfold fPick
  dsimp only
  rw [Fmt.isSnan_decode he hx, Fmt.isSnan_decode he hy]
  refine ⟨fun h k => ?numbers, fun h k => ?both, fun h k => ?first, fun h k => ?second⟩
  case numbers =>
    have hsx := Fmt.signals_of_not_notNumber h hx
    have hsy := Fmt.signals_of_not_notNumber k hy
    rw [← hnx, Bool.not_eq_true] at h
    rw [← hny, Bool.not_eq_true] at k
    cases b <;> simp [h, k, hsx, hsy]
  case both => simp [hnx.mpr h, hny.mpr k, invalidIf]
  case first =>
    rw [← hny, Bool.not_eq_true] at k
    simp [hnx.mpr h, k, invalidIf]
  case second =>
    rw [← hnx, Bool.not_eq_true] at h
    simp [h, hny.mpr k, invalidIf]

section
variable (hnx : ¬ f.NotNumber x) (hny : ¬ f.NotNumber y)
include hnx hny

/-- Between numbers and infinities a pick takes the one or the other by the order of codes alone. -/
theorem fPick_of_key_le (h : orderKey f x ≤ orderKey f y) :
    (fPick f true x y = (x, 0) ∧ fPick f true y x = (x, 0)) ∧ fPick f false x y = (y, 0) ∧ fPick f false y x = (y, 0) := by
  have hsame : orderKey f y ≤ orderKey f x → x = y := fun k => orderKey_inj f hx hy (le_antisymm h k)
  obtain ⟨hmin, -⟩ := fPick_spec he hx hy true
  obtain ⟨hmax, -⟩ := fPick_spec he hx hy false
  obtain ⟨hmin', -⟩ := fPick_spec he hy hx true
  obtain ⟨hmax', -⟩ := fPick_spec he hy hx false
  rw [hmin hnx hny, hmax hnx hny, hmin' hny hnx, hmax' hny hnx]
  by_cases k : orderKey f y ≤ orderKey f x
  · simp [hsame k]
  · simp [h, k]

end

end

/-- An infinity lies at its end of the order. -/
theorem Fmt.Infinite.key {f : Fmt} {x y : Nat} (h : f.Infinite x) (hy : y < 2 * f.signBit) (hn : ¬ f.NotNumber y) :
    if f.isNegative x then orderKey f x ≤ orderKey f y else orderKey f y ≤ orderKey f x := by
  obtain ⟨-, hi, hx⟩ := h
  have hle : y % f.signBit ≤ f.top + 1 := by
    by_contra hlt
    exact hn ⟨hy, by rw [hi, if_pos rfl]; omega⟩
  rw [orderKey_eq, orderKey_eq, hx]
  generalize y % f.signBit = b at *
  cases f.isNegative x <;> cases f.isNegative y <;> simp <;> omega

section
variable {f : Fmt} {x y : Nat} (he : 0 < f.ebits) (hx : x < 2 * f.signBit) (hy : y < 2 * f.signBit)
include he hx hy

theorem fPick_finite (hfx : f.Finite x) (hfy : f.Finite y) :
    let less := f.number x < f.number y ∨ (f.number x = f.number y ∧ f.isNegative x = true)
    fPick f true x y = (if less then x else y, 0) ∧ fPick f false x y = (if less then y else x, 0) := by
  intro less
  by_cases h : less
  · obtain ⟨⟨hmin, -⟩, hmax, -⟩ :=
      fPick_of_key_le he hx hy hfx.not_notNumber hfy.not_notNumber (f.key_le_of_below h)
    rw [hmin, hmax, if_pos h, if_pos h]
    exact ⟨rfl, rfl⟩
  · obtain ⟨⟨-, hmin⟩, -, hmax⟩ :=
      fPick_of_key_le he hy hx hfy.not_notNumber hfx.not_notNumber (not_lt.mp fun hlt => h (f.below_of_key_lt hlt))
    rw [hmin, hmax, if_neg h, if_neg h]
    exact ⟨rfl, rfl⟩

theorem fPick_infinite (hix : f.Infinite x) (hny : ¬ f.NotNumber y) :
    fPick f true x y = (if f.isNegative x then x else y, 0) ∧ fPick f false x y = (if f.isNegative x then y else x, 0)
      ∧ fPick f true y x = fPick f true x y ∧ fPick f false y x = fPick f false x y := by
  have hkey := hix.key hy hny
  cases hneg : f.isNegative x with
  | true =>
    rw [hneg, if_pos rfl] at hkey
    obtain ⟨⟨hmin, hmin'⟩, hmax, hmax'⟩ := fPick_of_key_le he hx hy hix.not_notNumber hny hkey
    exact ⟨hmin, hmax, hmin'.trans hmin.symm, hmax'.trans hmax.symm⟩
  | false =>
    rw [hneg, if_neg Bool.false_ne_true] at hkey
    obtain ⟨⟨hmin', hmin⟩, hmax', hmax⟩ := fPick_of_key_le he hy hx hny hix.not_notNumber hkey
    exact ⟨hmin, hmax, hmin'.trans hmin.symm, hmax'.trans hmax.symm⟩

/-- A number goes before a NaN, on whichever side it stands. -/
theorem fPick_nan (b : Bool) (hnx : f.NotNumber x) (hny : ¬ f.NotNumber y) :
    fPick f b x y = (y, invalidIf (f.signals x || f.signals y)) ∧ fPick f b y x = (y, invalidIf (f.signals x || f.signals y)) := by
  obtain ⟨-, -, hfirst, -⟩ := fPick_spec he hx hy b
  obtain ⟨-, -, -, hsecond⟩ := fPick_spec he hy hx b
  exact ⟨hfirst hnx hny, (hsecond hny hnx).trans (by rw [Bool.or_comm])⟩

end

/-! ### Compares (R168) -/

theorem ltVal_fin {u ea eb : Int} (na nb : Bool) (ma mb : Nat) (ha : u ≤ ea) (hb : u ≤ eb) :
    ltVal (.fin na ma ea) (.fin nb mb eb)
      = decide (signed na ma * ((2 ^ (ea - u).toNat : Nat) : Int) < signed nb mb * ((2 ^ (eb - u).toNat : Nat) : Int)) := by
  have hpow : ∀ k : Nat, (0 : Int) < ((2 ^ k : Nat) : Int) := fun k => by positivity
  unfold ltVal addExact
  rw [decide_eq_decide]
  split
  next h =>
    rw [show (eb - u).toNat = (eb - ea).toNat + (ea - u).toNat by omega, Nat.pow_add 2 (eb - ea).toNat, Nat.cast_mul, ← mul_assoc,
      mul_lt_mul_iff_left₀ (hpow _), neg_mul]
    omega
  next h =>
    rw [show (ea - u).toNat = (ea - eb).toNat + (eb - u).toNat by omega, Nat.pow_add 2 (ea - eb).toNat, Nat.cast_mul, ← mul_assoc,
      mul_lt_mul_iff_left₀ (hpow _)]
    omega

theorem Fmt.ltVal_finite (f : Fmt) {x y : Nat} (hx : f.Finite x) (hy : f.Finite y) :
    ltVal (f.decode x) (f.decode y) = decide (f.number x < f.number y) := by
  obtain ⟨m, e, hdx, he, hnx⟩ := f.decode_finite hx.2
  obtain ⟨k, d, hdy, hd, hny⟩ := f.decode_finite hy.2
  rw [hdx, hdy, ltVal_fin _ _ m k he hd, hnx, hny]

theorem Fmt.ltVal_infinite_finite (f : Fmt) {x y : Nat} (hx : f.Infinite x) (hy : f.Finite y) :
    ltVal (f.decode x) (f.decode y) = f.isNegative x ∧ ltVal (f.decode y) (f.decode x) = !f.isNegative x := by
  obtain ⟨m, e, hd, -⟩ := f.decode_finite hy.2
  rw [hx.decode, hd]
  exact ⟨rfl, rfl⟩

/-- The eight conditions where neither operand is a NaN, by the two orders. -/
theorem fCompare_ordered {x y : Nat} (hx : isNan (fmtF32.decode x) = false) (hy : isNan (fmtF32.decode y) = false) :
    (List.range 8).map (fun k => fCompare (BitVec.ofNat 4 k) x y)
      = let lt := ltVal (fmtF32.decode x) (fmtF32.decode y)
        let gt := ltVal (fmtF32.decode y) (fmtF32.decode x)
        [(!lt && !gt, 0), (lt || gt, 0), (lt, 0), (!gt, 0), (gt, 0), (!lt, 0), (true, 0), (false, 0)] := by
  have hsnan : ∀ {v}, isNan v = false → isSnan v = false := fun {v} h => by cases v <;> simp_all [isNan, isSnan]
  simp [List.range_succ, fCompare, eqVal, hx, hy, hsnan hx, hsnan hy]

/-- With a NaN the operands are unordered: invalid for an order, and where a NaN is signalling. -/
theorem fCompare_unordered {x y : Nat} (h : isNan (fmtF32.decode x) = true ∨ isNan (fmtF32.decode y) = true) :
    (List.range 8).map (fun k => fCompare (BitVec.ofNat 4 k) x y)
      = let nv := invalidIf (isSnan (fmtF32.decode x) || isSnan (fmtF32.decode y))
        [(false, nv), (true, nv), (false, flagNV), (false, flagNV), (false, flagNV), (false, flagNV), (false, nv), (true, nv)] := by
  have hun : (isNan (fmtF32.decode x) || isNan (fmtF32.decode y)) = true := by simpa using h
  have heq : eqVal (fmtF32.decode x) (fmtF32.decode y) = false := by
    unfold eqVal; rcases h with h | h <;> simp [h]
  simp [List.range_succ, fCompare, hun, heq, invalidIf]

theorem isNan_eq_false {x : Nat} (hx : x < 2 * fmtF32.signBit) (h : ¬ fmtF32.NotNumber x) : isNan (fmtF32.decode x) = false :=
  Bool.eq_false_iff.mpr ((Fmt.isNan_decode (by decide) hx).not.mpr h)

section
variable {x y : Nat} (hx : x < 2 * fmtF32.signBit) (hy : y < 2 * fmtF32.signBit)
include hx hy

/-- The eight conditions of finite numbers. -/
theorem fCompare_finite (hfx : fmtF32.Finite x) (hfy : fmtF32.Finite y) :
    (List.range 8).map (fun k => fCompare (BitVec.ofNat 4 k) x y)
      = let lt := decide (fmtF32.number x < fmtF32.number y)
        let gt := decide (fmtF32.number y < fmtF32.number x)
        [(!lt && !gt, 0), (lt || gt, 0), (lt, 0), (!gt, 0), (gt, 0), (!lt, 0), (true, 0), (false, 0)] := by
  rw [fCompare_ordered (isNan_eq_false hx hfx.not_notNumber) (isNan_eq_false hy hfy.not_notNumber),
    fmtF32.ltVal_finite hfx hfy, fmtF32.ltVal_finite hfy hfx]

/-- The eight conditions of an infinity and what is no NaN. -/
theorem fCompare_infinite (hix : fmtF32.Infinite x) (hny : ¬ fmtF32.NotNumber y) :
    (List.range 8).map (fun k => fCompare (BitVec.ofNat 4 k) x y)
      = let n := fmtF32.isNegative x
        let same := decide (x = y)
        [(same, 0), (!same, 0), (n && !same, 0), (n || same, 0), (!n && !same, 0), (!n || same, 0), (true, 0), (false, 0)] := by
  rw [fCompare_ordered (isNan_eq_false hx hix.not_notNumber) (isNan_eq_false hy hny)]
  rcases fmtF32.class_cases hy with hfy | hiy | hn
  · have hne : x ≠ y := by rintro rfl; have := hix.2.2; have := hfy.2; omega
    obtain ⟨hlt, hgt⟩ := fmtF32.ltVal_infinite_finite hix hfy
    rw [hlt, hgt, decide_eq_false hne]
    cases fmtF32.isNegative x <;> rfl
  · have hsame : decide (x = y) = (fmtF32.isNegative x == fmtF32.isNegative y) := by
      rw [Bool.eq_iff_iff, decide_eq_true_eq, beq_iff_eq]
      exact ⟨congrArg _, fun h => by rw [hix.eq_infinity, hiy.eq_infinity, h]⟩
    rw [hix.decode, hiy.decode, hsame]
    cases fmtF32.isNegative x <;> cases fmtF32.isNegative y <;> rfl
  · exact absurd hn hny

theorem fCompare_finite_infinite (hfx : fmtF32.Finite x) (hiy : fmtF32.Infinite y) :
    (List.range 8).map (fun k => fCompare (BitVec.ofNat 4 k) x y)
      = let n := fmtF32.isNegative y
        [(false, 0), (true, 0), (!n, 0), (!n, 0), (n, 0), (n, 0), (true, 0), (false, 0)] := by
  obtain ⟨hgt, hlt⟩ := fmtF32.ltVal_infinite_finite hiy hfx
  rw [fCompare_ordered (isNan_eq_false hx hfx.not_notNumber) (isNan_eq_false hy hiy.not_notNumber), hlt, hgt]
  cases fmtF32.isNegative y <;> rfl

theorem fCompare_nan (h : fmtF32.NotNumber x ∨ fmtF32.NotNumber y) :
    (List.range 8).map (fun k => fCompare (BitVec.ofNat 4 k) x y)
      = let nv := invalidIf (fmtF32.signals x || fmtF32.signals y)
        [(false, nv), (true, nv), (false, flagNV), (false, flagNV), (false, flagNV), (false, flagNV), (false, nv), (true, nv)] := by
  have he : 0 < fmtF32.ebits := by decide
  rw [fCompare_unordered (h.imp (Fmt.isNan_decode he hx).mpr (Fmt.isNan_decode he hy).mpr), Fmt.isSnan_decode he hx,
    Fmt.isSnan_decode he hy]

end

/-! ### Quantisation (R175, 03 R62) -/

/-- A code is at least as good as another for n / d sixty-fourths: nearer, then smaller, then the smaller code. -/
def TshNearer (n : Int) (d a b : Nat) : Prop :=
  (tshValue a * d - n).natAbs < (tshValue b * d - n).natAbs ∨ ((tshValue a * d - n).natAbs = (tshValue b * d - n).natAbs ∧
    ((tshValue a).natAbs < (tshValue b).natAbs ∨ ((tshValue a).natAbs = (tshValue b).natAbs ∧ a ≤ b)))

theorem TshNearer.trans {n : Int} {d u v w : Nat} (h : TshNearer n d u v) (k : TshNearer n d v w) : TshNearer n d u w := by
  unfold TshNearer at *
  generalize (tshValue u * d - n).natAbs = du at *
  generalize (tshValue v * d - n).natAbs = dv at *
  generalize (tshValue w * d - n).natAbs = dw at *
  generalize (tshValue u).natAbs = nu at *
  generalize (tshValue v).natAbs = nv at *
  generalize (tshValue w).natAbs = nw at *
  omega

theorem tshBetter_nearer (n : Int) (d a b : Nat) :
    (tshBetter n d a b = a ∨ tshBetter n d a b = b) ∧ TshNearer n d (tshBetter n d a b) a ∧ TshNearer n d (tshBetter n d a b) b := by
  unfold TshNearer tshBetter
  dsimp only
  split_ifs <;> refine ⟨by simp, ?_, ?_⟩ <;> omega

/-- What matters of a quotient is its value. -/
theorem tshBetter_scale {n v : Int} {d e : Nat} (hd : 0 < d) (he : 0 < e) (h : n * e = v * d) (a b : Nat) :
    tshBetter n d a b = tshBetter v e a b := by
  have hdist : ∀ c, (tshValue c * d - n).natAbs * e = (tshValue c * e - v).natAbs * d := fun c => by
    rw [← Int.natAbs_natCast e, ← Int.natAbs_mul, ← Int.natAbs_natCast d, ← Int.natAbs_mul]
    congr 1
    simp only [Int.natAbs_natCast, Int.sub_mul, h]
    ring
  have hlt : ∀ a b, (tshValue a * d - n).natAbs < (tshValue b * d - n).natAbs ↔ (tshValue a * e - v).natAbs < (tshValue b * e - v).natAbs :=
    fun a b => by rw [← Nat.mul_lt_mul_right he, hdist, hdist, Nat.mul_lt_mul_right hd]
  unfold tshBetter
  simp only [hlt]

/-- The canonical code that is best for n / d sixty-fourths. -/
def tshCode (n : Int) (d : Nat) : Nat := ((List.range 256).filter tshCanonical).foldl (tshBetter n d) 0x77

theorem tshCode_spec (n : Int) (d : Nat) :
    tshCode n d < 256 ∧ tshCanonical (tshCode n d) = true ∧ ∀ k, k < 256 → tshCanonical k = true → TshNearer n d (tshCode n d) k := by
  have hrefl : ∀ u, TshNearer n d u u := fun u => .inr ⟨rfl, .inr ⟨rfl, le_rfl⟩⟩
  obtain ⟨hmem, hbest⟩ := foldl_choice hrefl (fun _ _ _ => TshNearer.trans) (tshBetter_nearer n d) ((List.range 256).filter tshCanonical) 0x77
  have hcode : ∀ k ∈ 0x77 :: (List.range 256).filter tshCanonical, k < 256 ∧ tshCanonical k = true := fun k hk => by
    rcases List.mem_cons.mp hk with rfl | h
    · decide
    · exact ⟨List.mem_range.mp (List.mem_filter.mp h).1, (List.mem_filter.mp h).2⟩
  obtain ⟨hlt, hcan⟩ := hcode _ hmem
  exact ⟨hlt, hcan, fun k hk hcan => hbest k (List.mem_cons_of_mem _ (List.mem_filter.mpr ⟨List.mem_range.mpr hk, hcan⟩))⟩

/-- The quantisation of n / d sixty-fourths (03 R62). -/
def tshResult (n : Int) (d : Nat) : Nat × BitVec 8 :=
  if 128 * d < n.natAbs then (if n < 0 then 0x88 else 0x00, flagNX)
  else (tshCode n d, if tshValue (tshCode n d) * d = n then 0 else flagNX)

theorem tshResult_scale {n v : Int} {d e : Nat} (hd : 0 < d) (he : 0 < e) (h : n * e = v * d) : tshResult n d = tshResult v e := by
  have hcode : tshCode n d = tshCode v e := by
    unfold tshCode; rw [show tshBetter n d = tshBetter v e from funext₂ (tshBetter_scale hd he h)]
  have habs : n.natAbs * e = v.natAbs * d := by
    rw [← Int.natAbs_natCast e, ← Int.natAbs_mul, h, Int.natAbs_mul, Int.natAbs_natCast]
  have hfar : 128 * d < n.natAbs ↔ 128 * e < v.natAbs := by
    rw [← Nat.mul_lt_mul_right he, habs, Nat.mul_right_comm, Nat.mul_lt_mul_right hd]
  have hsign : n < 0 ↔ v < 0 := by
    have he' : (0 : Int) < e := by exact_mod_cast he
    have hd' : (0 : Int) < d := by exact_mod_cast hd
    calc n < 0 ↔ n * e < 0 * e := (mul_lt_mul_iff_left₀ he').symm
      _ ↔ v * d < 0 * d := by rw [h, zero_mul, zero_mul]
      _ ↔ v < 0 := mul_lt_mul_iff_left₀ hd'
  have hexact : ∀ t : Int, t * d = n ↔ t * e = v := fun t => by
    rw [← mul_left_inj' (c := (e : Int)) (by exact_mod_cast he.ne'), h, mul_right_comm,
      mul_left_inj' (c := (d : Int)) (by exact_mod_cast hd.ne')]
  unfold tshResult
  simp only [hcode, hfar, hsign, hexact]

/-- What the model quantises: the magnitude's whole numbers of sixty-fourths over a denominator. -/
theorem tshQuantise_fin (neg : Bool) (m : Nat) (e : Int) :
    tshQuantise (.fin neg m e) = tshResult (signed neg (m * 2 ^ (e + 6).toNat)) (2 ^ (-(e + 6)).toNat) := by
  have hnum : (if 0 ≤ e + 6 then m * 2 ^ (e + 6).toNat else m) = m * 2 ^ (e + 6).toNat := by
    split
    · rfl
    · rw [Int.toNat_of_nonpos (by omega), Nat.pow_zero, Nat.mul_one]
  have hden : (if 0 ≤ e + 6 then 1 else 2 ^ (-(e + 6)).toNat) = 2 ^ (-(e + 6)).toNat := by
    split
    · rw [Int.toNat_of_nonpos (by omega), Nat.pow_zero]
    · rfl
  unfold tshQuantise
  dsimp only
  rw [hnum, hden]
  generalize m * 2 ^ (e + 6).toNat = n
  generalize 2 ^ (-(e + 6)).toNat = d
  unfold tshResult
  by_cases h : 128 * d < (signed neg n).natAbs
  · have hn : n ≠ 0 := by rintro rfl; simp at h
    simp only [if_pos h, signed_lt_zero hn]
  · simp only [if_neg h]
    rfl

/-- `qtsh` of a finite FP32 value under a scale. -/
theorem qtshWord_finite {a b : Word} (hs : b.toNat % 256 ≠ 255) (ha : fmtF32.Finite a.toNat) :
    qtshWord a b = tshResult (fmtF32.number a.toNat) (2 ^ (16 + b.toNat % 256)) := by
  obtain ⟨m, e, hd, he, hn⟩ := fmtF32.decode_finite ha.2
  have hlow : fmtF32.low = -149 := rfl
  unfold qtshWord
  dsimp only
  rw [if_neg hs, hd]
  dsimp only
  rw [tshQuantise_fin]
  refine tshResult_scale (Nat.two_pow_pos _) (Nat.two_pow_pos _) ?_
  rw [← hn, signed_mul_natCast, signed_mul_natCast, signed_mul_natCast, Nat.mul_assoc, Nat.mul_assoc, ← Nat.pow_add, ← Nat.pow_add]
  congr 3
  omega

/-- `qtsh` of what is no number, and under a scale that is none. -/
theorem qtshWord_invalid {a b : Word} (h : b.toNat % 256 = 255 ∨ fmtF32.NotNumber a.toNat) : qtshWord a b = (0x77, flagNV) := by
  unfold qtshWord
  by_cases hs : b.toNat % 256 = 255
  · exact if_pos hs
  · exact (if_neg hs).trans (by rw [(h.resolve_left hs).decode (by decide)]; rfl)

theorem qtshWord_infinite {a b : Word} (hs : b.toNat % 256 ≠ 255) (ha : fmtF32.Infinite a.toNat) :
    qtshWord a b = (if fmtF32.isNegative a.toNat then 0x88 else 0x00, flagNV) := by
  unfold qtshWord
  exact (if_neg hs).trans (by rw [ha.decode]; rfl)

end Sys2Proof.Machine

open Sys2Proof Sys2Proof.Machine

/-- Settles O8: picks by the order of codes, which is that of their numbers; compares by the order of values; `qtsh` takes the
best canonical code. -/
theorem floatPicksAndCompares : Obligations.FloatPicksAndCompares := by
  intro c g k p d a b w
  refine ⟨?fminF32, ?fminBf16x2, ?fminF16x2, ?fmaxF32, ?fmaxBf16x2, ?fmaxF16x2, ?fnegF32, ?fnegX2, ?fabsF32, ?fabsX2,
    ?fcmp, ?fcmpPair, ?qtsh, ?picks, ?compares, ?quantises⟩
  case fminF32 | fminBf16x2 | fminF16x2 | fmaxF32 | fmaxBf16x2 | fmaxF16x2 | qtsh =>
    exact fword2_of_lane (fun _ => rfl) fun _ _ _ => rfl
  case fnegF32 | fnegX2 | fabsF32 | fabsX2 => exact word1_of_lane (fun _ => rfl) fun _ => rfl
  case fcmp | fcmpPair => exact test2_of_fcmp fun _ => rfl
  case picks =>
    intro f hmem x y hx hy nv less
    have he := (arithmetic_of_mem hmem).exponent
    exact ⟨fPick_finite he hx hy, fPick_infinite he hx hy, fun b => ⟨(fPick_spec he hx hy b).2.1, fPick_nan he hx hy b⟩⟩
  case compares =>
    intro x y hx hy f nv conds
    exact ⟨fCompare_finite hx hy, fCompare_nan hx hy, fCompare_infinite hx hy, fCompare_finite_infinite hx hy⟩
  case quantises =>
    intro a b s v den far y
    refine ⟨qtshWord_invalid, qtshWord_infinite, fun hs ha hfar => ?beyond, fun hs ha hnear => ?nearest⟩
    case beyond =>
      change qtshWord a b = _
      rw [qtshWord_finite hs ha, tshResult, if_pos hfar]
    case nearest =>
      have hy : y = tshResult v den := qtshWord_finite hs ha
      rw [tshResult, if_neg hnear.not_gt] at hy
      obtain ⟨hlt, hcan, hbest⟩ := tshCode_spec v den
      rw [hy]
      exact ⟨hlt, hcan, rfl, hbest⟩
end

section
/-! PROOFS. Conversions (08 R171 to R173): between formats, to integers and from them. -/

namespace Sys2Proof.Machine

open Sys2Proof (Byte Word DWord Instr)

set_option Elab.async false

/-! ### The value that is rounded, as a quotient -/

/-- A magnitude of v / w units of the format's smallest subnormal, rounded once (03 R49 to R52). -/
def Fmt.RoundsQuotient (f : Fmt) (r : Rounding) (neg : Bool) (v w : Nat) (y : Nat × BitVec 8) : Prop :=
  let tiny := decide (v < 2 ^ f.fbits * w) && !(takesUpper r neg true ((2 * 2 ^ f.fbits - 1) * w) (2 * 2 ^ f.fbits * w) (2 * v))
  ∃ l, f.count l * w ≤ v ∧ v < f.count (l + 1) * w ∧
    let c := if takesUpper r neg (decide (l % 2 = 1)) (f.count l * w) (f.count (l + 1) * w) v then l + 1 else l
    if f.top < c ∨ (isSto r = true ∧ f.count f.top * w < v) then
      y = (f.withSign neg (if f.hasInf && overflowsUp r neg then f.top + 1 else f.top), flagOF ||| flagNX)
    else
      y = (f.withSign neg c, (if f.count l * w = v then 0 else flagNX) ||| (if f.count l * w ≠ v ∧ tiny = true then flagUF else 0))

theorem roundedTo_iff {f : Fmt} {r : Rounding} {neg : Bool} {m q : Nat} {e : Int} {y : Nat × BitVec 8} :
    RoundedTo f r neg m q e y ↔ f.RoundsQuotient r neg (m * 2 ^ (e - f.low).toNat) (q * 2 ^ (f.low - e).toNat) y := by
  have hunit : ∀ w, 2 * (2 ^ f.fbits * w) - 1 * w = (2 * 2 ^ f.fbits - 1) * w := fun w => by
    rw [Nat.sub_mul, Nat.mul_assoc]
  unfold RoundedTo Fmt.RoundsQuotient
  simp only [f.count_normal, f.count_one, Nat.mul_assoc, ← hunit]

/-- Only the quotient matters. -/
theorem Fmt.RoundsQuotient.congr {f : Fmt} {r : Rounding} {neg : Bool} {v w v' w' : Nat} {y : Nat × BitVec 8} (hw : 0 < w) (hw' : 0 < w')
    (hv : v * w' = v' * w) (h : f.RoundsQuotient r neg v w y) : f.RoundsQuotient r neg v' w' y := by
  have hswap : ∀ c, c * w * w' = c * w' * w := fun c => Nat.mul_right_comm c w w'
  have hlt : ∀ c, c * w < v ↔ c * w' < v' := fun c => by rw [← Nat.mul_lt_mul_right hw', hv, hswap, Nat.mul_lt_mul_right hw]
  have hgt : ∀ c, v < c * w ↔ v' < c * w' := fun c => by rw [← Nat.mul_lt_mul_right hw', hv, hswap, Nat.mul_lt_mul_right hw]
  have heq : ∀ c, c * w = v ↔ c * w' = v' := fun c => by rw [← Nat.mul_left_inj hw'.ne', hv, hswap, Nat.mul_left_inj hw.ne']
  have hup : ∀ odd lo hi, takesUpper r neg odd (lo * w) (hi * w) v = takesUpper r neg odd (lo * w') (hi * w') v' := fun odd lo hi => by
    rw [← takesUpper_scale r neg odd _ _ _ hw', hv, hswap, hswap, takesUpper_scale r neg odd _ _ _ hw]
  have hup2 : ∀ odd lo hi, takesUpper r neg odd (lo * w) (hi * w) (2 * v) = takesUpper r neg odd (lo * w') (hi * w') (2 * v') :=
    fun odd lo hi => by
      have hv2 : 2 * v * w' = 2 * v' * w := by rw [Nat.mul_assoc, hv, Nat.mul_assoc]
      rw [← takesUpper_scale r neg odd _ _ _ hw', hv2, hswap, hswap, takesUpper_scale r neg odd _ _ _ hw]
  unfold Fmt.RoundsQuotient at *
  simpa only [← not_lt, ne_eq, hlt, hgt, heq, hup, hup2] using h

/-! ### Between formats (R172) -/

/-- A zero is rounded to a zero. -/
theorem Fmt.roundedTo_zero (f : Fmt) (r : Rounding) (neg : Bool) {q : Nat} (hq : 0 < q) (e : Int) :
    RoundedTo f r neg 0 q e (f.zero neg, 0) := by
  unfold RoundedTo
  have hpos : 0 < f.count (0 + 1) * q * 2 ^ (f.low - e).toNat := by simp [hq]
  refine ⟨0, by simp, by simpa using hpos, ?_⟩
  simp only [f.count_zero, Nat.zero_mul]
  rw [takesUpper_of_le r _ _ le_rfl hpos]
  simp [Fmt.zero]

/-- A finite code's magnitude. -/
theorem Fmt.decode_count (f : Fmt) {x : Nat} (h : x % f.signBit ≤ f.top) :
    ∃ m e, f.decode x = .fin (f.isNegative x) m e ∧ f.low ≤ e ∧ m * 2 ^ (e - f.low).toNat = f.count (x % f.signBit) := by
  obtain ⟨m, e, hd, he, hn⟩ := f.decode_finite h
  refine ⟨m, e, hd, he, ?_⟩
  have := congrArg Int.natAbs hn
  rwa [signed_mul_natCast, natAbs_signed, Fmt.number, natAbs_signed] at this

/-- A conversion rounds a number once; an infinity or a NaN that the target lacks is invalid. -/
theorem narrow_spec {f : Fmt} (he : 0 < f.ebits) (t : Fmt) (r : Rounding) (u : Nat) :
    (f.Finite u → RoundedTo t r (f.isNegative u) (f.count (u % f.signBit)) 1 f.low (narrow f t r u))
    ∧ (f.Infinite u → narrow f t r u = if t.hasInf then (t.infinity (f.isNegative u), 0)
        else if t.nan.isSome then (t.quiet, flagNV) else (t.withSign (f.isNegative u) t.top, flagNV))
    ∧ (f.NotNumber u → narrow f t r u = (t.quiet, invalidIf (f.signals u || t.nan.isNone))) := by
  unfold narrow
  refine ⟨fun h => ?finite, fun h => ?infinite, fun h => ?nan⟩
  case finite =>
    obtain ⟨m, e, hd, hlow, hc⟩ := f.decode_count h.2
    rw [hd, ← hc]
    by_cases hm : m = 0
    · rw [hm, Nat.zero_mul]
      exact (congrArg (RoundedTo t r _ 0 1 f.low) (by simp [Fmt.deliver, Fmt.round])).mpr (t.roundedTo_zero r _ Nat.one_pos f.low)
    · exact t.round_roundedTo r _ (x := ⟨m, e, false⟩) rfl hm hlow
  case infinite =>
    rw [h.decode]
    unfold Fmt.deliver Fmt.infinity
    cases t.hasInf <;> rfl
  case nan => rw [h.decode he]; rfl

theorem Fmt.isNegative_withSign (f : Fmt) (n : Bool) {c : Nat} (hc : c < f.signBit) : f.isNegative (f.withSign n c) = n := by
  have hpos : 0 < f.signBit := by omega
  unfold Fmt.isNegative Fmt.withSign
  cases n <;> simp [Nat.div_eq_of_lt hc, Nat.add_div_right _ hpos]

/-- A magnitude that the format holds is rounded to itself, with no flag. -/
theorem RoundedTo.exact {f : Fmt} {r : Rounding} {n : Bool} {c : Nat} {y : Nat × BitVec 8} (h : RoundedTo f r n (f.count c) 1 f.low y)
    (ht : c ≤ f.top) : y = (f.withSign n c, 0) := by
  unfold RoundedTo at h
  simp only [sub_self, Int.toNat_zero, pow_zero, Nat.mul_one] at h
  obtain ⟨l, hle, hlt, h⟩ := h
  obtain rfl : l = c := le_antisymm (f.count_strictMono.le_iff_le.mp hle) (Nat.le_of_lt_succ (f.count_strictMono.lt_iff_lt.mp hlt))
  rw [takesUpper_of_le r _ _ le_rfl hlt] at h
  simpa [ht.not_gt, f.count_strictMono.lt_iff_lt] using h

/-- A format whose numbers are all FP32 numbers. -/
structure Fmt.Widens (f : Fmt) : Prop where
  exponent : 0 < f.ebits
  digits : f.fbits ≤ fmtF32.fbits
  low : fmtF32.low ≤ f.low
  top : f.count f.top * 2 ^ (f.low - fmtF32.low).toNat ≤ fmtF32.count fmtF32.top

/-- Every magnitude of the narrow format is that of an FP32 code. -/
theorem Fmt.Widens.exists_code {f : Fmt} (hf : f.Widens) {c : Nat} (hc : c ≤ f.top) :
    ∃ d ≤ fmtF32.top, fmtF32.count d = f.count c * 2 ^ (f.low - fmtF32.low).toNat := by
  obtain ⟨k, u, rfl, hu, hk⟩ := f.exists_binade c
  have hu' : u < 2 ^ (fmtF32.fbits + 1) := hu.trans_le (Nat.pow_le_pow_right (by decide) (Nat.add_le_add_right hf.digits 1))
  obtain ⟨d, hd⟩ := fmtF32.exists_count_eq (k + (f.low - fmtF32.low).toNat) hu'
  have heq : fmtF32.count d = f.count (k * 2 ^ f.fbits + u) * 2 ^ (f.low - fmtF32.low).toNat := by
    rw [hd, f.count_binade hu.le hk, Nat.pow_add, Nat.mul_assoc]
  refine ⟨d, ?_, heq⟩
  rw [← fmtF32.count_strictMono.le_iff_le, heq]
  exact (Nat.mul_le_mul_right _ (f.count_strictMono.monotone hc)).trans hf.top

/-- A widening keeps the number, and a NaN becomes the canonical one. -/
theorem widen_spec {f : Fmt} (hf : f.Widens) (u : Nat) :
    (f.Finite u → (widen f u).2 = 0 ∧ fmtF32.Finite (widen f u).1 ∧ fmtF32.isNegative (widen f u).1 = f.isNegative u
      ∧ fmtF32.number (widen f u).1 = f.number u * 2 ^ (f.low - fmtF32.low).toNat)
    ∧ (f.Infinite u → widen f u = (fmtF32.infinity (f.isNegative u), 0))
    ∧ (f.NotNumber u → widen f u = (fmtF32.quiet, invalidIf (f.signals u))) := by
  obtain ⟨hfinite, hinfinite, hnan⟩ := narrow_spec hf.exponent fmtF32 .rne u
  refine ⟨fun h => ?_, hinfinite, fun h => (hnan h).trans (by simp)⟩
  obtain ⟨d, hd, hcount⟩ := hf.exists_code h.2
  have hlow := hf.low
  have hround : RoundedTo fmtF32 .rne (f.isNegative u) (fmtF32.count d) 1 fmtF32.low (widen f u) := by
    refine roundedTo_iff.mpr ((roundedTo_iff.mp (hfinite h)).congr (by simp) (by simp) ?_)
    rw [hcount, Int.toNat_of_nonpos (by omega : fmtF32.low - f.low ≤ 0)]
    simp
  have hlt : d < fmtF32.signBit := hd.trans_lt (by decide)
  obtain ⟨hfin, hnum⟩ := fmtF32.withSign_finite (by decide) (f.isNegative u) hd
  rw [hround.exact hd]
  refine ⟨rfl, hfin, fmtF32.isNegative_withSign _ hlt, hnum.trans ?_⟩
  rw [hcount, ← signed_mul_natCast]
  push_cast
  rfl

theorem widens_of_mem {f : Fmt} (h : f ∈ [fmtBf16, fmtF16, fmtE4m3, fmtE5m2, fmtE2m1]) : f.Widens := by
  simp only [List.mem_cons, List.not_mem_nil, or_false] at h
  obtain rfl | rfl | rfl | rfl | rfl := h <;> exact ⟨by decide, by decide, by decide, by decide +kernel⟩

/-! ### Packed conversions -/

theorem half_zero (a : Word) : half a 0 = a.toNat % 2 ^ 16 := by simp [half]

theorem half_one (a : Word) : half a 1 = a.toNat / 2 ^ 16 := by
  have := a.isLt
  unfold half
  omega

theorem narrowPair_eq (f g : Fmt) (r : Nat → Nat → Rounding) (a : Word) :
    narrowPair f g r a
      = let lo := narrow f g (r (a.toNat % 2 ^ 16) 0) (a.toNat % 2 ^ 16)
        let hi := narrow f g (r (a.toNat / 2 ^ 16) 1) (a.toNat / 2 ^ 16)
        (lo.1 + 2 ^ 16 * hi.1, lo.2 ||| hi.2) := by
  unfold narrowPair; rw [half_zero, half_one]

/-! ### To integers (R173) -/

/-- The whole units below a magnitude, and what is decided by the rest. -/
theorem UnitsOf.roundedInteger {u : Nat × Nat × Nat} {M k : Nat} (hu : UnitsOf u (u.1 * 2 ^ k) ((u.1 + 1) * 2 ^ k) M)
    (r : Rounding) (neg : Bool) :
    signed neg (if roundsUp r neg (decide (u.1 % 2 = 1)) u.2.1 u.2.2 then u.1 + 1 else u.1) = roundedInteger r (signed neg M) k := by
  have hdiv : M / 2 ^ k = u.1 := Nat.div_eq_of_lt_le hu.below hu.above
  unfold Machine.roundedInteger
  rw [natAbs_signed]
  dsimp only
  rw [hdiv, hu.up]
  by_cases hM : M = 0
  · have hzero : u.1 = 0 := by rw [← hdiv, hM, Nat.zero_div]
    have hfalse : ∀ n odd, takesUpper r n odd (u.1 * 2 ^ k) ((u.1 + 1) * 2 ^ k) M = false := fun n odd =>
      takesUpper_of_le r n odd (by omega) (hu.below.trans_lt hu.above)
    rw [hfalse, hfalse, hzero]
    simp
  · simp only [signed_lt_zero hM, Bool.decide_eq_true]

theorem UnitsOf.exact_iff_emod {u : Nat × Nat × Nat} {M k : Nat} (hu : UnitsOf u (u.1 * 2 ^ k) ((u.1 + 1) * 2 ^ k) M) (neg : Bool) :
    u.2.1 = 0 ↔ signed neg M % 2 ^ k = 0 := by
  have hdiv : M / 2 ^ k = u.1 := Nat.div_eq_of_lt_le hu.below hu.above
  have hdvd : (2 : Int) ^ k ∣ signed neg M ↔ 2 ^ k ∣ M := by
    rw [← Int.natAbs_dvd_natAbs, natAbs_signed, Int.natAbs_pow]; rfl
  rw [hu.exact_iff, ← Int.dvd_iff_emod_eq_zero, hdvd, ← hdiv]
  exact ⟨fun h => ⟨M / 2 ^ k, by rw [Nat.mul_comm, h]⟩, Nat.div_mul_cancel⟩

/-- A finite code converted to an integer: rounded, and then saturated. -/
theorem toInteger_finite {f : Fmt} (hlow : f.low ≤ 0) (r : Rounding) (lo hi : Int) {x : Nat} (h : f.Finite x) :
    toInteger r lo hi (f.decode x)
      = let n := roundedInteger r (f.number x) (-f.low).toNat
        (if n < lo then lo else if hi < n then hi else n,
          if n < lo ∨ hi < n then flagNV else if f.number x % 2 ^ (-f.low).toNat = 0 then 0 else flagNX) := by
  obtain ⟨m, e, hd, he, hn⟩ := f.decode_finite h.2
  have hu := Mag.units_spec (x := ⟨m, e, false⟩) rfl (q := 0) (a := (e - f.low).toNat) (b := (-f.low).toNat) (by simp; omega)
  rw [signed_mul_natCast] at hn
  have hexact := hu.exact_iff_emod (f.isNegative x)
  rw [hn] at hexact
  unfold toInteger
  rw [hd]
  dsimp only
  rw [hu.roundedInteger r, hn]
  generalize roundedInteger r (f.number x) (-f.low).toNat = n
  by_cases hbelow : n < lo
  · simp [hbelow]
  by_cases habove : hi < n
  · simp [hbelow, habove]
  · simp only [hbelow, habove, or_self, if_false, hexact]

/-- A conversion to a signed or unsigned word, within the word's bounds. -/
theorem toWord_spec (r : Rounding) (lo hi : Int) (x : Nat) (hle : lo ≤ hi) :
    (fmtF32.Finite x → let n := roundedInteger r (fmtF32.number x) 149
      toWord r lo hi x = ((BitVec.ofInt 32 (max lo (min hi n))).toNat,
        if n < lo ∨ hi < n then flagNV else if fmtF32.number x % 2 ^ 149 = 0 then 0 else flagNX))
    ∧ (fmtF32.Infinite x → toWord r lo hi x = ((BitVec.ofInt 32 (if fmtF32.isNegative x then lo else hi)).toNat, flagNV))
    ∧ (fmtF32.NotNumber x → toWord r lo hi x = (0, flagNV)) := by
  have hword : toWord r lo hi x
      = ((BitVec.ofInt 32 (toInteger r lo hi (fmtF32.decode x)).1).toNat, (toInteger r lo hi (fmtF32.decode x)).2) := by
    rw [BitVec.toNat_ofInt]; rfl
  rw [hword]
  refine ⟨fun h => ?finite, fun h => ?infinite, fun h => ?nan⟩
  case finite =>
    have hbits : (-fmtF32.low).toNat = 149 := by decide
    have hclamp : ∀ n : Int, (if n < lo then lo else if hi < n then hi else n) = max lo (min hi n) := fun n => by omega
    dsimp only
    rw [toInteger_finite (by decide) r lo hi h, hbits]
    dsimp only
    rw [hclamp]
  case infinite => rw [h.decode]; rfl
  case nan => rw [h.decode (by decide)]; rfl

/-! ### From integers (R173) -/

theorem ofInteger_delivers (f : Fmt) (r : Rounding) (v : Int) : Delivers f r false v 0 (f.deliver r (ofInteger v)) := by
  have h := f.deliver_fin r (z := false) (n := decide (v < 0)) (m := v.natAbs) (e := 0) (low := 0)
    (fun h => decide_eq_false (by omega)) (fun _ => le_rfl)
  rw [signed_natAbs] at h
  simpa [ofInteger] using h

end Sys2Proof.Machine
end

section
/-! PROOFS. Rounding of truncated magnitudes: quotients and roots that the model cuts off far below the last place (08 R170). -/

namespace Sys2Proof.Machine

open Sys2Proof (Byte Word DWord Instr)

set_option Elab.async false

/-! ### A truncated magnitude is rounded as its midpoint -/

/-- The exact magnitude in the middle of those that a truncated one stands for. -/
def Mag.midpoint (x : Mag) : Mag := { m := 2 * x.m + 1, e := x.e - 1 }

theorem bitLength_two_mul_add_one {m : Nat} (hm : m ≠ 0) : bitLength (2 * m + 1) = bitLength m + 1 := by
  have hlog : Nat.log2 (2 * m + 1) = Nat.log2 m + 1 := by
    rw [Nat.log2_eq_iff (by omega)]
    have hle := Nat.log2_self_le hm
    have hlt := Nat.lt_log2_self (n := m)
    rw [Nat.pow_succ] at hlt ⊢
    rw [Nat.pow_succ]
    omega
  simp [bitLength, hm, hlog]

theorem Mag.lead_midpoint {x : Mag} (hm : x.m ≠ 0) : x.midpoint.lead = x.lead := by
  unfold Mag.lead Mag.midpoint
  dsimp only
  rw [bitLength_two_mul_add_one hm]
  push_cast
  ring

/-- A truncated magnitude in units of a coarser power of two: its rest is neither none nor one half. -/
theorem Mag.units_of_more {x : Mag} (hx : x.more = true) {q : Int} {n : Nat} (h : (q - x.e).toNat = n + 1) :
    x.units q = (x.m / 2 ^ (n + 1), if x.m % 2 ^ (n + 1) < 2 ^ n then 1 else 3, x.m % 2 ^ (n + 1) * 65536 / 2 ^ (n + 1)) := by
  have hpos := Nat.two_pow_pos n
  unfold Mag.units
  rw [if_neg (by omega), h, hx]
  simp only [Nat.add_sub_cancel, if_true]
  congr 2
  generalize 2 ^ n = half at *
  split_ifs <;> omega

theorem restClass_odd {rest half : Nat} : restClass (2 * rest + 1) (2 * half) = if rest < half then 1 else 3 := by
  unfold restClass
  split_ifs <;> omega

theorem mod_two_mul_odd (m p : Nat) : (2 * m + 1) % (2 * p) = 2 * (m % p) + 1 := by
  rw [Nat.mod_mul, show (2 * m + 1) / 2 = m by omega]
  omega

/-- In units of many places a truncated magnitude and its midpoint look alike. -/
theorem Mag.units_midpoint {x : Mag} (hx : x.more = true) {q : Int} (hq : x.e + 16 ≤ q) : x.midpoint.units q = x.units q := by
  obtain ⟨n, hn⟩ : ∃ n : Nat, q - x.e = n + 16 := ⟨(q - x.e - 16).toNat, by omega⟩
  have hhalf : ∀ a : Nat, (2 * a + 1) / 2 = a := fun a => by omega
  have hdiv : (2 * x.m + 1) / 2 ^ (n + 15 + 1 + 1) = x.m / 2 ^ (n + 15 + 1) := by
    rw [Nat.pow_succ', ← Nat.div_div_eq_div_mul, hhalf]
  have hmod : (2 * x.m + 1) % 2 ^ (n + 15 + 1 + 1) = 2 * (x.m % 2 ^ (n + 15 + 1)) + 1 := by rw [Nat.pow_succ', mod_two_mul_odd]
  have hunit : 2 ^ (n + 15 + 1) = 2 ^ n * 65536 := Nat.pow_add 2 n 16
  have hfrac : ∀ rest, (2 * rest + 1) * 65536 / 2 ^ (n + 15 + 1 + 1) = rest * 65536 / 2 ^ (n + 15 + 1) := fun rest => by
    rw [Nat.pow_succ', hunit, ← Nat.mul_assoc, Nat.mul_div_mul_right _ _ (by decide), Nat.mul_div_mul_right _ _ (by decide),
      ← Nat.div_div_eq_div_mul, hhalf]
  rw [Mag.units_of_lt (x := x.midpoint) rfl (n := n + 15 + 1) (by unfold Mag.midpoint; dsimp only; omega),
    Mag.units_of_more hx (n := n + 15) (by omega)]
  unfold Mag.midpoint
  dsimp only
  rw [hdiv, hmod, hfrac, Nat.pow_succ' (n := n + 15), restClass_odd]

/-- So a truncated magnitude of enough places is rounded as its midpoint. -/
theorem Fmt.round_midpoint (f : Fmt) (r : Rounding) (neg : Bool) {x : Mag} (hx : x.more = true) (hp : 2 ^ (f.fbits + 16) ≤ x.m) :
    f.round r neg x = f.round r neg x.midpoint := by
  have hm : x.m ≠ 0 := by have := Nat.two_pow_pos (f.fbits + 16); omega
  have hlead := x.lead_midpoint hm
  have hlog : f.fbits + 16 ≤ Nat.log2 x.m := (Nat.le_log2 hm).mpr hp
  have hfree : x.e + 16 ≤ x.lead - f.fbits := by rw [Mag.lead_eq hm]; omega
  have hunit : x.e + 16 ≤ f.unitExp x := by unfold Fmt.unitExp; split <;> omega
  have hexp : f.unitExp x.midpoint = f.unitExp x := by unfold Fmt.unitExp; rw [hlead]
  have hu := Mag.units_midpoint hx hunit
  have hv := Mag.units_midpoint hx hfree
  rw [f.round_eq r neg hm, f.round_eq r neg (x := x.midpoint) (Nat.succ_ne_zero _)]
  have hcode : f.lowerCode x.midpoint = f.lowerCode x := by unfold Fmt.lowerCode; rw [hexp, hu]
  have hrounded : f.roundedCode r neg x.midpoint = f.roundedCode r neg x := by
    unfold Fmt.roundedCode Fmt.raises; rw [hcode, hexp, hu]
  have hinexact : f.isInexact x.midpoint = f.isInexact x := by unfold Fmt.isInexact; rw [hexp, hu]
  have htiny : f.isTiny r neg x.midpoint = f.isTiny r neg x := by unfold Fmt.isTiny Fmt.reachesNormal; rw [hlead, hv]
  rw [hcode, hrounded, hinexact, htiny]

/-! ### Points that no truncated magnitude hides -/

/-- A quarter of a unit times a number of few digits: the codes' magnitudes, the midpoints between them, and the point from which a
magnitude is rounded up to the smallest normal number. -/
def Fmt.Short (f : Fmt) (s : Nat) : Prop := ∃ u k, u < 2 ^ (f.fbits + 3) ∧ s = u * 2 ^ k

theorem Fmt.short_count (f : Fmt) (c : Nat) : f.Short (4 * f.count c) := by
  obtain ⟨k, u, rfl, hu, hk⟩ := f.exists_binade c
  have hpow : 2 ^ (f.fbits + 1) ≤ 2 ^ (f.fbits + 3) := Nat.pow_le_pow_right (by decide) (by omega)
  exact ⟨u, k + 2, by omega, by rw [f.count_binade hu.le hk, Nat.pow_add]; ring⟩

theorem Fmt.short_midpoint (f : Fmt) (c : Nat) : f.Short (2 * (f.count c + f.count (c + 1))) := by
  obtain ⟨k, u, rfl, hu, hk⟩ := f.exists_binade c
  have hpow : 2 ^ (f.fbits + 3) = 4 * 2 ^ (f.fbits + 1) := by ring
  refine ⟨2 * u + 1, k + 1, by omega, ?_⟩
  rw [Nat.add_assoc, f.count_binade hu.le hk, f.count_binade (u := u + 1) hu (hk.imp_right Nat.le_succ_of_le), Nat.pow_succ]
  ring

theorem Fmt.short_normal (f : Fmt) : f.Short (4 * 2 ^ f.fbits) := f.count_normal ▸ f.short_count (2 ^ f.fbits)

theorem Fmt.short_belowNormal (f : Fmt) : f.Short (4 * 2 ^ f.fbits - 1) := by
  have hpow : 2 ^ (f.fbits + 3) = 8 * 2 ^ f.fbits := by ring
  have hpos := Nat.two_pow_pos f.fbits
  refine ⟨4 * 2 ^ f.fbits - 1, 0, ?_, by simp⟩
  omega

/-- Such a point does not lie strictly between two whole numbers of a large magnitude's last places. -/
theorem Fmt.Short.not_between {f : Fmt} {s : Nat} (hs : f.Short s) {m i : Nat} (hm : 2 ^ (f.fbits + 16) ≤ m) (j : Nat) :
    s * 2 ^ j ≤ m * (4 * 2 ^ i) ∨ (m + 1) * (4 * 2 ^ i) ≤ s * 2 ^ j := by
  obtain ⟨u, k, hu, rfl⟩ := hs
  have hpow : 2 ^ (f.fbits + 3) ≤ 2 ^ (f.fbits + 16) := Nat.pow_le_pow_right (by decide) (by omega)
  have hfour : 4 * 2 ^ i = 2 ^ (i + 2) := by ring
  rw [hfour, Nat.mul_assoc, ← Nat.pow_add]
  rcases Nat.le_total (k + j) (i + 2) with hle | hge
  · exact .inl (Nat.mul_le_mul (hu.le.trans (hpow.trans hm)) (Nat.pow_le_pow_right (by decide) hle))
  · rw [show k + j = k + j - (i + 2) + (i + 2) by omega, Nat.pow_add, ← Nat.mul_assoc]
    exact (Nat.lt_or_ge m (u * 2 ^ (k + j - (i + 2)))).symm.imp (Nat.mul_le_mul_right _) (Nat.mul_le_mul_right _)

section
variable {f : Fmt} {v w v' w' : Nat}
  (hcmp : ∀ s, f.Short s → (s * w < 4 * v ↔ s * w' < 4 * v') ∧ (s * w = 4 * v ↔ s * w' = 4 * v'))
include hcmp

theorem takesUpper_alike (neg odd : Bool) (l : Nat) : takesUpper .rne neg odd (f.count l * w) (f.count (l + 1) * w) v
    = takesUpper .rne neg odd (f.count l * w') (f.count (l + 1) * w') v' := by
  obtain ⟨hlt, heq⟩ := hcmp _ (f.short_midpoint l)
  have hsum : ∀ w, 2 * (f.count l + f.count (l + 1)) * w = 2 * (f.count l * w + f.count (l + 1) * w) := fun w => by ring
  rw [hsum, hsum] at hlt heq
  have hlt : f.count l * w + f.count (l + 1) * w < 2 * v ↔ f.count l * w' + f.count (l + 1) * w' < 2 * v' := by omega
  have heq : f.count l * w + f.count (l + 1) * w = 2 * v ↔ f.count l * w' + f.count (l + 1) * w' = 2 * v' := by omega
  simp only [takesUpper, hlt, heq]

theorem takesUpper_belowNormal_alike (neg : Bool) :
    takesUpper .rne neg true ((2 * 2 ^ f.fbits - 1) * w) (2 * 2 ^ f.fbits * w) (2 * v)
      = takesUpper .rne neg true ((2 * 2 ^ f.fbits - 1) * w') (2 * 2 ^ f.fbits * w') (2 * v') := by
  obtain ⟨hlt, heq⟩ := hcmp _ f.short_belowNormal
  have hsum : ∀ w, (4 * 2 ^ f.fbits - 1) * w = (2 * 2 ^ f.fbits - 1) * w + 2 * 2 ^ f.fbits * w := fun w => by
    have := Nat.two_pow_pos f.fbits
    rw [← Nat.add_mul]; congr 1; omega
  rw [hsum, hsum, show ∀ v, 4 * v = 2 * (2 * v) by intro v; omega] at hlt heq
  rw [show 4 * v' = 2 * (2 * v') by omega] at hlt heq
  simp only [takesUpper, hlt, heq]

/-- Roundings to nearest of two values that lie alike with regard to all such points are the same. -/
theorem Fmt.RoundsQuotient.alike {neg : Bool} {y : Nat × BitVec 8} (h : f.RoundsQuotient .rne neg v w y) :
    f.RoundsQuotient .rne neg v' w' y := by
  have hcount : ∀ c, (f.count c * w < v ↔ f.count c * w' < v') ∧ (f.count c * w = v ↔ f.count c * w' = v') := fun c => by
    obtain ⟨hlt, heq⟩ := hcmp _ (f.short_count c)
    rw [Nat.mul_assoc, Nat.mul_assoc] at hlt heq
    omega
  have hle : ∀ c, f.count c * w ≤ v ↔ f.count c * w' ≤ v' := fun c => by have := hcount c; omega
  have hgt : ∀ c, v < f.count c * w ↔ v' < f.count c * w' := fun c => by have := hle c; omega
  have heq : ∀ c, f.count c * w = v ↔ f.count c * w' = v' := fun c => (hcount c).2
  have hnormal := hgt (2 ^ f.fbits)
  rw [f.count_normal] at hnormal
  have hsto : isSto .rne = false := rfl
  unfold Fmt.RoundsQuotient at *
  simpa only [hle, hgt, ne_eq, heq, hnormal, takesUpper_alike hcmp, takesUpper_belowNormal_alike hcmp, hsto, Bool.false_eq_true,
    false_and] using h

end

/-! ### Quotients -/

/-- The value v / w, in units of 2^low, lies where a magnitude stands: at it, or just above it where it is truncated. -/
structure Mag.Encloses (x : Mag) (low : Int) (v w : Nat) (i j : Nat) : Prop where
  scale : (i : Int) - j = x.e - low
  below : x.m * 2 ^ i * w ≤ v * 2 ^ j
  above : v * 2 ^ j < (x.m + 1) * 2 ^ i * w
  more : x.more = true ↔ x.m * 2 ^ i * w ≠ v * 2 ^ j

/-- A truncated quotient of enough places is rounded to nearest as the quotient itself. -/
theorem Fmt.round_encloses (f : Fmt) (neg : Bool) {x : Mag} {v w i j : Nat} (h : x.Encloses f.low v w i j) (hw : 0 < w)
    (hp : 2 ^ (f.fbits + 16) ≤ x.m) : f.RoundsQuotient .rne neg v w (f.round .rne neg x) := by
  have hscale := h.scale
  have hm : x.m ≠ 0 := by have := Nat.two_pow_pos (f.fbits + 16); omega
  by_cases hx : x.more = true
  · have hbelow : x.m * 2 ^ i * w < v * 2 ^ j := lt_of_le_of_ne h.below (h.more.mp hx)
    have hround : f.RoundsQuotient .rne neg ((2 * x.m + 1) * 2 ^ i) (2 * 2 ^ j) (f.round .rne neg x.midpoint) := by
      refine (roundedTo_iff.mp (f.round_roundedTo .rne neg (x := x.midpoint) rfl (Nat.succ_ne_zero _) le_rfl)).congr
        (by simp) (by simp) ?_
      unfold Mag.midpoint
      dsimp only
      rw [sub_self, Int.toNat_zero, pow_zero, Nat.mul_one, Nat.one_mul, ← Nat.pow_succ', Nat.mul_assoc, Nat.mul_assoc, ← Nat.pow_add,
        ← Nat.pow_add]
      congr 2
      omega
    rw [f.round_midpoint .rne neg hx hp]
    refine hround.alike fun s hs => ?_
    have hpos : 0 < 2 ^ j := Nat.two_pow_pos j
    have hiw : 0 < 2 ^ i * w := Nat.mul_pos (Nat.two_pow_pos i) hw
    rcases hs.not_between hp (i := i) j with hle | hge
    · have hv : s * w < 4 * v := by
        refine Nat.lt_of_mul_lt_mul_right (a := 2 ^ j) ?_
        nlinarith [Nat.mul_le_mul_right w hle]
      have hmid : s * (2 * 2 ^ j) < 4 * ((2 * x.m + 1) * 2 ^ i) := by nlinarith [Nat.two_pow_pos i]
      omega
    · have hv : 4 * v < s * w := by
        refine Nat.lt_of_mul_lt_mul_right (a := 2 ^ j) ?_
        nlinarith [Nat.mul_le_mul_right w hge, h.above]
      have hmid : 4 * ((2 * x.m + 1) * 2 ^ i) < s * (2 * 2 ^ j) := by nlinarith [Nat.two_pow_pos i]
      omega
  · have hexact : x.m * 2 ^ i * w = v * 2 ^ j := not_not.mp fun hne => hx (h.more.mpr hne)
    refine (roundedTo_iff.mp (f.round_roundedTo .rne neg (by simpa using hx) hm le_rfl)).congr (by simp) hw ?_
    rw [sub_self, Int.toNat_zero, pow_zero, Nat.mul_one, Nat.one_mul]
    have hpow : 2 ^ (x.e - f.low).toNat * 2 ^ j = 2 ^ i * 2 ^ (f.low - x.e).toNat := by
      rw [← Nat.pow_add, ← Nat.pow_add]; congr 1; omega
    refine Nat.eq_of_mul_eq_mul_right (Nat.two_pow_pos j) ?_
    calc x.m * 2 ^ (x.e - f.low).toNat * w * 2 ^ j = x.m * w * (2 ^ (x.e - f.low).toNat * 2 ^ j) := by ring
      _ = x.m * 2 ^ i * w * 2 ^ (f.low - x.e).toNat := by rw [hpow]; ring
      _ = v * 2 ^ (f.low - x.e).toNat * 2 ^ j := by rw [hexact]; ring

end Sys2Proof.Machine
end

section
/-! PROOFS. Special functions (08 R169, R170): reciprocals and roots rounded once, and the values of Table 8-3. -/

namespace Sys2Proof.Machine

open Sys2Proof (Byte Word DWord Instr)

set_option Elab.async false

/-! ### Integer square roots -/

/-- Bit by bit, the root stays below and its last place above. -/
theorem sqrtBits_spec (n : Nat) : ∀ k r, r * r ≤ n → n < (r + 2 ^ k) * (r + 2 ^ k) →
    sqrtBits n k r * sqrtBits n k r ≤ n ∧ n < (sqrtBits n k r + 1) * (sqrtBits n k r + 1) := by
  intro k
  induction k with
  | zero => exact fun r hle hlt => ⟨hle, hlt⟩
  | succ k ih =>
    intro r hle hlt
    rw [sqrtBits]
    split
    next h => exact ih _ h (by rwa [Nat.add_assoc, ← Nat.two_mul, ← Nat.pow_succ'])
    next h => exact ih _ hle (not_le.mp h)

theorem lt_two_pow_bitLength (n : Nat) : n < 2 ^ bitLength n := by
  unfold bitLength
  split
  · simp_all
  · exact Nat.lt_log2_self

theorem intSqrt_spec (n : Nat) : intSqrt n * intSqrt n ≤ n ∧ n < (intSqrt n + 1) * (intSqrt n + 1) := by
  refine sqrtBits_spec n _ 0 (Nat.zero_le _) ((lt_two_pow_bitLength n).trans_le ?_)
  rw [Nat.zero_add, ← Nat.pow_add]
  exact Nat.pow_le_pow_right (by decide) (by omega)

/-! ### Roots rounded once -/

/-- The code nearest to the root of v / scale, in units of the format's smallest subnormal, and whether it is exact. -/
def Fmt.NearestRoot (f : Fmt) (scale v : Nat) (y : Nat × BitVec 8) : Prop :=
  y.1 ≤ f.top ∧ y.2 = (if f.count y.1 ^ 2 * scale = v then 0 else flagNX)
    ∧ (f.count (y.1 - 1) + f.count y.1) ^ 2 * scale ≤ 4 * v ∧ 4 * v ≤ (f.count y.1 + f.count (y.1 + 1)) ^ 2 * scale

section
variable {f : Fmt} {v w V S : Nat}
  (hcmp : ∀ s, f.Short s → (s * w < 4 * v ↔ s ^ 2 * S < 16 * V) ∧ (s * w = 4 * v ↔ s ^ 2 * S = 16 * V))
include hcmp

theorem count_alike_root (c : Nat) :
    (f.count c * w < v ↔ f.count c ^ 2 * S < V) ∧ (f.count c * w = v ↔ f.count c ^ 2 * S = V) := by
  obtain ⟨hlt, heq⟩ := hcmp _ (f.short_count c)
  have hsq : (4 * f.count c) ^ 2 * S = 16 * (f.count c ^ 2 * S) := by ring
  rw [Nat.mul_assoc, hsq] at hlt heq
  omega

theorem midpoint_alike_root (c : Nat) :
    (f.count c * w + f.count (c + 1) * w < 2 * v ↔ (f.count c + f.count (c + 1)) ^ 2 * S < 4 * V)
    ∧ (f.count c * w + f.count (c + 1) * w = 2 * v ↔ (f.count c + f.count (c + 1)) ^ 2 * S = 4 * V) := by
  obtain ⟨hlt, heq⟩ := hcmp _ (f.short_midpoint c)
  have hsum : 2 * (f.count c + f.count (c + 1)) * w = 2 * (f.count c * w + f.count (c + 1) * w) := by ring
  have hsq : (2 * (f.count c + f.count (c + 1))) ^ 2 * S = 4 * ((f.count c + f.count (c + 1)) ^ 2 * S) := by ring
  rw [hsum, hsq] at hlt heq
  omega

/-- The neighbour that is taken lies at most half a step from the root. -/
theorem nearest_of_alike {l : Nat} (hle : f.count l * w ≤ v) (hlt : v < f.count (l + 1) * w) :
    let c := if takesUpper .rne false (decide (l % 2 = 1)) (f.count l * w) (f.count (l + 1) * w) v then l + 1 else l
    (f.count (c - 1) + f.count c) ^ 2 * S ≤ 4 * V ∧ 4 * V ≤ (f.count c + f.count (c + 1)) ^ 2 * S
      ∧ (f.count l * w = v ↔ f.count c ^ 2 * S = V) := by
  have hmono : ∀ {a b}, a ≤ b → f.count a ≤ f.count b := fun h => f.count_strictMono.monotone h
  have hsquare : ∀ {a b : Nat}, a ≤ b → a ^ 2 * S ≤ b ^ 2 * S := fun h => Nat.mul_le_mul_right S (Nat.pow_le_pow_left h 2)
  have hfour : ∀ a, (a + a) ^ 2 * S = 4 * (a ^ 2 * S) := fun a => by ring
  obtain ⟨hbelow, hexact⟩ := count_alike_root hcmp l
  obtain ⟨habove, habove'⟩ := count_alike_root hcmp (l + 1)
  obtain ⟨hmid, hmid'⟩ := midpoint_alike_root hcmp l
  have hstep := hmono l.le_succ
  by_cases hup : takesUpper .rne false (decide (l % 2 = 1)) (f.count l * w) (f.count (l + 1) * w) v = true
  · have hne : f.count l * w ≠ v := fun heq => by
      rw [takesUpper_of_le _ _ _ heq.ge (hle.trans_lt hlt)] at hup
      exact Bool.false_ne_true hup
    have hsum : f.count l * w + f.count (l + 1) * w ≤ 2 * v := by
      simp only [takesUpper, Bool.or_eq_true, Bool.and_eq_true, decide_eq_true_eq] at hup
      omega
    have hnext := hsquare (Nat.add_le_add_left (hmono (show l + 1 ≤ l + 1 + 1 by omega)) (f.count (l + 1)))
    rw [hfour] at hnext
    simp only [hup, if_true, Nat.add_sub_cancel]
    exact ⟨by omega, by omega, by omega⟩
  · have hsum : 2 * v ≤ f.count l * w + f.count (l + 1) * w := by
      simp only [takesUpper, Bool.or_eq_true, decide_eq_true_eq] at hup
      omega
    have hprev := hsquare (Nat.add_le_add_right (hmono (Nat.sub_le l 1)) (f.count l))
    rw [hfour] at hprev
    simp only [hup, Bool.false_eq_true, if_false]
    exact ⟨hprev.trans (by omega), by omega, hexact⟩

/-- A rounding of a value that lies as a root does with regard to all points of few digits is the root's. -/
theorem Fmt.RoundsQuotient.nearestRoot {y : Nat × BitVec 8} (h : f.RoundsQuotient .rne false v w y) (hS : 0 < S)
    (hnormal : (2 ^ f.fbits) ^ 2 * S ≤ V) (htop : V ≤ f.count f.top ^ 2 * S) : f.NearestRoot S V y := by
  obtain ⟨l, hle, hlt, h⟩ := h
  obtain ⟨hlow, hhigh, hexact⟩ := nearest_of_alike hcmp hle hlt
  dsimp only at h hlow hhigh hexact
  generalize (if takesUpper .rne false (decide (l % 2 = 1)) (f.count l * w) (f.count (l + 1) * w) v then l + 1 else l) = c at *
  have hc : c ≤ f.top := by
    by_contra hgt
    have hprev : f.count f.top ≤ f.count (c - 1) := f.count_strictMono.monotone (by omega)
    have hself : f.count f.top + 1 ≤ f.count c := f.count_strictMono (by omega)
    have hsq := Nat.mul_le_mul_right S (Nat.pow_le_pow_left (Nat.add_le_add hprev hself) 2)
    have hmore : (f.count f.top + (f.count f.top + 1)) ^ 2 * S = 4 * (f.count f.top ^ 2 * S) + (4 * f.count f.top + 1) * S := by ring
    have hpos : 0 < (4 * f.count f.top + 1) * S := Nat.mul_pos (Nat.succ_pos _) hS
    omega
  have hbig : ¬ v < 2 ^ f.fbits * w := by
    obtain ⟨hlt, heq⟩ := count_alike_root hcmp (2 ^ f.fbits)
    rw [f.count_normal] at hlt heq
    omega
  rw [if_neg (by simp [isSto, hc])] at h
  have hy : y = (c, if f.count c ^ 2 * S = V then 0 else flagNX) := by
    rw [h]
    simp [Fmt.withSign, hbig, hexact]
  rw [hy]
  exact ⟨hc, rfl, hlow, hhigh⟩

end

/-- A magnitude that is the root of N / D cut off. -/
structure Mag.CutsRoot (x : Mag) (N D : Nat) : Prop where
  below : x.m * x.m * D ≤ N
  above : N < (x.m + 1) * (x.m + 1) * D
  more : x.more = true ↔ x.m * x.m * D ≠ N

/-- Points of few digits lie with regard to the root as to the middle of what the cut-off magnitude stands for. -/
theorem Mag.CutsRoot.alike {f : Fmt} {x : Mag} {N D S V i j s : Nat} (h : x.CutsRoot N D) (hD : 0 < D) (hS : 0 < S)
    (hp : 2 ^ (f.fbits + 16) ≤ x.m) (hscale : N * (2 ^ i) ^ 2 * S = V * (2 ^ j) ^ 2 * D) (hs : f.Short s) :
    let mid := (2 * x.m + if x.more then 1 else 0) * 2 ^ i
    (s * (2 * 2 ^ j) < 4 * mid ↔ s ^ 2 * S < 16 * V) ∧ (s * (2 * 2 ^ j) = 4 * mid ↔ s ^ 2 * S = 16 * V) := by
  intro mid
  have hpos : 0 < (2 ^ j) ^ 2 * D := Nat.mul_pos (by positivity) hD
  have hb : 0 < 4 * 2 ^ i := by positivity
  have hleft : s ^ 2 * S * ((2 ^ j) ^ 2 * D) = (s * 2 ^ j) ^ 2 * D * S := by ring
  have hright : 16 * V * ((2 ^ j) ^ 2 * D) = (4 * 2 ^ i) ^ 2 * N * S := by
    calc 16 * V * ((2 ^ j) ^ 2 * D) = 16 * (V * (2 ^ j) ^ 2 * D) := by ring
      _ = (4 * 2 ^ i) ^ 2 * N * S := by rw [← hscale]; ring
  have hsquares : (s ^ 2 * S < 16 * V ↔ (s * 2 ^ j) ^ 2 * D < (4 * 2 ^ i) ^ 2 * N)
      ∧ (s ^ 2 * S = 16 * V ↔ (s * 2 ^ j) ^ 2 * D = (4 * 2 ^ i) ^ 2 * N) := by
    rw [← Nat.mul_lt_mul_right hpos, ← Nat.mul_left_inj hpos.ne' (b := s ^ 2 * S), hleft, hright, Nat.mul_lt_mul_right hS,
      Nat.mul_left_inj hS.ne']
    exact ⟨Iff.rfl, Iff.rfl⟩
  have hmid : s * (2 * 2 ^ j) = 2 * (s * 2 ^ j) ∧ 4 * mid = (2 * x.m + if x.more then 1 else 0) * (4 * 2 ^ i) :=
    ⟨by ring, by ring⟩
  have hcut := hs.not_between hp (i := i) j
  rw [hsquares.1, hsquares.2, hmid.1, hmid.2]
  generalize s * 2 ^ j = a at *
  generalize 4 * 2 ^ i = b at *
  by_cases hx : x.more = true
  · have hbelow : x.m * x.m * D < N := lt_of_le_of_ne h.below (h.more.mp hx)
    simp only [hx, if_true]
    rcases hcut with hle | hge
    · have hroot : a ^ 2 * D < b ^ 2 * N :=
        calc a ^ 2 * D ≤ (x.m * b) ^ 2 * D := Nat.mul_le_mul_right D (Nat.pow_le_pow_left hle 2)
          _ = b ^ 2 * (x.m * x.m * D) := by ring
          _ < b ^ 2 * N := Nat.mul_lt_mul_of_pos_left hbelow (by positivity)
      have htwice : (2 * x.m + 1) * b = 2 * (x.m * b) + b := by ring
      omega
    · have hroot : b ^ 2 * N < a ^ 2 * D :=
        calc b ^ 2 * N < b ^ 2 * ((x.m + 1) * (x.m + 1) * D) := Nat.mul_lt_mul_of_pos_left h.above (by positivity)
          _ = ((x.m + 1) * b) ^ 2 * D := by ring
          _ ≤ a ^ 2 * D := Nat.mul_le_mul_right D (Nat.pow_le_pow_left hge 2)
      have htwice : (2 * x.m + 1) * b + b = 2 * ((x.m + 1) * b) := by ring
      omega
  · have hexact : x.m * x.m * D = N := not_not.mp fun hne => hx (h.more.mpr hne)
    have hsq : b ^ 2 * N = (x.m * b) ^ 2 * D := by rw [← hexact]; ring
    have htwice : (2 * x.m + 0) * b = 2 * (x.m * b) := by ring
    simp only [hx, Bool.false_eq_true, if_false]
    rw [hsq, htwice, Nat.mul_lt_mul_right hD, Nat.mul_left_inj hD.ne', Nat.pow_lt_pow_iff_left (by decide),
      Nat.pow_left_inj (by decide)]
    omega

/-- A root cut off far below the last place is rounded once. -/
theorem Fmt.round_root (f : Fmt) {x : Mag} {N D S V i j : Nat} (h : x.CutsRoot N D) (hD : 0 < D) (hS : 0 < S)
    (hp : 2 ^ (f.fbits + 16) ≤ x.m) (hij : (i : Int) - j = x.e - f.low) (hscale : N * (2 ^ i) ^ 2 * S = V * (2 ^ j) ^ 2 * D)
    (hnormal : (2 ^ f.fbits) ^ 2 * S ≤ V) (htop : V ≤ f.count f.top ^ 2 * S) : f.NearestRoot S V (f.round .rne false x) := by
  have hi := Nat.two_pow_pos i
  have hencloses : x.Encloses f.low ((2 * x.m + if x.more then 1 else 0) * 2 ^ i) (2 * 2 ^ j) i j := by
    have hwhole : x.m * 2 ^ i * (2 * 2 ^ j) = 2 * x.m * 2 ^ i * 2 ^ j := by ring
    have hnext : (x.m + 1) * 2 ^ i * (2 * 2 ^ j) = (2 * x.m + 2) * 2 ^ i * 2 ^ j := by ring
    refine ⟨hij, ?_, ?_, ?_⟩
    · rw [hwhole]
      exact Nat.mul_le_mul_right _ (Nat.mul_le_mul_right _ (Nat.le_add_right _ _))
    · rw [hnext]
      exact Nat.mul_lt_mul_of_pos_right (Nat.mul_lt_mul_of_pos_right (by split <;> omega) hi) (Nat.two_pow_pos j)
    · rw [hwhole, Ne, Nat.mul_left_inj (Nat.two_pow_pos j).ne', Nat.mul_left_inj hi.ne']
      split <;> simp_all
  exact (f.round_encloses false hencloses (by positivity) hp).nearestRoot (fun s hs => h.alike hD hS hp hscale hs) hS hnormal htop

/-! ### The model's truncated quotients and roots -/

theorem reciprocal_large {m : Nat} (hm : m ≠ 0) (e : Int) : 2 ^ 40 ≤ (reciprocal m e).m := by
  have hlt := lt_two_pow_bitLength m
  change 2 ^ 40 ≤ 2 ^ (bitLength m + 40) / m
  rw [Nat.le_div_iff_mul_le (Nat.pos_of_ne_zero hm), Nat.pow_add, Nat.mul_comm]
  exact Nat.mul_le_mul_right _ hlt.le

/-- The reciprocal of m × 2^e, cut off. -/
theorem reciprocal_encloses {low : Int} (hlow : low ≤ 0) {m : Nat} (hm : m ≠ 0) {e : Int} (he : low ≤ e) :
    (reciprocal m e).Encloses low (2 ^ (-low - low).toNat) (m * 2 ^ (e - low).toNat) (-low - low).toNat
      ((e - low).toNat + (bitLength m + 40)) := by
  unfold reciprocal
  dsimp only
  generalize bitLength m + 40 = k
  have hpos : 0 < 2 ^ (-low - low).toNat * 2 ^ (e - low).toNat := by positivity
  have hleft : ∀ c, c * 2 ^ (-low - low).toNat * (m * 2 ^ (e - low).toNat) = c * m * (2 ^ (-low - low).toNat * 2 ^ (e - low).toNat) :=
    fun c => by ring
  have hright : 2 ^ (-low - low).toNat * 2 ^ ((e - low).toNat + k) = 2 ^ k * (2 ^ (-low - low).toNat * 2 ^ (e - low).toNat) := by
    rw [Nat.pow_add]; ring
  have hdiv := Nat.div_add_mod' (2 ^ k) m
  have hmod := Nat.mod_lt (2 ^ k) (Nat.pos_of_ne_zero hm)
  refine ⟨by dsimp only; omega, ?_, ?_, ?_⟩
  · rw [hleft, hright]
    exact Nat.mul_le_mul_right _ (Nat.div_mul_le_self _ _)
  · have habove : 2 ^ k < (2 ^ k / m + 1) * m := by rw [Nat.succ_mul]; omega
    rw [hleft, hright]
    exact Nat.mul_lt_mul_of_pos_right habove hpos
  · simp only [hleft, hright, ne_eq, Nat.mul_left_inj hpos.ne', decide_eq_true_eq]
    omega

theorem intSqrt_large {n k : Nat} (h : (2 ^ k) ^ 2 ≤ n) : 2 ^ k ≤ intSqrt n := by
  obtain ⟨-, hlt⟩ := intSqrt_spec n
  by_contra hgt
  exact absurd (Nat.pow_le_pow_left (show intSqrt n + 1 ≤ 2 ^ k by omega) 2) (by rw [sq]; omega)

theorem even_exponent (e : Int) : (if decide (e % 2 = 1) then e - 1 else e) = 2 * (e / 2) := by
  split <;> simp_all <;> omega

theorem even_magnitude (m : Nat) (e : Int) : (if decide (e % 2 = 1) then 2 * m else m) = m * 2 ^ (e % 2).toNat := by
  rcases Int.emod_two_eq_zero_or_one e with h | h
  · simp [h]
  · simp [h, Nat.mul_comm]

theorem squareRoot_eq (m : Nat) (e : Int) : squareRoot m e =
    let n := m * 2 ^ (e % 2).toNat * 2 ^ 100
    { m := intSqrt n, e := e / 2 - 50, more := decide (intSqrt n * intSqrt n ≠ n) } := by
  unfold squareRoot
  dsimp only
  rw [even_exponent, even_magnitude]
  congr 1
  omega

/-- The places of a reciprocal root: an even number. -/
def rootPlaces (n : Nat) : Nat := bitLength n + 100 + bitLength n % 2

theorem reciprocalRoot_eq (m : Nat) (e : Int) : reciprocalRoot m e =
    let n := m * 2 ^ (e % 2).toNat
    let r := intSqrt (2 ^ rootPlaces n / n)
    { m := r, e := -(e / 2) - (rootPlaces n / 2 : Nat), more := decide (r * r * n ≠ 2 ^ rootPlaces n) } := by
  unfold reciprocalRoot
  dsimp only
  rw [even_exponent, even_magnitude]
  unfold rootPlaces
  congr 1
  omega

theorem squareRoot_cutsRoot (m : Nat) (e : Int) : (squareRoot m e).CutsRoot (m * 2 ^ (e % 2).toNat * 2 ^ 100) 1 := by
  obtain ⟨hle, hlt⟩ := intSqrt_spec (m * 2 ^ (e % 2).toNat * 2 ^ 100)
  rw [squareRoot_eq]
  exact ⟨by simpa using hle, by simpa using hlt, by simp⟩

theorem squareRoot_large {m : Nat} (hm : m ≠ 0) (e : Int) : 2 ^ 50 ≤ (squareRoot m e).m := by
  rw [squareRoot_eq]
  refine intSqrt_large ?_
  rw [← Nat.pow_mul]
  exact Nat.le_mul_of_pos_left _ (by positivity)

theorem reciprocalRoot_cutsRoot {m : Nat} (hm : m ≠ 0) (e : Int) :
    (reciprocalRoot m e).CutsRoot (2 ^ rootPlaces (m * 2 ^ (e % 2).toNat)) (m * 2 ^ (e % 2).toNat) := by
  have hn : 0 < m * 2 ^ (e % 2).toNat := by positivity
  rw [reciprocalRoot_eq]
  generalize m * 2 ^ (e % 2).toNat = n at *
  obtain ⟨hle, hlt⟩ := intSqrt_spec (2 ^ rootPlaces n / n)
  exact ⟨(Nat.le_div_iff_mul_le hn).mp hle, (Nat.div_lt_iff_lt_mul hn).mp hlt, by simp⟩

theorem reciprocalRoot_large {m : Nat} (hm : m ≠ 0) (e : Int) : 2 ^ 50 ≤ (reciprocalRoot m e).m := by
  have hn : 0 < m * 2 ^ (e % 2).toNat := by positivity
  rw [reciprocalRoot_eq]
  generalize m * 2 ^ (e % 2).toNat = n at *
  refine intSqrt_large ((Nat.le_div_iff_mul_le hn).mpr ?_)
  rw [← Nat.pow_mul]
  calc 2 ^ (50 * 2) * n ≤ 2 ^ 100 * 2 ^ bitLength n := Nat.mul_le_mul_left _ (lt_two_pow_bitLength n).le
    _ ≤ 2 ^ rootPlaces n := by rw [← Nat.pow_add]; exact Nat.pow_le_pow_right (by decide) (by unfold rootPlaces; omega)

/-! ### The functions on finite values (R170) -/

/-- What the special functions ask of a format: few digits, and room for their results. -/
structure Fmt.RootRange (f : Fmt) : Prop extends f.Arithmetic where
  digits : f.fbits ≤ 24
  sqrtNormal : (2 ^ f.fbits) ^ 2 ≤ 2 ^ (-f.low).toNat
  sqrtTop : 2 ^ (-f.low).toNat ≤ f.count f.top
  rsqNormal : (2 ^ f.fbits) ^ 2 * f.count f.top ≤ 2 ^ (3 * (-f.low).toNat)
  rsqTop : 2 ^ (3 * (-f.low).toNat) ≤ f.count f.top ^ 2
  one : ∀ n, f.round .rne n ⟨1, 0, false⟩ = (f.withSign n (f.bias * 2 ^ f.fbits), 0)
  log2One : specialCode f .log2 (f.bias * 2 ^ f.fbits) = (0, 0)

theorem rootRange_of_mem {f : Fmt} (h : f ∈ [fmtF32, fmtBf16, fmtF16]) : f.RootRange := by
  have harith := arithmetic_of_mem h
  simp only [List.mem_cons, List.not_mem_nil, or_false] at h
  obtain rfl | rfl | rfl := h <;>
  exact ⟨harith, by decide, by decide +kernel, by decide +kernel, by decide +kernel, by decide +kernel, by decide +kernel, by decide +kernel⟩

section
variable {f : Fmt} (hf : f.RootRange) {x : Nat}
include hf

theorem Fmt.RootRange.places {m : Nat} (h : 2 ^ 40 ≤ m) : 2 ^ (f.fbits + 16) ≤ m :=
  (Nat.pow_le_pow_right (by decide) (Nat.add_le_add_right hf.digits 16)).trans h

/-- A reciprocal is rounded once. -/
theorem Fmt.rcp_roundedTo (hx : f.Finite x) (hn : (f.number x).natAbs ≠ 0) :
    RoundedTo f .rne (f.isNegative x) 1 (f.number x).natAbs (-f.low) (specialCode f .rcp x) := by
  obtain ⟨m, e, hd, he, hc⟩ := f.decode_count hx.2
  have habs : (f.number x).natAbs = m * 2 ^ (e - f.low).toNat := by rw [Fmt.number, natAbs_signed, hc]
  have hm : m ≠ 0 := by rintro rfl; simp [habs] at hn
  have hlow := hf.low
  unfold specialCode
  rw [hd]
  simp only [specialFin, hm, if_false]
  rw [roundedTo_iff, habs, Nat.one_mul, Int.toNat_of_nonpos (by omega : f.low - -f.low ≤ 0), pow_zero, Nat.mul_one]
  exact f.round_encloses _ (reciprocal_encloses hlow hm he) (by positivity) (hf.places (reciprocal_large hm e))

theorem Fmt.sqrt_nearestRoot (hx : f.Finite x) (hn : (f.number x).natAbs ≠ 0) (hpos : f.isNegative x = false) :
    f.NearestRoot 1 ((f.number x).natAbs * 2 ^ (-f.low).toNat) (specialCode f .sqrt x) := by
  obtain ⟨m, e, hd, he, hc⟩ := f.decode_count hx.2
  have habs : (f.number x).natAbs = f.count (x % f.signBit) := by rw [Fmt.number, natAbs_signed]
  have hle : f.count (x % f.signBit) ≤ f.count f.top := f.count_strictMono.monotone hx.2
  rw [habs] at hn ⊢
  have hm : m ≠ 0 := by rintro rfl; simp [← hc] at hn
  have hlow := hf.low
  have hexp : (squareRoot m e).e = e / 2 - 50 := by rw [squareRoot_eq]
  unfold specialCode
  rw [hd, hpos]
  simp only [specialFin, hm, if_false, Bool.false_eq_true]
  refine f.round_root (i := (e / 2 - 50 - f.low).toNat) (j := (f.low - (e / 2 - 50)).toNat) (squareRoot_cutsRoot m e) Nat.one_pos
    Nat.one_pos (hf.places (le_trans (by decide) (squareRoot_large hm e))) (by rw [hexp]; omega) ?_ ?_ ?_
  · rw [← hc]
    simp only [← Nat.pow_mul, Nat.mul_one, Nat.mul_assoc, ← Nat.pow_add]
    congr 2
    omega
  · rw [Nat.mul_one]
    exact hf.sqrtNormal.trans (Nat.le_mul_of_pos_left _ (Nat.pos_of_ne_zero hn))
  · rw [Nat.mul_one, sq]
    exact Nat.mul_le_mul hle hf.sqrtTop

theorem Fmt.rsq_nearestRoot (hx : f.Finite x) (hn : (f.number x).natAbs ≠ 0) (hpos : f.isNegative x = false) :
    f.NearestRoot (f.number x).natAbs (2 ^ (3 * (-f.low).toNat)) (specialCode f .rsq x) := by
  obtain ⟨m, e, hd, he, hc⟩ := f.decode_count hx.2
  have habs : (f.number x).natAbs = f.count (x % f.signBit) := by rw [Fmt.number, natAbs_signed]
  have hle : f.count (x % f.signBit) ≤ f.count f.top := f.count_strictMono.monotone hx.2
  rw [habs] at hn ⊢
  have hm : m ≠ 0 := by rintro rfl; simp [← hc] at hn
  have hlow := hf.low
  have hexp : (reciprocalRoot m e).e = -(e / 2) - (rootPlaces (m * 2 ^ (e % 2).toNat) / 2 : Nat) := by rw [reciprocalRoot_eq]
  have heven : rootPlaces (m * 2 ^ (e % 2).toNat) % 2 = 0 := by unfold rootPlaces; omega
  unfold specialCode
  rw [hd, hpos]
  simp only [specialFin, hm, if_false, Bool.false_eq_true]
  refine f.round_root (i := ((reciprocalRoot m e).e - f.low).toNat) (j := (f.low - (reciprocalRoot m e).e).toNat)
    (reciprocalRoot_cutsRoot hm e) (by positivity) (Nat.pos_of_ne_zero hn)
    (hf.places (le_trans (by decide) (reciprocalRoot_large hm e))) (by omega) ?_ ?_ ?_
  · rw [← hc, hexp]
    generalize rootPlaces (m * 2 ^ (e % 2).toNat) = k at *
    generalize hi : (-(e / 2) - (k / 2 : Nat) - f.low).toNat = i
    generalize hj : (f.low - (-(e / 2) - (k / 2 : Nat))).toNat = j
    have hpow : 2 ^ k * (2 ^ i) ^ 2 * 2 ^ (e - f.low).toNat = 2 ^ (3 * (-f.low).toNat) * (2 ^ j) ^ 2 * 2 ^ (e % 2).toNat := by
      simp only [← Nat.pow_mul, ← Nat.pow_add]
      congr 1
      omega
    calc 2 ^ k * (2 ^ i) ^ 2 * (m * 2 ^ (e - f.low).toNat) = 2 ^ k * (2 ^ i) ^ 2 * 2 ^ (e - f.low).toNat * m := by ring
      _ = 2 ^ (3 * (-f.low).toNat) * (2 ^ j) ^ 2 * (m * 2 ^ (e % 2).toNat) := by rw [hpow]; ring
  · exact (Nat.mul_le_mul_left _ hle).trans hf.rsqNormal
  · exact hf.rsqTop.trans (Nat.le_mul_of_pos_right _ (Nat.pos_of_ne_zero hn))

omit hf in
/-- A negative number has no root and no logarithm. -/
theorem Fmt.special_negative (hx : f.Finite x) (hn : (f.number x).natAbs ≠ 0) (hneg : f.isNegative x = true) :
    specialCode f .rsq x = (f.quiet, flagNV) ∧ specialCode f .sqrt x = (f.quiet, flagNV) ∧ specialCode f .log2 x = (f.quiet, flagNV) := by
  obtain ⟨m, e, hd, -, hc⟩ := f.decode_count hx.2
  have hm : m ≠ 0 := by rintro rfl; simp [Fmt.number, ← hc] at hn
  unfold specialCode
  rw [hd, hneg]
  simp [specialFin, hm]

/-- Zeros: poles, zeros and ones (Table 8-3). -/
theorem Fmt.special_zero (hx : f.Finite x) (hn : (f.number x).natAbs = 0) :
    let neg := f.isNegative x
    let one := f.bias * 2 ^ f.fbits
    specialCode f .rcp x = (f.infinity neg, flagDZ) ∧ specialCode f .rsq x = (f.infinity neg, flagDZ) ∧ specialCode f .sqrt x = (x, 0)
      ∧ specialCode f .exp2 x = (one, 0) ∧ specialCode f .log2 x = (f.infinity true, flagDZ) ∧ specialCode f .sin x = (x, 0)
      ∧ specialCode f .cos x = (one, 0) ∧ specialCode f .tanh x = (x, 0) := by
  have hcode : x % f.signBit = 0 := f.number_eq_zero.mp (Int.natAbs_eq_zero.mp hn)
  have hself : f.zero (f.isNegative x) = x := by
    have h := f.eq_withSign hx.1
    rw [hcode] at h
    exact h.symm
  have hone : f.round .rne false ⟨1, 0, false⟩ = (f.bias * 2 ^ f.fbits, 0) := hf.one false
  have hd : f.decode x = .fin (f.isNegative x) 0 f.low := by
    unfold Fmt.decode Fmt.magnitude Fmt.isNegative
    simp [hcode]
  unfold specialCode
  rw [hd]
  simp [specialFin, hself, hone]

/-- Infinities (Table 8-3). -/
theorem Fmt.special_infinite (hx : f.Infinite x) :
    let neg := f.isNegative x
    let nan : Nat × BitVec 8 := (f.quiet, flagNV)
    specialCode f .rcp x = (f.zero neg, 0) ∧ specialCode f .rsq x = (if neg then nan else (0, 0))
      ∧ specialCode f .sqrt x = (if neg then nan else (x, 0)) ∧ specialCode f .exp2 x = (if neg then 0 else x, 0)
      ∧ specialCode f .log2 x = (if neg then nan else (x, 0)) ∧ specialCode f .sin x = nan ∧ specialCode f .cos x = nan
      ∧ specialCode f .tanh x = (f.withSign neg (f.bias * 2 ^ f.fbits), 0) := by
  have hself := hx.eq_infinity
  have hzero : f.zero false = 0 := rfl
  have hone := hf.one (f.isNegative x)
  unfold specialCode
  rw [hx.decode]
  cases hneg : f.isNegative x with
  | true => rw [hneg] at hone; simp [specialInf, hone, hzero]
  | false => rw [hneg] at hone hself; simp [specialInf, hone, hzero, ← hself]

theorem Fmt.special_nan (hx : f.NotNumber x) (h : Special) : specialCode f h x = (f.quiet, invalidIf (f.signals x)) := by
  unfold specialCode
  rw [hx.decode hf.exponent]
  rfl

end

/-! ### The words -/

/-- A special function on the elements of its type (R169). -/
def specialWord (k : Special) (ty : BitVec 2) (x : Word) : Word × BitVec 8 :=
  if ty = 0 then single (fun u _ _ => specialCode fmtF32 k u) x 0 0
  else if ty = 1 then packed (fun u _ _ => specialCode fmtBf16 k u) x 0 0
  else packed (fun u _ _ => specialCode fmtF16 k u) x 0 0

theorem laneSpecial_eq (k : Special) (d a : BitVec 7) (ty : BitVec 2) (s : State) (iss : Issue) (t : Thread) :
    laneSpecial k d a ty s iss t = laneF1 .s d a 0 (fun _ => specialWord k ty) s iss t := by
  have hcases : ∀ ty : BitVec 2, ty = 0 ∨ ty = 1 ∨ ty = 2 ∨ ty = 3 := by decide
  obtain rfl | rfl | rfl | rfl := hcases ty <;> rfl

theorem fword1_of_laneSpecial {i : Instr} {k : Special} {g : BitVec 2} {d a : BitVec 7} {ty : BitVec 2}
    (hi : ∀ s, exec i s = laneWord g (laneSpecial k d a ty) s) : FWord1 i .s g d a 0 fun _ => specialWord k ty :=
  fword1_of_lane (fun s => (hi s).trans (by rw [show laneSpecial k d a ty = laneF1 .s d a 0 (fun _ => specialWord k ty) from
    funext₃ (laneSpecial_eq k d a ty)])) fun _ _ => rfl

/-- A conversion in every lane, under the rounding that the word names for it. -/
theorem fcvt_of_lane {i : Instr} {g : BitVec 2} {d a : BitVec 7} {k : BitVec 5} {m : BitVec 3} {s : State} {iss : Issue}
    {x : Thread → Word} {r : Thread → Thread} (hs : Alone s iss) (hr : Reads1 s iss g a x r)
    (hi : exec i s = laneWord g (laneFcvt d a k m) s) :
    let h := fun t =>
      let y := convert k.toNat (rndOf s iss t m) (x t)
      resultF iss .ab d 0 (BitVec.ofNat 32 y.1, y.2) (r t)
    (ToRegister d 0 → Does i s iss g h) ∧ Leads i s iss g h := by
  intro h
  have hlane : ∀ t ∈ s.threads, isActive iss g t = true → laneFcvt d a k m s iss t = .ok (h t) := fun t ht ha => by
    unfold laneFcvt; rw [hr t ht ha]
  exact ⟨fun hd => does_of_lane hs hi hlane fun t ht ha => (kept_src32 (hr t ht ha)).trans (kept_resultF _ _ _ _ _ _ hd),
    leads_of_lane hs hi hlane⟩

end Sys2Proof.Machine

open Sys2Proof Sys2Proof.Machine

/-- Settles O9: conversions round once by `narrow_spec` and `widen_spec`; reciprocals and roots are cut off so far below the last
place that their rounding is that of the exact value; the rest are the values of Table 8-3. -/
theorem specialFunctionsAndConversions : Obligations.SpecialFunctionsAndConversions := by
  intro c g d a ty k m fn
  refine ⟨?frcp, ?frsq, ?fsqrt, ?fexp2, ?flog2, ?fsin, ?fcos, ?ftanh, fun s iss x r hs hr => ?fcvt, fun r a => ?conversions,
    fun f hmem x => ?values⟩
  case frcp | frsq | fsqrt | fexp2 | flog2 | fsin | fcos | ftanh => exact fword1_of_laneSpecial fun _ => rfl
  case fcvt => exact fcvt_of_lane hs hr rfl
  case conversions =>
    intro x lo hi narrows widens both whole
    have hnarrows : ∀ (f t : Fmt) (u e : Nat), 0 < f.ebits → narrows f t u e (narrow f t (r u e) u) := fun f t u e he =>
      narrow_spec he t (r u e) u
    have hwidens : ∀ (f : Fmt) (u : Nat), f ∈ [fmtBf16, fmtF16, fmtE4m3, fmtE5m2, fmtE2m1] → widens f u (widen f u) := fun f u hf =>
      widen_spec (widens_of_mem hf) u
    have hboth : ∀ f t : Fmt, 0 < f.ebits → both f t (narrowPair f t r a) := fun f t he =>
      ⟨_, _, hnarrows f t lo 0 he, hnarrows f t hi 1 he, narrowPair_eq f t r a⟩
    refine ⟨hnarrows _ _ _ _ (by decide), hnarrows _ _ _ _ (by decide), hwidens _ _ (by decide), hwidens _ _ (by decide),
      hnarrows _ _ _ _ (by decide), hnarrows _ _ _ _ (by decide), hwidens _ _ (by decide), hwidens _ _ (by decide),
      hnarrows _ _ _ _ (by decide), hwidens _ _ (by decide), toWord_spec _ _ _ _ (by decide), toWord_spec _ _ _ _ (by decide),
      ofInteger_delivers _ _ _, ofInteger_delivers _ _ _, hboth _ _ (by decide), hboth _ _ (by decide)⟩
  case values =>
    intro neg n nan one k root
    have hf := rootRange_of_mem hmem
    refine ⟨fun hx => Fmt.special_nan hf hx, fun hx hn => Fmt.special_zero hf hx hn, fun hx hn => ⟨Fmt.rcp_roundedTo hf hx hn,
      fun hneg => Fmt.special_negative hx hn hneg, fun hpos => ⟨Fmt.sqrt_nearestRoot hf hx hn hpos,
        Fmt.rsq_nearestRoot hf hx hn hpos, ?_⟩⟩, fun hx => Fmt.special_infinite hf hx⟩
    rintro rfl
    exact hf.log2One
end

section
/-! PROOFS. Words that end segments, exits and forwards (09 R194 to R199), in every lane of the group. -/

namespace Sys2Proof.Machine

open Sys2Proof (Byte Word DWord Instr)

set_option Elab.async false

/-! ### Runs that end their lanes -/

/-- A word that changes its active lanes and ends none of them before its run does: its outcome is those lanes, settled. -/
theorem Alone.endsFrom {i : Instr} {s s1 : State} {iss : Issue} {g : BitVec 2} {h : Thread → Thread} {body : State → State}
    (hs : Alone s iss) (h1 : Alone s1 iss) (hi : exec i s = .next (wordRun body s)) (hb : body s = act iss g h s1)
    (hu : ∀ t ∈ s1.threads, isActive iss g t = true → Unended (h t)) : EndsFrom i s iss g h s1 := by
  have hunended : ∀ t ∈ (act iss g h s1).threads, inGroup iss t = true → Unended t := by
    intro t ht hin
    obtain ⟨u, hm, rfl⟩ := List.mem_map.mp ht
    by_cases ha : isActive iss g u = true
    · rw [if_pos ha]; exact hu u hm ha
    · rw [if_neg ha] at hin ⊢
      exact (h1.idle u hm hin).unended
  unfold EndsFrom
  rw [hi, wordRun_settled hs.issue hs.chained (by rw [hb]; exact endedLanes_unended h1.issue h1.away hunended), hb]

/-- The same for a word whose lanes act each for itself. -/
theorem Alone.ends {i : Instr} {s : State} {iss : Issue} {g : BitVec 2} {f : State → Issue → Thread → Except LaneEnd Thread}
    {h : Thread → Thread} (hs : Alone s iss) (hi : exec i s = laneWord g f s)
    (hf : ∀ t ∈ s.threads, isActive iss g t = true → f s iss t = .ok (h t))
    (hu : ∀ t ∈ s.threads, isActive iss g t = true → Unended (h t)) : Ends i s iss g h :=
  hs.endsFrom hs hi (mapLanes_act hs hf) hu

/-- What comes after its run is no matter to whether a lane has ended. -/
theorem Unended.withNext {t : Thread} (h : Unended t) (n : Next) : Unended { t with next := n } := by
  obtain ⟨hend, hacts, hask, hposting⟩ := h
  exact ⟨hend, hacts, hask, hposting⟩

theorem Alone.unended {s : State} {iss : Issue} {g : BitVec 2} {t : Thread} (hs : Alone s iss) (ht : t ∈ s.threads)
    (ha : isActive iss g t = true) : Unended t := (hs.idle t ht (isActive_group ha)).unended

/-- A barrier of attached threads, of a cohort launch where it spans the launch (R195). -/
theorem laneBar_attached {s : State} {iss : Issue} {t : Thread} (k : BarKind) (hd : t.detached = false)
    (hc : k = .launch → (launchOf s t.launch).cohort = true) : laneBar k s iss t = .ok (endAt iss (.barrier k false) t) := by
  unfold laneBar
  cases k <;> simp_all

/-! ### Batches sealed on the way out (02 R41, 09 R198) -/

/-- Sealing changes a thread's batches only. -/
theorem sealIfUsed_frame (t : Thread) :
    sealIfUsed t = { t with bsealed := if t.openBatch.issued then t.bsealed + 1 else t.bsealed, boldest := (sealIfUsed t).boldest,
                            batches := (sealIfUsed t).batches, openBatch := (sealIfUsed t).openBatch } := by
  unfold sealIfUsed
  split <;> rfl

theorem Unended.sealIfUsed {t : Thread} (h : Unended t) : Unended (sealIfUsed t) := by
  obtain ⟨hend, hacts, hask, hposting⟩ := h
  rw [sealIfUsed_frame]
  exact ⟨hend, hacts, hask, hposting⟩

/-! ### Exits (R198) -/

/-- What a thread leaves when its exit begins. -/
def exitBegun (t : Thread) : Thread :=
  sealIfUsed { killLatches (flushLoads t) with place := .exiting, streams := [], window := 0, regs := [], carry := 0, sysstat := 0,
                                               trapWord := 0, waiting := none }

theorem beginExit_eq (s : State) (t : Thread) : beginExit s t sealIfUsed = putThread s (exitBegun t) := rfl

theorem exitBegun_key (t : Thread) : rowKey (exitBegun t) = rowKey t := by
  unfold exitBegun
  rw [sealIfUsed_frame, flushLoads_eq]
  rfl

theorem settleLane_exit {iss : Issue} {s : State} {l : Nat} {u : Thread} (ha : threadAt s iss.launch l = some u)
    (he : u.laneEnd = none) (hn : u.next = .exit) : settleLane iss s l = putThread s (exitBegun (clearRun u)) := by
  unfold settleLane
  rw [ha]
  dsimp only
  rw [he]
  dsimp only
  rw [hn, beginExit_eq]

/-! ### Forwards (R199) -/

theorem laneFwd_ok {s : State} {iss : Issue} {t u : Thread} {a b : BitVec 7} {v : Word} {away : Bool} {p : Nat} {m : DWord}
    (hr : src32 s iss t b = .ok (v, u)) (hc : fwdChecks s u (fwdTarget (src64 s iss t a)) = .ok away)
    (hp : fwdResume s iss u b v = .ok (p, m)) :
    laneFwd a b s iss t = .ok (startForward (fwdTarget (src64 s iss t a)) away none iss p m u) := by
  unfold laneFwd
  rw [hr]
  dsimp only
  rw [hc]
  dsimp only
  rw [hp]

theorem laneFwdAck_ok {s : State} {iss : Issue} {t u : Thread} {a b : BitVec 7} {v : Word} {away : Bool}
    (hr : src32 s iss t b = .ok (v, u)) (hc : fwdChecks s u (fwdTarget (src64 s iss t a)) = .ok away)
    (hlimit : v.toNat + 4 ≤ (segAt (gangOf s u).segs 2).limit.toNat) (halign : v.toNat % 4 = 0) :
    laneFwdAck a b s iss t
      = .ok (startForward (fwdTarget (src64 s iss t a)) away (some v.toNat) iss (resumePacket iss.packet) iss.mask u) := by
  unfold laneFwdAck
  rw [hr]
  dsimp only
  rw [hc]
  dsimp only
  rw [if_neg (by omega), if_neg (by omega)]

/-- A displaced entry with its descriptor before it. -/
theorem fwdResume_displaced {s : State} {iss : Issue} {u : Thread} {b : BitVec 7} {v : Word} {p : Nat} {m : DWord} (hb : b ≠ 80)
    (ht : TargetAt s u (iss.packet + v.toInt) p) (hm : maskBefore s u p = .ok (some m)) : fwdResume s iss u b v = .ok (p, m) := by
  unfold fwdResume
  rw [if_neg hb, displacedTarget_targetAt ht]
  dsimp only
  rw [hm]

theorem unended_startForward {t u : Thread} (ht : Unended t) (k : Kept t u) (f : FwdTarget) (away : Bool) (ack : Option Nat)
    (iss : Issue) (p : Nat) (m : DWord) : Unended (startForward f away ack iss p m u) := by
  obtain ⟨hend, hacts, hask, hposting⟩ := (ht.kept k).sealIfUsed
  exact ⟨hend, hacts, hask, hposting⟩

end Sys2Proof.Machine

open Sys2Proof Sys2Proof.Machine

/-- Settles O23: each of the six words sends its active lanes to their segments' ends, and `Alone.ends` settles them there. -/
theorem segmentEnds : Obligations.SegmentEnds := by
  intro g n s iss hs ending attached
  have hend : ∀ p : Place, ∀ t ∈ s.threads, isActive iss g t = true → Unended (ending p t) :=
    fun p t ht ha => (hs.unended ht ha).withNext _
  refine ⟨fun hd => ?bar, fun hd => ?barc, fun hd hc => ?barx, ?batch, ?yield, ?exit⟩
  case bar => exact hs.ends rfl (fun t ht ha => laneBar_attached .gang (hd t ht ha) nofun) (hend _)
  case barc => exact hs.ends rfl (fun t ht ha => laneBar_attached .cluster (hd t ht ha) nofun) (hend _)
  case barx => exact hs.ends rfl (fun t ht ha => laneBar_attached .launch (hd t ht ha) fun _ => hc t ht ha) (hend _)
  case batch =>
    refine hs.ends (f := laneWaitBatch n) rfl (fun t _ _ => rfl) fun t ht ha => ?_
    split
    · exact hs.unended ht ha
    · exact hend _ t ht ha
  case yield => exact hs.ends (f := fun _ iss t => .ok (endAt iss (.binned 0) t)) rfl (fun _ _ _ => rfl) (hend _)
  case exit =>
    exact hs.ends (f := fun _ _ t => .ok { t with next := .exit }) rfl (fun _ _ _ => rfl)
      fun t ht ha => (hs.unended ht ha).withNext _

/-- Settles O25: the one lane, settled at its exit, is `exitBegun`, and nothing else of the package changes. -/
theorem exitFrees : Obligations.ExitFrees := by
  intro g s iss t h
  obtain ⟨hreads, hacts, hend, -, -, hask, hposting, -, -⟩ := h.idle
  generalize hu : ({ t with next := .exit } : Thread) = u
  have hkey : rowKey u = rowKey t := by rw [← hu]; rfl
  have hexit : rowKey (exitBegun (clearRun u)) = rowKey t := (exitBegun_key _).trans hkey
  have hlane := h.threadAt_put hkey
  have hend' : u.laneEnd = none := by rw [← hu]; exact hend
  have hnext : u.next = .exit := by rw [← hu]
  have hstill : Still u := by rw [← hu]; exact ⟨hreads, hacts, hask, hposting⟩
  refine ⟨_, exitBegun (clearRun u), ?_, ?_, othersKept_put hkey hexit, ?_⟩
  · change laneWord g (fun _ _ t => .ok { t with next := .exit }) s = _
    rw [h.laneWord_ok (congrArg Except.ok hu) hkey hstill hend', settleLane_exit hlane hend' hnext]
  · exact threadAt_putThread_self (s := putThread s u) (by rw [← h.launch] at hlane; exact hlane) hexit
  · unfold exitBegun
    rw [sealIfUsed_frame, flushLoads_eq, ← hu]
    exact ⟨rfl, rfl, rfl, rfl, rfl, rfl, rfl, rfl, rfl, rfl⟩

/-- Settles O26: a forward whose checks pass leaves its lane as `startForward` does, whichever packet the record resumes at. -/
theorem forwards : Obligations.Forwards := by
  intro g a b s iss x r away hs hr hc forward
  have hend : ∀ (ack : Option Nat) (p : Nat) (m : Thread → DWord), ∀ t ∈ s.threads, isActive iss g t = true →
      Unended (forward ack p (m t) t) := fun ack p m t ht ha =>
    unended_startForward (hs.unended ht ha) (kept_src32 (hr t ht ha)) _ _ _ _ _ _
  refine ⟨fun hb => ?after, fun hb p m hp => ?displaced, fun ho => ?ack⟩
  case after =>
    exact hs.ends rfl (fun t ht ha => laneFwd_ok (hr t ht ha) (hc t ht ha) (by rw [fwdResume, if_pos hb])) (hend _ _ fun _ => _)
  case displaced =>
    refine hs.ends rfl (fun t ht ha => ?_) fun t ht ha => hend none (p t) m t ht ha
    obtain ⟨htarget, hmask⟩ := hp t ht ha
    exact laneFwd_ok (hr t ht ha) (hc t ht ha) (fwdResume_displaced hb htarget hmask)
  case ack =>
    refine hs.ends rfl (fun t ht ha => ?_) fun t ht ha => hend (some (x t).toNat) _ (fun _ => iss.mask) t ht ha
    obtain ⟨hlimit, halign⟩ := ho t ht ha
    exact laneFwdAck_ok (hr t ht ha) (hc t ht ha) hlimit halign
end

section
/-! PROOFS. A run of one word in a group of one thread that waits in issue: its lane is out of the group, and nothing else changes
(02 R36). -/

namespace Sys2Proof.Machine

open Sys2Proof (Byte Word DWord Instr)

set_option Elab.async false

/-! ### Runs that issue to no lane -/

section
variable {s : State} {iss : Issue} {g : BitVec 2} (hi : s.issue = some iss) (hn : groupLanes iss = [])
include hn

theorem inGroup_none (t : Thread) : inGroup iss t = false := by simp [inGroup, hn]

theorem isLive_none (t : Thread) : isLive iss g t = false := by simp [isLive, isActive, inGroup_none hn]

include hi

theorem mapLanes_none (f : State → Issue → Thread → Except LaneEnd Thread) : mapLanes g f s = s := by
  have hstep : ∀ t ∈ s.threads, laneStep iss g (f s iss) t = t := fun t _ => by
    unfold laneStep
    rw [isLive_none hn, if_neg Bool.false_ne_true]
  unfold mapLanes
  rw [hi]
  dsimp only
  rw [List.map_congr_left (g := id) hstep, List.map_id, ← hi]

theorem foldLanes_none (f : State → Issue → Thread → Except LaneEnd State) : foldLanes g f s = s := by
  have hstep : ∀ u l, laneFold iss g f u l = u := fun u l => by
    unfold laneFold
    split
    · rfl
    · rw [isLive_none hn, if_neg Bool.false_ne_true]
  have hfold : ∀ ls : List Nat, ls.foldl (laneFold iss g f) s = s := fun ls => by
    induction ls with
    | nil => rfl
    | cons l ls ih => rw [List.foldl_cons, hstep, ih]
  unfold foldLanes
  rw [hi]
  exact hfold _

theorem readFirst_none (c : BitVec 7) : readFirst g c s = s := by
  unfold readFirst
  split
  · exact mapLanes_none hi hn _
  · rfl

omit hi hn in
theorem replayPasses_nil (atomic : Bool) (n : Nat) : replayPasses atomic n [] = 0 := by simp [replayPasses, passesOf]

/-- No lane's access is counted. -/
theorem countReplay_none (k : AccessClass) (atomic : Bool) (n : Nat) (p : State → Issue → Thread → DWord) :
    countReplay k atomic n g p s = s := by
  have hlanes : cellLanes k n g p s iss = [] := by simp [cellLanes, liveThreads, activeThreads, hn]
  unfold countReplay
  rw [hi]
  dsimp only
  rw [hlanes, replayPasses_nil, count, if_pos rfl]

theorem streamPhase_none (ha : ∀ t ∈ s.threads, t.launch = iss.launch → t.thread ∈ iss.lanes → t.acts = []) : streamPhase s = s := by
  have hstep : ∀ t ∈ s.threads, (if inGroup iss t && t.laneEnd.isNone then advanceRead t else t) = t := fun t _ => by
    rw [inGroup_none hn, Bool.false_and, if_neg Bool.false_ne_true]
  have hact : ∀ p l, l ∈ iss.lanes → laneActs iss p s l = s := fun p l hl => by
    unfold laneActs
    split
    · rfl
    · rename_i t ht
      obtain ⟨hm, hk⟩ := mem_of_threadAt ht
      simp only [rowKey, Prod.mk.injEq] at hk
      rw [ha t hm hk.1 (hk.2 ▸ hl)]
      rfl
  have hacts : ∀ p, actsAt iss s p = s := fun p => by
    have hfold : ∀ ls : List Nat, (∀ l ∈ ls, l ∈ iss.lanes) → ls.foldl (laneActs iss p) s = s := by
      intro ls
      induction ls with
      | nil => exact fun _ => rfl
      | cons l ls ih =>
        intro h
        rw [List.foldl_cons, hact p l (h l List.mem_cons_self), ih fun x hx => h x (List.mem_cons_of_mem _ hx)]
    have happends : appendLanes iss s p = [] := by simp [appendLanes, hn]
    unfold actsAt
    rw [happends, replayPasses_nil, count, if_pos rfl]
    exact hfold _ fun _ h => h
  unfold streamPhase
  rw [hi]
  dsimp only
  rw [List.map_congr_left (g := id) hstep, List.map_id, ← hi]
  simp only [List.foldl_cons, List.foldl_nil, hacts]

end

/-! ### The lane that waits -/

/-- The run of a thread that waits in issue, its lane marked with its end and out of the group. -/
def waitingRun (s : State) (iss : Issue) (u : Thread) : State :=
  { putThread s u with issue := some { iss with away := [u.thread] } }

/-- The waiting lane's row replaced, and the issue over. -/
theorem putThread_waiting {s : State} {iss : Issue} {t u v : Thread} (hu : rowKey u = rowKey t) (hv : rowKey v = rowKey t) :
    { putThread (waitingRun s iss u) v with issue := none } = putThread { s with issue := none } v := by
  unfold waitingRun putThread
  dsimp only
  congr 1
  rw [List.map_map]
  refine List.map_congr_left fun x _ => ?_
  simp only [Function.comp]
  by_cases hx : isThread u.launch u.thread x = true
  · have hxt : rowKey x = rowKey t := ((isThread_key _ _ _).mp hx).trans hu
    have hvu : isThread v.launch v.thread u = true := (isThread_key _ _ _).mpr (hu.trans hv.symm)
    have hvx : isThread v.launch v.thread x = true := (isThread_key _ _ _).mpr (hxt.trans hv.symm)
    rw [if_pos hx, if_pos hvu, if_pos hvx]
  · rw [if_neg hx]

/-- A run of one lane is over with what that lane settles to. -/
theorem settle_one {s s' : State} {iss : Issue} {l : Nat} (hi : s.issue = some iss) (ha : iss.after = []) (hl : iss.lanes = [l])
    (hs : settleLane iss s l = s') : settle s = { s' with issue := none } := by
  unfold settle
  rw [hi]
  dsimp only
  rw [ha, hl, ← hs]
  rfl

/-- What comes of a lane whose end is a request. -/
theorem settleLane_remote {s : State} {iss : Issue} {l p : Nat} {u v : Thread} {r : RemoteRead}
    (hu : threadAt s iss.launch l = some u) (he : u.laneEnd = some (.remote r, p)) (hc : clearRun u = v) (hr : r.stream = false) :
    settleLane iss s l = putThread s { v with waiting := some .data, remoteLoad := some (.wanted r) } := by
  unfold settleLane
  rw [hu]
  dsimp only
  rw [he, hc]
  simp only [hr, Bool.false_eq_true, if_false]

section
variable {s : State} {iss : Issue} {g : BitVec 2} {t : Thread} (h : OneLane s iss g t)
include h

theorem OneLane.groupLanes_away : groupLanes { iss with away := [t.thread] } = [] := by simp [groupLanes, h.lanes]

/-- A word whose lanes act one after another acts in the one lane. -/
theorem OneLane.foldLanes {f : State → Issue → Thread → Except LaneEnd State} :
    foldLanes g f s = laneFold iss g f s t.thread := by
  unfold Machine.foldLanes
  rw [h.alone.issue]
  dsimp only
  rw [h.lanes, List.foldl_cons, List.foldl_nil]

theorem OneLane.foldLanes_error {f : State → Issue → Thread → Except LaneEnd State} {e : LaneEnd} (hf : f s iss t = .error e) :
    Machine.foldLanes g f s = putThread s (endLane iss t e) := by
  have ha : threadAt s iss.launch t.thread = some t := h.launch ▸ threadAt_of_mem h.alone.rows h.row
  rw [h.foldLanes]
  unfold laneFold
  rw [ha]
  dsimp only
  rw [h.isLive, if_pos rfl, hf]

theorem OneLane.mapLanes_error {f : State → Issue → Thread → Except LaneEnd Thread} {e : LaneEnd} (hf : f s iss t = .error e) :
    Machine.mapLanes g f s = putThread s (endLane iss t e) :=
  h.mapLanes rfl (by unfold laneStep; rw [h.isLive, if_pos rfl, hf])

theorem OneLane.liveThreads : liveThreads s iss g = [t] := by
  obtain ⟨-, -, hend, -⟩ := h.idle
  have ha : threadAt s iss.launch t.thread = some t := h.launch ▸ threadAt_of_mem h.alone.rows h.row
  unfold Machine.liveThreads activeThreads
  rw [groupLanes_all h.alone.away, h.lanes]
  simp [ha, h.on, hend, Option.filter]

/-- An access that reaches no cell store has no passes. -/
theorem OneLane.countReplay {k : AccessClass} {n : Nat} {p : State → Issue → Thread → DWord} {tg : Target} (atomic : Bool)
    (hd : decodePointer s (accessorOf s t) k (p s iss t) n n = .ok tg) (hw : cellWords n tg = none) :
    countReplay k atomic n g p s = s := by
  have hlanes : cellLanes k n g p s iss = [] := by
    unfold cellLanes
    rw [h.liveThreads]
    simp [hd, hw]
  unfold Machine.countReplay
  rw [h.alone.issue]
  dsimp only
  rw [hlanes, replayPasses_nil, count, if_pos rfl]

/-- With the lane out of the group the run stands before its word. -/
theorem OneLane.voidLanes_wait {e : LaneEnd} {u : Thread} (hu : u = endLane iss t e) (he : isWaitEnd u = true) :
    voidLanes s [u] = waitingRun s iss u := by
  have hvoid : voidLane iss t u = u := by
    subst hu
    unfold voidLane
    dsimp only [endLane]
    rw [h.alone.postingWord_none]
    cases e <;> first | rfl | cases he
  have hkey : rowKey u = rowKey t := by rw [hu]; rfl
  have hissue : s.issue.map (fun iss => { iss with away := iss.away ++ ([u].filter isWaitEnd).map Thread.thread })
      = some { iss with away := [u.thread] } := by
    rw [h.alone.issue, List.filter_cons, if_pos he]
    simp [h.alone.away]
  unfold voidLanes waitingRun putThread
  rw [hissue]
  congr 1
  refine List.map_congr_left fun x hx => ?_
  rw [h.alone.issue, List.find?_singleton]
  by_cases hk : inGroup iss x = true
  · obtain rfl := h.eq_of_inGroup hx hk
    rw [if_pos ((isThread_key _ _ _).mpr hkey), if_pos ((isThread_key _ _ _).mpr hkey.symm)]
    exact hvoid
  · have hne : rowKey x ≠ rowKey u := fun e => hk (h.inGroup_iff.mpr (e.trans hkey))
    rw [if_neg fun e => hne ((isThread_key _ _ _).mp e).symm, if_neg fun e => hne ((isThread_key _ _ _).mp e)]

/-- Nothing follows the words of the run made again without its lane. -/
theorem OneLane.runEffects_waiting {u : Thread} (hu : rowKey u = rowKey t) (hs : Still u) :
    runEffects { iss with away := [u.thread] } (waitingRun s iss u) = waitingRun s iss u := by
  have hthread : u.thread = t.thread := congrArg Prod.snd hu
  have hrow : ∀ x ∈ (waitingRun s iss u).threads, x.launch = iss.launch → x.thread ∈ iss.lanes → Still x := by
    intro x hx hl hm
    have := h.eq_of_inGroup_put hu (x := x) hx ((Machine.inGroup_iff h.alone.away x).mpr ⟨hl, hm⟩)
    exact this ▸ hs
  have hphase := streamPhase_none (s := waitingRun s iss u) rfl (hthread ▸ h.groupLanes_away)
    fun x hx hl hm => (hrow x hx hl hm).acts
  unfold runEffects
  rw [hphase, closeRun, List.map_congr_left (g := id), List.map_id]
  intro x hx
  by_cases hin : x.launch = iss.launch ∧ x.thread ∈ iss.lanes
  · obtain ⟨-, -, hask, hposting⟩ := hrow x hx hin.1 hin.2
    rw [if_pos hin, closeAsk, hask]
    dsimp only
    rw [closePosting, hposting, id]
  · rw [if_neg hin, id]

/-- A word at which the one lane waits: the run, made again without it, leaves the lane to its wait. -/
theorem OneLane.wordRun_wait {body : State → State} {e : LaneEnd} {u : Thread} (hu : u = endLane iss t e)
    (he : isWaitEnd u = true) (hb : body s = putThread s u) (hw : body (waitingRun s iss u) = waitingRun s iss u)
    {v : Thread} (hv : rowKey v = rowKey t)
    (hset : settleLane { iss with away := [u.thread] } (waitingRun s iss u) t.thread = putThread (waitingRun s iss u) v) :
    wordRun body s = putThread { s with issue := none } v := by
  have hkey : rowKey u = rowKey t := by rw [hu]; rfl
  have hthread : u.thread = t.thread := congrArg Prod.snd hkey
  have hend : u.laneEnd = some (e, iss.pos) := by rw [hu]; rfl
  have hsome : u.laneEnd.isSome = true := by rw [hend]; rfl
  have hstill : Still u := by
    obtain ⟨hreads, hacts, hask, hposting⟩ := h.idle.still
    rw [hu]; exact ⟨hreads, hacts, hask, hposting⟩
  have hvoid : nextVoid [u] = [u] := by cases e <;> simp [nextVoid, endRank, hend]
  have hissue : (waitingRun s iss u).issue = some { iss with away := [u.thread] } := rfl
  have hended : endedLanes (waitingRun s iss u) { iss with away := [u.thread] } = [] := by
    unfold endedLanes
    rw [List.filter_eq_nil_iff]
    intro x _
    rw [inGroup_none (hthread ▸ h.groupLanes_away)]
    exact Bool.false_ne_true
  unfold wordRun
  rw [h.alone.issue]
  dsimp only
  rw [h.alone.chained, if_neg (by simp), show (33 : Nat) = 31 + 1 + 1 from rfl, conduct, h.alone.issue]
  dsimp only
  rw [hb, h.runEffects_put hkey hstill, h.endedLanes_put hkey hsome, h.endedLanes_none]
  simp only [List.all_nil, List.filter_true, List.cons_ne_nil, if_false]
  rw [hvoid, h.voidLanes_wait hu he, conduct, hissue]
  dsimp only
  rw [hw, h.runEffects_waiting hkey hstill, hended, List.filter_nil, if_pos rfl]
  exact (settle_one hissue h.alone.after h.lanes hset).trans (putThread_waiting hkey hv)

/-- A lane that waits keeps what was answered to it. -/
theorem OneLane.clearRun_wait {e : LaneEnd} (he : isWaitEnd (endLane iss t e) = true) :
    clearRun (endLane iss t e) = { clearRun t with answers := t.answers, kept := t.kept } := by
  obtain ⟨-, -, hend, -, hposted, -⟩ := h.idle
  have hagain : comesAgain (endLane iss t e) = true := by cases e <;> first | rfl | cases he
  have hover : comesAgain t = false := by unfold comesAgain; rw [hend]
  have hpost : (endLane iss t e).posted = none := hposted
  unfold clearRun
  rw [hagain, hover, hpost, hposted]
  rfl

/-- A word whose one lane asks a peer or the host for something: it leaves the request to be sent, and waits in issue. -/
theorem OneLane.asks {i : Instr} {body : State → State} {r : RemoteRead} (hi : exec i s = .next (wordRun body s))
    (hr : r.stream = false)
    (hb : t.remoteLoad = none → answerTo t r = none → body s = putThread s (endLane iss t (.remote r)))
    (hw : ∀ (s' : State) (iss' : Issue), s'.issue = some iss' → groupLanes iss' = [] → body s' = s') : Asks i s t r := by
  intro hload hanswer
  have hlane : threadAt (waitingRun s iss (endLane iss t (.remote r))) iss.launch t.thread = some (endLane iss t (.remote r)) :=
    h.threadAt_put rfl
  have hsettled := settleLane_remote (iss := { iss with away := [t.thread] }) hlane rfl (h.clearRun_wait rfl) hr
  rw [hi, h.wordRun_wait rfl rfl (hb hload hanswer) (hw _ _ rfl h.groupLanes_away) (by rfl) hsettled]

end

end Sys2Proof.Machine
end

section
/-! PROOFS. Words whose lanes act in turn: what stays of the run when memory, caches and messages change, and the outcome of such a
word in both its forms. -/

namespace Sys2Proof.Machine

open Sys2Proof (Byte Word DWord Instr)

set_option Elab.async false

/-! ### Changes that leave the run and its rows -/

/-- The run in progress and the rows of all threads stand. -/
structure RunStands (s s' : State) : Prop where
  issue : s'.issue = s.issue
  threads : s'.threads = s.threads

theorem RunStands.refl (s : State) : RunStands s s := ⟨rfl, rfl⟩

theorem RunStands.trans {s u v : State} (h : RunStands s u) (k : RunStands u v) : RunStands s v :=
  ⟨k.issue.trans h.issue, k.threads.trans h.threads⟩

theorem runStands_threadPost (s : State) (t : Thread) (dst : Nat) (p : Bool) (b : FeltBody) (k : Option AckKind) :
    RunStands s (threadPost s t dst p b k) := by rw [threadPost_felt]; exact ⟨rfl, rfl⟩

theorem runStands_peerSend (s : State) (t : Thread) (p : Bool) (peer va : Nat) (k : RenharKind) :
    RunStands s (peerSend s t p peer va k) := runStands_threadPost _ _ _ _ _ _

theorem runStands_message {s s' : State} {src dst : Nat} {p : Bool} {tag : Nat} (h : message s src dst p tag = some s') :
    RunStands s s' := by rw [message_felt h]; exact ⟨rfl, rfl⟩

theorem runStands_tell {s s' : State} {tag : Nat} {froms tos : List Nat} (h : tell s tag froms tos = some s') : RunStands s s' := by
  rw [tell_felt h]; exact ⟨rfl, rfl⟩

theorem runStands_roundTrip {s s' : State} {src dst : Nat} {p q : Bool} {tag : Nat} (h : roundTrip s src dst p q tag = some s') :
    RunStands s s' := by rw [roundTrip_felt h]; exact ⟨rfl, rfl⟩

theorem runStands_homePut (s : State) (die loc n v : Nat) : RunStands s (homePut s die loc n v) := by
  rw [homePut_frame]; exact ⟨rfl, rfl⟩

theorem runStands_selfInvalidate (s : State) (c : Nat) : RunStands s (selfInvalidate s c) := by
  rw [selfInvalidate_frame]; exact ⟨rfl, rfl⟩

theorem runStands_mapCore (s : State) (c : Nat) (f : Core → Core) : RunStands s (mapCore s c f) :=
  ⟨mapCore_issue _ _ _, mapCore_threads _ _ _⟩

theorem runStands_count (c k n : Nat) (s : State) : RunStands s (count c k n s) := ⟨count_issue _ _ _ _, count_threads _ _ _ _⟩

theorem runStands_countReplay (k : AccessClass) (atomic : Bool) (n : Nat) (g : BitVec 2) (p : State → Issue → Thread → DWord)
    (s : State) : RunStands s (countReplay k atomic n g p s) := by
  unfold countReplay
  split
  · exact RunStands.refl s
  · exact runStands_count _ _ _ _

theorem Alone.stands {s s' : State} {iss : Issue} (h : Alone s iss) (hs : RunStands s s') : Alone s' iss :=
  ⟨hs.issue.trans h.issue, h.chained, h.words, h.after, h.away, h.lanes, hs.threads ▸ h.rows, hs.threads ▸ h.idle⟩

theorem Going.stands {s s' : State} {iss : Issue} (h : Going s iss) (hs : RunStands s s') : Going s' iss :=
  going_same h hs.issue hs.threads

/-- In a state where its row stands, a lane's row replaced by one that goes on as it did. -/
theorem Going.put {s s' : State} {iss : Issue} {t t' : Thread} (h : Going s iss) (ht : t ∈ s.threads) (hs : RunStands s s')
    (k : Kept t t') : Going (putThread s' t') iss := going_put (h.stands hs) (hs.threads ▸ ht) k

/-! ### Lanes that have met no end, whatever they have noted for streams -/

/-- A lane still takes its words' effects, and nothing of its run has been made before. -/
structure TakesPart (t : Thread) : Prop where
  laneEnd : t.laneEnd = none
  posted : t.posted = none
  posting : t.posting = none

/-- The run in progress, as a word's lanes act: one row for each thread, and every lane of the group takes part. -/
structure Acting (s : State) (iss : Issue) : Prop where
  issue : s.issue = some iss
  rows : (s.threads.map rowKey).Nodup
  lanes : ∀ t ∈ s.threads, inGroup iss t = true → TakesPart t

/-- A thread of the same row that takes part where the other does. -/
structure Stays (t t' : Thread) : Prop where
  key : rowKey t' = rowKey t
  laneEnd : t'.laneEnd = t.laneEnd
  posted : t'.posted = t.posted
  posting : t'.posting = t.posting

theorem Kept.stays {t t' : Thread} (k : Kept t t') : Stays t t' := ⟨k.key, k.laneEnd, k.posted, k.posting⟩

theorem Stays.trans {t u v : Thread} (h : Stays t u) (k : Stays u v) : Stays t v :=
  ⟨k.key.trans h.key, k.laneEnd.trans h.laneEnd, k.posted.trans h.posted, k.posting.trans h.posting⟩

theorem TakesPart.stays {t t' : Thread} (h : TakesPart t) (k : Stays t t') : TakesPart t' :=
  ⟨k.laneEnd.trans h.laneEnd, k.posted.trans h.posted, k.posting.trans h.posting⟩

theorem Going.acting {s : State} {iss : Issue} (h : Going s iss) : Acting s iss :=
  ⟨h.issue, h.rows, fun t ht hg => have ⟨hend, _, _, _, hposting, hposted⟩ := h.lanes t ht hg; ⟨hend, hposted, hposting⟩⟩

theorem Acting.put {s s' : State} {iss : Issue} {t t' : Thread} (h : Acting s iss) (ht : t ∈ s.threads) (hs : RunStands s s')
    (k : Stays t t') : Acting (putThread s' t') iss := by
  refine ⟨hs.issue.trans h.issue, by rw [putThread_keys, hs.threads]; exact h.rows, ?_⟩
  intro u hu hg
  unfold putThread at hu
  rw [hs.threads] at hu
  obtain ⟨x, hx, rfl⟩ := List.mem_map.mp hu
  by_cases hk : isThread t'.launch t'.thread x = true
  · rw [if_pos hk] at hg ⊢
    rw [inGroup_key k.key] at hg
    exact (h.lanes t ht hg).stays k
  · rw [if_neg hk] at hg ⊢
    exact h.lanes x hx hg

theorem TakesPart.isMade {t : Thread} (h : TakesPart t) (iss : Issue) : isMade iss t = false := by
  unfold Machine.isMade; rw [h.posted]; rfl

/-! ### Turns -/

/-- Lanes that act in turn keep what each turn keeps. -/
theorem foldLanes_kept {iss : Issue} {g : BitVec 2} {f' : State → Issue → Thread → Except LaneEnd State} {keeps : State → Prop}
    {p : State → Thread → Prop} {f : State → Thread → State}
    (hlive : ∀ u, keeps u → ∀ t ∈ u.threads, inGroup iss t = true → t.laneEnd = none)
    (hf : ∀ u t, keeps u → t ∈ u.threads → isActive iss g t = true → p u t → f' u iss t = .ok (f u t) ∧ keeps (f u t)) :
    ∀ (ls : List Nat) (s : State), keeps s → AtEachTurn iss g p f ls s →
      ls.foldl (laneFold iss g f') s = ls.foldl (turn iss g f) s ∧ keeps (ls.foldl (turn iss g f) s) := by
  intro ls
  induction ls with
  | nil => exact fun s h _ => ⟨rfl, h⟩
  | cons l ls ih =>
    intro s h hp
    obtain ⟨hp, hr⟩ := hp
    have hturn : laneFold iss g f' s l = turn iss g f s l ∧ keeps (turn iss g f s l) := by
      unfold laneFold turn
      rcases ha : threadAt s iss.launch l with _ | t
      · exact ⟨rfl, h⟩
      · have hm := (mem_of_threadAt ha).1
        dsimp only
        by_cases hact : isActive iss g t = true
        · have hl : isLive iss g t = true := by unfold isLive; rw [hact, hlive s h t hm (isActive_group hact)]; rfl
          obtain ⟨e, k⟩ := hf s t h hm hact (hp t ha hact)
          rw [if_pos hl, if_pos hact, e]
          exact ⟨rfl, k⟩
        · have hl : isLive iss g t = false := by unfold isLive; rw [Bool.eq_false_of_not_eq_true hact]; rfl
          rw [hl, if_neg Bool.false_ne_true, if_neg hact]
          exact ⟨rfl, h⟩
    rw [List.foldl_cons, List.foldl_cons, hturn.1]
    exact ih _ hturn.2 hr

section
variable {i : Instr} {s s1 : State} {iss : Issue} {g : BitVec 2} {r : State → Thread → State → Prop} {fin : State → State}
  {f' : State → Issue → Thread → Except LaneEnd State} {body : State → State} (hs : Alone s iss) (h1 : Going s1 iss)
  (hi : exec i s = .next (wordRun body s)) (hb : body s = fin (foldLanes g f' s1))
include hs h1 hi hb

/-- What a word does whose lanes act in turn, each turn as `r` says and going on. -/
theorem doesInTurn_of_lane
    (hf : ∀ u t u', Going u iss → t ∈ u.threads → isActive iss g t = true → r u t u' → f' u iss t = .ok u' ∧ Going u' iss)
    (hfin : ∀ u, Going u iss → Going (fin u) iss) : DoesInTurn i s iss g r s1 fin := by
  intro f hp
  have hfold := foldLanes_turns (fun u t hu ht ha hr => hf u t (f u t) hu ht ha hr) iss.lanes s1 h1 hp
  have hbody : body s = fin (turns iss g f s1) := by
    rw [hb]
    unfold foldLanes turns
    rw [h1.issue]
    exact congrArg fin hfold.1
  rw [hi, wordRun_going hs (by rw [hbody]; exact hfin _ hfold.2), hbody]

/-- The same where lanes append to streams after the run. -/
theorem leadsInTurn_of_lane
    (hf : ∀ u t u', Acting u iss → t ∈ u.threads → isActive iss g t = true → r u t u' → f' u iss t = .ok u' ∧ Acting u' iss) :
    LeadsInTurn i s iss g r s1 fin := by
  intro f hp he
  have hfold := foldLanes_kept (fun u hu t ht hg => (hu.lanes t ht hg).laneEnd) (fun u t hu ht ha hr => hf u t (f u t) hu ht ha hr)
    iss.lanes s1 h1.acting hp
  have hbody : body s = fin (turns iss g f s1) := by
    rw [hb]
    unfold foldLanes turns
    rw [h1.issue]
    exact congrArg fin hfold.1
  rw [hi, wordRun_settled hs.issue hs.chained (by rw [hbody]; exact he), hbody]

end

/-! ### Lanes that each change by themselves, in a state where their accesses have been counted -/

theorem doesFrom_of_lane {i : Instr} {s s1 : State} {iss : Issue} {g : BitVec 2} {h : Thread → Thread} {body : State → State}
    {f : State → Issue → Thread → Except LaneEnd Thread} (hs : Alone s iss) (h1 : RunStands s s1)
    (hi : exec i s = .next (wordRun body s)) (hb : body s = mapLanes g f s1)
    (hf : ∀ t ∈ s1.threads, isActive iss g t = true → f s1 iss t = .ok (h t))
    (hk : ∀ t ∈ s1.threads, isActive iss g t = true → Kept t (h t)) : DoesFrom i s iss g h s1 := by
  have hact : body s = act iss g h s1 := hb.trans (mapLanes_act (hs.stands h1) hf)
  have hgoing : Going (act iss g h s1) iss := going_act (hs.stands h1) (fun t ht ha => (hk t ht ha).key)
    fun t ht ha => goesOn_kept ((hs.stands h1).idle t ht (isActive_group ha)) (hk t ht ha)
  unfold DoesFrom
  rw [hi, wordRun_going hs (by rw [hact]; exact hgoing), hact]

/-- The same where streams act after the run. -/
theorem leadsFrom_of_lane {i : Instr} {s s1 : State} {iss : Issue} {g : BitVec 2} {h : Thread → Thread} {body : State → State}
    {f : State → Issue → Thread → Except LaneEnd Thread} (hs : Alone s iss) (h1 : RunStands s s1)
    (hi : exec i s = .next (wordRun body s)) (hb : body s = mapLanes g f s1)
    (hf : ∀ t ∈ s1.threads, isActive iss g t = true → f s1 iss t = .ok (h t)) : LeadsFrom i s iss g h s1 := by
  intro he
  have hact : body s = act iss g h s1 := hb.trans (mapLanes_act (hs.stands h1) hf)
  rw [hi, wordRun_settled hs.issue hs.chained (by rw [hact]; exact he), hact]

/-! ### Stream operands read by all lanes first (12 R253) -/

section
variable {s : State} {iss : Issue} {g : BitVec 2} {d : BitVec 7} {x : Thread → Word} {r : Thread → Thread} (hs : Alone s iss)
  (hr : isStream d = true → Reads1 s iss g d x r)
include hs hr

theorem readFirst_reads : readFirst g d s = if isStream d then act iss g r s else s := by
  unfold readFirst
  split
  · exact mapLanes_act hs fun t ht ha => by rw [hr ‹_› t ht ha]
  · rfl

theorem going_readFirst : Going (if isStream d then act iss g r s else s) iss := by
  split
  · exact going_act hs (fun t ht ha => (kept_src32 (hr ‹_› t ht ha)).key)
      fun t ht ha => goesOn_kept (hs.idle t ht (isActive_group ha)) (kept_src32 (hr ‹_› t ht ha))
  · exact going_alone hs

end

theorem readFirst_register {g : BitVec 2} {d : BitVec 7} (hd : isStream d = false) (s : State) : readFirst g d s = s := by
  unfold readFirst; rw [hd, if_neg Bool.false_ne_true]

/-! ### Data on its way to a lane -/

theorem kept_loaded {d : BitVec 7} (hd : isStream d = false) (iss : Issue) (n v : Nat) (read : Option (Nat × Nat)) (acks : Bool)
    (t : Thread) : Kept t (loaded iss d n v read acks t) := by
  unfold loaded
  rw [hd]
  exact ⟨rfl, rfl, rfl, rfl, rfl, rfl, rfl⟩

theorem stays_loaded (iss : Issue) (d : BitVec 7) (n v : Nat) (read : Option (Nat × Nat)) (acks : Bool)
    (t : Thread) : Stays t (loaded iss d n v read acks t) := by
  unfold loaded
  split <;> exact ⟨rfl, rfl, rfl, rfl⟩

theorem loadTo_loaded {iss : Issue} (hw : iss.away = []) (d : BitVec 7) (n v : Nat) (t : Thread) :
    loadTo iss d n v t = loaded iss d n v none false t := by
  unfold loadTo pushLoad loaded
  rw [groupLanes_all hw]
  split <;> rfl

end Sys2Proof.Machine
end

section
/-! PROOFS. Plain loads and continuation loads (09 R180 to R183, R185). -/

namespace Sys2Proof.Machine

open Sys2Proof (Byte Word DWord Instr)

set_option Elab.async false

/-! ### Checked accesses -/

theorem access_target {s : State} {t : Thread} {k : AccessClass} {p : DWord} {n : Nat} {a : Acc} {u : Use} {tg : Target} {loc : Nat}
    (h : access s t k p n a u = .ok (tg, loc)) : decodePointer s (accessorOf s t) k p n n = .ok tg := by
  unfold access at h
  split at h
  · cases h
  · rename_i hd
    split at h
    · cases h
    · cases h; exact hd

/-- An access of a peer's or of virtual memory reaches no cell store, so that its one lane has no passes. -/
theorem OneLane.countReplay_access {s : State} {iss : Issue} {g : BitVec 2} {t : Thread} (h : OneLane s iss g t) {k : AccessClass}
    {n : Nat} {p : State → Issue → Thread → DWord} {a : Acc} {u : Use} {tg : Target} {loc : Nat} (atomic : Bool)
    (ha : access s t k (p s iss t) n a u = .ok (tg, loc)) (hw : cellWords n tg = none) : Machine.countReplay k atomic n g p s = s :=
  h.countReplay atomic (access_target ha) hw

/-- What a lane asks for at a location, where it is a peer's or the host's. -/
theorem remoteRead_eq (s : State) (t : Thread) (tg : Target) (loc n : Nat) (kind : Nat → RenharKind) (acquire : Bool) :
    remoteRead s t tg loc n kind acquire
      = if isRemote tg loc then some (requestFor s t tg loc n (kind (targetVa tg)) acquire) else none := by
  cases tg <;> rfl

theorem remoteAnswer_answered {t : Thread} {r : RemoteRead} {old : Nat} (h : Answered t r old) : remoteAnswer t r = .ok old := by
  unfold Answered at h
  unfold remoteAnswer; rw [h]

/-- A lane that has asked for nothing and has no answer asks. -/
theorem remoteAnswer_asks {t : Thread} {r : RemoteRead} (hl : t.remoteLoad = none) (ha : answerTo t r = none) :
    remoteAnswer t r = .error (.remote r) := by
  unfold remoteAnswer
  rw [ha, hl]
  rfl

/-- An access that its home has answered to translate. -/
theorem homeAccess_translates {s : State} {t : Thread} {k : AccessClass} {p : DWord} {n : Nat} {a : Acc} {u : Use} {tg : Target}
    {loc : Nat} (h : access s t k p n a u = .ok (tg, loc)) (ht : Translates t tg loc n a u) :
    homeAccess s t k p n a u = .ok (tg, loc) := by
  unfold homeAccess
  rw [h]
  cases tg with
  | peer q va =>
    obtain ⟨old, hold⟩ := Option.isSome_iff_exists.mp ht
    have hanswer := remoteAnswer_answered hold
    unfold translation at hanswer
    dsimp only
    rw [hanswer]
    rfl
  | _ => rfl

/-- One that its home is still to be asked about. -/
theorem homeAccess_asks {s : State} {t : Thread} {k : AccessClass} {p : DWord} {n q va loc : Nat} {a : Acc} {u : Use}
    (h : access s t k p n a u = .ok (.peer q va, loc)) (hl : t.remoteLoad = none)
    (ha : answerTo t (translation q va loc n a u) = none) :
    homeAccess s t k p n a u = .error (.remote (translation q va loc n a u)) := by
  have hask := remoteAnswer_asks hl ha
  unfold homeAccess
  rw [h]
  unfold translation at hask ⊢
  dsimp only
  rw [hask]
  rfl

/-! ### Extension of loaded bytes (R182) -/

/-- The signed number of the lowest `n` bits is that of a bit vector. -/
theorem sextInt_ofNat {n : Nat} (hn : 0 < n) (v : Nat) : sextInt n v = (BitVec.ofNat n v).toInt := by
  rw [BitVec.toInt_eq_toNat_cond, BitVec.toNat_ofNat]
  unfold sextInt
  have hpow : 2 ^ n = 2 * 2 ^ (n - 1) := by rw [← pow_succ', Nat.sub_add_cancel hn]
  by_cases h : v % 2 ^ n < 2 ^ (n - 1)
  · rw [if_pos h, if_pos (by omega)]
  · rw [if_neg h, if_neg (by omega)]

/-- Reduced modulo 2^32 it is the sign extension. -/
theorem wrapInt_sextInt {n : Nat} (hn : 0 < n) (v : Nat) : wrapInt 32 (sextInt n v) = ((BitVec.ofNat n v).signExtend 32).toNat := by
  rw [sextInt_ofNat hn]
  change _ = (BitVec.ofInt 32 (BitVec.ofNat n v).toInt).toNat
  rw [BitVec.toNat_ofInt]
  rfl

/-! ### Plain loads -/

theorem markFrom_loaded (tg : Target) (loc : Nat) (iss : Issue) (d : BitVec 7) (n v : Nat) (t : Thread) :
    markFrom tg loc n (loaded iss d n v none false t) = loaded iss d n v (readsAt tg loc n) false t := by
  unfold markFrom loaded readsAt
  cases tg <;> simp

/-- A load in a lane: of what is at hand or can be fetched, or of what has been answered. -/
theorem laneLoad_loaded {s : State} {iss : Issue} {t : Thread} {n : Nat} {signed : Bool} {d a : BitVec 7} {o : BitVec 5} {tg : Target}
    {loc : Nat} {v : Nat → Nat} (hw : iss.away = []) (hv : ∀ x, extend signed n x = v x)
    (ha : access s t .load (effective s iss t a o n) n .read .plain = .ok (tg, loc))
    (hc : if (isRemote tg loc && !isHeld s t.core loc n) = true then
        ∃ old, Answered t (requestFor s t tg loc n (.read (targetVa tg) n) false) old else canFetch s t tg loc n = true) :
    laneLoad n signed d a o s iss t = .ok (loaded iss d n (v (loadValue s t tg loc n))
      (if isRemote tg loc && !isHeld s t.core loc n then none else readsAt tg loc n) false t) := by
  unfold laneLoad
  rw [ha]
  dsimp only
  rw [remoteRead_eq, hv, loadTo_loaded hw]
  by_cases haway : (isRemote tg loc && !isHeld s t.core loc n) = true
  · rw [if_pos haway] at hc ⊢
    obtain ⟨old, hold⟩ := hc
    obtain ⟨hremote, hheld⟩ := Bool.and_eq_true_iff.mp haway
    rw [if_pos hremote, Option.filter, if_pos hheld]
    dsimp only
    rw [remoteAnswer_answered hold]
    rfl
  · rw [if_neg haway] at hc ⊢
    have hnone : (if isRemote tg loc = true then some (requestFor s t tg loc n (.read (targetVa tg) n) false) else none).filter
        (fun _ => !isHeld s t.core loc n) = none := by
      rw [Bool.and_eq_true] at haway
      by_cases hremote : isRemote tg loc = true
      · rw [if_pos hremote, Option.filter, if_neg fun h => haway ⟨hremote, h⟩]
      · rw [if_neg hremote]; rfl
    rw [hnone]
    dsimp only
    rw [if_pos hc, markFrom_loaded]

/-- A word of the loads asks where its data is a peer's or the host's and no line is held. -/
theorem OneLane.asks_load {i : Instr} {s : State} {iss : Issue} {g : BitVec 2} {t : Thread} {n : Nat} {signed : Bool} {d a : BitVec 7}
    {o : BitVec 5} {tg : Target} {loc : Nat} (h : OneLane s iss g t) (hi : exec i s = .next (wordRun (loadBody n signed g d a o) s))
    (hh : isHeld s t.core loc n = false) (hc : cellWords n tg = none)
    (ha : access s t .load (effective s iss t a o n) n .read .plain = .ok (tg, loc)) (hr : isRemote tg loc = true) :
    Asks i s t (requestFor s t tg loc n (.read (targetVa tg) n) false) := by
  refine h.asks hi rfl (fun hload hanswer => ?_) fun s' iss' hi' hn => ?_
  · unfold loadBody
    rw [h.countReplay_access false ha hc]
    refine h.mapLanes_error ?_
    unfold laneLoad
    rw [ha]
    dsimp only
    rw [remoteRead_eq, if_pos hr, hh, Option.filter, if_pos (by rfl)]
    dsimp only
    rw [remoteAnswer_asks hload hanswer]
    rfl
  · unfold loadBody
    rw [countReplay_none hi' hn, mapLanes_none hi' hn]

/-! ### Continuation loads -/

/-- The load that a lane leaves to be made while its record waits, and the end of its segment. -/
theorem laneLdc_ok {s : State} {iss : Issue} {t : Thread} {n : Nat} (signed : Bool) {d a : BitVec 7} {o : BitVec 5} {tg : Target}
    {loc : Nat} (ha : access s t .ldc (effective s iss t a o n) n .read .plain = .ok (tg, loc)) (ht : Translates t tg loc n .read .plain)
    (hd : isStream d = false) (hm : ∀ k, k < (n + 3) / 4 → iss.mask.getLsbD (d.toNat + k) = true) :
    laneLdc n signed d a o s iss t = .ok
      { t with ldc := some { loc := loc, size := n, signed := signed, dest := d.toNat, va := targetVa tg, peerf := targetPeerf tg,
                             peer := targetPeer tg, wpa := hostPa s t.core t.efftag tg, tag := t.efftag },
               next := .segment .ldcWait (resumePacket iss.packet) iss.mask } := by
  have hcarries : carriesAll iss.mask d n = true := by
    unfold carriesAll
    rw [hd, Bool.not_false, Bool.true_and, List.all_eq_true]
    exact fun k hk => hm k (List.mem_range.mp hk)
  unfold laneLdc
  rw [homeAccess_translates ha ht]
  dsimp only
  rw [if_pos hcarries]

theorem OneLane.asks_ldc {i : Instr} {s : State} {iss : Issue} {g : BitVec 2} {t : Thread} {n q va loc : Nat} {signed : Bool}
    {d a : BitVec 7} {o : BitVec 5} (h : OneLane s iss g t) (hi : exec i s = .next (wordRun (ldcBody n signed g d a o) s))
    (ha : access s t .ldc (effective s iss t a o n) n .read .plain = .ok (.peer q va, loc)) :
    Asks i s t (translation q va loc n .read .plain) := by
  refine h.asks hi rfl (fun hload hanswer => ?_) fun s' iss' hi' hn => ?_
  · unfold ldcBody
    rw [h.countReplay_access false ha rfl]
    refine h.mapLanes_error ?_
    unfold laneLdc
    rw [homeAccess_asks ha hload hanswer]
  · unfold ldcBody
    rw [countReplay_none hi' hn, mapLanes_none hi' hn]

end Sys2Proof.Machine

open Sys2Proof Sys2Proof.Machine

/-- Settles O16: every lane's load is `loaded` by `laneLoad_loaded`, and the one lane that must ask does so by `asks_load`. -/
theorem loads : Obligations.Loads := by
  intro c g d a o s iss hs load
  have hload : ∀ (n : Nat) (signed : Bool) (v : Nat → Nat) (i : Instr), (∀ x, extend signed n x = v x) →
      exec i s = .next (wordRun (loadBody n signed g d a o) s) → load n v i := by
    intro n signed v i hv hi
    let s1 := countReplay .load false n g (fun u j t => effective u j t a o n) s
    have h1 : RunStands s s1 := runStands_countReplay _ _ _ _ _ _
    refine ⟨?made, fun t va loc hone hheld => ⟨fun k ha => ?peer, fun k ha hhost => ?host⟩⟩
    case made =>
      intro tg loc away hchecked h
      have hlane : ∀ t ∈ s1.threads, isActive iss g t = true → laneLoad n signed d a o s1 iss t = .ok (h t) := by
        intro t ht hact
        obtain ⟨haccess, hdata⟩ := hchecked t ht hact
        exact laneLoad_loaded hs.away hv haccess hdata
      exact ⟨fun hd => doesFrom_of_lane hs h1 hi rfl hlane fun t _ _ => kept_loaded hd _ _ _ _ _ _,
        leadsFrom_of_lane hs h1 hi rfl hlane⟩
    case peer => exact hone.asks_load hi hheld rfl ha rfl
    case host => exact hone.asks_load hi hheld rfl ha hhost
  have hsigned : ∀ n, 0 < 8 * n → ∀ x, extend true n x = ((BitVec.ofNat (8 * n) x).signExtend 32).toNat :=
    fun n hn x => wrapInt_sextInt hn x
  exact ⟨hload 1 true _ _ (hsigned 1 (by decide)) rfl, hload 1 false _ _ (fun _ => rfl) rfl,
    hload 2 true _ _ (hsigned 2 (by decide)) rfl, hload 2 false _ _ (fun _ => rfl) rfl, hload 4 false _ _ (fun _ => rfl) rfl,
    hload 8 false _ _ (fun _ => rfl) rfl, hload 16 false _ _ (fun _ => rfl) rfl⟩

/-- Settles O21: every lane leaves what `laneLdc_ok` says, and a peer is asked first by `asks_ldc`. -/
theorem continuationLoads : Obligations.ContinuationLoads := by
  intro g d a o s iss hs ldc
  have hldc : ∀ (n : Nat) (signed : Bool) (i : Instr), exec i s = .next (wordRun (ldcBody n signed g d a o) s) →
      ldc n signed i := by
    intro n signed i hi
    let s1 := countReplay .ldc false n g (fun u j t => effective u j t a o n) s
    refine ⟨fun t k va loc hone ha => hone.asks_ldc hi ha, fun tg loc hchecked hd hm => ?_⟩
    have h1 : Alone s1 iss := hs.stands (runStands_countReplay _ _ _ _ _ _)
    refine hs.endsFrom h1 hi (mapLanes_act h1 fun t ht hact => ?_) fun t ht hact => ?_
    · obtain ⟨haccess, htranslates⟩ := hchecked t ht hact
      exact laneLdc_ok signed haccess htranslates hd hm
    · obtain ⟨hend, hacts, hask, hposting⟩ := h1.unended ht hact
      exact ⟨hend, hacts, hask, hposting⟩
  exact ⟨hldc 1 true _ rfl, hldc 1 false _ rfl, hldc 2 true _ rfl, hldc 2 false _ rfl, hldc 4 false _ rfl, hldc 8 false _ rfl,
    hldc 16 false _ rfl⟩
end

section
/-! PROOFS. Stores, acquire loads, release stores and fences: their lanes act in turn (09 R182, R184, R190; 05 R110, R113). -/

namespace Sys2Proof.Machine

open Sys2Proof (Byte Word DWord Instr)

set_option Elab.async false

/-! ### Operands of stores -/

theorem kept_storeData {n v : Nat} {d : BitVec 7} {s : State} {iss : Issue} {t w : Thread} (h : storeData n d s iss t = .ok (v, w)) :
    Kept t w := by
  unfold storeData at h
  split at h
  · cases h; exact Kept.refl t
  · split at h
    · cases h; exact Kept.refl t
    · split at h
      · cases h
      · rename_i hr
        cases h; exact kept_src32 hr

theorem src32_register {d : BitVec 7} (hd : isStream d = false) (s : State) (iss : Issue) (t : Thread) :
    src32 s iss t d = .ok (plain32 s iss t d, t) := by
  unfold src32; rw [hd, if_neg Bool.false_ne_true]

theorem storeData_register {d : BitVec 7} (hd : isStream d = false) (n : Nat) (s : State) (iss : Issue) (t : Thread) :
    ∃ v, storeData n d s iss t = .ok (v, t) := by
  unfold storeData
  rw [src32_register hd]
  split
  · exact ⟨_, rfl⟩
  · split <;> exact ⟨_, rfl⟩

/-! ### Plain stores (R182) -/

theorem postStore_stored {s : State} {t : Thread} {tg : Target} {loc n : Nat} (v : Nat) (h : CanStore s t tg loc n) :
    postStore s t tg loc n v = .ok (stored s t tg loc n v) := by
  have hentries : 1 ≤ entriesFor n := by unfold entriesFor; split <;> omega
  cases tg with
  | window off => rfl
  | cell l other =>
    obtain ⟨rfl, hready⟩ := h
    cases other with
    | false => rfl
    | true => exact if_pos (hready rfl)
  | virt va code =>
    have hroom : t.sbuf.length + entriesFor n ≤ 8 := h
    simp only [postStore, stored]
    rw [if_neg (by omega), if_neg (by omega)]
  | peer p va =>
    obtain ⟨hroom, hcredit⟩ := h
    simp only [postStore, stored]
    rw [if_neg (by omega), if_neg (by omega), hcredit]
    rfl

theorem going_stored {s : State} {iss : Issue} {t w : Thread} (h : Going s iss) (ht : t ∈ s.threads) (k : Kept t w) (tg : Target)
    (loc n v : Nat) : Going (stored s w tg loc n v) iss := by
  have same : ∀ {x : Thread}, Kept w x → Going (putThread s x) iss := fun kx => h.put ht (RunStands.refl s) (k.trans kx)
  cases tg with
  | window off => exact same ⟨rfl, rfl, rfl, rfl, rfl, rfl, rfl⟩
  | cell l other =>
    cases other with
    | false => exact h.put ht ⟨rfl, rfl⟩ k
    | true => exact h.put ht (runStands_threadPost _ _ _ _ _ _) (k.trans ⟨rfl, rfl, rfl, rfl, rfl, rfl, rfl⟩)
  | virt va code => exact same ⟨rfl, rfl, rfl, rfl, rfl, rfl, rfl⟩
  | peer p va => exact same ⟨rfl, rfl, rfl, rfl, rfl, rfl, rfl⟩

theorem laneStore_stored {s : State} {iss : Issue} {t w : Thread} {n v : Nat} {d a : BitVec 7} {o : BitVec 5} {tg : Target} {loc : Nat}
    (hp : TakesPart t) (hd : storeData n d s iss t = .ok (v, w))
    (ha : access s w .store (effective s iss t a o n) n .write .plain = .ok (tg, loc)) (ht : Translates w tg loc n .write .plain)
    (hc : CanStore s w tg loc n) : laneStore n d a o s iss t = .ok (stored s w tg loc n v) := by
  unfold laneStore
  rw [hd]
  dsimp only
  rw [hp.isMade, if_neg Bool.false_ne_true, threadStore, homeAccess_translates ha ht]
  exact postStore_stored v hc

theorem OneLane.asks_store {i : Instr} {s : State} {iss : Issue} {g : BitVec 2} {t : Thread} {n q va loc : Nat} {d a : BitVec 7}
    {o : BitVec 5} (h : OneLane s iss g t) (hi : exec i s = .next (wordRun (storeBody n g d a o) s)) (hd : isStream d = false)
    (ha : access s t .store (effective s iss t a o n) n .write .plain = .ok (.peer q va, loc)) :
    Asks i s t (translation q va loc n .write .plain) := by
  refine h.asks hi rfl (fun hload hanswer => ?_) fun s' iss' hi' hn => ?_
  · unfold storeBody
    rw [readFirst_register hd, h.countReplay_access false ha rfl]
    refine h.foldLanes_error ?_
    obtain ⟨v, hv⟩ := storeData_register hd n s iss t
    have hmade := ((going_alone h.alone).acting.lanes t h.row (h.inGroup_iff.mpr rfl)).isMade iss
    unfold laneStore
    rw [hv]
    dsimp only
    rw [hmade, if_neg Bool.false_ne_true, threadStore, homeAccess_asks ha hload hanswer]
  · unfold storeBody
    rw [readFirst_none hi' hn, countReplay_none hi' hn, foldLanes_none hi' hn]

/-! ### Waits of releases, acquires and fences (05 Table 5-3) -/

theorem releaseReady_iff (s : State) (t : Thread) : releaseReady s t = true ↔ Released s t := by
  simp [releaseReady, Released, and_assoc]

theorem fenceReady_of_released {s : State} {t : Thread} (h : Released s t) (hr : t.relUnack = 0) (ho : t.ownUnack = 0)
    (hd : t.dieUnack = 0) : fenceReady s t = true := by
  unfold fenceReady acquireReady
  rw [(releaseReady_iff s t).mpr h]
  simp [hr, ho, hd]

/-! ### Acquire loads (R184) -/

theorem runStands_acquireTrip {s s' : State} {t : Thread} {tg : Target} {loc n : Nat} (h : acquireTrip s t tg loc n = some s') :
    RunStands s s' := by
  have trip : ∀ {u : State} {p q : Bool} {die : Nat},
      (if eachByte (ownsByte s (dieOfCore t.core)) loc n then some s else roundTrip s (dieOfCore t.core) die p q t.efftag) = some u →
        RunStands s u := by
    intro u p q die hu
    split at hu
    · cases hu; exact RunStands.refl s
    · exact runStands_roundTrip hu
  cases tg with
  | window off => cases h; exact RunStands.refl s
  | peer q va => cases h; exact RunStands.refl s
  | cell l other => exact trip h
  | virt va code => exact trip h

section
variable {s : State} {iss : Issue} {t : Thread} {n : Nat} {d a : BitVec 7} {o : BitVec 5} {tg : Target} {loc : Nat} (hw : iss.away = [])
  (ha : access s t .sync (effective s iss t a o n) n .read .atomic = .ok (tg, loc)) (hu : t.relUnack = 0)
include hw ha hu

/-- An acquire of a word that a peer or the host has answered. -/
theorem laneAcquire_answered (hr : isRemote tg loc = true)
    {old : Nat} (hold : Answered t (requestFor s t tg loc n (.acquire (targetVa tg) n) true) old) :
    laneAcquire n d a o s iss t
      = .ok (putThread (selfInvalidate s t.core) (loaded iss d n (acquireValue s t tg loc n) none false t)) := by
  unfold laneAcquire
  rw [ha]
  dsimp only
  rw [remoteRead_eq, if_pos hr, acquireReady, hu]
  dsimp only
  rw [remoteAnswer_answered hold, loadTo_loaded hw]
  rfl

/-- An acquire made at its home. -/
theorem laneAcquire_home (hr : isRemote tg loc = false) {s1 : State} (ht : acquireTrip s t tg loc n = some s1) :
    laneAcquire n d a o s iss t
      = .ok (putThread (selfInvalidate s1 t.core) (loaded iss d n (acquireValue s t tg loc n) none false t)) := by
  unfold laneAcquire
  rw [ha]
  dsimp only
  rw [remoteRead_eq, hr, if_neg Bool.false_ne_true, acquireReady, hu]
  dsimp only
  rw [ht, loadTo_loaded hw]
  rfl

end

/-- An acquire's turn: its lane has no release to wait for, and its word is answered or made at its home. -/
def Acquires (iss : Issue) (n : Nat) (d a : BitVec 7) (o : BitVec 5) (s : State) (t : Thread) (s' : State) : Prop :=
  t.relUnack = 0 ∧ ∃ tg loc, access s t .sync (effective s iss t a o n) n .read .atomic = .ok (tg, loc)
    ∧ let v := acquireValue s t tg loc n
      (isRemote tg loc = true ∧ (∃ old, Answered t (requestFor s t tg loc n (.acquire (targetVa tg) n) true) old)
        ∧ s' = putThread (selfInvalidate s t.core) (loaded iss d n v none false t))
      ∨ (isRemote tg loc = false ∧ ∃ s1, acquireTrip s t tg loc n = some s1
        ∧ s' = putThread (selfInvalidate s1 t.core) (loaded iss d n v none false t))

theorem laneAcquire_acquires {s s' : State} {iss : Issue} {t : Thread} {n : Nat} {d a : BitVec 7} {o : BitVec 5} (hw : iss.away = [])
    (h : Acquires iss n d a o s t s') : ∃ s1 v, RunStands s s1 ∧ laneAcquire n d a o s iss t = .ok s'
      ∧ s' = putThread s1 (loaded iss d n v none false t) := by
  obtain ⟨hu, tg, loc, ha, ⟨hremote, ⟨old, hold⟩, rfl⟩ | ⟨hremote, s1, htrip, rfl⟩⟩ := h
  · exact ⟨_, _, runStands_selfInvalidate _ _, laneAcquire_answered hw ha hu hremote hold, rfl⟩
  · exact ⟨_, _, (runStands_acquireTrip htrip).trans (runStands_selfInvalidate _ _), laneAcquire_home hw ha hu hremote htrip, rfl⟩

theorem OneLane.asks_acquire {i : Instr} {s : State} {iss : Issue} {g : BitVec 2} {t : Thread} {n q va loc : Nat} {d a : BitVec 7}
    {o : BitVec 5} (h : OneLane s iss g t) (hi : exec i s = .next (wordRun (acquireBody n g d a o) s)) (hu : t.relUnack = 0)
    (ha : access s t .sync (effective s iss t a o n) n .read .atomic = .ok (.peer q va, loc)) :
    Asks i s t { peer := some q, va := va, loc := loc, size := n, kind := .acquire va n, acquire := true } := by
  refine h.asks hi rfl (fun hload hanswer => ?_) fun s' iss' hi' hn => ?_
  · unfold acquireBody
    rw [h.countReplay_access false ha rfl]
    refine h.foldLanes_error ?_
    have hask := remoteAnswer_asks hload hanswer
    unfold laneAcquire
    rw [ha]
    dsimp only [remoteRead]
    rw [acquireReady, hu, hask]
    rfl
  · unfold acquireBody
    rw [countReplay_none hi' hn, foldLanes_none hi' hn]

/-! ### Writes sent to their homes (05 R110) -/

theorem runStands_dropWords (s : State) (core loc n : Nat) : RunStands s (dropWords s core loc n) := by
  have hline : RunStands s (dropLine1 s core (loc / 128)) := by
    unfold dropLine1
    split
    · exact runStands_mapCore _ _ _
    · exact RunStands.refl s
  exact ⟨hline.issue, hline.threads⟩

/-- A write sent to its home leaves the run going: it changes memory, caches and messages, and counts of its thread. -/
theorem going_homeSend {s : State} {iss : Issue} {t w : Thread} (h : Going s iss) (ht : t ∈ s.threads) (k : Kept t w) (tg : Target)
    (loc n : Nat) (release posted : Bool) (kind : Nat → RenharKind) (body : FeltBody) {apply : State → State}
    (happly : ∀ u, RunStands u (apply u)) : Going (homeSend s w tg loc n release posted kind body apply) iss := by
  have counts : ∀ {b c e : Nat}, Kept t { w with relUnack := b, peerAck := c, dieUnack := e } :=
    k.trans ⟨rfl, rfl, rfl, rfl, rfl, rfl, rfl⟩
  have hdrop := runStands_dropWords s w.core loc n
  have hdisown : RunStands s (disownOthers (dropWords s w.core loc n) (dieOfCore w.core) loc n) := hdrop.trans ⟨rfl, rfl⟩
  have far : Going
      (if targetDie s w tg loc = dieOfCore w.core then
        putThread (apply (disownOthers (dropWords s w.core loc n) (dieOfCore w.core) loc n)) (releaseSent release w)
      else putThread (threadPost (disownOthers (dropWords s w.core loc n) (dieOfCore w.core) loc n) w (targetDie s w tg loc) true body
        (some (if release then .release else .otherDie))) (relaxedSent release (releaseSent release w))) iss := by
    split
    · exact h.put ht (hdisown.trans (happly _)) counts
    · exact h.put ht (hdisown.trans (runStands_threadPost _ _ _ _ _ _)) counts
  cases tg with
  | window off => exact far
  | virt va code => exact far
  | peer p va => exact h.put ht ((hdrop.trans (happly _)).trans (runStands_peerSend _ _ _ _ _ _)) counts
  | cell l other =>
    cases other with
    | false => exact h.put ht (happly s) k
    | true => exact far

/-! ### Release stores (R184) -/

theorem laneRelease_written {s : State} {iss : Issue} {t w : Thread} {n v : Nat} {d a : BitVec 7} {o : BitVec 5} {tg : Target} {loc : Nat}
    (hp : TakesPart t) (hd : storeData n d s iss t = .ok (v, w))
    (ha : access s w .sync (effective s iss t a o n) n .write .atomic = .ok (tg, loc)) (ht : Translates w tg loc n .write .atomic)
    (hr : Released s t) (hc : CanSend s t tg loc) :
    laneRelease n d a o s iss t = .ok (homeWrite s w tg loc n v true true (writeKind n v)) := by
  obtain ⟨hcredit, hslot⟩ := hc
  have hroom : (targetPeerf tg && !peerRoom t 1) = false := by
    cases hpeer : targetPeerf tg with
    | false => rfl
    | true => rw [hcredit hpeer]; rfl
  unfold laneRelease
  rw [hd]
  dsimp only
  rw [homeAccess_translates ha ht]
  dsimp only
  rw [hp.isMade, (releaseReady_iff s t).mpr hr, hroom, hslot]
  rfl

/-! ### Fences (R190) -/

theorem runStands_fenceTell {s s' : State} {t : Thread} (h : fenceTell s t = some s') : RunStands s s' := by
  obtain ⟨s1, h1, h2⟩ := Option.bind_eq_some_iff.mp h
  exact (runStands_tell h1).trans (runStands_tell h2)

end Sys2Proof.Machine

open Sys2Proof Sys2Proof.Machine

/-- Settles O17: every lane's turn is `stored` by `laneStore_stored`, and a peer is asked first by `asks_store`. -/
theorem stores : Obligations.Stores := by
  intro c g d a o s iss x r hs hr store
  have hstore : ∀ (n : Nat) (i : Instr), exec i s = .next (wordRun (storeBody n g d a o) s) → store n i := by
    intro n i hi
    refine ⟨?turns, fun t k va loc hone hd ha => hone.asks_store hi hd ha⟩
    case turns =>
      refine doesInTurn_of_lane hs ((going_readFirst hs hr).stands (runStands_countReplay _ _ _ _ _ _)) hi
        (by rw [← readFirst_reads hs hr]; rfl) (fun u t u' hu ht hact htakes => ?_) fun u hu => hu
      obtain ⟨v, w, tg, loc, hd, ha, htr, hc, rfl⟩ := htakes
      exact ⟨laneStore_stored (hu.acting.lanes t ht (isActive_group hact)) hd ha htr hc,
        going_stored hu ht (kept_storeData hd) _ _ _ _⟩
  exact ⟨hstore 1 _ rfl, hstore 2 _ rfl, hstore 4 _ rfl, hstore 8 _ rfl, hstore 16 _ rfl⟩

/-- Settles O18: each lane's turn is what `laneAcquire_answered`, `laneAcquire_home`, `laneRelease_written` and the fence's waits
say. -/
theorem acquiresAndReleases : Obligations.AcquiresAndReleases := by
  intro c g d a o s iss x r hs acquire release
  have hacquire : ∀ (n : Nat) (i : Instr), exec i s = .next (wordRun (acquireBody n g d a o) s) → acquire n i := by
    intro n i hi
    have h1 := (going_alone hs).stands (runStands_countReplay .sync false n g (fun u j t => effective u j t a o n) s)
    change (isStream d = false → DoesInTurn i s iss g (Acquires iss n d a o) _) ∧ LeadsInTurn i s iss g (Acquires iss n d a o) _ ∧ _
    refine ⟨fun hd => doesInTurn_of_lane hs h1 hi rfl (fun u t u' hu ht hact htakes => ?does) fun u hu => hu,
      leadsInTurn_of_lane hs h1 hi rfl fun u t u' hu ht hact htakes => ?leads, fun t k va loc hone hun ha => hone.asks_acquire hi hun ha⟩
    case does =>
      obtain ⟨u1, v, hstands, hlane, rfl⟩ := laneAcquire_acquires hs.away htakes
      exact ⟨hlane, hu.put ht hstands (kept_loaded hd _ _ _ _ _ _)⟩
    case leads =>
      obtain ⟨u1, v, hstands, hlane, rfl⟩ := laneAcquire_acquires hs.away htakes
      exact ⟨hlane, hu.put ht hstands (stays_loaded _ _ _ _ _ _ _)⟩
  have hrelease : ∀ (n : Nat) (i : Instr), exec i s = .next (wordRun (releaseBody n g d a o) s) → release n i := by
    intro n i hi hr
    refine doesInTurn_of_lane hs ((going_readFirst hs hr).stands (runStands_countReplay _ _ _ _ _ _)) hi
      (by rw [← readFirst_reads hs hr]; rfl) (fun u t u' hu ht hact htakes => ?_) fun u hu => hu
    obtain ⟨v, w, tg, loc, hd, ha, htr, hreleased, hc, rfl⟩ := htakes
    exact ⟨laneRelease_written (hu.acting.lanes t ht (isActive_group hact)) hd ha htr hreleased hc,
      going_homeSend hu ht (kept_storeData hd) _ _ _ _ _ _ _ fun _ => runStands_homePut _ _ _ _ _⟩
  refine ⟨hacquire 4 _ rfl, hacquire 8 _ rfl, hrelease 4 _ rfl, hrelease 8 _ rfl, ?fence⟩
  refine doesInTurn_of_lane hs (going_alone hs) (body := foldLanes g laneFence) rfl rfl (fun u t u' hu ht hact htakes => ?_) fun u hu => hu
  obtain ⟨hreleased, hun, hown, hdie, u1, htell, rfl⟩ := htakes
  refine ⟨?_, hu.stands ((runStands_fenceTell htell).trans (runStands_selfInvalidate _ _))⟩
  unfold laneFence
  rw [if_pos (fenceReady_of_released hreleased hun hown hdie), htell]
end

section
/-! PROOFS. Atomics and reductions (09 R186 to R188): what a lane's turn is, and where its one request goes. -/

namespace Sys2Proof.Machine

open Sys2Proof (Byte Word DWord Instr)

set_option Elab.async false

/-! ### Operands and waits -/

theorem kept_atomicData {n cmp v : Nat} {wide : Bool} {d : BitVec 7} {s : State} {iss : Issue} {t x : Thread}
    (h : atomicData n wide d s iss t = .ok (cmp, v, x)) : Kept t x := by
  unfold atomicData at h
  split at h
  · split at h <;> (cases h; exact Kept.refl t)
  · split at h
    · cases h; exact Kept.refl t
    · split at h
      · cases h
      · rename_i hr
        cases h; exact kept_src32 hr

/-- No stream is read for operands in registers. -/
theorem atomicData_register {n cmp v : Nat} {wide : Bool} {d : BitVec 7} {s : State} {iss : Issue} {t x : Thread}
    (hd : isStream d = false) (h : atomicData n wide d s iss t = .ok (cmp, v, x)) : x = t := by
  unfold atomicData at h
  rw [src32_register hd] at h
  split at h
  · split at h <;> (cases h; rfl)
  · split at h <;> (cases h; rfl)

theorem atomicWait_none {s : State} {t : Thread} {tg : Target} {loc n ord : Nat} {posted : Bool}
    (hr : isRelease ord = true → Released s t) (ha : isAcquire ord = true → t.relUnack = 0) (ho : overlaps t loc n = false)
    (hp : posted = true → targetPeerf tg = true → peerRoom t 1 = true)
    (hf : feltReady s (dieOfCore t.core) (targetDie s t tg loc) = true) : atomicWait s t tg loc n ord posted = none := by
  have hrelease : (isRelease ord && !releaseReady s t) = false := by
    cases h : isRelease ord with
    | false => rfl
    | true => rw [(releaseReady_iff s t).mpr (hr h)]; rfl
  have hacquire : (isAcquire ord && !acquireReady t) = false := by
    cases h : isAcquire ord with
    | false => rfl
    | true => rw [acquireReady, ha h]; rfl
  have hroom : (posted && targetPeerf tg && !peerRoom t 1) = false := by
    cases h : posted with
    | false => rfl
    | true =>
      cases hpeer : targetPeerf tg with
      | false => rfl
      | true => rw [hp h hpeer]; rfl
  unfold atomicWait
  rw [hrelease, hacquire, ho, hroom, hf]
  rfl

/-! ### The old value on its way -/

theorem markAcks_loaded (acks : Bool) (iss : Issue) (d : BitVec 7) (n v : Nat) (t : Thread) :
    markAcks acks (loaded iss d n v none false t) = loaded iss d n v none acks t := by
  unfold markAcks loaded
  simp

/-- Only a run that makes a word before the rest sets its result aside. -/
theorem Acting.keepResult {s : State} {iss : Issue} {t : Thread} (h : Acting s iss) (ht : inGroup iss t = true) :
    keepResult s t = s := by
  unfold Machine.keepResult mapThread
  rw [List.map_congr_left (g := id), List.map_id]
  intro x hx
  by_cases hk : isThread t.launch t.thread x = true
  · have hkey : rowKey x = rowKey t := (isThread_key _ _ _).mp hk
    rw [if_pos hk]
    dsimp only
    rw [(h.lanes x hx ((inGroup_key hkey).trans ht)).posting, if_neg (by simp), id]
  · rw [if_neg hk, id]

/-- The thread with a release of its own under way once its result is on its way. -/
theorem stays_releaseSent (release : Bool) (t : Thread) : Stays t (releaseSent release t) := ⟨rfl, rfl, rfl, rfl⟩

theorem kept_releaseSent (release : Bool) (t : Thread) : Kept t (releaseSent release t) := ⟨rfl, rfl, rfl, rfl, rfl, rfl, rfl⟩

theorem runStands_atomicTrip {s s' : State} {t : Thread} {tg : Target} {loc : Nat} {acquire : Bool}
    (h : atomicTrip s t tg loc acquire = some s') : RunStands s s' := by
  cases tg with
  | peer q va => cases h; exact RunStands.refl s
  | window off => exact runStands_roundTrip h
  | cell l other => exact runStands_roundTrip h
  | virt va code => exact runStands_roundTrip h

/-- The state that a returning atomic leaves besides its thread's row: the word modified, and as an acquire the caches
self-invalidated. -/
def atomicMade (s : State) (core loc bytes n cmp v : Nat) (acquire : Bool) : State :=
  let s1 := modifyAt (dropWords s core loc bytes) (dieOfCore core) loc bytes n cmp v
  if acquire then selfInvalidate s1 core else s1

theorem runStands_acquired (s : State) (core : Nat) (acquire : Bool) :
    RunStands s (if acquire then selfInvalidate s core else s) := by
  split
  · exact runStands_selfInvalidate _ _
  · exact RunStands.refl s

theorem runStands_atomicMade (s : State) (core loc bytes n cmp v : Nat) (acquire : Bool) :
    RunStands s (atomicMade s core loc bytes n cmp v acquire) :=
  ((runStands_dropWords _ _ _ _).trans (runStands_homePut _ _ _ _ _)).trans (runStands_acquired _ _ _)

theorem atomicReturn_loaded {iss : Issue} (hw : iss.away = []) (s : State) (x : Thread) (d : BitVec 7) (loc bytes n ord cmp v : Nat) :
    atomicReturn s iss x d loc bytes n ord cmp v
      = putThread (atomicMade s x.core loc bytes n cmp v (isAcquire ord))
          (releaseSent (isRelease ord) (loaded iss d bytes (readNat s.mem loc bytes) none (isRelease ord) x)) := by
  unfold atomicReturn
  rw [loadTo_loaded hw, markAcks_loaded]
  rfl

/-! ### One lane -/

section
variable {s : State} {iss : Issue} {t x : Thread} {n ord bytes cmp v loc : Nat} {wide : Bool} {d a : BitVec 7} {tg : Target}
  (hw : iss.away = []) (hb : (if wide then 8 else 4) = bytes) (hp : TakesPart t) (hd : atomicData n wide d s iss t = .ok (cmp, v, x))
  (ha : access s x .sync (src64 s iss t a) bytes .modify .atomic = .ok (tg, loc))
include hw hb hp hd ha

/-- An atomic whose word's home, a peer, has answered. -/
theorem laneAtomic_answered (hwait : atomicWait s t tg loc bytes ord false = none) (hr : isRemote tg loc = true) {old : Nat}
    (hold : Answered x (requestFor s x tg loc bytes
      (.atomic (targetVa tg) n wide true (BitVec.ofNat 64 cmp) (BitVec.ofNat 64 v)) (isAcquire ord)) old) :
    laneAtomic true d a ord wide n s iss t
      = .ok (putThread (if isAcquire ord then selfInvalidate s x.core else s) (loaded iss d bytes old none false x)) := by
  have hanswer : ∀ l, atomicAnswer iss x { requestFor s x tg loc bytes
      (.atomic (targetVa tg) n wide true (BitVec.ofNat 64 cmp) (BitVec.ofNat 64 v)) (isAcquire ord) with lanes := l } = .ok (old, x) :=
    fun l => by
      have hsame : answerTo x { requestFor s x tg loc bytes
          (.atomic (targetVa tg) n wide true (BitVec.ofNat 64 cmp) (BitVec.ofNat 64 v)) (isAcquire ord) with lanes := l } = some old :=
        hold
      unfold atomicAnswer
      rw [hsame]
  unfold laneAtomic
  rw [hb, hd]
  dsimp only
  rw [if_pos rfl, ha]
  dsimp only
  rw [hp.isMade, if_neg Bool.false_ne_true, Bool.not_true, hwait]
  dsimp only
  rw [if_pos rfl, remoteRead_eq, if_pos hr]
  dsimp only
  rw [hanswer, Except.map, atomicAnswered, loadTo_loaded hw]

/-- An atomic performed at its home, its request and response delivered. -/
theorem laneAtomic_home (hs : Acting s iss) (ht : t ∈ s.threads) (hg : inGroup iss t = true)
    (hwait : atomicWait s t tg loc bytes ord false = none) (hr : isRemote tg loc = false) {s1 : State}
    (htrip : atomicTrip s t tg loc (isAcquire ord) = some s1) :
    laneAtomic true d a ord wide n s iss t
      = .ok (putThread (atomicMade s1 x.core loc bytes n cmp v (isAcquire ord))
          (releaseSent (isRelease ord) (loaded iss d bytes (readNat s1.mem loc bytes) none (isRelease ord) x))) := by
  have hacting : Acting (atomicReturn s1 iss x d loc bytes n ord cmp v) iss := by
    rw [atomicReturn_loaded hw]
    exact hs.put ht ((runStands_atomicTrip htrip).trans (runStands_atomicMade _ _ _ _ _ _ _ _))
      (((kept_atomicData hd).stays.trans (stays_loaded _ _ _ _ _ _ _)).trans (stays_releaseSent _ _))
  unfold laneAtomic
  rw [hb, hd]
  dsimp only
  rw [if_pos rfl, ha]
  dsimp only
  rw [hp.isMade, if_neg Bool.false_ne_true, Bool.not_true, hwait]
  dsimp only
  rw [if_pos rfl, remoteRead_eq, hr, if_neg Bool.false_ne_true]
  dsimp only
  rw [htrip]
  dsimp only
  rw [hacting.keepResult hg, atomicReturn_loaded hw]

omit hw in
/-- A reduction sent to its home, a peer's once it is known to translate. -/
theorem laneAtomic_reduced (htr : Translates x tg loc bytes .modify .atomic)
    (hwait : atomicWait s t tg loc bytes ord true = none) :
    laneAtomic false d a ord wide n s iss t = .ok (reduceSend s x tg loc bytes n ord cmp v wide) := by
  unfold laneAtomic
  rw [hb, hd]
  dsimp only
  rw [if_neg Bool.false_ne_true, homeAccess_translates ha htr]
  dsimp only
  rw [hp.isMade, if_neg Bool.false_ne_true, Bool.not_false, hwait]
  dsimp only
  rw [if_neg Bool.false_ne_true]

end

/-! ### Words -/

theorem runStands_joinPackets (b s : State) : RunStands s (joinPackets b s) := ⟨rfl, rfl⟩

/-- Packets that stood before the word are not joined. -/
theorem joinPackets_same {b s : State} (h : s.felt.packets = b.felt.packets) : joinPackets b s = s := by
  unfold joinPackets
  dsimp only
  rw [← h, List.drop_length, List.mapIdx_nil, List.append_nil, List.take_length]

theorem going_reduceSend {s : State} {iss : Issue} {t w : Thread} (h : Going s iss) (ht : t ∈ s.threads) (k : Kept t w) (tg : Target)
    (loc bytes n ord cmp v : Nat) (wide : Bool) : Going (reduceSend s w tg loc bytes n ord cmp v wide) iss :=
  going_homeSend h ht k _ _ _ _ _ _ _ fun _ => runStands_homePut _ _ _ _ _

theorem atomicAnswer_asks {iss : Issue} {t : Thread} {r : RemoteRead} (hc : iss.chained = false) (hl : t.remoteLoad = none)
    (ha : answerTo t r = none) : atomicAnswer iss t r = .error (.remote r) := by
  unfold atomicAnswer
  rw [ha, hc]
  dsimp only
  rw [Bool.false_and, if_neg Bool.false_ne_true, remoteAnswer_asks hl ha]
  rfl

/-- What a returning atomic asks of its word's peer. -/
def atomicRequest (p va loc bytes n cmp v : Nat) (wide acquire : Bool) (lanes : List Nat) : RemoteRead :=
  { peer := some p, va := va, loc := loc, size := bytes, acquire := acquire, lanes := lanes,
    kind := .atomic va n wide true (BitVec.ofNat 64 cmp) (BitVec.ofNat 64 v) }

/-- A returning atomic asks its word's peer once its waits are over. -/
theorem OneLane.asks_atomic {i : Instr} {s : State} {iss : Issue} {g : BitVec 2} {t : Thread} {n ord bytes cmp v p va loc : Nat}
    {wide : Bool} {d a : BitVec 7} (h : OneLane s iss g t) (hb : (if wide then 8 else 4) = bytes)
    (hi : exec i s = .next (wordRun (atomicBody true g d a ord wide n) s)) (hd : isStream d = false)
    (hdata : atomicData n wide d s iss t = .ok (cmp, v, t))
    (ha : access s t .sync (src64 s iss t a) bytes .modify .atomic = .ok (.peer p va, loc))
    (hwait : atomicWait s t (.peer p va) loc bytes ord false = none) :
    Asks i s t (atomicRequest p va loc bytes n cmp v wide (isAcquire ord) [t.thread]) := by
  refine h.asks hi rfl (fun hload hanswer => ?_) fun s' iss' hi' hn => ?_
  · have hask := atomicAnswer_asks h.alone.chained hload hanswer
    unfold atomicRequest at hask
    have hmade := ((going_alone h.alone).acting.lanes t h.row (h.inGroup_iff.mpr rfl)).isMade iss
    have hlane : Machine.foldLanes g (laneAtomic true d a ord wide n) s
        = putThread s (endLane iss t (.remote (atomicRequest p va loc bytes n cmp v wide (isAcquire ord) [t.thread]))) := by
      refine h.foldLanes_error ?_
      unfold laneAtomic
      rw [hb, hdata]
      dsimp only
      rw [if_pos rfl, ha]
      dsimp only
      rw [hmade, if_neg Bool.false_ne_true, Bool.not_true, hwait]
      dsimp only [remoteRead]
      rw [if_pos rfl, groupLanes_all h.alone.away, h.lanes, hask]
      rfl
    unfold atomicBody
    rw [hb, readFirst_register hd, h.countReplay_access true ha rfl, hlane]
    exact joinPackets_same rfl
  · unfold atomicBody
    rw [readFirst_none hi' hn, countReplay_none hi' hn, foldLanes_none hi' hn]
    exact joinPackets_same rfl

/-- A write performed on the own die or sent to another, with what its thread counts in each case. -/
theorem sent_cases {s m p : State} {x : Thread} {die : Nat} (release : Bool)
    (h : (die = dieOfCore x.core ∧ s = putThread m (releaseSent release x))
      ∨ (die ≠ dieOfCore x.core
        ∧ s = putThread p (if release then { x with relUnack := x.relUnack + 1 } else { x with dieUnack := x.dieUnack + 1 }))) :
    s = if die = dieOfCore x.core then putThread m (releaseSent release x)
      else putThread p (relaxedSent release (releaseSent release x)) := by
  rcases h with ⟨hdie, rfl⟩ | ⟨hdie, rfl⟩
  · rw [if_pos hdie]
  · rw [if_neg hdie]; cases release <;> rfl

theorem isRelease_order (o : BitVec 2) : isRelease o.toNat = decide (o = 2 ∨ o = 3) := by revert o; decide

theorem isAcquire_order (o : BitVec 2) : isAcquire o.toNat = decide (o = 1 ∨ o = 3) := by revert o; decide

theorem isRelease_red (k : BitVec 1) : isRelease (if k = 1 then 2 else 0) = decide (k = 1) := by revert k; decide

theorem atomicBytes (w : BitVec 1) : (if (w == 1) = true then 8 else 4) = if w = 1 then 8 else 4 := by revert w; decide

end Sys2Proof.Machine

open Sys2Proof Sys2Proof.Machine

/-- Settles O19: an atom's turn is `laneAtomic_answered` or `laneAtomic_home`, a red's `laneAtomic_reduced`. -/
theorem atomics : Obligations.Atomics := by
  intro c g d a o k w n s iss y r hs hr wide bytes s1 modified ready waiting release acquire atom red
  have hb : (if wide = true then 8 else 4) = bytes := atomicBytes w
  have h1 : Going s1 iss := (going_readFirst hs hr).stands (runStands_countReplay _ _ _ _ _ _)
  have hbody : ∀ (returning : Bool) (ord : Nat), atomicBody returning g d a ord wide n.toNat s
      = joinPackets s (foldLanes g (laneAtomic returning d a ord wide n.toNat) s1) := fun returning ord => by
    unfold atomicBody
    rw [readFirst_reads hs hr, hb]
  have hrelease : isRelease o.toNat = release := isRelease_order o
  have hacquire : isAcquire o.toNat = acquire := isAcquire_order o
  have hwaits : ∀ {u t cmp v x tg loc}, ready release acquire u t cmp v x tg loc →
      atomicWait u t tg loc bytes o.toNat false = none := by
    rintro u t cmp v x tg loc ⟨-, -, hrel, hacq, hover, hslot⟩
    exact atomicWait_none (fun h => hrel (hrelease ▸ h)) (fun h => hacq (hacquire ▸ h)) hover nofun hslot
  have hatom : ∀ {u t u'}, Acting u iss → t ∈ u.threads → isActive iss g t = true → atom u t u' →
      laneAtomic true d a o.toNat wide n.toNat u iss t = .ok u'
        ∧ ∃ u1 cmp v x old acks z, RunStands u u1 ∧ atomicData n.toNat wide d u iss t = .ok (cmp, v, x)
          ∧ Kept (loaded iss d bytes old none acks x) z ∧ u' = putThread u1 z := by
    rintro u t u' hu ht hact ⟨cmp, v, x, tg, loc, hready, hcase⟩
    have hpart := hu.lanes t ht (isActive_group hact)
    have hwait := hwaits hready
    obtain ⟨hdata, haccess, -⟩ := hready
    rcases hcase with ⟨hremote, old, hold, rfl⟩ | ⟨hremote, u1, htrip, rfl⟩
    · rw [← hacquire] at hold ⊢
      exact ⟨laneAtomic_answered hs.away hb hpart hdata haccess hwait hremote hold,
        _, cmp, v, x, old, false, _, runStands_acquired _ _ _, hdata, Kept.refl _, rfl⟩
    · rw [← hacquire] at htrip ⊢
      refine ⟨(laneAtomic_home hs.away hb hpart hdata haccess hu ht (isActive_group hact) hwait hremote htrip).trans ?_,
        _, cmp, v, x, _, _, _, (runStands_atomicTrip htrip).trans
          (((runStands_dropWords _ _ _ _).trans (runStands_homePut _ _ _ _ _)).trans (runStands_acquired _ _ _)), hdata,
        kept_releaseSent _ _, rfl⟩
      rw [hrelease]
      rfl
  refine ⟨fun hd => ?does, ?leads, ?red, ?asks⟩
  case does =>
    refine doesInTurn_of_lane hs h1 rfl (hbody true _) (fun u t u' hu ht hact htakes => ?_) fun u hu => hu.stands (runStands_joinPackets _ _)
    obtain ⟨hlane, u1, cmp, v, x, old, acks, z, hstands, hdata, hkept, rfl⟩ := hatom hu.acting ht hact htakes
    exact ⟨hlane, hu.put ht hstands (((kept_atomicData hdata).trans (kept_loaded hd _ _ _ _ _ _)).trans hkept)⟩
  case leads =>
    refine leadsInTurn_of_lane hs h1 rfl (hbody true _) fun u t u' hu ht hact htakes => ?_
    obtain ⟨hlane, u1, cmp, v, x, old, acks, z, hstands, hdata, hkept, rfl⟩ := hatom hu ht hact htakes
    exact ⟨hlane, hu.put ht hstands (((kept_atomicData hdata).stays.trans (stays_loaded _ _ _ _ _ _ _)).trans hkept.stays)⟩
  case red =>
    refine doesInTurn_of_lane hs h1 rfl (hbody false _) (fun u t u' hu ht hact htakes => ?_) fun u hu => hu.stands (runStands_joinPackets _ _)
    obtain ⟨cmp, v, x, tg, loc, ⟨hdata, haccess, hrel, -, hover, hslot⟩, htr, hcredit, hsent⟩ := htakes
    have hsend : u' = reduceSend u x tg loc bytes n.toNat (if k = 1 then 2 else 0) cmp v wide := by
      unfold reduceSend homeSend
      rw [isRelease_red]
      cases tg with
      | peer p va => exact hsent
      | window off => exact sent_cases _ hsent
      | virt va code => exact sent_cases _ hsent
      | cell l other =>
        cases other with
        | false => exact hsent
        | true => exact sent_cases _ hsent
    have hwait : atomicWait u t tg loc bytes (if k = 1 then 2 else 0) true = none :=
      atomicWait_none (fun h => hrel (isRelease_red k ▸ h)) (fun h => by split at h <;> cases h) hover (fun _ => hcredit) hslot
    rw [hsend]
    exact ⟨laneAtomic_reduced hb (hu.acting.lanes t ht (isActive_group hact)) hdata haccess htr hwait,
      going_reduceSend hu ht (kept_atomicData hdata) _ _ _ _ _ _ _ _⟩
  case asks =>
    intro t x cmp v p va loc hone hd hready
    have hwait := hwaits hready
    obtain ⟨hdata, haccess, -⟩ := hready
    obtain rfl := atomicData_register hd hdata
    rw [← hacquire]
    exact hone.asks_atomic hb rfl hd hdata haccess hwait
end

section
/-! PROOFS. Prefetches and claims (09 R191, R192; 11 R236): what they can change, and the line that one brings. -/

namespace Sys2Proof.Machine

open Sys2Proof (Byte Word DWord Instr)

set_option Elab.async false

/-! ### What prefetches can change -/

/-- Caches, the directory, the Felt and requests to peers apart, the states are the same. -/
def CachesAlone (s s' : State) : Prop :=
  s' = { s with cores := s'.cores, l2data := s'.l2data, directory := s'.directory, felt := s'.felt, renhar := s'.renhar }

theorem CachesAlone.refl (s : State) : CachesAlone s s := rfl

theorem CachesAlone.trans {s u v : State} (h : CachesAlone s u) (k : CachesAlone u v) : CachesAlone s v := by
  unfold CachesAlone at h k ⊢
  rw [k, h]

theorem CachesAlone.stands {s s' : State} (h : CachesAlone s s') : RunStands s s' := by
  unfold CachesAlone at h
  rw [h]
  exact ⟨rfl, rfl⟩

theorem cachesAlone_mapCore (s : State) (c : Nat) (f : Core → Core) : CachesAlone s (mapCore s c f) := by
  unfold CachesAlone; rw [mapCore_cores]

theorem cachesAlone_felt {s s' : State} (h : s' = { s with felt := s'.felt }) : CachesAlone s s' := by
  unfold CachesAlone; rw [h]

theorem cachesAlone_putCopy (s : State) (l : DieLine) : CachesAlone s (putCopy s l) := by
  unfold putCopy fitDie
  split
  · rfl
  · dsimp only; split <;> rfl

theorem cachesAlone_noteHolder (s : State) (die line : Nat) : CachesAlone s (noteHolder s die line) := by
  unfold noteHolder putDir
  dsimp only
  split <;> rfl

theorem cachesAlone_fillDie (s : State) (die loc : Nat) : CachesAlone s (fillDie s die loc) := by
  unfold fillDie
  split
  · exact (cachesAlone_putCopy _ _).trans (cachesAlone_noteHolder _ _ _)
  · exact CachesAlone.refl s

theorem cachesAlone_fillCore (s : State) (core line : Nat) : CachesAlone s (fillCore s core line) := by
  unfold fillCore
  split
  · exact CachesAlone.refl s
  · exact (cachesAlone_fillDie _ _ _).trans (cachesAlone_mapCore _ _ _)

theorem cachesAlone_renharAsk (s : State) (w : PeerPath) (launch thread core va : Nat) (k : RenharKind)
    (fill : Option (Nat × Bool × Nat)) : CachesAlone s (renharAsk s w launch thread core va k fill) := rfl

theorem cachesAlone_prefetchAt (inner : Bool) (t : Thread) (s : State) (p : DWord) : CachesAlone s (prefetchAt inner t s p) := by
  unfold prefetchAt
  split
  · exact CachesAlone.refl s
  · exact CachesAlone.refl s
  · split
    · exact CachesAlone.refl s
    · split
      · exact CachesAlone.refl s
      · split
        · split
          · exact CachesAlone.refl s
          · split
            · exact CachesAlone.refl s
            · rename_i hm
              exact (cachesAlone_felt (message_felt hm)).trans (cachesAlone_renharAsk _ _ _ _ _ _ _ _)
        · split
          · exact CachesAlone.refl s
          · rename_i ht
            refine (cachesAlone_felt (roundTrip_felt ht)).trans ?_
            split
            · exact cachesAlone_fillCore _ _ _
            · exact cachesAlone_fillDie _ _ _

theorem cachesAlone_prefetchLines (inner : Bool) (t : Thread) : ∀ (lines : Nat) (p : DWord) (n : Nat) (s : State),
    CachesAlone s (prefetchLines inner t lines p n s) := by
  intro lines
  induction lines with
  | zero => intro p n s; exact CachesAlone.refl s
  | succ lines ih =>
    intro p n s
    cases n with
    | zero => exact CachesAlone.refl s
    | succ n => exact (cachesAlone_prefetchAt _ _ _ _).trans (ih _ _ _)

/-! ### The line that a prefetch brings -/

/-- A pointer into the own window is left alone. -/
theorem prefetchAt_window {s : State} {t : Thread} {p : DWord} {off : Nat} (inner : Bool)
    (h : decodePointer s (accessorOf s t) .load p 1 1 = .ok (.window off)) : prefetchAt inner t s p = s := by
  unfold prefetchAt; rw [h]

theorem mem_youngest_append {α : Type} {n : Nat} (hn : 0 < n) (l : List α) (x : α) : x ∈ youngest n (l ++ [x]) := by
  unfold youngest
  rw [List.drop_append_of_le_length (by rw [List.length_append, List.length_singleton]; omega)]
  exact List.mem_append_right _ (List.mem_singleton_self x)

/-- A line read into a core's L1 that has room is there. -/
theorem coreLine_fillCore {s : State} {core line : Nat} (hc : cacheable (line * 128) = true)
    (hb : readsBad s core .plain (line * 128) 128 = false) (hr : 0 < coreLines s core) :
    (coreLine (fillCore s core line) core line).isSome = true := by
  unfold fillCore
  by_cases hl : (coreLine s core line).isSome = true
  · rw [hl, Bool.true_or, Bool.true_or, if_pos rfl]
    exact hl
  · rw [Bool.eq_false_of_not_eq_true hl, hc, hb, if_neg (by simp)]
    unfold coreLine
    dsimp only
    rw [coreOf_mapCore_self (coreOf_core _ _), List.find?_isSome]
    exact ⟨_, mem_youngest_append hr _ _, decide_eq_true rfl⟩

theorem cacheable_line {loc : Nat} (h : cacheable loc = true) : cacheable (loc / 128 * 128) = true := by
  unfold cacheable isPeerLoc at h ⊢
  rw [Bool.or_eq_true, decide_eq_true_eq, decide_eq_true_eq] at h ⊢
  omega

/-- A die reaches itself without a message. -/
theorem roundTrip_self (s : State) (d : Nat) (p q : Bool) (tag : Nat) : roundTrip s d d p q tag = some s := by
  simp [roundTrip, message, messageOf]

section
variable {s : State} {t : Thread} {p : DWord} {g : Target} {loc : Nat}
  (hd : decodePointer s (accessorOf s t) .load p 1 1 = .ok g)
  (hl : locateFor s t.core t.efftag (launchOf s t.launch).ctx g .read .plain 0 = .ok loc) (hc : cacheable loc = true)
  (hm : isMoving s loc = false) (hb : readsBad s t.core .plain (loc / 128 * 128) 128 = false)
include hd hl hc hm hb

/-- A line homed on the thread's die comes without a message, unless it is held. -/
theorem prefetchAt_near (inner : Bool) (hg : ∀ off, g ≠ .window off) (hp : ∀ k va, g ≠ .peer k va)
    (ht : targetDie s t g loc = dieOfCore t.core) :
    prefetchAt inner t s p
      = if isHeld s t.core (loc / 128 * 128) 128 then s
        else if inner then fillCore s t.core (loc / 128) else fillDie s (dieOfCore t.core) (loc / 128 * 128) := by
  have hskip : (!cacheable loc || isMoving s loc || isHeld s t.core (loc / 128 * 128) 128
      || readsBad s t.core .plain (loc / 128 * 128) 128) = isHeld s t.core (loc / 128 * 128) 128 := by
    rw [hc, hm, hb, Bool.not_true, Bool.false_or, Bool.false_or, Bool.or_false]
  unfold prefetchAt
  rw [hd]
  cases g with
  | window off => exact absurd rfl (hg off)
  | peer k va => exact absurd rfl (hp k va)
  | cell l other =>
    dsimp only
    rw [hl]
    dsimp only
    rw [hskip, ht, roundTrip_self]
  | virt va code =>
    dsimp only
    rw [hl]
    dsimp only
    rw [hskip, ht, roundTrip_self]

/-- Such a line is afterwards held by its core, or was held by its die. -/
theorem prefetchAt_held (hg : ∀ off, g ≠ .window off) (hp : ∀ k va, g ≠ .peer k va) (ht : targetDie s t g loc = dieOfCore t.core)
    (hr : 0 < coreLines s t.core) :
    (coreLine (prefetchAt true t s p) t.core (loc / 128)).isSome = true
      ∨ ∀ i, i < 128 → holdsByte s (dieOfCore t.core) (loc / 128 * 128 + i) = true := by
  rw [prefetchAt_near hd hl hc hm hb true hg hp ht]
  by_cases hheld : isHeld s t.core (loc / 128 * 128) 128 = true
  · rw [if_pos hheld]
    unfold isHeld at hheld
    rw [Nat.mul_div_cancel _ (by decide), Bool.or_eq_true] at hheld
    exact hheld.imp id fun h i hi => List.all_eq_true.mp h i (List.mem_range.mpr hi)
  · rw [if_neg hheld, if_pos rfl]
    exact .inl (coreLine_fillCore (cacheable_line hc) hb hr)

/-- A peer's line that is neither held nor asked for is asked for. -/
theorem prefetchAt_peer {k va : Nat} {s1 : State} (inner : Bool) (hg : g = .peer k va)
    (hh : isHeld s t.core (loc / 128 * 128) 128 = false) (ha : asksPrefetch s t.core loc = false)
    (hs : message s (dieOfCore t.core) (fdieOf s t.launch) false t.efftag = some s1) :
    prefetchAt inner t s p = renharAsk s1 (pathOf s (partOfThread s t) t.launch k) 0 0 t.core va (.read (va / 128 * 128) 128)
      (some (t.core, inner, loc)) := by
  subst hg
  unfold prefetchAt
  rw [hd]
  dsimp only
  rw [hl]
  dsimp only
  rw [hc, hm, hh, hb, if_neg (by simp), ha, if_neg Bool.false_ne_true, hs]

end

/-! ### Claims -/

theorem runStands_claimPage (s : State) (t : Thread) (va : Nat) : RunStands s (claimPage s t va) := by
  unfold claimPage
  dsimp only
  split
  · exact RunStands.refl s
  · split
    · exact RunStands.refl s
    · split
      · exact RunStands.refl s
      · split
        · exact RunStands.refl s
        · split
          · exact RunStands.refl s
          · exact ⟨rfl, rfl⟩

theorem runStands_claimPages (t : Thread) : ∀ (n va : Nat) (s : State), RunStands s (claimPages t n va s) := by
  intro n
  induction n with
  | zero => exact fun va s => RunStands.refl s
  | succ n ih => exact fun va s => (runStands_claimPage _ _ _).trans (ih _ _)

end Sys2Proof.Machine

open Sys2Proof Sys2Proof.Machine

/-- Settles O22: a prefetch changes caches and requests only, by `cachesAlone_prefetchLines`; what a line's own prefetch does is
`prefetchAt_held` and `prefetchAt_peer`. -/
theorem dataHints : Obligations.DataHints := by
  refine ⟨fun c g a b s iss hs => ?words, fun s t p inner lines n => ⟨cachesAlone_prefetchLines inner t lines p n s,
    fun off hd => prefetchAt_window inner hd, fun g loc hd hg hl hc hm hb => ⟨fun hp ht hr => prefetchAt_held hd hl hc hm hb hg hp ht hr,
      fun k va s1 hk hh ha hs => prefetchAt_peer hd hl hc hm hb inner hk hh ha hs⟩⟩⟩
  case words =>
    intro fetches
    have hfetches : ∀ (inner : Bool) (lines : Nat) (i : Instr), exec i s = foldWord g (lanePrefetch inner lines a b) s →
        DoesInTurn i s iss g (fetches inner lines) s := by
      intro inner lines i hi
      refine doesInTurn_of_lane hs (going_alone hs) hi rfl (fun u t u' hu ht hact htakes => ?_) fun u hu => hu
      obtain ⟨n, w, hn, rfl⟩ := htakes
      refine ⟨by unfold lanePrefetch; rw [hn], ?_⟩
      exact (hu.put ht (RunStands.refl u) (kept_src32 hn)).stands (cachesAlone_prefetchLines _ _ _ _ _ _).stands
    refine ⟨hfetches true 64 _ rfl, hfetches false 4096 _ rfl, ?claim⟩
    refine doesInTurn_of_lane hs (going_alone hs) (body := foldLanes g (laneClaim a b)) rfl rfl
      (fun u t u' hu ht hact htakes => ?_) fun u hu => hu
    obtain ⟨n, w, hn, rfl⟩ := htakes
    have hput := hu.put ht (RunStands.refl u) (kept_src32 hn)
    unfold laneClaim
    rw [hn]
    dsimp only
    split
    · exact ⟨rfl, hput⟩
    · exact ⟨rfl, hput.stands (runStands_claimPages _ _ _ _)⟩
end

section
/-! PROOFS. What atomics compute (09 R187): integers of any width, and floating sums by the classes of their operands. -/

namespace Sys2Proof.Machine

open Sys2Proof (Byte Word DWord Instr)

set_option Elab.async false

/-! ### Integers -/

section
variable {w : Nat} (hw : 0 < w) (old v cmp : BitVec w)

theorem atomicNew_add (c : Nat) : atomicNew 0 w old.toNat v.toNat c = some (old + v).toNat := by
  rw [BitVec.toNat_add]; rfl

include hw in
theorem sextInt_toNat : sextInt w old.toNat = old.toInt := by
  rw [sextInt_ofNat hw, BitVec.ofNat_toNat, BitVec.setWidth_eq]

include hw in
theorem atomicNew_minS (c : Nat) : atomicNew 1 w old.toNat v.toNat c = some (if old.sle v then old else v).toNat := by
  simp only [atomicNew, sextInt_toNat hw, BitVec.sle_iff_toInt_le, apply_ite BitVec.toNat]

theorem atomicNew_minN (c : Nat) : atomicNew 2 w old.toNat v.toNat c = some (if old.ule v then old else v).toNat := by
  simp only [atomicNew, BitVec.ule_iff_toNat_le, apply_ite BitVec.toNat]

include hw in
theorem atomicNew_maxS (c : Nat) : atomicNew 3 w old.toNat v.toNat c = some (if v.sle old then old else v).toNat := by
  simp only [atomicNew, sextInt_toNat hw, BitVec.sle_iff_toInt_le, apply_ite BitVec.toNat]

theorem atomicNew_maxN (c : Nat) : atomicNew 4 w old.toNat v.toNat c = some (if v.ule old then old else v).toNat := by
  simp only [atomicNew, BitVec.ule_iff_toNat_le, apply_ite BitVec.toNat]

theorem atomicNew_and (c : Nat) : atomicNew 5 w old.toNat v.toNat c = some (old &&& v).toNat := by
  rw [BitVec.toNat_and]; rfl

theorem atomicNew_or (c : Nat) : atomicNew 6 w old.toNat v.toNat c = some (old ||| v).toNat := by
  rw [BitVec.toNat_or]; rfl

theorem atomicNew_xor (c : Nat) : atomicNew 7 w old.toNat v.toNat c = some (old ^^^ v).toNat := by
  rw [BitVec.toNat_xor]; rfl

/-- A `cas` whose compare value differs writes nothing. -/
theorem atomicNew_cas : atomicNew 9 w old.toNat v.toNat cmp.toNat = if old = cmp then some v.toNat else none := by
  simp only [atomicNew, BitVec.toNat_inj]

include hw in
/-- Every integer operation on words of one width. -/
theorem atomicNew_integers :
    let new := fun n => atomicNew n w old.toNat v.toNat cmp.toNat
    new 0 = some (old + v).toNat ∧ new 1 = some (if old.sle v then old else v).toNat
      ∧ new 2 = some (if old.ule v then old else v).toNat ∧ new 3 = some (if v.sle old then old else v).toNat
      ∧ new 4 = some (if v.ule old then old else v).toNat ∧ new 5 = some (old &&& v).toNat ∧ new 6 = some (old ||| v).toNat
      ∧ new 7 = some (old ^^^ v).toNat ∧ new 8 = some v.toNat ∧ new 9 = (if old = cmp then some v.toNat else none) :=
  ⟨atomicNew_add _ _ _, atomicNew_minS hw _ _ _, atomicNew_minN _ _ _, atomicNew_maxS hw _ _ _, atomicNew_maxN _ _ _,
    atomicNew_and _ _ _, atomicNew_or _ _ _, atomicNew_xor _ _ _, rfl, atomicNew_cas _ _ _⟩

end

/-! ### Floating sums -/

/-- What is delivered in BF16 is a code of it. -/
theorem deliver_bf16_lt (r : Rounding) (v : Val) : (fmtBf16.deliver r v).1 < 2 ^ 16 := by
  cases v with
  | nan p => exact (by decide : fmtBf16.quiet < 2 ^ 16)
  | inf n => exact fmtBf16.withSign_lt n (by decide)
  | fin n m e =>
    by_cases hm : m = 0
    · subst hm; exact fmtBf16.withSign_lt n (by decide)
    · exact (fmtBf16.round_roundedTo r n (x := ⟨m, e, false⟩) rfl hm le_rfl).lt (by decide)

theorem fAdd_bf16_lt (r : Rounding) (x y : Nat) : (fAdd fmtBf16 r x y).1 < 2 ^ 16 :=
  deliver_bf16_lt r (addVal r (fmtBf16.decode x) (fmtBf16.decode y)).1

/-- The lower half of an element-wise sum is the sum of the lower halves. -/
theorem addBf16x2_mod (x y : Nat) : addBf16x2 x y % 2 ^ 16 = (fAdd fmtBf16 .rne (x % 2 ^ 16) (y % 2 ^ 16)).1 := by
  have h := fAdd_bf16_lt .rne (x % 2 ^ 16) (y % 2 ^ 16)
  unfold addBf16x2
  dsimp only
  rw [Nat.add_mul_mod_self_left, Nat.mod_eq_of_lt h]

/-- What the sum of two codes is, by their classes. -/
theorem fAdd_classes {f : Fmt} (hf : f.Arithmetic) {x y : Nat} (hx : x < 2 * f.signBit) (hy : y < 2 * f.signBit) :
    ∃ flags, (f.Finite x → f.Finite y → Delivers f .rne (zeroSign .rne (f.isNegative x) (f.isNegative y)) (f.number x + f.number y)
        f.low ((fAdd f .rne x y).1, flags))
      ∧ (f.NotNumber x ∨ f.NotNumber y → (fAdd f .rne x y).1 = f.quiet) ∧ (f.Infinite x → f.Finite y → (fAdd f .rne x y).1 = x)
      ∧ (f.Finite x → f.Infinite y → (fAdd f .rne x y).1 = y)
      ∧ (f.Infinite x → f.Infinite y → (fAdd f .rne x y).1 = if f.isNegative x = f.isNegative y then x else f.quiet) := by
  refine ⟨(fAdd f .rne x y).2, fun hfx hfy => Fmt.fAdd_delivers .rne hfx hfy, fun h => ?nan, fun hix hfy => ?left, fun hfx hiy => ?right,
    fun hix hiy => ?both⟩
  case nan =>
    obtain ⟨hadd, -⟩ := Fmt.arithmetic_nan hf .rne (h.imp (⟨·, hy⟩) (⟨hx, ·⟩))
    exact congrArg Prod.fst hadd
  case left =>
    obtain ⟨hadd, -⟩ := Fmt.arithmetic_infinite_finite hf .rne hix hfy
    exact congrArg Prod.fst hadd
  case right =>
    obtain ⟨-, hadd, -⟩ := Fmt.arithmetic_infinite_finite hf .rne hiy hfx
    exact congrArg Prod.fst hadd
  case both =>
    obtain ⟨hadd, -⟩ := Fmt.arithmetic_infinities hf .rne hix hiy
    rw [hadd]
    split <;> rfl

end Sys2Proof.Machine

open Sys2Proof Sys2Proof.Machine

/-- Settles O20: integers by `atomicNew_integers`, floating sums by the classes of their operands. -/
theorem atomicResults : Obligations.AtomicResults := by
  refine ⟨fun old v cmp => atomicNew_integers (by decide) old v cmp, ?sums, ?pair, fun old v cmp => atomicNew_integers (by decide) old v cmp⟩
  case sums =>
    intro f x y hf hx hy sum
    have hcode : f.Arithmetic ∧ sum = some (fAdd f .rne x y).1 := by
      rcases hf with rfl | rfl
      · exact ⟨arithmetic_of_mem (by decide), rfl⟩
      · refine ⟨arithmetic_of_mem (by decide), ?_⟩
        have hx16 : x % 2 ^ 16 = x := Nat.mod_eq_of_lt hx
        have hy16 : y % 2 ^ 16 = y := Nat.mod_eq_of_lt hy
        have hmod := addBf16x2_mod x y
        rw [hx16, hy16] at hmod
        exact congrArg some hmod
    obtain ⟨hf, hsum⟩ := hcode
    obtain ⟨flags, h⟩ := fAdd_classes hf hx hy
    exact ⟨_, flags, hsum, h⟩
  case pair =>
    intro old v
    refine ⟨_, _, rfl, rfl, ?_⟩
    have hold : old.toNat / 2 ^ 16 % 2 ^ 16 = old.toNat / 2 ^ 16 := Nat.mod_eq_of_lt (by have := old.isLt; omega)
    have hv : v.toNat / 2 ^ 16 % 2 ^ 16 = v.toNat / 2 ^ 16 := Nat.mod_eq_of_lt (by have := v.isLt; omega)
    rw [addBf16x2_mod, addBf16x2_mod, Nat.mod_mod, Nat.mod_mod, hold, hv]
    rfl
end

section
/-! PROOFS. `signal` by a stream operand (09 R200, 12 R253): all lanes read their streams before any lane adds, so that a lane's value
does not see what a lower lane of the run has added. -/

namespace Sys2Proof.Machine

open Sys2Proof (Byte Word DWord Instr)

set_option Elab.async false

/-! ### A lane's turn -/

theorem access_homeAccess {s : State} {t : Thread} {k : AccessClass} {p : DWord} {n : Nat} {a : Acc} {u : Use} {tg : Target} {loc : Nat}
    (h : homeAccess s t k p n a u = .ok (tg, loc)) : access s t k p n a u = .ok (tg, loc) ∧ Translates t tg loc n a u := by
  unfold homeAccess at h
  split at h
  · cases h
  · rename_i g l ha
    split at h
    · rename_i q va
      cases hr : remoteAnswer t (translation q va l n a u) with
      | error e => rw [show remoteAnswer t { peer := some q, va := va, loc := l, size := n, kind := _ } = .error e from hr] at h; cases h
      | ok old =>
        rw [show remoteAnswer t { peer := some q, va := va, loc := l, size := n, kind := _ } = .ok old from hr] at h
        cases h
        refine ⟨ha, ?_⟩
        unfold remoteAnswer at hr
        split at hr
        · rename_i hanswer
          exact Option.isSome_iff_exists.mpr ⟨_, hanswer⟩
        · cases hr
    · rename_i hpeer
      cases h
      refine ⟨ha, ?_⟩
      cases tg with
      | peer q va => exact absurd rfl (hpeer q va)
      | _ => trivial

/-- What a release that is posted has waited for. -/
theorem released_of_atomicWait {s : State} {t : Thread} {tg : Target} {loc n : Nat} (h : atomicWait s t tg loc n 2 true = none) :
    Released s t ∧ overlaps t loc n = false ∧ CanSend s t tg loc := by
  have hrelease : isRelease 2 = true := rfl
  have hacquire : isAcquire 2 = false := rfl
  unfold atomicWait at h
  rw [hrelease, hacquire, Bool.true_and, Bool.false_and, Bool.true_and] at h
  simp only [Bool.false_eq_true, if_false] at h
  split at h
  · cases h
  · rename_i hready
    split at h
    · cases h
    · rename_i hover
      split at h
      · cases h
      · rename_i hcredit
        split at h
        · cases h
        · rename_i hslot
          simp only [Bool.not_eq_true, Bool.and_eq_true, Bool.not_eq_true', not_and, Bool.not_eq_false] at hready hover hcredit hslot
          exact ⟨(releaseReady_iff s t).mp hready, hover, fun hp => hcredit hp, hslot⟩

/-- What the statement of `signal` says of a lane's turn. -/
def SignalTurn (iss : Issue) (a b : BitVec 7) (s : State) (t : Thread) (s' : State) : Prop :=
  ∃ v w tg loc, src32 s iss t b = .ok (v, w)
    ∧ let p := src64 s iss t a
      ((pointerFields s p).1 = 0 ∨ (pointerFields s p).1 = 1) ∧ access s w .sync p 8 .modify .atomic = .ok (tg, loc)
      ∧ Translates w tg loc 8 .modify .atomic ∧ Released s w ∧ overlaps w loc 8 = false ∧ CanSend s w tg loc
      ∧ let tag := (launchOf s t.launch).ctx
        s' = homeSend s w tg loc 8 true true (fun va => .signal va (v.setWidth 64)) (.signal tag loc v.toNat) fun x =>
          armWaits (homePut x (dieOfCore w.core) loc 8 ((readNat x.mem loc 8 + v.toNat) % 2 ^ 64)) tag loc

theorem signalTurn_of_laneSignal {s s' : State} {iss : Issue} {t : Thread} {a b : BitVec 7} (hm : isMade iss t = false)
    (hc : ∀ v w, src32 s iss t b = .ok (v, w) → w.core = t.core) (h : laneSignal a b s iss t = .ok s') : SignalTurn iss a b s t s' := by
  unfold laneSignal at h
  dsimp only at h
  split at h
  · cases h
  · rename_i v w hread
    split at h
    · cases h
    · rename_i htag
      split at h
      · cases h
      · rename_i tg loc hhome
        rw [hm, if_neg Bool.false_ne_true] at h
        split at h
        · cases h
        · rename_i hwait
          obtain ⟨haccess, htranslates⟩ := access_homeAccess hhome
          obtain ⟨hreleased, hoverlaps, hsend⟩ := released_of_atomicWait hwait
          cases h
          exact ⟨v, w, tg, loc, hread, by omega, haccess, htranslates, hreleased, hoverlaps, hsend, by rw [hc v w hread]; rfl⟩

/-! ### Two lanes -/

/-- A run of two lanes. -/
def pairIssue : Issue :=
  { core := 0, launch := 1, gang := 0, lanes := [0, 1], packet := 0, pos := 2, words := [], fall := (3, 0), mask := 0 }

/-- A lane with a pointer to 0x100 in d0 and stream 0 at an element of an entry. -/
def signalLane (n pos : Nat) (e : Entry) : Thread :=
  { launch := 1, gang := 0, thread := n, core := 0, window := 64, regs := 0x100 :: List.replicate 63 0, pos := 2, efftag := 1,
    streams := [{ snum := 0, pos := pos, fin := 8, started := true, valid := true, copy := some e }] }

/-- Lane 1, which reads the word at 0x100. -/
def reader : Thread := signalLane 1 0 { valf := true, ext := 8, val := 0x100 }

/-- Lane 0 adds its position, 1; lane 1 adds the word at 0x100. -/
def signalPair : State :=
  { fetchState State.reset 0 with agenda := [], issue := some pairIssue,
                                  threads := [signalLane 0 1 { ext := 8 }, reader] }

/-- What a lane's `signal` leaves. -/
def signalled (s : State) (t : Thread) : State := ((laneSignal 0 68 s pairIssue t).toOption).getD s

/-- A lane's `signal` is performed, and its stream's read leaves it on its core. -/
def signals (s : State) (t : Thread) : Bool :=
  (laneSignal 0 68 s pairIssue t).isOk && (src32 s pairIssue t 68).toOption.all fun x => decide (x.2.core = t.core)

theorem signalTurn_of_signals {s : State} {t : Thread} (hm : isMade pairIssue t = false) (h : signals s t = true) :
    SignalTurn pairIssue 0 68 s t (signalled s t) := by
  obtain ⟨h, hcore⟩ := Bool.and_eq_true_iff.mp h
  refine signalTurn_of_laneSignal hm (fun v w hread => ?_) ?_
  · rw [hread] at hcore
    exact of_decide_eq_true hcore
  unfold signalled
  cases hlane : laneSignal 0 68 s pairIssue t with
  | error e => rw [hlane] at h; cases h
  | ok s' => rfl

/-- The word at 0x100 after a step. -/
def wordAfter (o : Out) : Nat :=
  match o with
  | .next s => readNat s.mem 0x100 8
  | _ => 0

theorem alone_signalPair : Alone signalPair pairIssue :=
  ⟨rfl, rfl, by decide, rfl, rfl, by decide, by decide, by unfold Idle; decide⟩

theorem wordAfter_signal : wordAfter (exec (.signal 0 0 0 68) signalPair) = 1 := by decide +kernel

theorem wordAfter_turns : wordAfter (.next (closed pairIssue (turns pairIssue 0 signalled signalPair))) = 2 := by decide +kernel

theorem lane0_signals : signals signalPair (signalLane 0 1 { ext := 8 }) = true := by decide +kernel

/-- Lane 1 stands when its turn comes. -/
theorem reader_stands : threadAt (turn pairIssue 0 signalled signalPair 0) 1 1 = some reader := by decide +kernel

theorem reader_signals : signals (turn pairIssue 0 signalled signalPair 0) reader = true := by decide +kernel

end Sys2Proof.Machine

open Sys2Proof Sys2Proof.Machine

/-- Refutes O27: the clause of `signal` has each lane read its operand when its turn comes, but all lanes read a stream operand
before any lane adds (12 R253). In `signalPair` lane 0 adds 1 to the word at 0x100 and lane 1 adds what its stream has read there: the
run leaves 1, for lane 1 read 0, where the lanes in turn would leave 2. -/
theorem not_queueWords : ¬ Obligations.QueueWords := by
  intro h
  obtain ⟨-, -, -, hsignal⟩ := h 0 0 0 68 signalPair pairIssue alone_signalPair
  have hrun : exec (.signal 0 0 0 68) signalPair = .next (closed pairIssue (turns pairIssue 0 signalled signalPair)) :=
    hsignal signalled ⟨fun t ht _ => ?lane0, fun t ht _ => ?lane1, trivial⟩
  · have hword := wordAfter_signal.symm.trans ((congrArg wordAfter hrun).trans wordAfter_turns)
    exact absurd hword (by decide)
  case lane0 =>
    obtain rfl : signalLane 0 1 { ext := 8 } = t := Option.some.inj ht
    exact signalTurn_of_signals rfl lane0_signals
  case lane1 =>
    obtain rfl := Option.some.inj (reader_stands.symm.trans ht)
    exact signalTurn_of_signals rfl reader_signals
end

section
/-! PROOFS. What an event of a thread leaves: the tables by which a record finds its place, one row replaced, a record binned or
placed, a request on its way to a peer or to the host. -/

namespace Sys2Proof.Machine

open Sys2Proof (Byte Word DWord Instr)

set_option Elab.async false

/-! ### The tables stand -/

/-- Threads, launches, contexts and the clock stand. -/
structure TablesStand (s s' : State) : Prop where
  threads : s'.threads = s.threads
  launches : s'.launches = s.launches
  contexts : s'.contexts = s.contexts
  clock : s'.timeBase = s.timeBase

theorem TablesStand.refl (s : State) : TablesStand s s := ⟨rfl, rfl, rfl, rfl⟩

theorem TablesStand.trans {s u v : State} (h : TablesStand s u) (k : TablesStand u v) : TablesStand s v :=
  ⟨k.threads.trans h.threads, k.launches.trans h.launches, k.contexts.trans h.contexts, k.clock.trans h.clock⟩

theorem TablesStand.rows {s s' : State} (h : TablesStand s s') (l n : Nat) : threadAt s' l n = threadAt s l n := by
  unfold threadAt; rw [h.threads]

theorem launchOf_congr {s s' : State} (h : s'.launches = s.launches) (l : Nat) : launchOf s' l = launchOf s l := by
  unfold launchOf launchAt; rw [h]

theorem ctxOfLaunch_congr {s s' : State} (hl : s'.launches = s.launches) (hc : s'.contexts = s.contexts) (l : Nat) :
    ctxOfLaunch s' l = ctxOfLaunch s l := by
  unfold ctxOfLaunch ctxOf ctxAt; rw [hc, launchOf_congr hl]

theorem TablesStand.context {s s' : State} (h : TablesStand s s') (l : Nat) : ctxOfLaunch s' l = ctxOfLaunch s l :=
  ctxOfLaunch_congr h.launches h.contexts l

theorem TablesStand.cycle {s s' : State} (h : TablesStand s s') : now s' = now s := by unfold now; rw [h.clock]

theorem CachesAlone.tables {s s' : State} (h : CachesAlone s s') : TablesStand s s' := by
  unfold CachesAlone at h
  rw [h]
  exact ⟨rfl, rfl, rfl, rfl⟩

theorem CachesAlone.mem {s s' : State} (h : CachesAlone s s') : s'.mem = s.mem := by
  unfold CachesAlone at h
  rw [h]

theorem CachesAlone.port {s s' : State} (h : CachesAlone s s') : s'.port = s.port := by
  unfold CachesAlone at h
  rw [h]

theorem tablesStand_homePut (s : State) (die loc n v : Nat) : TablesStand s (homePut s die loc n v) := by
  rw [homePut_frame]; exact ⟨rfl, rfl, rfl, rfl⟩

theorem tablesStand_portRead (s : State) (wpa n : Nat) : TablesStand s (portRead s wpa n) := by
  rw [portRead_frame]; exact ⟨rfl, rfl, rfl, rfl⟩

theorem tablesStand_portWrite (s : State) (wpa n v : Nat) : TablesStand s (portWrite s wpa n v) := by
  rw [portWrite_frame]; exact ⟨rfl, rfl, rfl, rfl⟩

/-! ### What changes caches and messages alone -/

theorem cachesAlone_threadPost (s : State) (t : Thread) (dst : Nat) (p : Bool) (b : FeltBody) (k : Option AckKind) :
    CachesAlone s (threadPost s t dst p b k) := cachesAlone_felt (threadPost_felt _ _ _ _ _ _)

theorem cachesAlone_peerSend (s : State) (t : Thread) (p : Bool) (peer va : Nat) (k : RenharKind) :
    CachesAlone s (peerSend s t p peer va k) := cachesAlone_felt (peerSend_felt _ _ _ _ _ _)

theorem cachesAlone_messageOf {n : Nat} {s s' : State} {src dst : Nat} {p : Bool} {tag : Nat}
    (h : messageOf n s src dst p tag = some s') : CachesAlone s s' := cachesAlone_felt (messageOf_felt h)

theorem cachesAlone_message {s s' : State} {src dst : Nat} {p : Bool} {tag : Nat} (h : message s src dst p tag = some s') :
    CachesAlone s s' := cachesAlone_messageOf h

theorem cachesAlone_roundTrip {s s' : State} {src dst : Nat} {p q : Bool} {tag : Nat} (h : roundTrip s src dst p q tag = some s') :
    CachesAlone s s' := cachesAlone_felt (roundTrip_felt h)

theorem cachesAlone_dropLine1 (s : State) (core line : Nat) : CachesAlone s (dropLine1 s core line) := by
  unfold dropLine1
  split
  · exact cachesAlone_mapCore _ _ _
  · exact CachesAlone.refl s

theorem cachesAlone_disownOthers (s : State) (die loc n : Nat) : CachesAlone s (disownOthers s die loc n) := rfl

theorem cachesAlone_dropWords (s : State) (core loc n : Nat) : CachesAlone s (dropWords s core loc n) :=
  (cachesAlone_dropLine1 s core (loc / 128)).trans rfl

theorem cachesAlone_mergeStore (s : State) (core loc n v : Nat) : CachesAlone s (mergeStore s core loc n v) := by
  have h1 : CachesAlone s (disownOthers (dropLine1 s core (loc / 128)) (dieOfCore core) loc n) :=
    (cachesAlone_dropLine1 _ _ _).trans (cachesAlone_disownOthers _ _ _ _)
  unfold mergeStore
  dsimp only
  split
  · exact cachesAlone_dropWords _ _ _ _
  · split
    · split
      · exact h1.trans (cachesAlone_putCopy _ _)
      · exact h1.trans (cachesAlone_putCopy _ _)
    · exact h1

theorem cachesAlone_selfInvalidate (s : State) (c : Nat) : CachesAlone s (selfInvalidate s c) := by
  unfold CachesAlone; rw [selfInvalidate_frame]

theorem cachesAlone_recordWritten (s : State) (c : Nat) : CachesAlone s (recordWritten s c) := by
  unfold CachesAlone; rw [recordWritten_cores]

theorem cachesAlone_fetchData {s s' : State} {t : Thread} {loc n : Nat} (h : fetchData s t loc n = some s') : CachesAlone s s' := by
  unfold fetchData at h
  split at h
  · cases h; exact CachesAlone.refl s
  · obtain ⟨s1, h1, rfl⟩ := Option.map_eq_some_iff.mp h
    exact (cachesAlone_roundTrip h1).trans (cachesAlone_fillCore _ _ _)

theorem cachesAlone_loadArrives {s s' : State} {t : Thread} {p : PendingLoad} (h : loadArrives s t p = some s') : CachesAlone s s' := by
  unfold loadArrives at h
  split at h
  · exact cachesAlone_fetchData h
  · cases h; exact CachesAlone.refl s

theorem cachesAlone_peerAnswer {s s' : State} {t : Thread} (h : peerAnswer s t = some s') : CachesAlone s s' := by
  unfold peerAnswer at h
  split at h
  · split at h
    · cases h
    · cases h; exact CachesAlone.refl s
  · split at h
    · cases h
    · cases h; rfl

theorem cachesAlone_takeSlotOn {s s' : State} {t : Thread} {core : Nat} (h : takeSlotOn s t core = some s') : CachesAlone s s' := by
  unfold takeSlotOn at h
  split at h
  · cases h; exact CachesAlone.refl s
  · dsimp only at h
    split at h
    · cases h
    · cases h
      unfold putCore
      split <;> rfl

/-! ### One row replaced -/

/-- Every thread is found as before, but for the rows of one name, which a function has changed. -/
theorem threadAt_mapThread {f : Thread → Thread} (hf : ∀ u, rowKey (f u) = rowKey u) (s : State) (l n l' n' : Nat) :
    threadAt (mapThread s l n f) l' n' = (threadAt s l' n').map fun x => if isThread l n x then f x else x := by
  have hp : (isThread l' n' ∘ fun x => if isThread l n x then f x else x) = isThread l' n' := by
    funext x
    by_cases hx : isThread l n x = true
    · rw [Function.comp_apply, if_pos hx, Bool.eq_iff_iff, isThread_key, isThread_key, hf]
    · rw [Function.comp_apply, if_neg hx]
  unfold threadAt mapThread
  rw [List.find?_map, hp]

section
variable {s s1 : State} {l n : Nat} {t : Thread} (ht : threadAt s l n = some t) (hs : TablesStand s s1)
include ht hs

/-- Where the tables stand, one row is replaced: it is found, and the others as before. -/
theorem TablesStand.put {u : Thread} (hk : rowKey u = rowKey t) :
    threadAt (putThread s1 u) l n = some u ∧ ThreadsKept s (putThread s1 u) l n := by
  have hu : rowKey u = (l, n) := hk.trans (mem_of_threadAt ht).2
  refine ⟨threadAt_putThread_self (t := u) ((hs.rows l n).trans ht) hu, fun l' n' hne => ?_⟩
  rw [threadAt_putThread_other (hu ▸ hne), hs.rows]

theorem TablesStand.map {f : Thread → Thread} (hf : ∀ u, rowKey (f u) = rowKey u) :
    threadAt (mapThread s1 l n f) l n = some (f t) ∧ ThreadsKept s (mapThread s1 l n f) l n := by
  refine ⟨?_, fun l' n' hne => ?_⟩
  · rw [threadAt_mapThread hf, hs.rows, ht, Option.map_some, if_pos ((isThread_key _ _ _).mpr (mem_of_threadAt ht).2)]
  · rw [threadAt_mapThread hf, hs.rows]
    cases hx : threadAt s l' n' with
    | none => rfl
    | some x => rw [Option.map_some, if_neg (by rw [isThread_key, (mem_of_threadAt hx).2]; exact hne)]

end

/-- An event after which a thread's row is `u`, with the other threads and memory as before. -/
def Becomes (s : State) (l n : Nat) (i : Instr) (u : Thread) : Prop :=
  ∃ s', exec i s = .next s' ∧ threadAt s' l n = some u ∧ ThreadsKept s s' l n ∧ s'.mem = s.mem

section
variable {s s1 : State} {l n : Nat} {t : Thread} {i : Instr} (ht : threadAt s l n = some t) (hs : CachesAlone s s1)
include ht hs

theorem becomes_put {u : Thread} (hk : rowKey u = rowKey t) (hi : exec i s = .next (putThread s1 u)) : Becomes s l n i u :=
  have h := hs.tables.put ht hk
  ⟨_, hi, h.1, h.2, hs.mem⟩

theorem becomes_map {f : Thread → Thread} (hf : ∀ u, rowKey (f u) = rowKey u) (hi : exec i s = .next (mapThread s1 l n f)) :
    Becomes s l n i (f t) :=
  have h := hs.tables.map ht hf
  ⟨_, hi, h.1, h.2, hs.mem⟩

end

/-! ### A record at its place -/

theorem contextFault_mem (s : State) (tag l n : Nat) (w : DWord) : (contextFault s tag l n w).mem = s.mem := rfl

theorem binRecord_mem (s : State) (t : Thread) : (binRecord s t).mem = s.mem := by
  unfold binRecord
  dsimp only
  split
  · split <;> rfl
  · split <;> rfl

theorem settleAt_mem (s : State) (t : Thread) (p : Place) : (settleAt s t p).mem = s.mem := by
  cases p with
  | binned c => exact binRecord_mem s t
  | faultBin w k =>
    simp only [settleAt, putFaultBin, enterFault]
    split <;> rfl
  | _ => rfl

section
variable {s s1 : State} {l n : Nat} {t u : Thread} (ht : threadAt s l n = some t) (hs : TablesStand s s1) (hk : rowKey u = rowKey t)
include ht hs hk

theorem reaches_binRecord : Reaches s (binRecord s1 u) u (.binned 0) := by
  intro hr hc
  have hrow : threadAt s u.launch u.thread = some t := by
    have e : (u.launch, u.thread) = (l, n) := hk.trans (mem_of_threadAt ht).2
    rw [Prod.mk.injEq] at e
    rw [e.1, e.2, ht]
  rw [binRecord_running (by rw [hs.context]; exact hr) (by rw [hs.context]; exact hc), hs.cycle]
  exact (hs.put (u := { u with place := .binned (now s) }) hrow hk).1

/-- A record put at any place has reached it. -/
theorem reaches_settleAt (p : Place) : Reaches s (settleAt s1 u p) u p := by
  have hrow : threadAt s u.launch u.thread = some t := by
    have e : (u.launch, u.thread) = (l, n) := hk.trans (mem_of_threadAt ht).2
    rw [Prod.mk.injEq] at e
    rw [e.1, e.2, ht]
  have hput : ∀ q : Place, threadAt (putThread s1 { u with place := q }) u.launch u.thread = some { u with place := q } :=
    fun q => (hs.put (u := { u with place := q }) hrow hk).1
  cases p with
  | binned c => exact reaches_binRecord ht hs hk
  | faultBin w k =>
    simp only [Reaches, settleAt, putFaultBin, enterFault]
    split
    case isTrue h => exact ⟨hput _, h⟩
    case isFalse h =>
      refine ⟨hput _, ?_⟩
      rw [List.any_append, Bool.or_eq_true]
      exact .inr (by simp [sameFault])
  | _ => exact hput _

end

/-! ### Requests on their way -/

/-- A packet sent to another live die of the package is on the Felt. -/
theorem feltPost_sends {s : State} {src dst : Nat} (hne : src ≠ dst) (hlive : isLiveDie s dst = true) (p : Bool) (tag : Nat)
    (b : FeltBody) (x : Option (Nat × Nat)) (k : Option AckKind) :
    ∃ q ∈ (feltPost s src dst p tag b x k).felt.packets, q.dst = dst ∧ q.body = b := by
  unfold feltPost
  rw [if_neg (by simp [hne, hlive])]
  exact ⟨_, List.mem_append_right _ (List.mem_singleton.mpr rfl), rfl, rfl⟩

theorem sendPort_replies {s : State} (h : s.port.paused = false) (r : PortReply) :
    (sendPort s r).port.replies = s.port.replies ++ [r] := by
  unfold sendPort; rw [h]; rfl

/-- A read of a window that is bound, on a port that is not paused, goes out. -/
theorem portRead_sends {s s1 : State} {wpa n : Nat} {h : HostWindow} (hp : s1.port = s.port) (hw : windowAt s wpa = some h)
    (hr : s.port.paused = false) :
    (portRead s1 wpa n).port.replies
      = s.port.replies ++ [.readRequest h.conn h.rkey (h.remote + (wpa - 2 ^ 40) % 2 ^ 32) n] := by
  have hw1 : windowAt s1 wpa = some h := by unfold windowAt at hw ⊢; rw [hp]; exact hw
  unfold portRead
  rw [hw1]
  dsimp only
  rw [sendPort_replies (by rw [hp]; exact hr), hp]

theorem portWrite_sends {s s1 : State} {wpa n v : Nat} {h : HostWindow} (hp : s1.port = s.port) (hw : windowAt s wpa = some h)
    (hr : s.port.paused = false) :
    (portWrite s1 wpa n v).port.replies
      = s.port.replies ++ [.writeRequest h.conn h.rkey (h.remote + (wpa - 2 ^ 40) % 2 ^ 32) (bytesOfNat v n)] := by
  have hw1 : windowAt s1 wpa = some h := by unfold windowAt at hw ⊢; rw [hp]; exact hw
  unfold portWrite
  rw [hw1]
  dsimp only
  rw [sendPort_replies (by rw [hp]; exact hr), hp]

end Sys2Proof.Machine
end

section
/-! PROOFS. What reaches a thread or its record without a store or a barrier: load data, answers, acknowledgements, a freed slot, a
deferred load (09 R180, R185; 05 R113, R118; 19 R295, R296; 02 R21). -/

namespace Sys2Proof.Machine

open Sys2Proof (Byte Word DWord Instr)

set_option Elab.async false

/-- A request of a thread is on its way to the F-die that leads to its peer, where that is another live die. -/
def SendsToPeer (s s' : State) (t : Thread) (peer va : Nat) (k : RenharKind) : Prop :=
  dieOfCore t.core ≠ fdieOf s t.launch → isLiveDie s (fdieOf s t.launch) = true →
    ∃ p ∈ s'.felt.packets, p.dst = fdieOf s t.launch
      ∧ p.body = .renhar (partOfThread s t) t.launch t.thread t.core peer va k

/-- A request to the host has left the port, where the window is bound and the port goes on. -/
def SendsToHost (s s' : State) (r : HostWindow → PortReply) (wpa : Nat) : Prop :=
  ∀ h, windowAt s wpa = some h → s.port.paused = false → s'.port.replies = s.port.replies ++ [r h]

theorem sendsToPeer_peerSend (s : State) (t : Thread) (tag : Nat) (p : Bool) (peer va : Nat) (k : RenharKind) :
    SendsToPeer s (peerSend s { t with efftag := tag } p peer va k) t peer va k :=
  fun hne hlive => feltPost_sends hne hlive _ _ _ _ _

/-! ### Load data (09 R180) -/

theorem returnLoad_eq (t : Thread) (p : PendingLoad) :
    returnLoad t p = { t with regs := p.writes.foldl (fun r w => regSet r w.1 w.2) t.regs, lm := p.latch <|> t.lm } := by
  unfold returnLoad
  cases p.latch <;> rfl

/-- A line in the core's cache serves a load at once. -/
theorem loadArrives_held {s : State} {t : Thread} {p : PendingLoad}
    (h : ∀ loc k, p.loc = some (loc, k) → (coreLine s t.core (loc / 128)).isSome = true) : loadArrives s t p = some s := by
  unfold loadArrives
  split
  case h_1 loc k e =>
    unfold fetchData isHeld
    rw [h loc k e, Bool.true_or, if_pos rfl]
  case h_2 => rfl

section
variable {s : State} {t : Thread} (ht : threadAt s t.launch t.thread = some t)
include ht

theorem loadDataReturn_writes {p : PendingLoad} {ps : List PendingLoad} {s1 : State} (hl : t.loads = p :: ps)
    (hr : t.remoteLoad = none) (h : loadArrives s t p = some s1) :
    Becomes s t.launch t.thread (.loadDataReturn t.launch t.thread)
      { t with loads := ps, regs := p.writes.foldl (fun r w => regSet r w.1 w.2) t.regs, lm := p.latch <|> t.lm,
               relUnack := if p.acks then t.relUnack - 1 else t.relUnack } := by
  have hexec : execLoadDataReturn t.launch t.thread s
      = .next (putThread s1 { returnLoad t p with loads := ps, relUnack := if p.acks then t.relUnack - 1 else t.relUnack }) := by
    unfold execLoadDataReturn
    rw [ht]
    dsimp only
    rw [hr]
    dsimp only
    rw [hl]
    dsimp only
    rw [h]
  rw [returnLoad_eq] at hexec
  exact becomes_put ht (cachesAlone_loadArrives h) rfl hexec

theorem loadDataReturn_acknowledges {p : PendingLoad} (hl : t.loads = []) (hr : t.remoteLoad = none) (hk : t.kept = some p)
    (ha : p.acks = true) :
    Becomes s t.launch t.thread (.loadDataReturn t.launch t.thread)
      { t with kept := some { p with acks := false }, relUnack := t.relUnack - 1 } := by
  have hexec : execLoadDataReturn t.launch t.thread s = .next (putThread s (ackKept t)) := by
    unfold execLoadDataReturn
    rw [ht]
    dsimp only
    rw [hr]
    dsimp only
    rw [hl]
  have hack : ackKept t = { t with kept := some { p with acks := false }, relUnack := t.relUnack - 1 } := by
    unfold ackKept
    rw [hk]
    exact if_pos ha
  rw [hack] at hexec
  exact becomes_put ht (CachesAlone.refl s) rfl hexec

/-! ### Reads that are answered from elsewhere -/

theorem loadDataReturn_sends {r : RemoteRead} (hw : t.remoteLoad = some (.wanted r)) (hb : windowLost s r.wpa = false) :
    exec (.loadDataReturn t.launch t.thread) s = .next (sendRemote s t r) := by
  change execLoadDataReturn t.launch t.thread s = _
  unfold execLoadDataReturn
  rw [ht]
  dsimp only
  rw [hw]
  dsimp only
  rw [hb]
  rfl

theorem sendRemote_peer {r : RemoteRead} {p : Nat} (hp : r.peer = some p)
    (hf : feltReady s (dieOfCore t.core) (fdieOf s t.launch) = true) (hm : s.threads.any (precedes t r) = false) :
    threadAt (sendRemote s t r) t.launch t.thread = some { t with remoteLoad := some (.sent r none) }
      ∧ (sendRemote s t r).mem = s.mem ∧ SendsToPeer s (sendRemote s t r) t p r.va r.kind := by
  have hs : CachesAlone s (peerSend s t (isPublished r.kind) p r.va r.kind) := cachesAlone_peerSend _ _ _ _ _ _
  unfold sendRemote
  rw [hp]
  dsimp only
  rw [hf, hm, if_pos (by rfl)]
  exact ⟨(hs.tables.put (u := { t with remoteLoad := some (.sent r none) }) ht rfl).1, hs.mem,
    sendsToPeer_peerSend s t t.efftag _ _ _ _⟩

theorem sendRemote_host {r : RemoteRead} {s1 : State} (hp : r.peer = none) (hh : isHostLoc r.loc = true)
    (hm : message s (dieOfCore t.core) 0 false t.efftag = some s1) :
    threadAt (sendRemote s t r) t.launch t.thread = some { t with remoteLoad := some (.sent r none) }
      ∧ (sendRemote s t r).mem = s.mem
      ∧ SendsToHost s (sendRemote s t r)
          (fun h => .readRequest h.conn h.rkey (h.remote + (r.wpa - 2 ^ 40) % 2 ^ 32) r.size) r.wpa := by
  have hs := cachesAlone_message hm
  have hr := hs.tables.trans (tablesStand_portRead s1 r.wpa r.size)
  unfold sendRemote
  rw [hp]
  dsimp only
  rw [if_pos hh, hm]
  refine ⟨(hr.put (u := { t with remoteLoad := some (.sent r none) }) ht rfl).1, ?_,
    fun h hw hpaused => portRead_sends hs.port hw hpaused⟩
  dsimp only
  rw [putThread_mem, portRead_frame]
  exact hs.mem

theorem loadDataReturn_local {r : RemoteRead} (hw : t.remoteLoad = some (.wanted r)) (hb : windowLost s r.wpa = false)
    (hp : r.peer = none) (hh : isHostLoc r.loc = false) :
    Becomes s t.launch t.thread (.loadDataReturn t.launch t.thread) { t with remoteLoad := some (.sent r none) } := by
  refine becomes_put ht (CachesAlone.refl s) rfl ?_
  rw [loadDataReturn_sends ht hw hb]
  unfold sendRemote
  rw [hp]
  dsimp only
  rw [hh, if_neg Bool.false_ne_true]

theorem loadDataReturn_answers {r : RemoteRead} {x : Option Nat} {s1 : State} (hw : t.remoteLoad = some (.sent r x))
    (hb : windowLost s r.wpa = false) (ha : remoteArrives s t r = some s1) :
    exec (.loadDataReturn t.launch t.thread) s = .next s1 := by
  change execLoadDataReturn t.launch t.thread s = _
  unfold execLoadDataReturn
  rw [ht]
  dsimp only
  rw [hw]
  dsimp only
  rw [hb, ha]
  rfl

end

/-- The old value that stands with a lane's sent atomic. -/
def oldAnswered (u : Thread) : Nat := match u.remoteLoad with | some (.sent _ (some v)) => v | _ => 0

theorem answered_eq (s : State) (t : Thread) (r : RemoteRead) :
    answered s t r = mapThread s t.launch t.thread fun u =>
      { u with remoteLoad := none, answers := u.answers ++ [(r, oldAnswered u)] } := rfl

/-- A thread's read has been answered with an old value, and no other thread has changed. -/
def Given (s s' : State) (t : Thread) (r : RemoteRead) (old : Nat) : Prop :=
  ThreadsKept s s' t.launch t.thread
    ∧ threadAt s' t.launch t.thread = some { t with remoteLoad := none, answers := t.answers ++ [(r, old)] }

theorem given_answered {s s1 : State} {t u : Thread} (r : RemoteRead) (hu : threadAt s1 t.launch t.thread = some u)
    (hk : ThreadsKept s s1 t.launch t.thread)
    (he : { u with remoteLoad := none, answers := u.answers ++ [(r, oldAnswered u)] }
      = { t with remoteLoad := none, answers := t.answers ++ [(r, oldAnswered u)] }) :
    Given s (answered s1 t r) t r (oldAnswered u) := by
  have h := (TablesStand.refl s1).map (f := fun u => { u with remoteLoad := none, answers := u.answers ++ [(r, oldAnswered u)] })
    hu (fun _ => rfl)
  rw [answered_eq]
  exact ⟨fun l n hne => (h.2 l n hne).trans (hk l n hne), h.1.trans (congrArg some he)⟩

section
variable {s s1 : State} {t : Thread} {r : RemoteRead} (ht : threadAt s t.launch t.thread = some t) (hs : CachesAlone s s1)
include ht hs

theorem given_plain {x : Option Nat} (hw : t.remoteLoad = some (.sent r x)) :
    Given s (answered s1 t r) t r (x.getD 0) := by
  have ho : oldAnswered t = x.getD 0 := by unfold oldAnswered; rw [hw]; cases x <;> rfl
  rw [← ho]
  exact given_answered r ((hs.tables.rows _ _).trans ht) (fun l n _ => hs.tables.rows l n) rfl

omit ht in
theorem oneWordLanes_stands : oneWordLanes s1 t r = oneWordLanes s t r := by
  unfold oneWordLanes; rw [hs.tables.threads]

/-- The first answer to a lone atomic performs it on its word. -/
theorem given_performed {va m : Nat} {wide back : Bool} {cmp v : DWord} (hw : t.remoteLoad = some (.sent r none))
    (hk : r.kind = .atomic va m wide back cmp v) (hone : oneWordLanes s t r = [t]) :
    let b := if wide then 8 else 4
    let old := readNat s.mem r.loc b
    Given s (answered (performTogether s1 t r) t r) t r old
      ∧ (answered (performTogether s1 t r) t r).mem = writeNat s.mem r.loc b (atomicValue m b old v.toNat cmp.toNat) := by
  intro b old
  have hdrop : CachesAlone s (dropWords s1 t.core r.loc b) := hs.trans (cachesAlone_dropWords _ _ _ _)
  have hperf : performTogether s1 t r = putThread (modifyAt (dropWords s1 t.core r.loc b) (dieOfCore t.core) r.loc b m cmp.toNat v.toNat)
      { t with remoteLoad := some (.sent r (some old)) } := by
    unfold performTogether
    rw [oneWordLanes_stands hs, hone, List.foldl_cons, List.foldl_nil]
    unfold performRemote
    rw [hw]
    dsimp only
    rw [hk]
    dsimp only
    rw [hs.mem]
  have hput := ((hdrop.tables.trans (tablesStand_homePut _ _ _ _ _)).put (u := { t with remoteLoad := some (.sent r (some old)) }) ht rfl :
    threadAt (putThread (modifyAt (dropWords s1 t.core r.loc b) (dieOfCore t.core) r.loc b m cmp.toNat v.toNat) _) _ _ = _ ∧ _)
  rw [hperf]
  refine ⟨given_answered r hput.1 hput.2 rfl, ?_⟩
  rw [answered_eq, mapThread_mem, putThread_mem]
  unfold modifyAt
  rw [homePut_mem, hdrop.mem]

end

/-- The caches and messages that an answer takes before it acts on the thread's row. -/
theorem remoteArrives_takes {s s1 : State} {t : Thread} {r : RemoteRead} (h : remoteArrives s t r = some s1) :
    ∃ s2, CachesAlone s s2 ∧ (s1 = takeAnswer s2 t r ∨ r.peer = none ∧ s1 = answered s2 t r) := by
  unfold remoteArrives at h
  split at h
  · split at h
    · cases h
    · obtain ⟨u, hu, h⟩ := Option.bind_eq_some_iff.mp h
      obtain ⟨v, hv, rfl⟩ := Option.map_eq_some_iff.mp h
      exact ⟨v, (cachesAlone_peerAnswer hu).trans (cachesAlone_messageOf hv), .inl rfl⟩
  · rename_i hp
    split at h
    · split at h
      · cases h
      · obtain ⟨v, hv, rfl⟩ := Option.map_eq_some_iff.mp h
        exact ⟨v, cachesAlone_messageOf hv, .inl rfl⟩
    · split at h
      · cases h
      · obtain ⟨v, hv, rfl⟩ := Option.map_eq_some_iff.mp h
        exact ⟨v, cachesAlone_fetchData hv, .inr ⟨hp, rfl⟩⟩

theorem takeAnswer_atomic {s : State} {t : Thread} {r : RemoteRead} {va m : Nat} {wide back : Bool} {cmp v : DWord}
    (hk : r.kind = .atomic va m wide back cmp v) : takeAnswer s t r = answered (performTogether s t r) t r := by
  unfold takeAnswer; rw [hk]

theorem takeAnswer_plain {s : State} {t : Thread} {r : RemoteRead}
    (hk : ∀ va m wide back cmp v, r.kind ≠ .atomic va m wide back cmp v) :
    ∃ s1, CachesAlone s s1 ∧ takeAnswer s t r = answered s1 t r := by
  unfold takeAnswer
  split
  · exact absurd ‹_› (hk _ _ _ _ _ _)
  · exact ⟨_, cachesAlone_fillCore _ _ _, rfl⟩
  · exact ⟨s, CachesAlone.refl s, rfl⟩

section
variable {s s1 : State} {t : Thread} {r : RemoteRead} {x : Option Nat} (ht : threadAt s t.launch t.thread = some t)
  (hw : t.remoteLoad = some (.sent r x)) (ha : remoteArrives s t r = some s1)
include ht hw ha

theorem remoteArrives_atomic {va m : Nat} {wide back : Bool} {cmp v : DWord}
    (hk : r.kind = .atomic va m wide back cmp v) (hp : r.peer.isSome = true) :
    let b := if wide then 8 else 4
    let old := readNat s.mem r.loc b
    (x = none → oneWordLanes s t r = [t] →
      Given s s1 t r old ∧ s1.mem = writeNat s.mem r.loc b (atomicValue m b old v.toNat cmp.toNat))
    ∧ ∀ z, x = some z → oneWordLanes s t r = [] → Given s s1 t r z ∧ s1.mem = s.mem := by
  obtain ⟨s2, hs, h | ⟨hn, _⟩⟩ := remoteArrives_takes ha
  case inr => rw [hn] at hp; cases hp
  case inl =>
    rw [takeAnswer_atomic hk] at h
    subst h
    refine ⟨fun hx hone => ?_, fun z hx hone => ?_⟩
    · subst hx
      exact given_performed ht hs hw hk hone
    · have hperf : performTogether s2 t r = s2 := by
        unfold performTogether; rw [oneWordLanes_stands hs, hone, List.foldl_nil]
      rw [hperf]
      subst hx
      exact ⟨given_plain ht hs hw, hs.mem⟩

theorem remoteArrives_plain (hk : ∀ va m wide back cmp v, r.kind ≠ .atomic va m wide back cmp v) (hx : x = none) :
    Given s s1 t r 0 ∧ s1.mem = s.mem := by
  subst hx
  obtain ⟨s2, hs, h⟩ := remoteArrives_takes ha
  have hplain : ∃ s3, CachesAlone s s3 ∧ s1 = answered s3 t r := by
    rcases h with h | ⟨_, h⟩
    · obtain ⟨s3, h3, e⟩ := takeAnswer_plain (s := s2) (t := t) hk
      exact ⟨s3, hs.trans h3, h.trans e⟩
    · exact ⟨s2, hs, h⟩
  obtain ⟨s3, h3, rfl⟩ := hplain
  exact ⟨given_plain ht h3 hw, h3.mem⟩

end

theorem oneWordLanes_rise (s : State) (t : Thread) (r : RemoteRead) :
    (oneWordLanes s t r).Pairwise fun u v => u.thread ≤ v.thread := sortBy_rises _ _

end Sys2Proof.Machine
end

section
/-! PROOFS. Acknowledgements, the ends of waits, a freed slot and a deferred load (05 R113, R118; 19 R295, R296; 02 R21; 09 R185). -/

namespace Sys2Proof.Machine

open Sys2Proof (Byte Word DWord Instr)

set_option Elab.async false

/-! ### Acknowledgements -/

theorem rowKey_countAck (k : AckKind) (t : Thread) : rowKey (countAck k t) = rowKey t := by cases k <;> rfl

section
variable {s : State} {t : Thread} (ht : threadAt s t.launch t.thread = some t)
include ht

theorem peerAck_lowers (k : Nat) : Becomes s t.launch t.thread (.peerAck t.launch t.thread k)
    { t with peerAck := t.peerAck - min k (s.renhar.out.filter (isPosted t.launch t.thread)).length } := by
  have hexec : exec (.peerAck t.launch t.thread k) s = .next (peerAcked s t.launch t.thread k) := rfl
  unfold peerAcked at hexec
  rw [ht] at hexec
  refine becomes_put ht ?_ rfl hexec
  rfl

theorem releaseAck_owed {k : AckKind} {o : OwedAck} {s1 : State} (ho : s.felt.owed.find? (owedTo t.launch t.thread k) = some o)
    (hm : message s o.die (dieOfCore t.core) false o.tag = some s1) :
    Becomes s t.launch t.thread (.releaseAck t.launch t.thread k) (countAck k t) := by
  have hto : o.launch = t.launch ∧ o.thread = t.thread ∧ o.kind = k := by simpa [owedTo] using List.find?_some ho
  obtain ⟨hl, hn, -⟩ := hto
  have hb : bringAck s o = some s1 := by
    unfold bringAck
    rw [hl, hn, ht]
    exact hm
  refine becomes_map ht (s1 := { s1 with felt := { s1.felt with owed := s1.felt.owed.erase o } })
    ((cachesAlone_message hm).trans rfl) (rowKey_countAck k) ?_
  change execReleaseAck t.launch t.thread k s = _
  unfold execReleaseAck
  rw [ho]
  dsimp only
  rw [hb]

theorem releaseAck_home {k : AckKind} (ho : s.felt.owed.any (owedTo t.launch t.thread k) = false) :
    Becomes s t.launch t.thread (.releaseAck t.launch t.thread k) (ackThread s k t) := by
  refine becomes_map ht (CachesAlone.refl s) (fun u => ?_) ?_
  · unfold ackThread
    dsimp only
    rw [apply_ite rowKey, rowKey_countAck, ite_self]
  · change execReleaseAck t.launch t.thread k s = _
    unfold execReleaseAck
    rw [List.find?_eq_none.mpr fun o h h' => Bool.false_ne_true (ho ▸ List.any_eq_true.mpr ⟨o, h, h'⟩)]

end

/-! ### Waits that are over -/

theorem cachesAlone_roundTrips (src tag : Nat) : ∀ (ds : List Nat) (s s' : State),
    ds.foldlM (fun y k => roundTrip y src k true false tag) s = some s' → CachesAlone s s' := by
  intro ds
  induction ds with
  | nil => intro s s' h; cases h; exact CachesAlone.refl s
  | cons d ds ih =>
    intro s s' h
    obtain ⟨s1, h1, h2⟩ := Option.bind_eq_some_iff.mp h
    exact (cachesAlone_roundTrip h1).trans (ih s1 s' h2)

section
variable {s : State} {t : Thread} (ht : threadAt s t.launch t.thread = some t)
include ht

theorem icinvComplete_eq (hw : t.sysWait = .discard) : exec (.icinvComplete t.launch t.thread) s
    = .next (((discardTrips s t).map (acknowledge t.launch t.thread)).getD s) := by
  change execIcinvComplete t.launch t.thread s = _
  unfold execIcinvComplete
  rw [ht]
  dsimp only
  rw [hw]

theorem icinvComplete_ends {s1 : State} (hw : t.sysWait = .discard) (hd : discardTrips s t = some s1) :
    Becomes s t.launch t.thread (.icinvComplete t.launch t.thread) { t with sysWait := .complete } :=
  becomes_map ht (f := fun t => { t with sysWait := .complete }) (cachesAlone_roundTrips _ _ _ _ _ hd) (fun _ => rfl)
    (by rw [icinvComplete_eq ht hw, hd]; rfl)

theorem icinvComplete_waits (hw : t.sysWait = .discard) (hd : discardTrips s t = none) :
    exec (.icinvComplete t.launch t.thread) s = .next s := by
  rw [icinvComplete_eq ht hw, hd]; rfl

theorem tlbinvComplete_ends {tag va k : Nat} (hw : t.sysWait = .invalidation tag va k) (ho : oldAccesses s tag = false) :
    Becomes s t.launch t.thread (.tlbinvComplete t.launch t.thread) { t with sysWait := .complete } := by
  refine becomes_map ht (f := fun t => { t with sysWait := .complete }) (CachesAlone.refl s) (fun _ => rfl) ?_
  change execTlbinvComplete t.launch t.thread s = _
  unfold execTlbinvComplete
  rw [ht, Option.map_some, hw]
  dsimp only
  rw [ho]
  rfl

/-- A stalled thread whose record finds its slot completes its segment end. -/
theorem poolSlotFreed_settles {p : Place} (hp : t.place = .stalled p) (hm : mayIssue s t = true)
    (hf : fitsReservation s t = true ∨ freeSlots (coreOf s t.core) (classOf (recordLength t)) ≠ 0) :
    ∃ s', exec (.poolSlotFreed t.launch t.thread) s = .next s' ∧ Reaches s s' t p ∧ s'.mem = s.mem := by
  have hslot : ∃ s1, takeSlotOn s t t.core = some s1 := by
    unfold takeSlotOn
    by_cases h : fitsReservation s t = true
    · exact ⟨_, if_pos h⟩
    · rw [if_neg h]
      dsimp only
      rw [if_neg (hf.resolve_left h)]
      exact ⟨_, rfl⟩
  obtain ⟨s1, h1⟩ := hslot
  have hs : CachesAlone s (recordWritten s1 t.core) := (cachesAlone_takeSlotOn h1).trans (cachesAlone_recordWritten _ _)
  refine ⟨settleAt (recordWritten s1 t.core) t p, ?_, reaches_settleAt ht hs.tables rfl p, (settleAt_mem _ _ _).trans hs.mem⟩
  change execPoolSlotFreed t.launch t.thread s = _
  unfold execPoolSlotFreed
  rw [ht]
  dsimp only
  rw [hp]
  dsimp only
  rw [if_pos hm]
  unfold placeRecord
  rw [h1]

end

/-! ### Deferred loads (09 R185) -/

theorem regGet_regSet {regs : List Word} {i : Nat} (hi : i < regs.length) (v : Word) (j : Nat) :
    regGet (regSet regs i v) j = if i = j then v else regGet regs j := by
  unfold regGet regSet
  rw [List.getD_eq_getElem?_getD, List.getD_eq_getElem?_getD, List.getElem?_set]
  by_cases h : i = j
  · subst h; simp [hi]
  · simp [h]

/-- A window that reaches far enough, its registers unchanged. -/
theorem regGet_padded (regs : List Word) {m : Nat} (hm : regs.length ≤ m) (j : Nat) :
    regGet ((List.range m).map (regGet regs)) j = regGet regs j := by
  unfold regGet
  rw [List.getD_eq_getElem?_getD, List.getElem?_map]
  by_cases h : j < m
  · rw [List.getElem?_range h]; rfl
  · rw [List.getElem?_eq_none (by rw [List.length_range]; omega), List.getD_eq_default _ _ (by omega)]; rfl

/-- The words of a number written into registers that stand in the window. -/
theorem regGet_setRegs_wordsOf (j : Nat) : ∀ (k v i : Nat) (t : Thread), i + k ≤ t.regs.length →
    regGet (setRegs t i (wordsOf v k)).regs j
      = if i ≤ j ∧ j < i + k then BitVec.ofNat 32 (v / 2 ^ (32 * (j - i))) else regGet t.regs j := by
  intro k
  induction k with
  | zero => intro v i t _; rw [if_neg (by omega)]; rfl
  | succ k ih =>
    intro v i t h
    rw [wordsOf, setRegs, ih _ _ _ (by simp only [regSet, List.length_set]; omega), regGet_regSet (by omega)]
    by_cases hij : i = j
    · subst hij
      rw [if_neg (by omega), if_pos rfl, if_pos (by omega), Nat.sub_self, Nat.mul_zero, Nat.pow_zero, Nat.div_one]
    · by_cases hin : i + 1 ≤ j ∧ j < i + 1 + k
      · rw [if_pos hin, if_pos (by omega), Nat.div_div_eq_div_mul, ← Nat.pow_add,
          show 32 + 32 * (j - (i + 1)) = 32 * (j - i) by omega]
      · rw [if_neg hin, if_neg hij, if_neg (by omega)]

theorem ldcPut_frame (s : State) (t : Thread) (d : DeferredLoad) :
    ldcPut s t d = { t with regs := (ldcPut s t d).regs, ldc := none } := by
  unfold ldcPut
  dsimp only
  rw [setRegs_frame]

theorem regGet_ldcPut (s : State) (t : Thread) (d : DeferredLoad) (j : Nat) :
    regGet (ldcPut s t d).regs j = if d.dest ≤ j ∧ j < d.dest + (d.size + 3) / 4 then
      BitVec.ofNat 32 (extend d.signed d.size (seenNat s t d.loc d.size) / 2 ^ (32 * (j - d.dest))) else regGet t.regs j := by
  unfold ldcPut
  dsimp only
  rw [regGet_setRegs_wordsOf j _ _ _ _ (by simp only [List.length_map, List.length_range]; omega), regGet_padded _ (by omega)]

theorem cachesAlone_ldcData {s s1 : State} {t : Thread} {d : DeferredLoad} (h : ldcData s t d = some s1) : CachesAlone s s1 := by
  unfold ldcData at h
  split at h
  · obtain ⟨u, hu, h⟩ := Option.bind_eq_some_iff.mp h
    obtain ⟨v, hv, rfl⟩ := Option.map_eq_some_iff.mp h
    exact ((cachesAlone_peerAnswer hu).trans (cachesAlone_messageOf hv)).trans (cachesAlone_fillCore _ _ _)
  · split at h
    · exact cachesAlone_messageOf h
    · split at h
      · cases h
      · exact cachesAlone_fetchData h

/-- What holds of a deferred load that is not held up: its line is good, its window bound, its port going on. -/
structure DeferredGoes (s : State) (t : Thread) (d : DeferredLoad) : Prop where
  place : t.place = .ldcWait
  load : t.ldc = some d
  good : readsBad s t.core .plain d.loc d.size = false
  bound : windowLost s d.wpa = false
  going : windowPaused s d.loc = false

section
variable {s : State} {t : Thread} {d : DeferredLoad} (ht : threadAt s t.launch t.thread = some t) (hd : DeferredGoes s t d)
include ht hd

theorem ldcLoad_eq : exec (.ldcLoad t.launch t.thread) s
    = .next (if asksFirst s t d then sendDeferred s t d else ((ldcData s t d).map fun s1 => binRecord s1 (ldcPut s t d)).getD s) := by
  obtain ⟨hplace, hload, hgood, hbound, hgoing⟩ := hd
  change execLdcLoad t.launch t.thread s = _
  unfold execLdcLoad
  rw [ht]
  dsimp only
  rw [hplace, hload]
  dsimp only
  rw [hgood, hbound, hgoing, if_neg Bool.false_ne_true, if_neg Bool.false_ne_true, if_neg Bool.false_ne_true]
  by_cases ha : asksFirst s t d = true
  · rw [if_pos ha, if_pos ha]
  · rw [if_neg ha, if_neg ha]
    cases ldcData s t d <;> rfl

theorem ldcLoad_loads {s1 : State} (ha : asksFirst s t d = false) (h1 : ldcData s t d = some s1) :
    let v := extend d.signed d.size (seenNat s t d.loc d.size)
    ∃ s' u, exec (.ldcLoad t.launch t.thread) s = .next s' ∧ Reaches s s' u (.binned 0) ∧ s'.mem = s.mem ∧ u.ldc = none
      ∧ rowKey u = rowKey t ∧ u.packet = t.packet ∧ u.pos = t.pos
      ∧ ∀ k, k < 64 → regGet u.regs k = if d.dest ≤ k ∧ k < d.dest + (d.size + 3) / 4 then
          BitVec.ofNat 32 (v / 2 ^ (32 * (k - d.dest))) else regGet t.regs k := by
  have hs := cachesAlone_ldcData h1
  have hf := ldcPut_frame s t d
  have hkey : rowKey (ldcPut s t d) = rowKey t := by rw [hf]; rfl
  refine ⟨binRecord s1 (ldcPut s t d), ldcPut s t d, ?_, reaches_binRecord ht hs.tables hkey, (binRecord_mem _ _).trans hs.mem,
    by rw [hf], hkey, by rw [hf], by rw [hf], fun k _ => regGet_ldcPut s t d k⟩
  rw [ldcLoad_eq ht hd, ha, h1]
  rfl

theorem ldcLoad_asksPeer (ha : asksFirst s t d = true) (hp : d.peerf = true)
    (hf : feltReady s (dieOfCore t.core) (fdieOf s t.launch) = true) :
    ∃ s', exec (.ldcLoad t.launch t.thread) s = .next s'
      ∧ threadAt s' t.launch t.thread = some { t with ldc := some { d with sent := true } } ∧ s'.mem = s.mem
      ∧ SendsToPeer s s' t d.peer d.va (.read d.va d.size) := by
  have hs : CachesAlone s (peerSend s { t with efftag := d.tag } false d.peer d.va (.read d.va d.size)) :=
    cachesAlone_peerSend _ _ _ _ _ _
  refine ⟨_, (ldcLoad_eq ht hd).trans (congrArg _ (if_pos ha)), ?_⟩
  unfold sendDeferred
  dsimp only
  rw [if_pos hp, if_pos hf]
  exact ⟨(hs.tables.put (u := { t with ldc := some { d with sent := true } }) ht rfl).1, hs.mem,
    sendsToPeer_peerSend s t d.tag _ _ _ _⟩

theorem ldcLoad_asksHost {s1 : State} (ha : asksFirst s t d = true) (hp : d.peerf = false)
    (hm : message s (dieOfCore t.core) 0 false d.tag = some s1) :
    ∃ s', exec (.ldcLoad t.launch t.thread) s = .next s'
      ∧ threadAt s' t.launch t.thread = some { t with ldc := some { d with sent := true } } ∧ s'.mem = s.mem
      ∧ SendsToHost s s' (fun h => .readRequest h.conn h.rkey (h.remote + (d.wpa - 2 ^ 40) % 2 ^ 32) d.size) d.wpa := by
  have hs := cachesAlone_message hm
  have hr := hs.tables.trans (tablesStand_portRead s1 d.wpa d.size)
  refine ⟨_, (ldcLoad_eq ht hd).trans (congrArg _ (if_pos ha)), ?_⟩
  unfold sendDeferred
  dsimp only
  rw [if_neg (by rw [hp]; exact Bool.false_ne_true), hm]
  refine ⟨(hr.put (u := { t with ldc := some { d with sent := true } }) ht rfl).1, ?_,
    fun h hw hpaused => portRead_sends hs.port hw hpaused⟩
  dsimp only
  rw [putThread_mem, portRead_frame]
  exact hs.mem

end

end Sys2Proof.Machine
end

section
/-! PROOFS. The drain of the oldest posted store (05 R111, 23 R377): performed at its home, sent to its home die, to its peer or to the
host, and the record that waited for its entry. -/

namespace Sys2Proof.Machine

open Sys2Proof (Byte Word DWord Instr)

set_option Elab.async false

/-! ### A record that waited for an entry -/

theorem binRecord_felt (s : State) (t : Thread) : (binRecord s t).felt = s.felt := by
  unfold binRecord
  dsimp only
  split
  · split <;> rfl
  · split <;> rfl

theorem eventCame_network (s : State) (t : Thread) : (eventCame s t).mem = s.mem ∧ (eventCame s t).felt = s.felt := by
  unfold eventCame
  split
  · exact ⟨rfl, rfl⟩
  · exact ⟨rfl, rfl⟩
  · exact ⟨rfl, rfl⟩
  · split <;> exact ⟨rfl, rfl⟩
  · exact ⟨binRecord_mem s t, binRecord_felt s t⟩

theorem wakeStore_network (s : State) (t : Thread) : (wakeStore s t).mem = s.mem ∧ (wakeStore s t).felt = s.felt := by
  unfold wakeStore
  split
  · exact eventCame_network s t
  · exact ⟨rfl, rfl⟩

/-- What a drained entry leaves: `p` of the state, the thread's row, and a record that waited for the entry on its way. -/
def Lands (s : State) (t u : Thread) (p : State → Prop) : Prop :=
  ∃ s', exec (.storeBufferDrain t.launch t.thread) s = .next s' ∧ p s'
    ∧ (awaits t ≠ .storeSlot → threadAt s' t.launch t.thread = some u)
    ∧ (t.place = .storeSlot → Reaches s s' u (.binned 0))
    ∧ (t.place = .stalled .storeSlot → threadAt s' t.launch t.thread = some { u with place := .stalled (.binned 0) })

/-- Where a thread stands is the same. -/
structure SamePlace (t u : Thread) : Prop where
  key : rowKey u = rowKey t
  place : u.place = t.place
  awaits : awaits u = awaits t

theorem lands_wakeStore {s s1 : State} {t u : Thread} {p : State → Prop} (ht : threadAt s t.launch t.thread = some t)
    (hs : TablesStand s s1) (hu : SamePlace t u)
    (hi : exec (.storeBufferDrain t.launch t.thread) s = .next (wakeStore s1 u)) (hp : p (wakeStore s1 u)) : Lands s t u p := by
  obtain ⟨hkey, hplace, hawaits⟩ := hu
  refine ⟨_, hi, hp, fun hw => ?_, fun hw => ?_, fun hw => ?_⟩
  · have he : wakeStore s1 u = putThread s1 u := by
      unfold wakeStore
      split
      · exact absurd (hawaits ▸ ‹_›) hw
      · rfl
    rw [he]
    exact (hs.put ht hkey).1
  · have he : wakeStore s1 u = binRecord s1 u := by
      unfold wakeStore
      rw [show Machine.awaits u = .storeSlot by unfold Machine.awaits; rw [hplace, hw]]
      dsimp only
      unfold eventCame
      rw [hplace, hw]
    rw [he]
    exact reaches_binRecord ht hs hkey
  · have he : wakeStore s1 u = putThread s1 { u with place := .stalled (.binned 0) } := by
      unfold wakeStore
      rw [show Machine.awaits u = .storeSlot by unfold Machine.awaits; rw [hplace, hw]]
      dsimp only
      unfold eventCame
      rw [hplace, hw]
    rw [he]
    exact (hs.put ht (u := { u with place := .stalled (.binned 0) }) hkey).1

/-! ### The entry on its way -/

theorem mergeStore_felt (s : State) (core loc n v : Nat) : (mergeStore s core loc n v).felt = s.felt := by
  have hd : (dropLine1 s core (loc / 128)).felt = s.felt := by
    unfold dropLine1
    split
    · exact mapCore_felt _ _ _
    · rfl
  have hp : ∀ (u : State) (l : DieLine), (putCopy u l).felt = u.felt := by
    intro u l
    unfold putCopy fitDie
    split
    · rfl
    · dsimp only; split <;> rfl
  unfold mergeStore
  dsimp only
  split
  · exact hd
  · split
    · split <;> exact (hp _ _).trans hd
    · exact hd

theorem tablesStand_mergePut (s : State) (core die loc n v : Nat) :
    TablesStand s (homePut (mergeStore s core loc n v) die loc n v) :=
  (cachesAlone_mergeStore s core loc n v).tables.trans (tablesStand_homePut _ _ _ _ _)

theorem mergePut_mem (s : State) (core die loc n v : Nat) :
    (homePut (mergeStore s core loc n v) die loc n v).mem = writeNat s.mem loc n v := by
  rw [homePut_mem, (cachesAlone_mergeStore s core loc n v).mem]

theorem mergePut_felt (s : State) (core die loc n v : Nat) : (homePut (mergeStore s core loc n v) die loc n v).felt = s.felt := by
  rw [homePut_frame]; exact mergeStore_felt s core loc n v

theorem fdieOf_congr {s s' : State} (hl : s'.launches = s.launches) (hf : s'.felt = s.felt) (l : Nat) : fdieOf s' l = fdieOf s l := by
  unfold fdieOf isLiveDie; rw [launchOf_congr hl, hf]

/-- A request of a thread after changes that leave the tables and the Felt. -/
theorem sendsToPeer_after {s s' : State} (hs : TablesStand s s') (hf : s'.felt = s.felt) {t u : Thread} (hk : rowKey u = rowKey t)
    (hc : u.core = t.core) (p : Bool) (peer va : Nat) (k : RenharKind) : SendsToPeer s (peerSend s' u p peer va k) t peer va k := by
  obtain ⟨hl, hn⟩ : u.launch = t.launch ∧ u.thread = t.thread := by simpa [rowKey] using hk
  intro hne hlive
  rw [← fdieOf_congr hs.launches hf] at hne hlive ⊢
  have hsend := feltPost_sends (s := s') (src := dieOfCore u.core) (dst := fdieOf s' t.launch) (hc ▸ hne)
    (by unfold isLiveDie at hlive ⊢; rw [hf]; exact hlive) p u.efftag
    (.renhar (partOfThread s' u) u.launch u.thread u.core peer va k) (some (u.launch, u.thread)) none
  have hpart : partOfThread s' u = partOfThread s t := by unfold partOfThread; rw [hs.context, hl]
  unfold peerSend threadPost
  rw [hpart, hl, hn, hc] at hsend ⊢
  exact hsend

theorem isHostLoc_below {loc : Nat} (h : loc < 2 ^ 39) : isHostLoc loc = false := by
  unfold isHostLoc
  rw [decide_eq_false (Nat.not_le.mpr (h.trans (by norm_num))), Bool.false_and]

/-- What holds of a thread whose oldest posted store is accepted. -/
structure DrainGoes (s : State) (t : Thread) (e : SbEntry) (rest : List SbEntry) : Prop where
  row : threadAt s t.launch t.thread = some t
  entry : t.sbuf = e :: rest
  holds : holdsEntries t = true
  whole : e.failed = false
  good : isBad s e.loc = false
  bound : windowLost s e.wpa = false
  going : windowPaused s e.loc = false
  ready : feltReady s (dieOfCore t.core) (entryDie s t e) = true

theorem storeBufferDrain_performs {s : State} {t : Thread} {e : SbEntry} {rest : List SbEntry} (h : DrainGoes s t e rest) :
    exec (.storeBufferDrain t.launch t.thread) s = .next (performEntry s t e rest) := by
  obtain ⟨hrow, hentry, hholds, hwhole, hgood, hbound, hgoing, hready⟩ := h
  change execStoreBufferDrain t.launch t.thread s = _
  unfold execStoreBufferDrain
  rw [hrow]
  dsimp only
  rw [hentry]
  dsimp only
  rw [hholds, hwhole, hgood, hbound, hgoing, hready]
  rfl

section
variable {s : State} {t : Thread} {e : SbEntry} {rest : List SbEntry} (h : DrainGoes s t e rest)
include h

theorem drain_peer (hp : e.peerf = true) :
    Lands s t { t with sbuf := rest, peerAck := t.peerAck + 1 } fun s' =>
      s'.mem = writeNat s.mem e.loc (2 ^ e.size) e.data.toNat
        ∧ SendsToPeer s s' t e.peer e.vaddr
            (.postedWrite e.vaddr ((List.range (2 ^ e.size)).zip (bytesOfNat e.data.toNat (2 ^ e.size)))) := by
  have hi := storeBufferDrain_performs h
  unfold performEntry at hi
  dsimp only at hi
  rw [if_pos hp] at hi
  have hs := tablesStand_mergePut s t.core (dieOfCore t.core) e.loc (2 ^ e.size) e.data.toNat
  refine lands_wakeStore h.row (hs.trans (cachesAlone_peerSend _ _ _ _ _ _).tables) ⟨rfl, rfl, rfl⟩ hi ⟨?_, ?_⟩
  · rw [(wakeStore_network _ _).1, (cachesAlone_peerSend _ _ _ _ _ _).mem, mergePut_mem]
  · unfold SendsToPeer
    rw [(wakeStore_network _ _).2]
    exact sendsToPeer_after hs (mergePut_felt _ _ _ _ _ _) (u := { t with sbuf := rest, efftag := e.tag }) rfl rfl _ _ _ _

theorem drain_home (hp : e.peerf = false) (hl : e.loc < 2 ^ 39) (hh : homeOf s e.loc = dieOfCore t.core) :
    Lands s t { t with sbuf := rest } fun s' => s'.mem = writeNat s.mem e.loc (2 ^ e.size) e.data.toNat := by
  have hi := storeBufferDrain_performs h
  unfold performEntry at hi
  dsimp only at hi
  rw [if_neg (by rw [hp]; exact Bool.false_ne_true), isHostLoc_below hl, if_neg Bool.false_ne_true, if_neg fun x => x.2 hh] at hi
  refine lands_wakeStore h.row (tablesStand_mergePut _ _ _ _ _ _) ⟨rfl, rfl, rfl⟩ hi ?_
  rw [(wakeStore_network _ _).1, mergePut_mem]

theorem drain_otherDie (hp : e.peerf = false) (hl : e.loc < 2 ^ 39) (hh : homeOf s e.loc ≠ dieOfCore t.core) :
    Lands s t { t with sbuf := rest, ownUnack := t.ownUnack + 1 } fun s' => s'.mem = s.mem
      ∧ (isLiveDie s (homeOf s e.loc) = true →
          ∃ p ∈ s'.felt.packets, p.dst = homeOf s e.loc ∧ p.body = .write e.loc (2 ^ e.size) e.data.toNat) := by
  have hi := storeBufferDrain_performs h
  unfold performEntry at hi
  dsimp only at hi
  rw [if_neg (by rw [hp]; exact Bool.false_ne_true), isHostLoc_below hl, if_neg Bool.false_ne_true, if_pos ⟨hl, hh⟩] at hi
  have hm := cachesAlone_mergeStore s t.core e.loc (2 ^ e.size) e.data.toNat
  refine lands_wakeStore h.row (hm.tables.trans (cachesAlone_threadPost _ _ _ _ _ _).tables) ⟨rfl, rfl, rfl⟩ hi
    ⟨?_, fun hlive => ?_⟩
  · rw [(wakeStore_network _ _).1, (cachesAlone_threadPost _ _ _ _ _ _).mem, hm.mem]
  · rw [(wakeStore_network _ _).2]
    exact feltPost_sends (Ne.symm hh) (by unfold isLiveDie at hlive ⊢; rw [mergeStore_felt]; exact hlive) _ _ _ _ _

theorem performEntry_host (hp : e.peerf = false) (hl : isHostLoc e.loc = true) :
    exec (.storeBufferDrain t.launch t.thread) s = .next (performHost s t e rest) := by
  have hi := storeBufferDrain_performs h
  unfold performEntry at hi
  dsimp only at hi
  rwa [if_neg (by rw [hp]; exact Bool.false_ne_true), if_pos hl] at hi

theorem drain_hostAcknowledged (hp : e.peerf = false) (hl : isHostLoc e.loc = true) (hsent : e.sent = true) :
    Lands s t { t with sbuf := rest } fun s' => s'.mem = s.mem := by
  have hi := performEntry_host h hp hl
  unfold performHost at hi
  dsimp only at hi
  rw [if_pos hsent] at hi
  exact lands_wakeStore h.row (TablesStand.refl s) ⟨rfl, rfl, rfl⟩ hi (wakeStore_network _ _).1

theorem drain_hostWrite {s1 : State} (hp : e.peerf = false) (hl : isHostLoc e.loc = true) (hsent : e.sent = false)
    (hm : messageOf 1 s (dieOfCore t.core) 0 false e.tag = some s1) :
    ∃ s', exec (.storeBufferDrain t.launch t.thread) s = .next s'
      ∧ threadAt s' t.launch t.thread = some { t with sbuf := { e with sent := true } :: rest }
      ∧ s'.mem = writeNat s.mem e.loc (2 ^ e.size) e.data.toNat
      ∧ SendsToHost s s' (fun h => .writeRequest h.conn h.rkey (h.remote + (e.wpa - 2 ^ 40) % 2 ^ 32)
          (bytesOfNat e.data.toNat (2 ^ e.size))) e.wpa := by
  have hi := performEntry_host h hp hl
  unfold performHost at hi
  dsimp only at hi
  rw [if_neg (by rw [hsent]; exact Bool.false_ne_true), hm] at hi
  dsimp only at hi
  have hd := (cachesAlone_messageOf hm).trans (cachesAlone_dropWords s1 t.core e.loc (2 ^ e.size))
  have hput := hd.tables.trans (tablesStand_homePut _ 0 e.loc (2 ^ e.size) e.data.toNat)
  refine ⟨_, hi,
    ((hput.trans (tablesStand_portWrite _ _ _ _)).put (u := { t with sbuf := { e with sent := true } :: rest }) h.row rfl).1,
    ?_, fun w hw hpaused => portWrite_sends ?_ hw hpaused⟩
  · rw [putThread_mem, portWrite_frame]
    dsimp only
    rw [homePut_mem, hd.mem]
  · rw [homePut_frame]
    exact hd.port

end

end Sys2Proof.Machine
end

section
/-! PROOFS. Barriers (09 R195), whose instances are rounds here: what a release of a complete round does to the rows, that it reaches
every thread that waits at a complete round, and no other. -/

namespace Sys2Proof.Machine

open Sys2Proof (Byte Word DWord Instr)

set_option Elab.async false

/-! ### The releases, one after another -/

/-- The turn of one thread in which its round, where complete, is released. -/
def releaseTurn (y : State) (t : Thread) : State :=
  match (threadAt y t.launch t.thread).map awaits with
  | some (.barrier k true) => if instanceComplete y k t then releaseInstance y k t else y
  | _ => y

theorem releaseBarriers_turns (s : State) : releaseBarriers s = s.threads.foldl releaseTurn s := rfl

/-- What messages and caches do not disturb, nor the event at a member of a complete round, outlasts a release. `Q` holds of
the members. -/
structure KeptByRelease (I : State → Prop) (Q : Thread → Prop) : Prop where
  caches : ∀ y y', I y → CachesAlone y y' → I y'
  member : ∀ y k t u, I y → instanceComplete y k t = true → u ∈ instanceMembers y k t → Q u
  event : ∀ y u, I y → Q u → I (eventCame y u)

section
variable {I : State → Prop} {Q : Thread → Prop} (h : KeptByRelease I Q)
include h

theorem KeptByRelease.members : ∀ (us : List Thread) (y : State), I y → (∀ u ∈ us, Q u) →
    I (us.foldl (fun y u => eventCame (selfInvalidate y u.core) u) y) := by
  intro us
  induction us with
  | nil => exact fun y hy _ => hy
  | cons u us ih =>
    intro y hy hq
    rw [List.foldl_cons]
    exact ih _ (h.event _ _ (h.caches _ _ hy (cachesAlone_selfInvalidate _ _)) (hq u List.mem_cons_self))
      fun w hw => hq w (List.mem_cons_of_mem _ hw)

theorem KeptByRelease.turn {y : State} (t : Thread) (hy : I y) : I (releaseTurn y t) := by
  unfold releaseTurn
  split
  · split
    · unfold releaseInstance
      dsimp only
      split
      · exact h.members _ _ (h.caches _ _ hy (cachesAlone_felt (tell_felt ‹_›)))
          fun u hu => h.member y _ t u hy ‹_› hu
      · exact hy
    · exact hy
  · exact hy

theorem KeptByRelease.turns : ∀ (ts : List Thread) (y : State), I y → I (ts.foldl releaseTurn y) := by
  intro ts
  induction ts with
  | nil => exact fun y hy => hy
  | cons t ts ih => exact fun y hy => ih _ (h.turn t hy)

/-- What holds after a thread's turn, once it holds is kept by the turns that follow. -/
theorem KeptByRelease.after {J : State → Prop} (hj : KeptByRelease (fun y => I y ∧ J y) Q) {t : Thread}
    (hturn : ∀ y, I y → J (releaseTurn y t)) : ∀ (ts : List Thread) (y : State), I y → t ∈ ts → J (ts.foldl releaseTurn y) := by
  intro ts
  induction ts with
  | nil => exact fun y _ ht => absurd ht List.not_mem_nil
  | cons a ts ih =>
    intro y hy ht
    rw [List.foldl_cons]
    rcases List.mem_cons.mp ht with rfl | ht
    · exact (hj.turns ts _ ⟨h.turn t hy, hturn y hy⟩).2
    · exact ih _ (h.turn a hy) ht

end

/-! ### The row that an event leaves -/

/-- The row of a thread once the event that it awaits has come, its code being in no retired module. -/
def eventRow (s : State) (u : Thread) : Thread :=
  match u.place with
  | .stalled (.faultBin _ _) => { u with parked := u.parked.map fun r => { r with place := .unbinned } }
  | .stalled _ => { u with place := .stalled (.binned 0) }
  | .faultBin _ _ => { u with parked := u.parked.map fun r => { r with place := .unbinned } }
  | .forward =>
    match u.fwd.bind Forward.from_ with
    | some (.faultBin _ _) => { u with parked := u.parked.map fun r => { r with place := .unbinned } }
    | _ => { u with fwd := u.fwd.map fun f => { f with from_ := some .unbinned } }
  | _ => { u with place := if (ctxOfLaunch s u.launch).run = .running then .binned (now s) else .unbinned }

theorem binRecord_row {s : State} {u : Thread} (hc : isRetired (ctxOfLaunch s u.launch) (codeAddr u) = false) :
    binRecord s u
      = putThread s { u with place := if (ctxOfLaunch s u.launch).run = .running then .binned (now s) else .unbinned } := by
  unfold binRecord
  dsimp only
  rw [hc, Bool.false_and, if_neg Bool.false_ne_true, if_neg Bool.false_ne_true]

theorem eventCame_row {s : State} {u : Thread} (hc : isRetired (ctxOfLaunch s u.launch) (codeAddr u) = false) :
    eventCame s u = putThread s (eventRow s u) := by
  have hb := binRecord_row hc
  unfold eventCame eventRow
  cases u.place with
  | stalled p => cases p <;> rfl
  | faultBin w n => rfl
  | forward =>
    cases u.fwd.bind Forward.from_ with
    | none => rfl
    | some p => cases p <;> rfl
  | _ => exact hb

/-- An event changes where a thread stands or will stand, and nothing else of its row. -/
theorem eventRow_frame (s : State) (u : Thread) :
    eventRow s u = { u with place := (eventRow s u).place, parked := (eventRow s u).parked, fwd := (eventRow s u).fwd } := by
  unfold eventRow
  split
  · rfl
  · rfl
  · rfl
  · split <;> rfl
  · rfl

theorem eventRow_barrier {s : State} {u : Thread} {b : BarKind} {c : Bool} (h : u.place = .barrier b c) :
    eventRow s u = { u with place := if (ctxOfLaunch s u.launch).run = .running then .binned (now s) else .unbinned } := by
  unfold eventRow
  rw [h]

theorem eventRow_notExited {s : State} {u : Thread} : (eventRow s u).place ≠ .exited := by
  unfold eventRow
  split
  case h_1 h => dsimp only; rw [h]; exact fun h => by cases h
  case h_2 => exact fun h => by cases h
  case h_3 h => dsimp only; rw [h]; exact fun h => by cases h
  case h_4 h =>
    split
    · dsimp only; rw [h]; exact fun h => by cases h
    · dsimp only; rw [h]; exact fun h => by cases h
  case h_5 => dsimp only; split <;> exact fun h => by cases h

/-- The place of a parked record whose event has come, or that of the fault that holds it. -/
theorem parkedPlace_notBarrier (p : Option ParkedRecord) (w : DWord) (n : Nat) (b : BarKind) (c : Bool) :
    ((p.map fun r => { r with place := .unbinned }).map ParkedRecord.place).getD (.faultBin w n) ≠ .barrier b c := by
  cases p <;> exact fun h => by cases h

/-- A thread whose event has come waits at no barrier. -/
theorem awaits_eventRow (s : State) (u : Thread) (b : BarKind) (c : Bool) : awaits (eventRow s u) ≠ .barrier b c := by
  unfold eventRow
  split
  case h_1 h => unfold awaits; dsimp only; rw [h]; exact parkedPlace_notBarrier _ _ _ _ _
  case h_2 => exact fun h => by cases h
  case h_3 h => unfold awaits; dsimp only; rw [h]; exact parkedPlace_notBarrier _ _ _ _ _
  case h_4 h =>
    split
    case h_1 hf => unfold awaits; dsimp only; rw [h]; dsimp only; rw [hf]; exact parkedPlace_notBarrier _ _ _ _ _
    case h_2 =>
      unfold awaits
      dsimp only
      rw [h]
      dsimp only
      cases u.fwd <;> exact fun h => by cases h
  case h_5 =>
    by_cases hrun : (ctxOfLaunch s u.launch).run = .running
    · rw [if_pos hrun]; exact fun h => by cases h
    · rw [if_neg hrun]; exact fun h => by cases h

theorem place_of_awaits_barrier {u : Thread} {b : BarKind} {c : Bool} (h : awaits u = .barrier b c) : u.place ≠ .exited := by
  intro hp
  unfold awaits at h
  rw [hp] at h
  cases h

/-! ### Complete rounds stay complete -/

/-- A thread waits, counted, at an round that is complete. -/
def Complete (s : State) (u : Thread) : Prop := ∃ b, awaits u = .barrier b true ∧ instanceComplete s b u = true

/-- A row after some releases: as it was, or the event has come to it at its complete round. -/
def Moved (s : State) (u v : Thread) : Prop := v = u ∨ (v = eventRow s u ∧ Complete s u)

/-- A state in which some complete rounds of another have been released, and nothing else but messages and caches has changed. -/
structure Releasing (s y : State) : Prop where
  launches : y.launches = s.launches
  contexts : y.contexts = s.contexts
  clock : y.timeBase = s.timeBase
  mode : y.mode = s.mode
  mem : y.mem = s.mem
  keys : y.threads.map rowKey = s.threads.map rowKey
  rows : ∀ u ∈ s.threads, ∃ v, threadAt y u.launch u.thread = some v ∧ Moved s u v

/-- What barriers ask of a row is the same. -/
structure SameCounted (u v : Thread) : Prop where
  key : rowKey v = rowKey u
  gang : v.gang = u.gang
  core : v.core = u.core
  counts : ∀ k n, countsForInstance k n v = countsForInstance k n u

theorem Moved.counted {s : State} {u v : Thread} (h : Moved s u v) : SameCounted u v := by
  rcases h with rfl | ⟨rfl, b, hb, -⟩
  · exact ⟨rfl, rfl, rfl, fun _ _ => rfl⟩
  · have hv : ((eventRow s u).place == .exited) = (u.place == .exited) := by
      rw [beq_false_of_ne eventRow_notExited, beq_false_of_ne (place_of_awaits_barrier hb)]
    have hf := eventRow_frame s u
    refine ⟨by rw [hf]; rfl, by rw [hf], by rw [hf], fun k n => ?_⟩
    unfold countsForInstance
    rw [hv, hf]
    cases k <;> rfl

theorem sameUnit_counted {s s' : State} (hl : s'.launches = s.launches) (k : BarKind) {t u v : Thread} (h : SameCounted u v) :
    sameUnit s' k t v = sameUnit s k t u := by
  have hk : v.launch = u.launch := congrArg Prod.fst h.key
  unfold sameUnit
  rw [hk, h.gang, launchOf_congr hl]

theorem sameUnit_trans {s : State} {k : BarKind} {t u v : Thread} (h : sameUnit s k t u = true) :
    sameUnit s k u v = sameUnit s k t v := by
  unfold sameUnit at h ⊢
  rw [Bool.and_eq_true, decide_eq_true_iff] at h
  obtain ⟨hl, hg⟩ := h
  rw [← hl]
  cases k with
  | gang => rw [decide_eq_true_iff.mp hg]
  | cluster => rw [decide_eq_true_iff.mp hg]
  | launch => rfl

/-- A round is complete for all of its threads together. -/
theorem instanceComplete_mate {s : State} {k : BarKind} {t u : Thread} (h : sameUnit s k t u = true)
    (hc : barrierCount k u = barrierCount k t) : instanceComplete s k u = instanceComplete s k t := by
  unfold instanceComplete
  rw [hc]
  congr 1
  funext v
  rw [sameUnit_trans h]

section
variable {s y : State} (hn : (s.threads.map rowKey).Nodup) (h : Releasing s y)
include hn h

theorem Releasing.row {v : Thread} (hv : v ∈ y.threads) : ∃ u ∈ s.threads, Moved s u v := by
  have hkey : rowKey v ∈ s.threads.map rowKey := h.keys ▸ List.mem_map_of_mem hv
  obtain ⟨u, hu, he⟩ := List.mem_map.mp hkey
  obtain ⟨w, hw, hm⟩ := h.rows u hu
  have hw' := mem_of_threadAt hw
  rw [row_unique (h.keys ▸ hn) hv hw'.1 (by rw [hw'.2, ← he]; rfl)]
  exact ⟨u, hu, hm⟩

theorem Releasing.complete (k : BarKind) (t : Thread) : instanceComplete y k t = instanceComplete s k t := by
  unfold instanceComplete
  rw [Bool.eq_iff_iff, List.all_eq_true, List.all_eq_true]
  have hsame : ∀ {u v}, Moved s u v →
      (!sameUnit y k t v || countsForInstance k (barrierCount k t) v) = (!sameUnit s k t u || countsForInstance k (barrierCount k t) u) :=
    fun hm => by rw [sameUnit_counted h.launches k hm.counted, hm.counted.counts]
  constructor
  · intro hall u hu
    obtain ⟨v, hv, hm⟩ := h.rows u hu
    exact hsame hm ▸ hall v (mem_of_threadAt hv).1
  · intro hall v hv
    obtain ⟨u, hu, hm⟩ := h.row hn hv
    exact (hsame hm).symm ▸ hall u hu

/-- The members of a complete round stand as they stood, and have their event to come. -/
theorem Releasing.member {k : BarKind} {t u : Thread} (hc : instanceComplete y k t = true) (hu : u ∈ instanceMembers y k t) :
    u ∈ s.threads ∧ Complete s u := by
  unfold instanceMembers at hu
  rw [List.mem_filter, Bool.and_eq_true, Bool.and_eq_true, beq_iff_eq, decide_eq_true_iff] at hu
  obtain ⟨hmem, ⟨hunit, hwait⟩, hcount⟩ := hu
  obtain ⟨w, hw, rfl | ⟨rfl, -⟩⟩ := h.row hn hmem
  · refine ⟨hw, k, hwait, ?_⟩
    rw [← h.complete hn, instanceComplete_mate hunit hcount]
    exact hc
  · exact absurd hwait (awaits_eventRow _ _ _ _)

end

theorem eventRow_congr {s y : State} (h : Releasing s y) (u : Thread) : eventRow y u = eventRow s u := by
  unfold eventRow now
  rw [ctxOfLaunch_congr h.launches h.contexts, h.clock]

theorem rowKey_eventRow (s : State) (u : Thread) : rowKey (eventRow s u) = rowKey u := by rw [eventRow_frame]; rfl

theorem Releasing.refl {s : State} (hn : (s.threads.map rowKey).Nodup) : Releasing s s :=
  ⟨rfl, rfl, rfl, rfl, rfl, rfl, fun u hu => ⟨u, threadAt_of_mem hn hu, .inl rfl⟩⟩

theorem Releasing.caches {s y y' : State} (h : Releasing s y) (hc : CachesAlone y y') : Releasing s y' := by
  unfold CachesAlone at hc
  rw [hc]
  exact ⟨h.launches, h.contexts, h.clock, h.mode, h.mem, h.keys, h.rows⟩

/-- Nothing resumes in a retired module. -/
def NoneRetired (s : State) : Prop := ∀ u ∈ s.threads, isRetired (ctxOfLaunch s u.launch) (codeAddr u) = false

theorem Releasing.eventCame {s y : State} {u : Thread} (h : Releasing s y) (hr : NoneRetired s) (hu : u ∈ s.threads) :
    Machine.eventCame y u = putThread y (eventRow s u) := by
  rw [eventCame_row (by rw [ctxOfLaunch_congr h.launches h.contexts]; exact hr u hu), eventRow_congr h]

theorem Releasing.put {s y : State} {u : Thread} (hn : (s.threads.map rowKey).Nodup) (h : Releasing s y) (hu : u ∈ s.threads)
    (hc : Complete s u) : Releasing s (putThread y (eventRow s u)) := by
  refine ⟨h.launches, h.contexts, h.clock, h.mode, h.mem, putThread_keys.trans h.keys, fun w hw => ?_⟩
  obtain ⟨v, hv, hm⟩ := h.rows w hw
  by_cases hk : rowKey w = rowKey u
  · rw [row_unique hn hw hu hk] at hv ⊢
    exact ⟨_, threadAt_putThread_self hv (rowKey_eventRow s u), .inr ⟨rfl, hc⟩⟩
  · refine ⟨v, ?_, hm⟩
    rw [threadAt_putThread_other (by rw [rowKey_eventRow]; exact hk)]
    exact hv

theorem keptByRelease_releasing {s : State} (hn : (s.threads.map rowKey).Nodup) (hr : NoneRetired s) :
    KeptByRelease (Releasing s) (fun u => u ∈ s.threads ∧ Complete s u) where
  caches _ _ h hc := h.caches hc
  member _ _ _ _ h hc hu := h.member hn hc hu
  event y u h hq := by rw [h.eventCame hr hq.1]; exact h.put hn hq.1 hq.2

/-! ### A complete round is released -/

theorem mem_distinct_of (l : List Nat) : ∀ (r : List Nat) (x : Nat),
    x ∈ l.foldl (fun r x => if r.contains x then r else r ++ [x]) r → x ∈ r ∨ x ∈ l := by
  induction l with
  | nil => exact fun r x h => .inl h
  | cons a l ih =>
    intro r x h
    rw [List.foldl_cons] at h
    rcases ih _ x h with h | h
    · split at h
      · exact .inl h
      · rcases List.mem_append.mp h with h | h
        · exact .inl h
        · exact .inr (List.mem_singleton.mp h ▸ List.mem_cons_self)
    · exact .inr (List.mem_cons_of_mem _ h)

theorem mem_of_mem_distinct {l : List Nat} {x : Nat} (h : x ∈ distinct l) : x ∈ l :=
  (mem_distinct_of l [] x h).resolve_left List.not_mem_nil

/-- Within one die nothing has to be told. -/
theorem tell_within {s : State} {tag d : Nat} {froms tos : List Nat} (hf : ∀ x ∈ froms, x = d) (ht : ∀ x ∈ tos, x = d) :
    tell s tag froms tos = some s := by
  unfold tell
  split
  · rfl
  · have hpairs : ∀ p ∈ froms.flatMap fun d => tos.map fun e => (d, e), p = (d, d) := by
      intro p hp
      obtain ⟨a, ha, hp⟩ := List.mem_flatMap.mp hp
      obtain ⟨b, hb, rfl⟩ := List.mem_map.mp hp
      rw [hf a ha, ht b hb]
    generalize froms.flatMap (fun d => tos.map fun e => (d, e)) = ps at hpairs
    induction ps with
    | nil => rfl
    | cons p ps ih =>
      have hself : message s p.1 p.2 true tag = some s := by
        rw [hpairs p List.mem_cons_self]
        unfold message messageOf
        rw [decide_eq_true rfl]
        rfl
      rw [List.foldlM_cons, hself]
      exact ih fun q hq => hpairs q (List.mem_cons_of_mem _ hq)

/-- What the dies of an round know needs no message: there is no causal delivery, or a launch is on one die. -/
def ToldAtOnce (s : State) (l d : Nat) : Prop :=
  s.mode.causal = false ∨ ∀ u ∈ s.threads, u.launch = l → dieOfCore u.core = d

theorem tell_round {s : State} {l d : Nat} (h : ToldAtOnce s l d) {k : BarKind} {t : Thread} (hl : t.launch = l) :
    tell s t.efftag (arrivalDies s k t) (distinct ((instanceMembers s k t).map fun u => dieOfCore u.core)) = some s := by
  rcases h with h | h
  · exact tell_off _ _ _ _ h
  · have hunit : ∀ u ∈ s.threads, sameUnit s k t u = true → dieOfCore u.core = d := by
      intro u hu hs
      unfold sameUnit at hs
      rw [Bool.and_eq_true, decide_eq_true_iff] at hs
      exact h u hu (hs.1.symm.trans hl)
    refine tell_within (d := d) (fun x hx => ?_) (fun x hx => ?_)
    · obtain ⟨u, hu, rfl⟩ := List.mem_map.mp (mem_of_mem_distinct hx)
      rw [List.mem_filter, Bool.and_eq_true] at hu
      exact hunit u hu.1 hu.2.1
    · obtain ⟨u, hu, rfl⟩ := List.mem_map.mp (mem_of_mem_distinct hx)
      unfold instanceMembers at hu
      rw [List.mem_filter, Bool.and_eq_true, Bool.and_eq_true] at hu
      exact hunit u hu.1 hu.2.1.1

section
variable {s : State} (hn : (s.threads.map rowKey).Nodup) (hr : NoneRetired s) {u : Thread} (hu : u ∈ s.threads)
include hn hr hu

/-- The event has come to a thread. -/
def Freed (s : State) (u : Thread) (y : State) : Prop := threadAt y u.launch u.thread = some (eventRow s u)

omit hn hr in
theorem Freed.put {y : State} {w : Thread} (hn : (s.threads.map rowKey).Nodup) (h : Freed s u y) (hw : w ∈ s.threads) :
    Freed s u (putThread y (eventRow s w)) := by
  by_cases hk : rowKey u = rowKey w
  · rw [← row_unique hn hu hw hk]
    exact threadAt_putThread_self h (rowKey_eventRow s u)
  · unfold Freed
    rw [threadAt_putThread_other (by rw [rowKey_eventRow]; exact hk)]
    exact h

theorem keptByRelease_freed : KeptByRelease (fun y => Releasing s y ∧ Freed s u y)
    (fun u => u ∈ s.threads ∧ Complete s u) where
  caches _ _ h hc := ⟨h.1.caches hc, by unfold Freed; rw [hc.tables.rows]; exact h.2⟩
  member _ _ _ _ h hc hu := h.1.member hn hc hu
  event y w h hq := by
    rw [h.1.eventCame hr hq.1]
    exact ⟨h.1.put hn hq.1 hq.2, h.2.put hu hn hq.1⟩

/-- Among the members of its round a thread's own event comes. -/
theorem freed_members : ∀ (us : List Thread) (y : State), Releasing s y →
    (∀ w ∈ us, w ∈ s.threads ∧ Complete s w) → u ∈ us → Freed s u (us.foldl (fun y u => eventCame (selfInvalidate y u.core) u) y) := by
  intro us
  induction us with
  | nil => exact fun y _ _ h => absurd h List.not_mem_nil
  | cons w us ih =>
    intro y hy hq hmem
    have hrest : ∀ w ∈ us, w ∈ s.threads ∧ Complete s w := fun x hx => hq x (List.mem_cons_of_mem _ hx)
    have hw := hq w List.mem_cons_self
    have hy1 := hy.caches (cachesAlone_selfInvalidate y w.core)
    have hy2 : Releasing s (eventCame (selfInvalidate y w.core) w) := by rw [hy1.eventCame hr hw.1]; exact hy1.put hn hw.1 hw.2
    rw [List.foldl_cons]
    rcases List.mem_cons.mp hmem with rfl | hmem
    · refine ((keptByRelease_freed hn hr hu).members us _ ⟨hy2, ?_⟩ hrest).2
      rw [hy1.eventCame hr hw.1]
      obtain ⟨v, hv, -⟩ := hy1.rows u hu
      exact threadAt_putThread_self hv (rowKey_eventRow s u)
    · exact ih _ hy2 hrest hmem

theorem freed_turn {d : Nat} (hc : Complete s u) (htold : ToldAtOnce s u.launch d) {y : State} (h : Releasing s y) :
    Freed s u (releaseTurn y u) := by
  obtain ⟨k, hwait, hcomplete⟩ := hc
  obtain ⟨v, hv, rfl | ⟨rfl, -⟩⟩ := h.rows u hu
  · have hlocal : ToldAtOnce y v.launch d := by
      refine htold.imp (fun x => h.mode ▸ x) fun x w hw hl => ?_
      obtain ⟨z, hz, hm⟩ := h.row hn hw
      rw [hm.counted.core]
      exact x z hz ((congrArg Prod.fst hm.counted.key).symm.trans hl)
    have hyc : instanceComplete y k v = true := (h.complete hn k v).trans hcomplete
    have hself : v ∈ instanceMembers y k v := by
      unfold instanceMembers
      rw [List.mem_filter]
      refine ⟨(mem_of_threadAt hv).1, ?_⟩
      unfold sameUnit
      rw [hwait]
      cases k <;> simp
    unfold releaseTurn
    rw [hv, Option.map_some, hwait]
    dsimp only
    rw [if_pos hyc]
    unfold releaseInstance
    dsimp only
    rw [tell_round hlocal rfl]
    exact freed_members hn hr hu _ _ h (fun w hw => h.member hn hyc hw) hself
  · have hskip : releaseTurn y u = y := by
      unfold releaseTurn
      rw [hv, Option.map_some]
      split
      · exact absurd (Option.some.inj ‹_›) (awaits_eventRow _ _ _ _)
      · rfl
    rw [hskip]
    exact hv

theorem releaseBarriers_frees {d : Nat} (hc : Complete s u) (htold : ToldAtOnce s u.launch d) : Freed s u (releaseBarriers s) := by
  rw [releaseBarriers_turns]
  exact (keptByRelease_releasing hn hr).after (keptByRelease_freed hn hr hu) (fun _ h => freed_turn hn hr hu hc htold h) s.threads s
    (Releasing.refl hn) hu

end

theorem releaseBarriers_releasing {s : State} (hn : (s.threads.map rowKey).Nodup) (hr : NoneRetired s) :
    Releasing s (releaseBarriers s) := by
  rw [releaseBarriers_turns]
  exact (keptByRelease_releasing hn hr).turns _ _ (Releasing.refl hn)

/-- The threads at complete rounds are binned, if their launch is told at once, and those at no complete round stay. -/
theorem releaseBarriers_reaches {s : State} {l d : Nat} (hn : (s.threads.map rowKey).Nodup) (hr : NoneRetired s)
    (htold : ToldAtOnce s l d) {u : Thread} (hu : u ∈ s.threads) :
    (u.launch = l → ∀ b, u.place = .barrier b true → instanceComplete s b u = true →
      Reaches s (releaseBarriers s) u (.binned 0))
    ∧ ((∀ b, awaits u = .barrier b true → instanceComplete s b u = false) →
      threadAt (releaseBarriers s) u.launch u.thread = some u) := by
  refine ⟨fun hl b hb hc hrun _ => ?_, fun hnone => ?_⟩
  · subst hl
    have hfreed := releaseBarriers_frees hn hr hu (d := d) ⟨b, by unfold awaits; rw [hb], hc⟩ htold
    unfold Freed at hfreed
    rw [eventRow_barrier hb, if_pos hrun] at hfreed
    exact hfreed
  · obtain ⟨v, hv, rfl | ⟨-, b, hb, hc⟩⟩ := (releaseBarriers_releasing hn hr).rows u hu
    · exact hv
    · rw [hnone b hb] at hc
      cases hc

/-! ### The last arrival -/

theorem barrierArrival_releases {s : State} {t : Thread} (ht : threadAt s t.launch t.thread = some t) {k : BarKind}
    (hp : t.place = .barrier k false) (hready : releaseReady s t = true) :
    exec (.barrierArrival t.launch t.thread) s
      = .next (releaseBarriers (putThread s { bumpBarrier k t with place := .barrier k true })) := by
  change execBarrierArrival t.launch t.thread s = _
  unfold execBarrierArrival
  rw [ht]
  dsimp only
  rw [hp]
  dsimp only
  rw [if_pos hready]

/-- A thread counted as arrived. -/
def arrived (k : BarKind) (t : Thread) : Thread := { bumpBarrier k t with place := .barrier k true }

theorem mem_putThread {s : State} {t' u : Thread} (h : u ∈ (putThread s t').threads) : u = t' ∨ u ∈ s.threads := by
  unfold putThread at h
  obtain ⟨x, hx, rfl⟩ := List.mem_map.mp h
  split
  · exact .inl rfl
  · exact .inr hx

/-- What holds of every row, and of the new row, holds of every row once it is put. -/
theorem noneRetired_arrived {s : State} {t : Thread} (ht : t ∈ s.threads) (k : BarKind) (h : NoneRetired s) :
    NoneRetired (putThread s (arrived k t)) := by
  intro u hu
  rcases mem_putThread hu with rfl | hu
  · have e := h t ht
    cases k <;> exact e
  · exact h u hu

theorem toldAtOnce_arrived {s : State} {t : Thread} {l : Nat} (k : BarKind)
    (h : ToldAtOnce s l (dieOfCore t.core)) : ToldAtOnce (putThread s (arrived k t)) l (dieOfCore t.core) := by
  refine h.imp id fun h u hu hl => ?_
  rcases mem_putThread hu with rfl | hu
  · cases k <;> rfl
  · exact h u hu hl

theorem barrierArrival_frees {s : State} {t : Thread} (ht : threadAt s t.launch t.thread = some t) {k : BarKind}
    (hp : t.place = .barrier k false) (hready : releaseReady s t = true) (hn : (s.threads.map rowKey).Nodup)
    (hr : NoneRetired s) (htold : ToldAtOnce s t.launch (dieOfCore t.core)) :
    ∃ s', exec (.barrierArrival t.launch t.thread) s = .next s' ∧ s'.mem = s.mem
      ∧ ∀ u ∈ (putThread s (arrived k t)).threads,
        (u.launch = t.launch → ∀ b, u.place = .barrier b true → instanceComplete (putThread s (arrived k t)) b u = true →
          Reaches (putThread s (arrived k t)) s' u (.binned 0))
        ∧ ((∀ b, awaits u = .barrier b true → instanceComplete (putThread s (arrived k t)) b u = false) →
          threadAt s' u.launch u.thread = some u) := by
  have hmem := (mem_of_threadAt ht).1
  have hn1 : ((putThread s (arrived k t)).threads.map rowKey).Nodup := by rw [putThread_keys]; exact hn
  have hr1 := noneRetired_arrived hmem k hr
  exact ⟨_, barrierArrival_releases ht hp hready, (releaseBarriers_releasing hn1 hr1).mem,
    fun u hu => releaseBarriers_reaches hn1 hr1 (toldAtOnce_arrived k htold) hu⟩

end Sys2Proof.Machine
end

section
/-! PROOFS. The exit of a thread (09 R198): counted in its launch, seen by the barriers, and its unit leaves with its last thread. -/

namespace Sys2Proof.Machine

open Sys2Proof (Byte Word DWord Instr)

set_option Elab.async false

/-! ### What the event of a barrier leaves, wherever its record resumes -/

/-- One row has been replaced by another of its thread and gang; launches and gangs stand. -/
structure RowReplaced (s s' : State) (u v : Thread) : Prop where
  key : rowKey v = rowKey u
  gang : v.gang = u.gang
  threads : s'.threads = (putThread s v).threads
  launches : s'.launches = s.launches
  gangs : s'.gangs = s.gangs

theorem rowReplaced_put {s : State} {u v : Thread} (hk : rowKey v = rowKey u) (hg : v.gang = u.gang) :
    RowReplaced s (putThread s v) u v := ⟨hk, hg, rfl, rfl, rfl⟩

theorem rowReplaced_fault {s : State} {u v : Thread} (tag l n : Nat) (w : DWord) (hk : rowKey v = rowKey u) (hg : v.gang = u.gang) :
    RowReplaced s (contextFault (putThread s v) tag l n w) u v := ⟨hk, hg, rfl, rfl, rfl⟩

theorem binRecord_replaces (s : State) (u : Thread) : ∃ v, RowReplaced s (binRecord s u) u v := by
  unfold binRecord
  dsimp only
  split
  · split
    · exact ⟨_, rowReplaced_fault _ _ _ _ rfl rfl⟩
    · exact ⟨_, rowReplaced_put rfl rfl⟩
  · split
    · exact ⟨_, rowReplaced_fault _ _ _ _ rfl rfl⟩
    · exact ⟨_, rowReplaced_put rfl rfl⟩

theorem eventCame_replaces (s : State) (u : Thread) : ∃ v, RowReplaced s (eventCame s u) u v := by
  unfold eventCame
  split
  · exact ⟨_, rowReplaced_put rfl rfl⟩
  · exact ⟨_, rowReplaced_put rfl rfl⟩
  · exact ⟨_, rowReplaced_put rfl rfl⟩
  · split
    · exact ⟨_, rowReplaced_put rfl rfl⟩
    · exact ⟨_, rowReplaced_put rfl rfl⟩
  · exact binRecord_replaces s u

/-! ### An exited thread, and the unit that leaves with it -/

/-- A thread has exited and has no `fwd.ack` to be acknowledged. -/
def Done (u : Thread) : Prop := u.place = .exited ∧ u.fwdAcks = []

/-- A state reached from `s` by releases: the row of the exited thread `x` stands, and where `last` holds all of its unit are done. -/
structure Exited (s : State) (x : Thread) (unit : Nat → Bool) (last : Prop) (y : State) : Prop where
  launches : y.launches = s.launches
  gangs : y.gangs = s.gangs
  row : threadAt y x.launch x.thread = some x
  alone : ∀ v ∈ y.threads, rowKey v = rowKey x → v = x
  done : last → ∀ v ∈ y.threads, v.launch = x.launch → unit v.gang = true → Done v

/-- Barriers release none of the exited threads. -/
theorem keptByRelease_exited {s : State} {x : Thread} {unit : Nat → Bool} {last : Prop} (hx : x.place = .exited) :
    KeptByRelease (Exited s x unit last)
      (fun u => rowKey u ≠ rowKey x ∧ (last → u.launch = x.launch → unit u.gang = true → False)) where
  caches y y' h hc := by
    unfold CachesAlone at hc
    rw [hc]
    exact ⟨h.launches, h.gangs, h.row, h.alone, h.done⟩
  member y k t u h _ hu := by
    unfold instanceMembers at hu
    rw [List.mem_filter, Bool.and_eq_true, Bool.and_eq_true, beq_iff_eq] at hu
    obtain ⟨hmem, ⟨-, hwait⟩, -⟩ := hu
    have hplace := place_of_awaits_barrier hwait
    exact ⟨fun hk => hplace (h.alone u hmem hk ▸ hx), fun hlast hl hg => hplace (h.done hlast u hmem hl hg).1⟩
  event y u h hq := by
    obtain ⟨v, hkey, hgang, hthreads, hlaunches, hgangs⟩ := eventCame_replaces y u
    have hne : rowKey v ≠ rowKey x := hkey ▸ hq.1
    have hlaunch : v.launch = u.launch := congrArg Prod.fst hkey
    refine ⟨hlaunches.trans h.launches, hgangs.trans h.gangs, ?_, fun w hw hk => ?_, fun hlast w hw hl hg => ?_⟩
    · unfold threadAt
      rw [hthreads]
      exact (threadAt_putThread_other hne.symm).trans h.row
    · rw [hthreads] at hw
      rcases mem_putThread hw with rfl | hw
      · exact absurd hk hne
      · exact h.alone w hw hk
    · rw [hthreads] at hw
      rcases mem_putThread hw with rfl | hw
      · exact (hq.2 hlast (hlaunch ▸ hl) (hgang ▸ hg)).elim
      · exact h.done hlast w hw hl hg

theorem exited_releaseBarriers {s : State} {x : Thread} {unit : Nat → Bool} {last : Prop} (hx : x.place = .exited)
    (h : Exited s x unit last s) : Exited s x unit last (releaseBarriers s) := by
  rw [releaseBarriers_turns]
  exact (keptByRelease_exited hx).turns _ _ h

/-- The threads that a put leaves in the rows of one name. -/
theorem eq_of_mem_putThread {s : State} {x v : Thread} (hv : v ∈ (putThread s x).threads) (hk : rowKey v = rowKey x) : v = x := by
  unfold putThread at hv
  obtain ⟨w, -, rfl⟩ := List.mem_map.mp hv
  by_cases hw : isThread x.launch x.thread w = true
  · rw [if_pos hw]
  · rw [if_neg hw] at hk
    exact absurd ((isThread_key _ _ _).mpr hk) hw

/-! ### Launches and gangs -/

theorem launchAt_mapLaunch {s : State} {l : Nat} {f : Launch → Launch} (hf : ∀ x, (f x).handle = x.handle) :
    launchAt (mapLaunch s l f) l = (launchAt s l).map f := by
  unfold launchAt mapLaunch
  have hp : ((fun x : Launch => decide (x.handle = l)) ∘ fun x => if x.handle = l then f x else x) = fun x => decide (x.handle = l) := by
    funext x
    by_cases hx : x.handle = l
    · rw [Function.comp_apply, if_pos hx, hf]
    · rw [Function.comp_apply, if_neg hx]
  dsimp only
  rw [List.find?_map, hp]
  cases h : s.launches.find? fun x => decide (x.handle = l) with
  | none => rfl
  | some x => rw [Option.map_some, Option.map_some, if_pos (by simpa using List.find?_some h)]

theorem launchOf_mapLaunch {s : State} {l : Nat} {f : Launch → Launch} (hf : ∀ x, (f x).handle = x.handle)
    (hl : (launchAt s l).isSome = true) : launchOf (mapLaunch s l f) l = f (launchOf s l) := by
  obtain ⟨x, hx⟩ := Option.isSome_iff_exists.mp hl
  unfold launchOf
  rw [launchAt_mapLaunch hf, hx]
  rfl

theorem zeroLocals_mem (l : Nat) : ∀ (gs : List Gang) (s : State),
    gs.foldl (fun x g => zeroLocal l g.gang x) s = { s with mem := (gs.foldl (fun x g => zeroLocal l g.gang x) s).mem } := by
  intro gs
  induction gs with
  | nil => exact fun s => rfl
  | cons g gs ih => intro s; rw [List.foldl_cons, ih]; rfl

/-- A unit that leaves takes no thread and no launch with it, and its gangs are gone. -/
theorem releaseGangs_frame (s : State) (l : Nat) (unit : Nat → Bool) :
    (releaseGangs s l unit).threads = s.threads ∧ (releaseGangs s l unit).launches = s.launches
      ∧ (releaseGangs s l unit).gangs = s.gangs.filter fun g => !(decide (g.launch = l) && !g.detached && unit g.gang) := by
  unfold releaseGangs
  dsimp only
  rw [zeroLocals_mem]
  exact ⟨rfl, rfl, rfl⟩

theorem releaseUnit_frame (s : State) (t : Thread) :
    (releaseUnit s t).threads = s.threads ∧ (releaseUnit s t).launches = s.launches := by
  unfold releaseUnit
  dsimp only
  split
  · exact ⟨(releaseGangs_frame _ _ _).1, (releaseGangs_frame _ _ _).2.1⟩
  · exact ⟨rfl, rfl⟩

/-- With its last thread done a unit's gangs are gone. -/
theorem releaseUnit_done {s : State} {t : Thread}
    (h : ∀ v ∈ s.threads, v.launch = t.launch → sameUnitGang (launchOf s t.launch) t.gang v.gang = true → Done v) :
    ∀ g ∈ (releaseUnit s t).gangs, g.launch = t.launch → g.detached = false →
      sameUnitGang (launchOf s t.launch) t.gang g.gang = false := by
  have hall : (s.threads.all fun u => !(decide (u.launch = t.launch) && sameUnitGang (launchOf s t.launch) t.gang u.gang)
      || (u.place == .exited && u.fwdAcks.isEmpty)) = true := by
    rw [List.all_eq_true]
    intro u hu
    by_cases hl : u.launch = t.launch ∧ sameUnitGang (launchOf s t.launch) t.gang u.gang = true
    · obtain ⟨hp, hf⟩ := h u hu hl.1 hl.2
      rw [hp, hf, Bool.or_eq_true]
      exact .inr rfl
    · rw [Bool.or_eq_true, Bool.not_eq_true', Bool.and_eq_false_iff, decide_eq_false_iff_not, ← Bool.not_eq_true]
      exact .inl (not_and_or.mp hl)
  intro g hg hl hd
  unfold releaseUnit at hg
  dsimp only at hg
  rw [if_pos hall, (releaseGangs_frame _ _ _).2.2, List.mem_filter, decide_eq_true hl, hd] at hg
  simpa using hg.2

/-! ### The exit -/

theorem threadExit_counts {s s1 : State} {t : Thread} (ht : threadAt s t.launch t.thread = some t) (hp : t.place = .exiting)
    (hready : exitReady t = true)
    (h0 : t.handle0 = 0) (h1 : t.handle1 = 0) (hr : holdsRange s t.launch t.thread = false) (hrel : releaseReady s t = true)
    (htell : tell s t.efftag [dieOfCore t.core] [(launchOf s t.launch).fdie] = some s1) :
    exec (.threadExit t.launch t.thread) s = .next (countExit s1 t) := by
  change execThreadExit t.launch t.thread s = _
  unfold execThreadExit
  rw [ht]
  dsimp only
  rw [if_neg (by rw [hp, hready]; simp), if_neg (by rw [h0, h1]; simp), hr, hrel, if_neg (by simp), htell]

/-- A thread that has exited. -/
def exitedRow (t : Thread) : Thread := { t with place := .exited }

/-- The exit counted, before barriers and gangs see it. -/
def exitCounted (s : State) (t : Thread) : State :=
  mapLaunch (putThread s (exitedRow t)) t.launch fun l => { l with exitedCount := l.exitedCount + 1 }

/-- All threads of the exiting thread's unit but itself have exited, and nothing is left to be acknowledged. -/
def LastOfUnit (s : State) (t : Thread) (unit : Nat → Bool) : Prop :=
  ∀ u ∈ s.threads, u.launch = t.launch → unit u.gang = true → (u.place = .exited ∨ u.thread = t.thread) ∧ u.fwdAcks = []

theorem countExit_eq (s : State) (t : Thread) :
    countExit s t = dropDetached (releaseUnit (releaseBarriers (exitCounted s t)) t) := rfl

section
variable {s s1 : State} {t : Thread} (ht : threadAt s t.launch t.thread = some t) (hs : CachesAlone s s1)
include ht hs

omit ht in
theorem launchOf_exitCounted (hl : (launchAt s t.launch).isSome = true) :
    launchOf (exitCounted s1 t) t.launch
      = { launchOf s t.launch with exitedCount := (launchOf s t.launch).exitedCount + 1 } := by
  have hlaunches : (putThread s1 (exitedRow t)).launches = s.launches := hs.tables.launches
  unfold exitCounted
  rw [launchOf_mapLaunch (f := fun l => { l with exitedCount := l.exitedCount + 1 }) (fun _ => rfl)
    (by unfold launchAt at hl ⊢; rw [hlaunches]; exact hl), launchOf_congr hlaunches]

theorem exited_exitCounted (unit : Nat → Bool) (hf : t.fwdAcks = []) :
    Exited (exitCounted s1 t) (exitedRow t) unit (LastOfUnit s t unit) (exitCounted s1 t) := by
  have hthreads : (exitCounted s1 t).threads = (putThread s1 (exitedRow t)).threads := rfl
  refine ⟨rfl, rfl, (hs.tables.put (u := exitedRow t) ht rfl).1, fun v hv hk => eq_of_mem_putThread (hthreads ▸ hv) hk,
    fun hlast v hv hl hg => ?_⟩
  rw [hthreads] at hv
  by_cases hk : rowKey v = rowKey (exitedRow t)
  · rw [eq_of_mem_putThread hv hk]
    exact ⟨rfl, hf⟩
  · rcases mem_putThread hv with rfl | hv
    · exact absurd rfl hk
    · obtain ⟨hplace, hacks⟩ := hlast v (hs.tables.threads ▸ hv) hl hg
      exact ⟨hplace.resolve_right fun hn => hk (Prod.ext hl hn), hacks⟩

/-- The exit is counted, the thread has exited, and with its last thread its unit's gangs are gone. -/
theorem countExit_leaves (hf : t.fwdAcks = []) (hl : (launchAt s t.launch).isSome = true) :
    threadAt (countExit s1 t) t.launch t.thread = some { t with place := .exited }
    ∧ (launchOf (countExit s1 t) t.launch).exitedCount = (launchOf s t.launch).exitedCount + 1
    ∧ (LastOfUnit s t (sameUnitGang (launchOf s t.launch) t.gang) → ∀ g ∈ (countExit s1 t).gangs, g.launch = t.launch →
        g.detached = false → sameUnitGang (launchOf s t.launch) t.gang g.gang = false) := by
  have hlaunch := launchOf_exitCounted hs hl
  obtain ⟨hlaunches, -, hrow, -, hdone⟩ := exited_releaseBarriers (x := exitedRow t) rfl
    (exited_exitCounted ht hs (sameUnitGang (launchOf s t.launch) t.gang) hf)
  obtain ⟨hunitThreads, hunitLaunches⟩ := releaseUnit_frame (releaseBarriers (exitCounted s1 t)) t
  have hreleased : launchOf (releaseBarriers (exitCounted s1 t)) t.launch
      = { launchOf s t.launch with exitedCount := (launchOf s t.launch).exitedCount + 1 } :=
    (launchOf_congr hlaunches _).trans hlaunch
  rw [countExit_eq]
  refine ⟨?_, ?_, fun hlast g hg hgl hgd => ?_⟩
  · unfold threadAt dropDetached
    dsimp only
    rw [hunitThreads]
    exact hrow
  · rw [show launchOf (dropDetached (releaseUnit (releaseBarriers (exitCounted s1 t)) t)) t.launch
      = launchOf (releaseBarriers (exitCounted s1 t)) t.launch from launchOf_congr hunitLaunches _, hreleased]
  · have hg' : g ∈ (releaseUnit (releaseBarriers (exitCounted s1 t)) t).gangs := List.mem_of_mem_filter hg
    have hunit := releaseUnit_done (s := releaseBarriers (exitCounted s1 t)) (t := t)
      (by rw [hreleased]; exact hdone hlast) g hg' hgl hgd
    rw [hreleased] at hunit
    exact hunit

end

theorem fwdAcks_of_exitReady {t : Thread} (h : exitReady t = true) : t.fwdAcks = [] := by
  unfold exitReady at h
  rw [Bool.and_eq_true] at h
  exact List.isEmpty_iff.mp h.2

end Sys2Proof.Machine

open Sys2Proof Sys2Proof.Machine

/-- Settles O45: one lemma for each event, over what each leaves of tables, caches and messages; the rows at a barrier through what every
release keeps. -/
theorem threadEvents : Obligations.ThreadEvents := by
  intro s l n t ht
  obtain ⟨hl, hn⟩ : t.launch = l ∧ t.thread = n := by simpa [rowKey] using (mem_of_threadAt ht).2
  subst hl hn
  refine ⟨fun p ps s1 hloads hnone h => loadDataReturn_writes ht hloads hnone h, fun p h => loadArrives_held h,
    fun p hloads hnone hk ha => loadDataReturn_acknowledges ht hloads hnone hk ha, fun r hw hb => ⟨?_, ?_, ?_⟩,
    fun r x s1 hw hb ha => ⟨loadDataReturn_answers ht hw hb ha, ?_, ?_⟩, oneWordLanes_rise s t, fun k => peerAck_lowers ht k,
    fun k o s1 ho hm => ?_, fun ho => ⟨releaseAck_home ht (ho _), releaseAck_home ht (ho _), releaseAck_home ht (ho _)⟩,
    fun s1 hw hd => icinvComplete_ends ht hw hd, fun hw hd => icinvComplete_waits ht hw hd,
    fun tag va k hw ho => tlbinvComplete_ends ht hw ho, fun p hp hm hf => poolSlotFreed_settles ht hp hm hf,
    fun d hp hd hgood hbound hgoing => ?_, fun e rest he hholds hwhole hgood hbound hgoing hready => ?_,
    fun k hp hready hkeys hnone htold => barrierArrival_frees ht hp hready hkeys hnone htold, ?_⟩
  case refine_1 =>
    exact fun p hp hf hm => ⟨_, loadDataReturn_sends ht hw hb, sendRemote_peer ht hp hf hm⟩
  case refine_2 =>
    exact fun s1 hp hh hm => ⟨_, loadDataReturn_sends ht hw hb, sendRemote_host ht hp hh hm⟩
  case refine_3 =>
    exact fun hp hh => loadDataReturn_local ht hw hb hp hh
  case refine_4 =>
    exact fun va m wide back cmp v hk hp => remoteArrives_atomic ht hw ha hk hp
  case refine_5 =>
    exact fun hk hx => remoteArrives_plain ht hw ha hk hx
  case refine_6 =>
    have h := releaseAck_owed ht ho hm
    cases k <;> exact h
  case refine_7 =>
    have hgoes : DeferredGoes s t d := ⟨hp, hd, hgood, hbound, hgoing⟩
    exact ⟨fun s1 ha h1 => ldcLoad_loads ht hgoes ha h1, fun ha => ⟨fun hpeer hf => ldcLoad_asksPeer ht hgoes ha hpeer hf,
      fun s1 hpeer hm => ldcLoad_asksHost ht hgoes ha hpeer hm⟩⟩
  case refine_8 =>
    have hgoes : DrainGoes s t e rest := ⟨ht, he, hholds, hwhole, hgood, hbound, hgoing, hready⟩
    exact ⟨drain_peer hgoes, drain_home hgoes, fun hp hh => ⟨drain_hostAcknowledged hgoes hp hh,
      fun s1 hs hm => drain_hostWrite hgoes hp hh hs hm⟩, drain_otherDie hgoes⟩
  case refine_9 =>
    intro s1 hp hready h0 h1 hr hrel hl htell
    exact ⟨_, threadExit_counts ht hp hready h0 h1 hr hrel htell,
      countExit_leaves ht (cachesAlone_felt (tell_felt htell)) (fwdAcks_of_exitReady hready) hl⟩
end

section
/-! PROOFS. Tile-store handles (10 R202 to R204, R221): what `mtile.alloc` and `mtile.free` leave when a lane's turn comes. -/

namespace Sys2Proof.Machine

open Sys2Proof (Byte Word DWord Instr)

set_option Elab.async false

/-! ### What tile words leave of the run -/

theorem kept_setSlot (t : Thread) (slot : Nat) (v : Word) : Kept t (setSlot t slot v) := by
  unfold setSlot; split <;> exact ⟨rfl, rfl, rfl, rfl, rfl, rfl, rfl⟩

theorem stays_put32 (iss : Issue) (d : BitVec 7) (v : Word) (t : Thread) : Stays t (put32 iss d v t) := by
  unfold put32; split <;> exact ⟨rfl, rfl, rfl, rfl⟩

theorem runStands_mapRange (s : State) (id : Nat) (f : TileRange → TileRange) : RunStands s (mapRange s id f) := ⟨rfl, rfl⟩

theorem row_mem_putThread {s : State} {t u : Thread} (ht : t ∈ s.threads) (hk : rowKey u = rowKey t) : u ∈ (putThread s u).threads :=
  List.mem_map.mpr ⟨t, ht, if_pos ((isThread_key _ _ t).mpr hk.symm)⟩

/-! ### Allocation (R203) -/

/-- The tile counts that `mtile.alloc` grants. -/
def TileCount (n : Nat) : Prop := n = 1 ∨ n = 2 ∨ n = 4 ∨ n = 8 ∨ n = 16

/-- What `mtile.alloc` refuses before it looks for tiles. -/
theorem refusesAlloc_iff (n : Nat) (w : Thread) :
    (!([1, 2, 4, 8, 16].contains n) || (decide (w.handle0 ≠ 0) && decide (w.handle1 ≠ 0))) = true
      ↔ ¬ TileCount n ∨ (w.handle0 ≠ 0 ∧ w.handle1 ≠ 0) := by
  simp [TileCount]

/-- The range granted to a thread of the lowest free tiles. -/
def grantedRange (s : State) (t : Thread) (n base engine : Nat) : TileRange :=
  { id := s.nextOp, core := t.core, engine := engine, base := base, count := n, gen := nextGen (coreOf s t.core).gen,
    launch := t.launch, thread := t.thread, slot := if t.handle0 = 0 then 0 else 1 }

/-- The state with a range granted: the core's generation, the ranges and the numbers given change. -/
def granting (s : State) (x : TileRange) : State :=
  { mapCore s x.core (fun k => { k with gen := x.gen }) with tileRanges := s.tileRanges ++ [x], nextOp := s.nextOp + 1 }

theorem runStands_granting (s : State) (x : TileRange) : RunStands s (granting s x) :=
  have ⟨hissue, hthreads⟩ := runStands_mapCore s x.core fun k => { k with gen := x.gen }
  ⟨hissue, hthreads⟩

section
variable {s : State} {iss : Issue} {t w : Thread} {d a : BitVec 7} {n : Word} (hr : src32 s iss t a = .ok (n, w))
include hr

/-- A bad count, full slots, or no free range: the lane gets 0, and nothing else changes. -/
theorem laneAlloc_refused
    (h : ¬ TileCount n.toNat ∨ (w.handle0 ≠ 0 ∧ w.handle1 ≠ 0) ∨ findTiles s w.core n.toNat = none) :
    laneAlloc d a s iss t = .ok (putThread s (put32 iss d 0 w)) := by
  unfold laneAlloc
  rw [hr]
  dsimp only
  split
  · rfl
  · rename_i hgoes
    have hfind : findTiles s w.core n.toNat = none :=
      (or_assoc.mpr h).resolve_left fun hno => hgoes ((refusesAlloc_iff _ _).mpr hno)
    unfold grantTiles
    rw [hfind]

/-- A good count, an empty slot and a free range: the lane gets the handle of the range granted. -/
theorem laneAlloc_granted {base engine : Nat} (hcount : TileCount n.toNat) (hslot : w.handle0 = 0 ∨ w.handle1 = 0)
    (hfind : findTiles s w.core n.toNat = some (base, engine)) :
    let x := grantedRange s w n.toNat base engine
    laneAlloc d a s iss t
      = .ok (putThread (granting s x) (setSlot (put32 iss d (handleValue x) w) x.slot (handleValue x))) := by
  have hfull : ¬ (w.handle0 ≠ 0 ∧ w.handle1 ≠ 0) := fun ⟨h0, h1⟩ => hslot.elim h0 h1
  unfold laneAlloc
  rw [hr]
  dsimp only
  rw [if_neg (mt (refusesAlloc_iff _ _).mp (not_or.mpr ⟨not_not.mpr hcount, hfull⟩))]
  unfold grantTiles
  rw [hfind]
  rfl

end

/-! ### Freeing (R204) -/

/-- A handle operand names a slot that is not empty. -/
theorem slotValue_of_resolve {t : Thread} {h : Word} {k : Nat} (hk : resolve t h = .ok k) : slotValue t k ≠ 0 := by
  have hnamed : ∀ {v : Word}, namesSlot v h = true → v ≠ 0 := fun hv => by
    unfold namesSlot at hv
    simp only [Bool.and_eq_true, decide_eq_true_eq] at hv
    obtain ⟨⟨hne, -⟩, -⟩ := hv
    exact hne
  unfold resolve at hk
  split at hk
  · split at hk
    · cases hk
    · cases hk; assumption
  · split at hk
    · cases hk; exact hnamed ‹_›
    · split at hk
      · cases hk; exact hnamed ‹_›
      · cases hk

theorem laneTileFree_frees {s : State} {iss : Issue} {t w : Thread} {a : BitVec 7} {h : Word} {k : Nat}
    (hr : src32 s iss t a = .ok (h, w)) (hk : resolve w h = .ok k) :
    laneTileFree a s iss t = .ok (mapRange (putThread (putThread s w) (setSlot w k 0)) (slotRangeId s w k)
      fun x => { x with freeing := true }) := by
  unfold laneTileFree
  rw [hr]
  dsimp only
  rw [hk]
  dsimp only [freeSlot]
  rw [if_neg (slotValue_of_resolve hk)]
  rfl

end Sys2Proof.Machine

open Sys2Proof Sys2Proof.Machine

/-- Settles O28: an allocation's turn is `laneAlloc_refused` or `laneAlloc_granted`, a freeing's `laneTileFree_frees`; `mprog` changes
each lane by itself. -/
theorem tileHandles : Obligations.TileHandles := by
  intro c g d a s iss hs alloc
  have halloc : ∀ {u t u'}, alloc u t u' → laneAlloc d a u iss t = .ok u'
      ∧ ∃ u1 w v z, RunStands u u1 ∧ Kept t w ∧ Kept (put32 iss d v w) z ∧ u' = putThread u1 z := by
    rintro u t u' ⟨n, w, hr, ⟨hno, rfl⟩ | ⟨hcount, hslot, base, engine, hfind, rfl⟩⟩
    · exact ⟨laneAlloc_refused hr hno, u, w, 0, _, RunStands.refl u, kept_src32 hr, Kept.refl _, rfl⟩
    · exact ⟨laneAlloc_granted hr hcount hslot hfind,
        _, w, _, _, runStands_granting u (grantedRange u w n.toNat base engine), kept_src32 hr, kept_setSlot _ _ _, rfl⟩
  refine ⟨fun hd => ?does, ?leads, ?free, fun h r k hr hk => ?mprog⟩
  case does =>
    refine doesInTurn_of_lane hs (going_alone hs) rfl (body := foldLanes g (laneAlloc d a)) rfl (fun u t u' hu ht _ hturn => ?_)
      fun u hu => hu
    obtain ⟨hlane, u1, w, v, z, hstands, hread, hset, rfl⟩ := halloc hturn
    exact ⟨hlane, hu.put ht hstands ((hread.trans (kept_put32 iss d v w hd)).trans hset)⟩
  case leads =>
    refine leadsInTurn_of_lane hs (going_alone hs) rfl (body := foldLanes g (laneAlloc d a)) rfl fun u t u' hu ht _ hturn => ?_
    obtain ⟨hlane, u1, w, v, z, hstands, hread, hset, rfl⟩ := halloc hturn
    exact ⟨hlane, hu.put ht hstands ((hread.stays.trans (stays_put32 iss d v w)).trans hset.stays)⟩
  case free =>
    refine doesInTurn_of_lane hs (going_alone hs) rfl (body := foldLanes g (laneTileFree a)) rfl (fun u t u' hu ht _ hturn => ?_)
      fun u hu => hu
    obtain ⟨h, w, k, hr, hk, rfl⟩ := hturn
    have hread : Going (putThread u w) iss := hu.put ht (RunStands.refl u) (kept_src32 hr)
    have hrow : w ∈ (putThread u w).threads := row_mem_putThread ht (kept_src32 hr).key
    exact ⟨laneTileFree_frees hr hk,
      (hread.put hrow (RunStands.refl _) (kept_setSlot w k 0)).stands (runStands_mapRange _ _ _)⟩
  case mprog =>
    have hlane : ∀ t ∈ s.threads, isActive iss g t = true →
        laneMprog d a s iss t = .ok (put32 iss d (progress s (r t) (k t)) (r t)) := fun t ht ha => by
      unfold laneMprog
      rw [hr t ht ha]
      dsimp only
      rw [hk t ht ha]
    exact ⟨fun hd => does_of_lane hs rfl hlane fun t ht ha => (kept_src32 (hr t ht ha)).trans (kept_put32 _ _ _ _ hd),
      leads_of_lane hs rfl hlane⟩
end

section
/-! PROOFS. Tasks, tile moves and markers (10 R207 to R211, R215, R222): the operation of the elected lane, entered. -/

namespace Sys2Proof.Machine

open Sys2Proof (Byte Word DWord Instr)

set_option Elab.async false

/-! ### The operation entered -/

/-- An operation entered leaves the run going. -/
theorem going_enterOp {s : State} {iss : Issue} {t w : Thread} (h : Going s iss) (ht : t ∈ s.threads) (k : Kept t w) (o : TileOp) :
    Going (enterOp s w o) iss := by
  refine h.put ht ⟨rfl, rfl⟩ (k.trans ?_)
  split
  · exact Kept.refl w
  · exact ⟨rfl, rfl, rfl, rfl, rfl, rfl, rfl⟩

section
variable {s : State} {iss : Issue} {t w : Thread} {a : BitVec 7} {v : Word} {n : Nat} {o : TileOp}
  (hr : src32 s iss t a = .ok (v, w))
include hr

theorem laneTask_enters {sparse : Bool} (ho : checkTask sparse v n s w = .ok o) (hroom : heldOps s w.core < 128) :
    laneTask sparse a n s iss t = .ok (enterOp s w o) := by
  unfold laneTask
  rw [hr]
  dsimp only
  rw [ho]
  exact if_neg (Nat.not_le.mpr hroom)

theorem laneMove_enters {k : TileKind} (ho : checkMove k v n s w = .ok o) (hroom : heldOps s w.core < 128) :
    laneMove k a n s iss t = .ok (enterOp s w o) := by
  unfold laneMove
  rw [hr]
  dsimp only
  rw [ho]
  exact if_neg (Nat.not_le.mpr hroom)

theorem laneMfence_enters {k : Nat} (hk : resolve w v = .ok k) :
    laneMfence a s iss t = .ok (enterOp s w (bareOp .fence (slotRangeId s w k))) := by
  unfold laneMfence
  rw [hr]
  dsimp only
  rw [hk]

end

/-! ### Words that act once, for the elected lane (R207) -/

theorem exec_enters {i : Instr} {s : State} {iss : Issue} {g : BitVec 2} {f : State → Issue → Thread → Except LaneEnd State}
    {t w : Thread} {a : BitVec 7} {v : Word} {o : TileOp} (hs : Alone s iss) (he : electedLane s iss g = some t)
    (hr : src32 s iss t a = .ok (v, w)) (hi : exec i s = electWord g f s) (hf : f s iss t = .ok (enterOp s w o)) :
    exec i s = .next (closed iss (enterOp s w o)) := by
  rw [hi, electWord, electWord_closed hs he hf (going_enterOp (going_alone hs) (mem_of_elected he) (kept_src32 hr) o)]

/-! ### The format words of a task -/

/-- The elected lane's format word is the first of those compared, and none differs from it. -/
theorem formats_agree {s : State} {iss : Issue} {g : BitVec 2} {a : BitVec 7} {t w : Thread} {v : Word}
    (he : electedLane s iss g = some t) (hr : src32 s iss t a = .ok (v, w)) (hall : ∀ y ∈ laneValues g a s iss, y.2 = v) :
    ∃ fs, formats g a s iss = v :: fs ∧ ∀ x ∈ fs, x = v := by
  have hsame : ∀ x ∈ formats g a s iss, x = v := fun x hx => by
    obtain ⟨y, hy, rfl⟩ := List.mem_map.mp hx
    exact hall y hy
  have helected : v ∈ formats g a s iss :=
    List.mem_map.mpr ⟨(laneNo iss t, v), List.mem_filterMap.mpr ⟨t, List.mem_of_mem_head? he, by rw [hr]⟩, rfl⟩
  cases hf : formats g a s iss with
  | nil => rw [hf] at helected; cases helected
  | cons f fs =>
    rw [hf] at hsame
    obtain rfl := hsame f List.mem_cons_self
    exact ⟨fs, rfl, fun x hx => hsame x (List.mem_cons_of_mem _ hx)⟩

/-- Where all lanes have read one valid format word, the elected lane's task decides. -/
theorem taskBody_elects {sparse : Bool} {s : State} {iss : Issue} {g : BitVec 2} {a : BitVec 7} {n : Nat} {x : Thread → Word}
    {r : Thread → Thread} {v : Word} {fs : List Word} (hs : Alone s iss) (hr : Reads1 s iss g a x r)
    (hf : formats g a (act iss g r s) iss = v :: fs) (hsame : ∀ y ∈ fs, y = v) (hok : formatOk v = true) :
    taskBody sparse g a n s = electLane g (laneTask sparse a n) (act iss g r s) := by
  have hagree : (fs.any fun y => y != v) = false := List.any_eq_false.mpr fun y hy => by simp [hsame y hy]
  unfold taskBody
  rw [hs.issue]
  dsimp only
  rw [mapLanes_act hs (h := r) fun t ht ha => readOperand_ok (hr t ht ha), hf]
  dsimp only
  rw [hagree, hok]
  rfl

end Sys2Proof.Machine

open Sys2Proof Sys2Proof.Machine

/-- Settles O29: a task's format words agree by `formats_agree`, so that its elected lane's operation is entered; a move's and a
marker's is by `exec_enters`. -/
theorem tileOperations : Obligations.TileOperations := by
  intro c g a m n s iss hs
  refine ⟨fun x r t w v hr => ?tasks, fun t w v he hread => ?others⟩
  case tasks =>
    intro s1 he hread task
    have hgoing : Going s1 iss := going_act hs (fun t ht ha => (kept_src32 (hr t ht ha)).key)
      fun t ht ha => goesOn_kept (hs.idle t ht (isActive_group ha)) (kept_src32 (hr t ht ha))
    have htask : ∀ sparse i, exec i s = .next (wordRun (taskBody sparse g a (16 * m.toNat)) s) → task sparse i := by
      intro sparse i hi o hall hok hcheck hroom
      obtain ⟨fs, hformats, hsame⟩ := formats_agree he hread hall
      have hbody : taskBody sparse g a (16 * m.toNat) s = enterOp s1 w o :=
        (taskBody_elects hs hr hformats hsame hok).trans
          (electLane_ok hs.away hgoing he (laneTask_enters hread hcheck hroom))
      rw [hi, wordRun_going hs (by rw [hbody]; exact going_enterOp hgoing (mem_of_elected he) (kept_src32 hread) o), hbody]
    exact ⟨htask false _ rfl, htask true _ rfl⟩
  case others =>
    intro move
    have hmove : ∀ k i, exec i s = electWord g (laneMove k a (8 * n.toNat)) s → move k i :=
      fun k i hi o hcheck hroom => exec_enters hs he hread hi (laneMove_enters hread hcheck hroom)
    exact ⟨hmove .load _ rfl, hmove .store _ rfl, hmove .zero _ rfl, hmove .convert _ rfl,
      fun k hk => exec_enters hs he hread rfl (laneMfence_enters hread hk)⟩
end

section
/-! PROOFS. Batches (11 R237, R239): the open batch sealed, and the pending bytes of a batch. -/

namespace Sys2Proof.Machine

open Sys2Proof (Byte Word DWord Instr)

set_option Elab.async false

theorem kept_sealBatch (t : Thread) : Kept t (sealBatch t) := ⟨rfl, rfl, rfl, rfl, rfl, rfl, rfl⟩

/-- With room for one more sealed batch no lane waits. -/
theorem laneSeal_seals {t : Thread} (h : unfinished t + 1 < 32768) (d : BitVec 7) (s : State) (iss : Issue) :
    laneSeal d s iss t = .ok (put32 iss d ((t.bsealed + 1).setWidth 32) (sealBatch t)) :=
  if_neg (Nat.not_le.mpr h)

section
variable {s : State} {iss : Issue} {t u : Thread} {d a : BitVec 7} {v : Word} (hr : src32 s iss t a = .ok (v, u))
include hr

/-- Bit 16 names the open batch. -/
theorem laneBatchBytes_open (hv : v.getLsbD 16 = true) :
    laneBatchBytes d a s iss t = .ok (put64 d (BitVec.ofNat 64 (u.openBatch.bytes % 2 ^ 48)) u) := by
  unfold laneBatchBytes
  rw [hr]
  exact if_pos hv

/-- A number between the oldest unreported batch and the last sealed one names a sealed batch. -/
theorem laneBatchBytes_sealed (hv : v.getLsbD 16 = false)
    (hb : (v.setWidth 16 - u.boldest).toNat < (u.bsealed + 1 - u.boldest).toNat) :
    laneBatchBytes d a s iss t = .ok (put64 d (BitVec.ofNat 64
      (((u.batches.find? fun x => decide (x.num = (v.setWidth 16).toNat)).map Batch.bytes).getD 0 % 2 ^ 48)) u) := by
  unfold laneBatchBytes
  rw [hr]
  dsimp only
  rw [if_neg (Bool.eq_false_iff.mp hv), if_pos hb]

/-- A number of the 2^15 up to the last sealed batch that names none of those is a reported batch's. -/
theorem laneBatchBytes_reported (hv : v.getLsbD 16 = false)
    (hb : (u.bsealed + 1 - u.boldest).toNat ≤ (v.setWidth 16 - u.boldest).toNat) (hn : (u.bsealed - v.setWidth 16).toNat < 2 ^ 15) :
    laneBatchBytes d a s iss t = .ok (put64 d (BitVec.ofNat 64 (2 ^ 48)) u) := by
  unfold laneBatchBytes
  rw [hr]
  dsimp only
  rw [if_neg (Bool.eq_false_iff.mp hv), if_neg (Nat.not_lt.mpr hb), if_pos hn]

end

end Sys2Proof.Machine

open Sys2Proof Sys2Proof.Machine

/-- Settles O31: each lane's seal is `laneSeal_seals`, and its pending bytes are given by the batch that its operand names. -/
theorem batches : Obligations.Batches := by
  intro c g d a s iss hs
  refine ⟨fun hroom => ?sealed, fun v r n hr hn => ?bytes⟩
  case sealed =>
    have hlane : ∀ t ∈ s.threads, isActive iss g t = true →
        laneSeal d s iss t = .ok (put32 iss d ((t.bsealed + 1).setWidth 32) (sealBatch t)) :=
      fun t ht ha => laneSeal_seals (hroom t ht ha) d s iss
    exact ⟨fun hd => does_of_lane hs rfl hlane fun t _ _ => (kept_sealBatch t).trans (kept_put32 _ _ _ _ hd),
      leads_of_lane hs rfl hlane⟩
  case bytes =>
    have hlane : ∀ t ∈ s.threads, isActive iss g t = true →
        laneBatchBytes d a s iss t = .ok (put64 d (BitVec.ofNat 64 (n t)) (r t)) := by
      intro t ht ha
      rcases hn t ht ha with ⟨hopen, hbytes⟩ | ⟨hsealed, hunreported, hbytes⟩ | ⟨hsealed, hreported, hnear, hbytes⟩
      · rw [hbytes]; exact laneBatchBytes_open (hr t ht ha) hopen
      · rw [hbytes]; exact laneBatchBytes_sealed (hr t ht ha) hsealed hunreported
      · rw [hbytes]; exact laneBatchBytes_reported (hr t ht ha) hsealed hreported hnear
    exact does_of_lane hs rfl hlane fun t ht ha => (kept_src32 (hr t ht ha)).trans (kept_put64 _ _ _)
end

section
/-! PROOFS. Copies at issue (11 R226 to R235): a copy whose checks pass and that finds a slot is entered. -/

namespace Sys2Proof.Machine

open Sys2Proof (Byte Word DWord Instr)

set_option Elab.async false

/-- A copy entered leaves the run going. -/
theorem going_copyEntered {s : State} {iss : Issue} {t : Thread} (h : Going s iss) (ht : t ∈ s.threads) (c : Copy)
    (rs : List (AccessClass × DWord × Nat)) : Going (copyEntered s t c rs) iss :=
  h.put ht ⟨rfl, rfl⟩ ⟨rfl, rfl, rfl, rfl, rfl, rfl, rfl⟩

/-- With a slot free on its core a checked copy is entered. -/
theorem issueCopy_enters {s : State} {t : Thread} (h : slotsUsed s t.core < 64) (c : Copy) (rs : List (AccessClass × DWord × Nat)) :
    issueCopy s t c rs = .ok (copyEntered s t c rs) :=
  if_neg (Nat.not_le.mpr h)

/-- A word each of whose lanes in turn enters a copy. -/
theorem copies_inTurn {i : Instr} {s : State} {iss : Issue} {g : BitVec 2} {f : State → Issue → Thread → Except LaneEnd State}
    {r : State → Thread → State → Prop} (hs : Alone s iss) (hi : exec i s = foldWord g f s)
    (hf : ∀ u t u', r u t u' → ∃ c rs, u' = copyEntered u t c rs ∧ f u iss t = .ok (copyEntered u t c rs)) :
    DoesInTurn i s iss g r s := by
  refine doesInTurn_of_lane hs (going_alone hs) hi (body := foldLanes g f) rfl (fun u t u' hu ht _ hturn => ?_) fun _ hu => hu
  obtain ⟨c, rs, rfl, hlane⟩ := hf u t u' hturn
  exact ⟨hlane, going_copyEntered hu ht c rs⟩

section
variable {s : State} {iss : Issue} {t : Thread} {n m : Nat} {l : Layout}

/-- The ranges of a `cp.t`: that of its box, where an element is in range, and its tile with a mask after it (R231). -/
def boxRanges (l : Layout) (t : Thread) (n m : Nat) : List (AccessClass × DWord × Nat) :=
  let ctl := (blockReg t (n + 6)).toNat
  ((boxRange l (blockPair t (n + 2)) (originOf t m l.rank)).toList.map fun x =>
      (if ctl = 1 then AccessClass.copyDest else .copySource, x))
    ++ [(if ctl = 1 then AccessClass.copySource else .copyDest, blockPair t (n + 4),
          tileBytes l + if ctl = 1 then 0 else 4 * ((layoutRows l + 31) / 32))]

/-- The copy that a `cp.t` makes. -/
def boxCopy (l : Layout) (t : Thread) (n m : Nat) : Copy :=
  { bareCopy .tensor with layout := l, src := blockPair t (n + 2), dst := blockPair t (n + 4),
                          toTensor := decide ((blockReg t (n + 6)).toNat = 1), origin := originOf t m l.rank, nominal := tileBytes l }

theorem laneCpT_enters (hl : readLayout s t (blockPair t n) boxBad = .ok l) (hctl : (blockReg t (n + 6)).toNat ≤ 1)
    (hzero : blockReg t (n + 7) = 0) (horigin : m + 2 * l.rank ≤ 64) (hranges : checkCopyRanges s t (boxRanges l t n m) = .ok ())
    (hbase : (blockPair t (n + 2)).toNat % l.es = 0) (htile : (blockPair t (n + 4)).toNat % 16 = 0) (hroom : slotsUsed s t.core < 64) :
    laneCpT n m s iss t = .ok (copyEntered s t (boxCopy l t n m) (boxRanges l t n m)) := by
  have hgood : (decide (1 < (blockReg t (n + 6)).toNat) || decide (blockReg t (n + 7) ≠ 0) || decide (64 < m + 2 * l.rank)) = false := by
    simp [hzero, hctl, horigin]
  unfold laneCpT
  rw [hl]
  dsimp only
  simp only [boxRanges] at hranges
  simp only [hgood, decide_eq_true_eq, maskBytes, hranges]
  rw [if_neg Bool.false_ne_true, if_neg (by simp [hbase, htile])]
  exact issueCopy_enters hroom _ _

/-- The ranges of a `cp.g` or `cp.s`: its index words, the whole tensor, and its tile, with a mask after a gathered one (R233). -/
def rowRanges (k : CopyKind) (l : Layout) (t : Thread) (n : Nat) (index : DWord) : List (AccessClass × DWord × Nat) :=
  let rows := (blockReg t (n + 6)).toNat + 1
  [(.copySource, index, 4 * rows), (if k = .gather then .copySource else .copyDest, wholeRange l (blockPair t (n + 2))),
   (if k = .gather then .copyDest else .copySource, blockPair t (n + 4),
     rows * (l.es * l.box.getD 0 1) + if k = .gather then 4 * ((rows + 31) / 32) else 0)]

/-- The copy that a `cp.g` or `cp.s` makes. -/
def rowCopy (k : CopyKind) (l : Layout) (t : Thread) (n : Nat) (index : DWord) : Copy :=
  let rows := (blockReg t (n + 6)).toNat + 1
  { bareCopy k with layout := l, src := blockPair t (n + 2), dst := blockPair t (n + 4), index := index, count := rows,
                    origin := [(blockReg t (n + 7)).toInt], nominal := rows * (l.es * l.box.getD 0 1) }

theorem laneCpRows_enters {k : CopyKind} {b : BitVec 7} (hl : readLayout s t (blockPair t n) (fun l => decide (l.rank ≠ 2)) = .ok l)
    (hctl : (blockReg t (n + 6)).toNat < 256) (hrow : ((blockReg t (n + 6)).toNat + 1) * (l.es * l.box.getD 0 1) % 4 = 0)
    (hranges : checkCopyRanges s t (rowRanges k l t n (src64 s iss t b)) = .ok ()) (hindex : (src64 s iss t b).toNat % 4 = 0)
    (hbase : (blockPair t (n + 2)).toNat % l.es = 0) (htile : (blockPair t (n + 4)).toNat % 16 = 0) (hroom : slotsUsed s t.core < 64) :
    laneCpRows k n b s iss t = .ok (copyEntered s t (rowCopy k l t n (src64 s iss t b)) (rowRanges k l t n (src64 s iss t b))) := by
  have hcount : (blockReg t (n + 6)).toNat % 256 + 1 = (blockReg t (n + 6)).toNat + 1 := by rw [Nat.mod_eq_of_lt hctl]
  have hgood : (decide (256 ≤ (blockReg t (n + 6)).toNat)
      || decide (((blockReg t (n + 6)).toNat + 1) * (l.es * l.box.getD 0 1) % 4 ≠ 0)) = false := by
    rw [hrow]
    simp [hctl]
  unfold laneCpRows
  rw [hl]
  dsimp only
  simp only [rowRanges] at hranges
  simp only [hcount, hgood, beq_iff_eq, maskBytes, hranges]
  rw [if_neg Bool.false_ne_true, if_neg (by simp [hindex, hbase, htile])]
  exact issueCopy_enters hroom _ _

/-- The ranges of a `cp.l` or `cp.red` (R235). -/
def wordRanges (k : CopyKind) (t : Thread) (n : Nat) : List (AccessClass × DWord × Nat) :=
  [(.copySource, blockPair t n, (blockReg t (n + 4)).toNat),
   (if k = .reduce then .sync else .copyDest, blockPair t (n + 2), (blockReg t (n + 4)).toNat)]

/-- The copy that a `cp.l` or `cp.red` makes. -/
def wordCopy (k : CopyKind) (t : Thread) (n : Nat) : Copy :=
  { bareCopy k with src := blockPair t n, dst := blockPair t (n + 2), len := (blockReg t (n + 4)).toNat,
                    rtype := (blockReg t (n + 5)).toNat, nominal := (blockReg t (n + 4)).toNat }

theorem laneCpLinear_enters {k : CopyKind} (hctl : (blockReg t (n + 5)).toNat ≤ if k = .reduce then 2 else 0)
    (h6 : blockReg t (n + 6) = 0) (h7 : blockReg t (n + 7) = 0) (hranges : checkCopyRanges s t (wordRanges k t n) = .ok ())
    (hsrc : (blockPair t n).toNat % 4 = 0) (hdst : (blockPair t (n + 2)).toNat % 4 = 0)
    (hlen : (blockReg t (n + 4)).toNat % 4 = 0) (hroom : slotsUsed s t.core < 64) :
    laneCpLinear k n s iss t = .ok (copyEntered s t (wordCopy k t n) (wordRanges k t n)) := by
  have hgood : (decide ((if k = .reduce then 2 else 0) < (blockReg t (n + 5)).toNat) || decide (blockReg t (n + 6) ≠ 0)
      || decide (blockReg t (n + 7) ≠ 0)) = false := by
    simp [h6, h7, hctl]
  unfold laneCpLinear
  dsimp only
  simp only [wordRanges] at hranges
  simp only [hgood, hranges]
  rw [if_neg Bool.false_ne_true, if_neg (by simp [hsrc, hdst, hlen])]
  exact issueCopy_enters hroom _ _

end

end Sys2Proof.Machine

open Sys2Proof Sys2Proof.Machine

/-- Settles O30: in each of the five words a lane's turn is that of `laneCpT_enters`, `laneCpRows_enters` or
`laneCpLinear_enters`. -/
theorem copies : Obligations.Copies := by
  intro c g n m b s iss hs
  refine ⟨copies_inTurn hs rfl fun u t u' hturn => ?tensor, fun p hp => ?rows, fun p hp => ?words⟩
  case tensor =>
    obtain ⟨l, hl, hctl, hzero, horigin, hranges, hbase, htile, hroom, rfl⟩ := hturn
    exact ⟨_, _, rfl, laneCpT_enters hl hctl hzero horigin hranges hbase htile hroom⟩
  case rows =>
    have hexec : exec p.2 s = foldWord g (laneCpRows p.1 (8 * n.toNat) b) s := by
      rcases List.mem_pair.mp hp with rfl | rfl <;> rfl
    refine copies_inTurn hs hexec fun u t u' hturn => ?_
    obtain ⟨l, hl, hctl, hrow, hranges, hindex, hbase, htile, hroom, rfl⟩ := hturn
    exact ⟨_, _, rfl, laneCpRows_enters hl hctl hrow hranges hindex hbase htile hroom⟩
  case words =>
    obtain ⟨hexec, hmost⟩ : exec p.2.1 s = foldWord g (laneCpLinear p.1 (8 * n.toNat)) s ∧ p.2.2 = if p.1 = .reduce then 2 else 0 := by
      rcases List.mem_pair.mp hp with rfl | rfl <;> exact ⟨rfl, rfl⟩
    refine copies_inTurn hs hexec fun u t u' hturn => ?_
    obtain ⟨hctl, h6, h7, hranges, hsrc, hdst, hlen, hroom, rfl⟩ := hturn
    exact ⟨_, _, rfl, laneCpLinear_enters (hmost ▸ hctl) h6 h7 hranges hsrc hdst hlen hroom⟩
end

section
/-! PROOFS. Reads of engines (04 R94), and a fill of a die's L2 that has no room for it. -/

namespace Sys2Proof.Machine

open Sys2Proof (Byte Word DWord Instr)

set_option Elab.async false

/-! ### What an engine reads -/

theorem seenBytes_unheld {s : State} {die : Nat} : ∀ (n loc : Nat), (∀ i, i < n → holdsByte s die (loc + i) = false) →
    seenBytes (dieByte s die) [] loc n = readBytes s.mem loc n := by
  intro n
  induction n with
  | zero => intro loc _; rfl
  | succ n ih =>
    intro loc h
    have hfirst : dieByte s die loc = readByte s.mem loc := if_neg (Bool.eq_false_iff.mp (h 0 n.succ_pos))
    have hrest := ih (loc + 1) fun i hi => by rw [Nat.add_assoc, Nat.add_comm 1]; exact h (i + 1) (Nat.succ_lt_succ hi)
    unfold seenBytes readBytes
    rw [hrest, ← hfirst]
    rfl

/-- Bytes that the die's L2 does not hold are the home's. -/
theorem engineBytes_unheld {s : State} {core loc n : Nat} (h : ∀ i, i < n → holdsByte s (dieOfCore core) (loc + i) = false) :
    engineBytes s core loc n = readNat s.mem loc n := by
  unfold engineBytes readNat
  rw [seenBytes_unheld n loc h]

/-- A read on the own die that the L2 does not answer fills the line of its first byte. -/
theorem engineFetch_fills {s : State} {u : EngineUser} {g : Target} {loc n : Nat} (hheld : engineHeld s u loc n .read = false)
    (hnear : Near s u g loc) (last : Option Nat) :
    engineFetch s u g loc n last = .ok (fillDie s (dieOfCore u.who.core) loc) := by
  obtain ⟨hdie, hpeer, -, -⟩ := hnear
  have htrip : engineTrip s u g loc last = some s := by
    unfold engineTrip
    rw [hdie, roundTrip_self, ite_self]
  unfold engineFetch
  rw [if_neg (Bool.eq_false_iff.mp hheld), htrip]
  cases g with
  | peer p va => cases hpeer
  | _ => rfl

/-- An index word is what the engine reads once its line has been fetched. -/
theorem readIndex_indices {s s1 : State} {c : Copy} {q : Nat} {g : Target} {loc : Nat}
    (hl : engineLocate s (copyUser s c) (plusBytes c.index (4 * q)) 4 .read = .ok (g, loc))
    (hf : engineFetch s (copyUser s c) g loc 4 c.readLine = .ok s1) :
    (readIndex s c q).2.1.indices = c.indices.take q ++ [BitVec.ofNat 32 (engineBytes s1 c.core loc 4)] := by
  unfold readIndex copyRead
  rw [hl]
  dsimp only
  rw [hf]

/-! ### An L2 without room for data lines -/

theorem noteHolder_l2data (s : State) (die line : Nat) : (noteHolder s die line).l2data = s.l2data := by
  unfold noteHolder putDir
  dsimp only
  split <;> rfl

/-- A new copy in an L2 without room for data lines goes at once, and with it every other copy. -/
theorem putCopy_noRoom {s : State} {l : DieLine} (hnew : s.l2data.any (isCopy l.die l.line) = false) (hfull : dieLines s l.die = 0)
    (hmine : ∀ x ∈ s.l2data, x.die = l.die) : (putCopy s l).l2data = [] := by
  have hall : ∀ x ∈ s.l2data ++ [l], x.die = l.die := by
    intro x hx
    rcases List.mem_append.mp hx with hx | hx
    · exact hmine x hx
    · rw [List.mem_singleton.mp hx]
  have hfilter : (s.l2data ++ [l]).filter (fun x => decide (x.die = l.die)) = s.l2data ++ [l] :=
    List.filter_eq_self.mpr fun x hx => decide_eq_true (hall x hx)
  have hothers : (s.l2data ++ [l]).filter (fun x => decide (x.die ≠ l.die)) = [] :=
    List.filter_eq_nil_iff.mpr fun x hx => by simp [hall x hx]
  have hroom : dieLines { s with l2data := s.l2data ++ [l] } l.die = 0 := hfull
  unfold putCopy fitDie
  rw [hnew, if_neg Bool.false_ne_true]
  dsimp only
  rw [hfilter, hroom, hothers, if_neg (by simp)]
  simp [youngest]

/-- So does a line filled there that is homed elsewhere. -/
theorem fillDie_noRoom {s : State} {die loc : Nat} (haway : homedAway s die loc = true) (hgood : isBad s loc = false)
    (hnew : s.l2data.any (isCopy die (loc / 128)) = false) (hfull : dieLines s die = 0) (hmine : ∀ x ∈ s.l2data, x.die = die) :
    (fillDie s die loc).l2data = [] := by
  unfold fillDie
  rw [if_pos (by simp [haway, hgood]), noteHolder_l2data]
  exact putCopy_noRoom hnew hfull hmine

/-- The bytes of a line then come from its home. -/
theorem engineBytes_noRoom {s : State} {core loc n : Nat} (h : (fillDie s (dieOfCore core) loc).l2data = []) :
    engineBytes (fillDie s (dieOfCore core) loc) core loc n = readNat s.mem loc n := by
  rw [engineBytes_unheld fun i _ => by unfold holdsByte dieLine; rw [h]; rfl, (cachesAlone_fillDie s _ loc).mem]

/-- The copy of a gather whose launch's gang-local memory lies among the locations of peers, its index word across two lines. -/
def farCopy : Copy := { bareCopy .gather with launch := 2 ^ 86, index := 0x200000000000007E }

/-- Where its index word begins. -/
def farIndex : Nat := gangLoc (2 ^ 86) 0 126

/-- A copy of the second line, whose first byte is 1. -/
def secondLine : DieLine := { die := 1, line := farIndex / 128 + 1, bytes := [1], valid := BitVec.allOnes 128, since := 0 }

/-- Die 1's L2 holds that line, and `n` code lines. -/
def crowdedBy (n : Nat) : State := { State.reset with icache3 := List.replicate n (1, 0, []), l2data := [secondLine] }

theorem dieLines_crowdedBy {n : Nat} (hn : dieL2Bytes / 128 ≤ n) : dieLines (crowdedBy n) 1 = 0 := by
  have hcode : (crowdedBy n).icache3.filter (fun l => decide (l.1 = 1)) = List.replicate n (1, 0, []) := by
    change (List.replicate n ((1, 0, []) : Nat × Nat × List Byte)).filter _ = _
    rw [List.filter_replicate, if_pos (by decide)]
  have hroom : (dieL2Bytes - poolShare (crowdedBy n)) / 128 ≤ dieL2Bytes / 128 := Nat.div_le_div_right (Nat.sub_le _ _)
  unfold dieLines
  rw [hcode, List.length_replicate]
  exact Nat.sub_eq_zero_of_le (hroom.trans hn)

/-- Code lines leave the L2 no room for data lines. -/
def crowded : State := crowdedBy (dieL2Bytes / 128)

theorem dieLines_crowded : dieLines crowded (dieOfCore farCopy.core) = 0 := dieLines_crowdedBy le_rfl

theorem locates_farIndex :
    engineLocate crowded (copyUser crowded farCopy) farCopy.index 4 .read = .ok (.cell farIndex false, farIndex) := by decide +kernel

theorem near_farIndex : Near crowded (copyUser crowded farCopy) (.cell farIndex false) farIndex :=
  ⟨by decide +kernel, rfl, rfl, fun _ h => nomatch h⟩

theorem engineHeld_farIndex : engineHeld crowded (copyUser crowded farCopy) farIndex 4 .read = false := by decide +kernel

/-- Before the fill the second line's copy gives the third byte of the index word. -/
theorem engineBytes_crowded : engineBytes crowded farCopy.core farIndex 4 = 0x10000 := by decide +kernel

/-- The fill of the first line puts out the second line's copy. -/
theorem l2data_filled : (fillDie crowded (dieOfCore farCopy.core) farIndex).l2data = [] := by
  refine fillDie_noRoom (by decide +kernel) (by decide +kernel) (by decide +kernel) dieLines_crowded fun x hx => ?_
  obtain rfl : x = secondLine := List.mem_singleton.mp hx
  rfl

/-- The index word read is 0. -/
theorem readIndex_crowded : (readIndex crowded farCopy 0).2.1.indices = [0] := by
  have hfetch : engineFetch crowded (copyUser crowded farCopy) (.cell farIndex false) farIndex 4 farCopy.readLine
      = .ok (fillDie crowded (dieOfCore farCopy.core) farIndex) := engineFetch_fills engineHeld_farIndex near_farIndex _
  rw [readIndex_indices (q := 0) locates_farIndex hfetch, engineBytes_noRoom l2data_filled]
  rfl

end Sys2Proof.Machine

open Sys2Proof Sys2Proof.Machine

/-- Refutes O49: the clause of an index word takes it as the die's L2 gives it before its first line is filled. `farCopy`'s word lies
across two lines; the launch's number is so great that its gang-local memory passes for a peer's, so that the first line is filled in
die 1's L2; and in `crowded` that L2, full of code lines, loses the copy of the second line thereby. The word read is 0, where the copy
gave 0x10000: no premise bounds launch numbers or code lines, or aligns a pointer. -/
theorem not_movedData : ¬ Obligations.MovedData := by
  intro h
  obtain ⟨hcopies, -⟩ := h
  obtain ⟨-, -, -, hrows, -⟩ := hcopies crowded farCopy
  obtain ⟨-, -, hindex, -⟩ := hrows (.inl rfl)
  obtain ⟨-, -, hindices⟩ := hindex 0 _ _ locates_farIndex near_farIndex
  have hword : ([0] : List Word) = [0x10000] :=
    readIndex_crowded.symm.trans (hindices.trans (congrArg (fun v => [BitVec.ofNat 32 v]) engineBytes_crowded))
  exact absurd hword (by decide)
end

section
/-! PROOFS. Copies on their way (11 R226, R235, R240): the accesses of a copy leave the table of copies, and the copy's number, alone. -/

namespace Sys2Proof.Machine

open Sys2Proof (Byte Word DWord Instr)

set_option Elab.async false

/-! ### Rows found by their numbers -/

/-- A change of rows that keeps their numbers finds the changed row. -/
theorem find?_map_key {α : Type} (key : α → Nat) {f : α → α} (hf : ∀ x, key (f x) = key x) (k : Nat) (l : List α) :
    (l.map f).find? (fun x => decide (key x = k)) = (l.find? fun x => decide (key x = k)).map f := by
  rw [List.find?_map]
  congr 2
  funext x
  simp [hf]

/-- The row with a number replaced is found in its place. -/
theorem find?_replace {α : Type} (key : α → Nat) {x y : α} {k : Nat} {l : List α} (h : l.find? (fun z => decide (key z = k)) = some x)
    (hy : key y = key x) : (l.map fun z => if key z = key y then y else z).find? (fun z => decide (key z = k)) = some y := by
  rw [find?_map_key key (fun z => by split <;> simp_all), h, Option.map_some, if_pos hy.symm]

theorem id_of_copyAt {s : State} {id : Nat} {c : Copy} (h : copyAt s id = some c) : c.id = id := by
  simpa using List.find?_some h

theorem copyAt_setCopy {s s1 : State} {id : Nat} {c x : Copy} (h : copyAt s id = some c) (hs : s1.copies = s.copies) (hx : x.id = c.id) :
    copyAt (setCopy s1 x) id = some x := by
  unfold copyAt setCopy
  dsimp only
  rw [hs]
  exact find?_replace Copy.id h hx

/-! ### Accesses of engines -/

theorem CachesAlone.copies {s s' : State} (h : CachesAlone s s') : s'.copies = s.copies := by
  unfold CachesAlone at h
  rw [h]

theorem cachesAlone_engineTrip {s s1 : State} {u : EngineUser} {g : Target} {loc : Nat} {last : Option Nat}
    (h : engineTrip s u g loc last = some s1) : CachesAlone s s1 := by
  unfold engineTrip at h
  split at h
  · cases h; exact CachesAlone.refl s
  · exact cachesAlone_roundTrip h

theorem cachesAlone_engineFetch {s s1 : State} {u : EngineUser} {g : Target} {loc n : Nat} {last : Option Nat}
    (h : engineFetch s u g loc n last = .ok s1) : CachesAlone s s1 := by
  unfold engineFetch at h
  split at h
  · cases h; exact CachesAlone.refl s
  · split at h
    · cases h
    · split at h
      · cases h
      · rename_i htrip
        cases h
        exact (cachesAlone_engineTrip htrip).trans (cachesAlone_fillDie _ _ _)

theorem engineStore_copies (s : State) (u : EngineUser) (g : Target) (loc n v : Nat) : (engineStore s u g loc n v).copies = s.copies := by
  unfold engineStore
  rw [portWrite_frame, homePut_frame]
  exact (cachesAlone_dropWords s u.who.core loc n).copies

theorem copySend_copies (s : State) (c : Copy) (g : Target) (k : Nat → RenharKind) : (copySend s c g k).copies = s.copies := by
  unfold copySend
  split <;> rfl

/-! ### Runs of a copy -/

/-- What a run of a copy leaves of the table and of the copy's number. -/
structure KeepsCopy (s : State) (c : Copy) (r : CopyRun) : Prop where
  copies : r.1.copies = s.copies
  id : r.2.1.id = c.id

theorem KeepsCopy.refl (s : State) (c : Copy) (e : Option EngineStop) : KeepsCopy s c (s, c, e) := ⟨rfl, rfl⟩

theorem KeepsCopy.trans {s s1 : State} {c c1 : Copy} {e : Option EngineStop} {r : CopyRun} (h : KeepsCopy s c (s1, c1, e))
    (k : KeepsCopy s1 c1 r) : KeepsCopy s c r := ⟨k.copies.trans h.copies, k.id.trans h.id⟩

theorem keepsCopy_copyRead {s s1 : State} {c c1 : Copy} {p : DWord} {n v : Nat} (h : copyRead s c p n = .ok (s1, c1, v))
    (e : Option EngineStop) : KeepsCopy s c (s1, c1, e) := by
  unfold copyRead at h
  split at h
  · cases h
  · split at h
    · cases h
    · rename_i hfetch
      cases h
      refine ⟨?_, rfl⟩
      rw [portRead_frame]
      exact (cachesAlone_engineFetch hfetch).copies

theorem keepsCopy_copyPut (s : State) (c : Copy) (p : DWord) (n : Nat) (a : Acc) (kind : Nat → RenharKind)
    {apply : State → Target → Nat → State} (ha : ∀ x g loc, (apply x g loc).copies = x.copies) :
    KeepsCopy s c (copyPut s c p n a kind apply) := by
  unfold copyPut
  split
  · exact KeepsCopy.refl s c _
  · split
    · exact KeepsCopy.refl s c _
    · rename_i htrip
      exact ⟨(ha _ _ _).trans ((copySend_copies _ _ _ _).trans (cachesAlone_engineTrip htrip).copies), rfl⟩

theorem keepsCopy_putBytes (s : State) (c : Copy) (p : DWord) (n v : Nat) : KeepsCopy s c (putBytes s c p n v) :=
  keepsCopy_copyPut s c p n .write _ fun _ _ _ => engineStore_copies _ _ _ _ _ _

theorem keepsCopy_moveBytes (s : State) (c : Copy) (src dst : DWord) (n : Nat) : KeepsCopy s c (moveBytes s c src dst n) := by
  unfold moveBytes
  split
  · exact KeepsCopy.refl s c _
  · rename_i hread
    exact (keepsCopy_copyRead hread none).trans (keepsCopy_putBytes _ _ _ _ _)

theorem keepsCopy_inTurn {f : State → Copy → Nat → CopyRun} (hf : ∀ s c i, KeepsCopy s c (f s c i)) :
    ∀ (is : List Nat) (s : State) (c : Copy), KeepsCopy s c (inTurn f s c is) := by
  intro is
  induction is with
  | nil => exact fun s c => KeepsCopy.refl s c none
  | cons i is ih =>
    intro s c
    have hfirst := hf s c i
    unfold inTurn
    split
    · rename_i hrun
      exact (hrun ▸ hfirst).trans (ih _ _)
    · exact hfirst

theorem keepsCopy_tensorPoint (s : State) (c : Copy) (i : Nat) : KeepsCopy s c (tensorPoint s c i) := by
  unfold tensorPoint
  dsimp only
  split
  · split
    · exact keepsCopy_moveBytes _ _ _ _ _
    · exact KeepsCopy.refl s c none
  · split
    · exact keepsCopy_moveBytes _ _ _ _ _
    · exact keepsCopy_putBytes _ _ _ _ _

theorem keepsCopy_rowElement (q : Nat) (x : Word) (s : State) (c : Copy) (b0 : Nat) : KeepsCopy s c (rowElement q x s c b0) := by
  unfold rowElement
  dsimp only
  split
  · split
    · exact keepsCopy_moveBytes _ _ _ _ _
    · exact keepsCopy_putBytes _ _ _ _ _
  · split
    · exact keepsCopy_moveBytes _ _ _ _ _
    · exact KeepsCopy.refl s c none

theorem keepsCopy_readIndex (s : State) (c : Copy) (q : Nat) : KeepsCopy s c (readIndex s c q) := by
  unfold readIndex
  split
  · exact KeepsCopy.refl s c _
  · rename_i hread
    obtain ⟨hcopies, hid⟩ := keepsCopy_copyRead hread none
    exact ⟨hcopies, hid⟩

theorem keepsCopy_rowPiece (s : State) (c : Copy) (q : Nat) : KeepsCopy s c (rowPiece s c q) := by
  have hread := keepsCopy_inTurn keepsCopy_readIndex ((List.range c.count).drop c.indices.length) s c
  unfold rowPiece
  split
  · rename_i hrun
    rw [hrun] at hread
    dsimp only
    split
    · exact hread
    · exact hread.trans (keepsCopy_inTurn (keepsCopy_rowElement q _) _ _ _)
  · exact hread

theorem keepsCopy_reducePiece (s : State) (c : Copy) (i : Nat) : KeepsCopy s c (reducePiece s c i) := by
  unfold reducePiece
  split
  · exact KeepsCopy.refl s c _
  · rename_i hread
    exact (keepsCopy_copyRead hread none).trans (keepsCopy_copyPut _ _ _ _ _ _ fun _ _ _ => engineStore_copies _ _ _ _ _ _)

theorem keepsCopy_copyPiece (s : State) (c : Copy) : KeepsCopy s c (copyPiece s c) := by
  unfold copyPiece
  dsimp only
  split
  · split
    · exact keepsCopy_tensorPoint _ _ _
    · exact keepsCopy_putBytes _ _ _ _ _
  · split
    · exact keepsCopy_rowPiece _ _ _
    · exact keepsCopy_putBytes _ _ _ _ _
  · exact keepsCopy_rowPiece _ _ _
  · exact keepsCopy_moveBytes _ _ _ _ _
  · exact keepsCopy_reducePiece _ _ _

theorem keepsCopy_copySteps : ∀ (n : Nat) (s : State) (c : Copy), KeepsCopy s c (copySteps n s c) := by
  intro n
  induction n with
  | zero => exact fun s c => KeepsCopy.refl s c none
  | succ n ih =>
    intro s c
    have hfirst := keepsCopy_copyPiece s c
    unfold copySteps
    split
    · rename_i s1 c1 hrun
      rw [hrun] at hfirst
      have hrest := ih s1 { c1 with progress := c1.progress + 1 }
      exact ⟨hrest.copies.trans hfirst.copies, hrest.id.trans hfirst.id⟩
    · exact hfirst

theorem keepsCopy_copyRun (s : State) (c : Copy) : KeepsCopy s c (copyRun s c) := by
  have hsteps := keepsCopy_copySteps (copyPieces c - c.progress) s c
  unfold copyRun
  split
  · rename_i hrun
    exact hrun ▸ hsteps
  · rename_i hrun
    dsimp only
    split
    · exact hrun ▸ hsteps
    · obtain ⟨hcopies, hid⟩ := keepsCopy_copySteps (wordStop _ c.progress _ - c.progress) s c
      exact ⟨hcopies, hid⟩

/-- With no piece stopped, the run is that of the pieces left. -/
theorem copyRun_of_steps {s s1 : State} {c c1 : Copy} (h : copySteps (copyPieces c - c.progress) s c = (s1, c1, none)) :
    copyRun s c = (s1, c1, none) := by
  unfold copyRun
  rw [h]

/-! ### The start of a copy (R240) -/

section
variable {s : State} {id : Nat} {c : Copy} (hc : copyAt s id = some c) (hr : copyReady s c = true) (ha : c.asked = none)
include hc hr ha

/-- What the run `r` of a copy comes to. -/
def startOutcome (c : Copy) (r : CopyRun) : Out :=
  match r.2.2 with
  | none => .next (setCopy r.1 { r.2.1 with state := .moved })
  | some (.fault w n) => .next (enterFault (setCopy r.1 { r.2.1 with state := .parked w n }) c.launch c.core w n)
  | some .wait => .next (setCopy r.1 r.2.1)
  | some (.ask n va loc) => .next (askLine r.1 r.2.1 n va loc)

/-- With nothing asked for, a ready copy makes its accesses at once. -/
theorem exec_copyStart : exec (.copyStart id) s = startOutcome c (copyRun s { c with started := true }) := by
  have hline : lineCome s { c with started := true } = some (s, { c with started := true }) := by
    unfold lineCome
    dsimp only
    rw [ha]
  change execCopyStart id s = _
  unfold execCopyStart
  rw [hc]
  dsimp only
  rw [if_pos hr, hline]
  dsimp only
  unfold startOutcome
  split <;> next hrun => rw [hrun]

theorem copyStart_moves {s1 : State} {c1 : Copy}
    (hsteps : copySteps (copyPieces c - c.progress) s { c with started := true } = (s1, c1, none)) :
    Leaves (.copyStart id) s fun s' => s'.mem = s1.mem ∧ s'.threads = s1.threads ∧ copyAt s' id = some { c1 with state := .moved } := by
  obtain ⟨hcopies, hid⟩ : KeepsCopy s { c with started := true } (s1, c1, none) := hsteps ▸ keepsCopy_copySteps _ _ _
  have hrun : copyRun s { c with started := true } = (s1, c1, none) := copyRun_of_steps hsteps
  refine ⟨_, (exec_copyStart hc hr ha).trans (congrArg (startOutcome c) hrun), rfl, rfl, copyAt_setCopy hc hcopies hid⟩

theorem copyStart_asks {s1 s2 : State} {c1 : Copy} {p va loc : Nat}
    (hrun : copyRun s { c with started := true } = (s1, c1, some (.ask p va loc)))
    (hm : message s1 (dieOfCore c1.core) (fdieOf s1 c1.launch) false c1.tag = some s2) :
    Leaves (.copyStart id) s fun s' => s'.mem = s1.mem ∧ copyAt s' id = some { c1 with asked := some loc }
      ∧ ∃ o ∈ s'.renhar.out, o.packet.destination = p ∧ o.packet.kind = .read (va / 128 * 128) 128 := by
  obtain ⟨hcopies, hid⟩ : KeepsCopy s { c with started := true } (s1, c1, some (.ask p va loc)) := hrun ▸ keepsCopy_copyRun _ _
  have hsent := cachesAlone_message hm
  have hexec : exec (.copyStart id) s = .next (copySend (setCopy s2 { c1 with asked := some loc }) c1 (.peer p va) fun _ =>
      .read (va / 128 * 128) 128) := by
    rw [exec_copyStart hc hr ha, hrun]
    dsimp only [startOutcome, askLine]
    rw [hm]
  exact ⟨_, hexec, hsent.mem, copyAt_setCopy hc (hsent.copies.trans hcopies) hid, _, List.mem_append_right _ (List.mem_singleton.mpr rfl),
    rfl, rfl⟩

end

/-- A write to a peer is counted until it is acknowledged (05 R118). -/
theorem putBytes_unacked {s s1 : State} {c c1 : Copy} {p : DWord} {n v : Nat} {g : Target} {loc : Nat}
    (hrun : putBytes s c p n v = (s1, c1, none)) (hl : engineLocate s (copyUser s c) p n .write = .ok (g, loc)) :
    c1.unacked = if targetPeerf g = true then c.unacked + 1 else c.unacked := by
  unfold putBytes copyPut at hrun
  rw [hl] at hrun
  dsimp only at hrun
  split at hrun
  · cases hrun
  · cases hrun
    rfl

end Sys2Proof.Machine
end

section
/-! PROOFS. Reports of finished operations (11 R238, R239): what an event of a thread leaves alone, and the batches without the
operation. -/

namespace Sys2Proof.Machine

open Sys2Proof (Byte Word DWord Instr)

set_option Elab.async false

/-! ### What an event changes -/

/-- The rows of threads, the contexts and the log apart, the state stands. -/
def RowsAlone (s s' : State) : Prop := s' = { s with threads := s'.threads, contexts := s'.contexts, log := s'.log }

theorem RowsAlone.refl (s : State) : RowsAlone s s := rfl

theorem RowsAlone.trans {s s1 s2 : State} (h : RowsAlone s s1) (k : RowsAlone s1 s2) : RowsAlone s s2 := by
  unfold RowsAlone at h k ⊢
  rw [h] at k
  exact k

section
variable {s s' : State} (h : RowsAlone s s')
include h

theorem RowsAlone.mem : s'.mem = s.mem := by unfold RowsAlone at h; rw [h]

theorem RowsAlone.copies : s'.copies = s.copies := by unfold RowsAlone at h; rw [h]

theorem RowsAlone.tiles : s'.tiles = s.tiles := by unfold RowsAlone at h; rw [h]

end

/-- A row follows another with the same batches, and takes the place of every row of its thread. -/
structure EventLeft (s s' : State) (u v : Thread) : Prop where
  key : rowKey v = rowKey u
  openBatch : v.openBatch = u.openBatch
  batches : v.batches = u.batches
  threads : s'.threads = (putThread s v).threads
  alone : RowsAlone s s'

theorem eventLeft_put {s : State} {u v : Thread} (hk : rowKey v = rowKey u) (ho : v.openBatch = u.openBatch)
    (hb : v.batches = u.batches) : EventLeft s (putThread s v) u v := ⟨hk, ho, hb, rfl, rfl⟩

theorem eventLeft_fault {s : State} {u v : Thread} (tag l n : Nat) (w : DWord) (hk : rowKey v = rowKey u)
    (ho : v.openBatch = u.openBatch) (hb : v.batches = u.batches) : EventLeft s (contextFault (putThread s v) tag l n w) u v :=
  ⟨hk, ho, hb, rfl, rfl⟩

theorem binRecord_left (s : State) (u : Thread) : ∃ v, EventLeft s (binRecord s u) u v := by
  unfold binRecord
  dsimp only
  split
  · split
    · exact ⟨_, eventLeft_fault _ _ _ _ rfl rfl rfl⟩
    · exact ⟨_, eventLeft_put rfl rfl rfl⟩
  · split
    · exact ⟨_, eventLeft_fault _ _ _ _ rfl rfl rfl⟩
    · exact ⟨_, eventLeft_put rfl rfl rfl⟩

theorem eventCame_left (s : State) (u : Thread) : ∃ v, EventLeft s (eventCame s u) u v := by
  unfold eventCame
  split
  · exact ⟨_, eventLeft_put rfl rfl rfl⟩
  · exact ⟨_, eventLeft_put rfl rfl rfl⟩
  · exact ⟨_, eventLeft_put rfl rfl rfl⟩
  · split
    · exact ⟨_, eventLeft_put rfl rfl rfl⟩
    · exact ⟨_, eventLeft_put rfl rfl rfl⟩
  · exact binRecord_left s u

theorem wakeBatch_left (s : State) (u : Thread) : ∃ v, EventLeft s (wakeBatch s u) u v := by
  unfold wakeBatch
  split
  · split
    · exact eventCame_left s u
    · exact ⟨u, eventLeft_put rfl rfl rfl⟩
  · exact ⟨u, eventLeft_put rfl rfl rfl⟩

/-! ### Batches without an operation -/

/-- No batch of the thread holds the operation. -/
def Clean (id : Nat) (u : Thread) : Prop := id ∉ u.openBatch.ops ∧ ∀ b ∈ u.batches, id ∉ b.ops

/-- No row of the thread (l, n) holds the operation. -/
def Cleared (l n id : Nat) (s : State) : Prop := ∀ u ∈ s.threads, rowKey u = (l, n) → Clean id u

theorem Cleared.reported {s : State} {l n id : Nat} (h : Cleared l n id s) : Reported s l n id := by
  intro u hu
  obtain ⟨hmem, hkey⟩ := mem_of_threadAt hu
  exact h u hmem hkey

theorem EventLeft.clean {s s' : State} {u v : Thread} (h : EventLeft s s' u v) {id : Nat} (hu : Clean id u) : Clean id v := by
  unfold Clean at hu ⊢
  rw [h.openBatch, h.batches]
  exact hu

theorem EventLeft.cleared {s s' : State} {u v : Thread} (h : EventLeft s s' u v) {l n id : Nat}
    (hs : Cleared l n id s) (hu : rowKey u = (l, n) → Clean id u) : Cleared l n id s' := by
  intro x hx hk
  rw [h.threads] at hx
  rcases mem_putThread hx with rfl | hx
  · exact h.clean (hu (h.key ▸ hk))
  · exact hs x hx hk

theorem mem_reportBatches {b : Batch} : ∀ {bs : List Batch} {n : BitVec 16}, b ∈ (reportBatches bs n).1 → b ∈ bs := by
  intro bs
  induction bs with
  | nil => exact fun h => h
  | cons c bs ih =>
    intro n h
    unfold reportBatches at h
    split at h
    · exact List.mem_cons_of_mem _ (ih h)
    · exact h

theorem finishOp_key (id bytes : Nat) (t : Thread) : rowKey (finishOp id bytes t) = rowKey t := rfl

theorem not_mem_without (id : Nat) (l : List Nat) : id ∉ l.filter fun x => !decide (x = id) := by simp

/-- A finished operation leaves every batch of its thread. -/
theorem clean_finishOp (id bytes : Nat) (t : Thread) : Clean id (finishOp id bytes t) := by
  constructor
  · change id ∉ (if t.openBatch.ops.contains id then
      { t.openBatch with ops := t.openBatch.ops.filter fun x => !decide (x = id), bytes := t.openBatch.bytes - bytes }
      else t.openBatch).ops
    split
    · exact not_mem_without id _
    · next hc => simpa using hc
  · intro b hb
    obtain ⟨c, -, rfl⟩ := List.mem_map.mp (mem_reportBatches hb)
    split
    · exact not_mem_without id _
    · next hc => simpa using hc

/-! ### Reports -/

theorem rowsAlone_finishFor (s : State) (l n id bytes : Nat) : RowsAlone s (finishFor s l n id bytes) := by
  unfold finishFor
  split
  · exact RowsAlone.refl s
  · next t _ =>
    obtain ⟨v, hv⟩ := wakeBatch_left s (finishOp id bytes t)
    exact hv.alone

/-- A report leaves the operation in no batch of its thread, whatever rows it has. -/
theorem cleared_finishFor (s : State) (l n id bytes : Nat) : Cleared l n id (finishFor s l n id bytes) := by
  unfold finishFor
  split
  · next hnone =>
    intro u hu hk
    exact absurd ((isThread_key _ _ _).mpr hk) (by simpa using List.find?_eq_none.mp hnone u hu)
  · next t ht =>
    obtain ⟨v, hv⟩ := wakeBatch_left s (finishOp id bytes t)
    intro u hu hk
    rw [hv.threads] at hu
    have hkey : rowKey v = (l, n) := hv.key.trans ((finishOp_key id bytes t).trans (mem_of_threadAt ht).2)
    rw [eq_of_mem_putThread hu (hk.trans hkey.symm)]
    exact hv.clean (clean_finishOp id bytes t)

/-- What waits for a copy slot, woken among some rows. -/
theorem wakeSlots_left {l n id core : Nat} : ∀ (us : List Thread) (s : State), Cleared l n id s →
    (∀ u ∈ us, rowKey u = (l, n) → Clean id u) →
    let s' := us.foldl (fun s1 t => if t.core = core ∧ awaits t = .copySlot then eventCame s1 t else s1) s
    Cleared l n id s' ∧ RowsAlone s s' := by
  intro us
  induction us with
  | nil => exact fun s hs _ => ⟨hs, RowsAlone.refl s⟩
  | cons u us ih =>
    intro s hs hus
    have hrest := fun x hx => hus x (List.mem_cons_of_mem u hx)
    rw [List.foldl_cons]
    split
    · obtain ⟨v, hv⟩ := eventCame_left s u
      obtain ⟨hcleared, halone⟩ := ih _ (hv.cleared hs (hus u List.mem_cons_self)) hrest
      exact ⟨hcleared, hv.alone.trans halone⟩
    · exact ih s hs hrest

theorem cleared_wakeCopySlots {l n id : Nat} {s : State} (core : Nat) (h : Cleared l n id s) :
    Cleared l n id (wakeCopySlots s core) ∧ RowsAlone s (wakeCopySlots s core) := wakeSlots_left s.threads s h h

/-! ### The end of a copy -/

/-- A copy that has moved its data, with no write outstanding, leaves the table and its batch. -/
theorem copyComplete_leaves {s : State} {id : Nat} {c : Copy} (hc : copyAt s id = some c) (hm : c.state = .moved) (hu : c.unacked = 0) :
    Leaves (.copyComplete id) s fun s' => copyAt s' id = none ∧ Reported s' c.launch c.thread id ∧ s'.mem = s.mem := by
  let s0 := { s with copies := s.copies.filter fun x => !decide (x.id = id) }
  have hexec : exec (.copyComplete id) s = .next (wakeCopySlots (finishFor s0 c.launch c.thread id c.nominal) c.core) := by
    change execCopyComplete id s = _
    unfold execCopyComplete
    rw [hc]
    dsimp only
    rw [if_pos ⟨hm, hu⟩]
  obtain ⟨hcleared, hwake⟩ := cleared_wakeCopySlots c.core (cleared_finishFor s0 c.launch c.thread id c.nominal)
  have halone := (rowsAlone_finishFor s0 c.launch c.thread id c.nominal).trans hwake
  refine ⟨_, hexec, ?_, hcleared.reported, halone.mem⟩
  unfold copyAt
  rw [halone.copies, List.find?_eq_none]
  intro x hx
  simpa using (List.mem_filter.mp hx).2

/-- A copy with a write still to be acknowledged stands (05 R118). -/
theorem copyComplete_waits {s : State} {id : Nat} {c : Copy} (hc : copyAt s id = some c) (hu : c.unacked ≠ 0) :
    exec (.copyComplete id) s = .next s := by
  change execCopyComplete id s = _
  unfold execCopyComplete
  rw [hc]
  dsimp only
  rw [if_neg fun h => hu h.2]

end Sys2Proof.Machine
end

section
/-! PROOFS. Tiles and their keys (10 R210, R222), the release of a range (10 R204) and the moves of pages (09 R192). -/

namespace Sys2Proof.Machine

open Sys2Proof (Byte Word DWord Instr)

set_option Elab.async false

/-! ### Keys -/

/-- A tile's elements lie between its first and the next tile's first. -/
theorem tileKey_lt {core e t i j : Nat} (hi : i < 32) (hj : j < 32) : tileKey core e t i j < tileKey core e (t + 1) 0 0 := by
  unfold tileKey
  omega

theorem tileKey_mono {core e t u : Nat} (h : t ≤ u) : tileKey core e t 0 0 ≤ tileKey core e u 0 0 := by
  unfold tileKey
  omega

theorem tileKey_first (core e t i j : Nat) : tileKey core e t 0 0 ≤ tileKey core e t i j := by
  unfold tileKey
  omega

/-- The elements of `n` tiles from tile `t` on. -/
theorem tileKey_within {core e t n k i j : Nat} (hk : k < n) (hi : i < 32) (hj : j < 32) :
    tileKey core e t 0 0 ≤ tileKey core e (t + k) i j ∧ tileKey core e (t + k) i j < tileKey core e (t + n) 0 0 :=
  ⟨(tileKey_mono (Nat.le_add_right t k)).trans (tileKey_first ..), (tileKey_lt hi hj).trans_le (tileKey_mono (by omega))⟩

/-- The tile of an element of a region is one of the region's. -/
theorem tileOf_lt {m nb i j : Nat} (hi : i < 32 * m) (hj : j < 32 * nb) : i / 32 * nb + j / 32 < m * nb := by
  have hrow : i / 32 + 1 ≤ m := by omega
  have hcol : j / 32 < nb := by omega
  calc i / 32 * nb + j / 32 < (i / 32 + 1) * nb := by rw [Nat.add_mul]; omega
    _ ≤ m * nb := Nat.mul_le_mul_right nb hrow

theorem elemKey_within {r : TileRange} {t0 m nb i j : Nat} (hi : i < 32 * m) (hj : j < 32 * nb) :
    tileKey r.core r.engine (r.base + t0) 0 0 ≤ elemKey r t0 nb i j
      ∧ elemKey r t0 nb i j < tileKey r.core r.engine (r.base + t0 + m * nb) 0 0 := by
  unfold elemKey
  rw [Nat.add_assoc (r.base + t0)]
  exact tileKey_within (tileOf_lt hi hj) (Nat.mod_lt _ (by decide)) (Nat.mod_lt _ (by decide))

/-- Elements of a region have keys of their own. -/
theorem elemKey_inj {r : TileRange} {t0 nb i j i' j' : Nat} (hj : j < 32 * nb) (hj' : j' < 32 * nb)
    (h : elemKey r t0 nb i j = elemKey r t0 nb i' j') : i = i' ∧ j = j' := by
  unfold elemKey tileKey at h
  have htile : i / 32 * nb + j / 32 = i' / 32 * nb + j' / 32 := by omega
  have hcol : j / 32 < nb := by omega
  have hcol' : j' / 32 < nb := by omega
  have hrow : i / 32 = i' / 32 := by
    have hdiv : ∀ a b, b < nb → (a * nb + b) / nb = a := fun a b hb => by
      rw [Nat.mul_comm, Nat.mul_add_div (by omega), Nat.div_eq_of_lt hb, Nat.add_zero]
    rw [← hdiv (i / 32) _ hcol, htile, hdiv _ _ hcol']
  rw [hrow] at htile
  omega

/-! ### Reads after writes and clears -/

theorem tileGet_set {s : State} (hs : cellsFrom 0 s.tiles = true) (k b : Nat) (v : Word) :
    tileGet (tileSet s k v) b = if b = k then v else tileGet s b := cellGet_set k b v hs

theorem tileSet_canonical {s : State} (hs : cellsFrom 0 s.tiles = true) (k : Nat) (v : Word) :
    cellsFrom 0 (tileSet s k v).tiles = true := cellSet_wf v (Nat.zero_le k) hs

theorem zeroTiles_canonical {s : State} (hs : cellsFrom 0 s.tiles = true) (r : TileRange) (t0 n : Nat) :
    cellsFrom 0 (zeroTiles s r t0 n).tiles = true := cellClear_wf _ _ hs

theorem tileGet_zeroTiles {s : State} (hs : cellsFrom 0 s.tiles = true) {r : TileRange} {t0 n b : Nat}
    (hlo : tileKey r.core r.engine (r.base + t0) 0 0 ≤ b) (hhi : b < tileKey r.core r.engine (r.base + t0 + n) 0 0) :
    tileGet (zeroTiles s r t0 n) b = 0 :=
  (cellGet_clear _ _ b hs).trans (if_pos ⟨hlo, hhi⟩)

/-- The tiles of a range that is zeroed read zero. -/
theorem tileGet_zeroed {s : State} (hs : cellsFrom 0 s.tiles = true) {r : TileRange} {n k i j : Nat} (hk : k < n) (hi : i < 32)
    (hj : j < 32) : tileGet (zeroTiles s r 0 n) (tileKey r.core r.engine (r.base + k) i j) = 0 := by
  obtain ⟨hlo, hhi⟩ := tileKey_within (core := r.core) (e := r.engine) (t := r.base) hk hi hj
  exact tileGet_zeroTiles hs hlo hhi

/-! ### The release of a range -/

/-- A freed range leaves, its tiles zeroed. -/
theorem tileRangeRelease_leaves {s : State} {core gen : Nat} {r : TileRange} (ht : cellsFrom 0 s.tiles = true)
    (hr : s.tileRanges.find? (fun x => decide (x.core = core) && decide (x.gen = gen) && releasable s x) = some r)
    (hs : r.saved = false) : Leaves (.tileRangeRelease core gen) s fun s' =>
      rangeAt s' r.id = none ∧ s'.mem = s.mem ∧ ∀ k i j, k < r.count → i < 32 → j < 32 →
        tileGet s' (tileKey core r.engine (r.base + k) i j) = 0 := by
  have hfound := List.find?_some hr
  simp only [Bool.and_eq_true, decide_eq_true_eq] at hfound
  obtain ⟨⟨hcore, -⟩, -⟩ := hfound
  let s1 := dropRange (zeroTiles s r 0 r.count) r.id
  have hexec : exec (.tileRangeRelease core gen) s
      = .next { s1 with tileOps := s1.tileOps.filter fun o => decide (o.range ≠ r.id) } := by
    change execTileRangeRelease core gen s = _
    unfold execTileRangeRelease
    rw [hr]
    dsimp only
    rw [hs, if_neg Bool.false_ne_true]
  refine ⟨_, hexec, ?_, rfl, fun k i j hk hi hj => ?_⟩
  · unfold rangeAt
    rw [List.find?_eq_none]
    intro x hx
    simpa using (List.mem_filter.mp hx).2
  · rw [← hcore]
    exact tileGet_zeroed ht hk hi hj

/-! ### Pages -/

/-- A claimed page begins to move once it stands still and a frame is free. -/
theorem pageMove_begins {s : State} {tag page f : Nat} {m : PageMove} {e : TlbEntry}
    (hm : s.moves.find? (fun m => decide (m.tag = tag) && decide (m.page = page) && m.moving.isNone) = some m)
    (hw : walk s (ctxOf s tag) (page * 65536) = .ok e) (hb : frameBusy s (e.pa / 65536) = false)
    (hf : freeFrame s (ctxOf s tag).partition m.die = some f) : Leaves (.pageMove tag page) s fun s' =>
      { m with moving := some (f, e.pa / 65536) } ∈ s'.moves ∧ s'.mem = s.mem := by
  have hfound := List.find?_some hm
  simp only [Bool.and_eq_true, decide_eq_true_eq] at hfound
  obtain ⟨hnamed, -⟩ := hfound
  have hexec : exec (.pageMove tag page) s = .next { s with moves := s.moves.map fun x =>
      if x.tag = tag ∧ x.page = page then { x with moving := some (f, e.pa / 65536) } else x } := by
    change execPageMove tag page s = _
    unfold execPageMove
    rw [hm]
    dsimp only
    rw [hw]
    dsimp only
    rw [hb, if_neg Bool.false_ne_true, hf]
  exact ⟨_, hexec, List.mem_map.mpr ⟨m, List.mem_of_find?_eq_some hm, if_pos hnamed⟩, rfl⟩

theorem find?_putPair (k v : Nat) (l : List (Nat × Nat)) : (putPair k v l).find? (fun x => decide (x.1 = k)) = some (k, v) := by
  unfold putPair
  have hgone : (l.filter fun x => !decide (x.1 = k)).find? (fun x => decide (x.1 = k)) = none := by
    rw [List.find?_eq_none]
    intro x hx
    simpa using (List.mem_filter.mp hx).2
  rw [List.find?_append, hgone]
  simp

/-- The move ends, and the page's addresses have the home of its new frame. -/
theorem pageMoveComplete_leaves {s : State} {tag page f old : Nat} {m : PageMove}
    (hm : s.moves.find? (fun m => decide (m.tag = tag) && decide (m.page = page)) = some m) (hf : m.moving = some (f, old)) :
    Leaves (.pageMoveComplete tag page) s fun s' => (∀ x ∈ s'.moves, ¬ (x.tag = tag ∧ x.page = page)) ∧ s'.mem = s.mem
      ∧ ∀ off, off < 65536 → homeOf s' (old * 65536 + off) = homeDie (f * 65536) := by
  have hexec : exec (.pageMoveComplete tag page) s = .next
      { dropMove s tag page with rehomed := putPair old f s.rehomed,
                                 l2data := s.l2data.filter fun l => decide (l.line / 512 ≠ old) } := by
    change execPageMoveComplete tag page s = _
    unfold execPageMoveComplete
    rw [hm, Option.bind_some, hf]
  refine ⟨_, hexec, fun x hx => ?_, rfl, fun off hoff => ?_⟩
  · rintro ⟨htag, hpage⟩
    simpa [htag, hpage] using (List.mem_filter.mp hx).2
  · have hframe : (old * 65536 + off) / 65536 = old := by omega
    unfold homeOf
    dsimp only
    rw [hframe, find?_putPair]

end Sys2Proof.Machine
end

section
/-! PROOFS. The dispatch of a tile operation (10 R205, R213, R214). -/

namespace Sys2Proof.Machine

open Sys2Proof (Byte Word DWord Instr)

set_option Elab.async false

/-! ### Operations and ranges by number -/

theorem opAt_putOp {s : State} {id : Nat} {o x : TileOp} (h : opAt s id = some o) (hx : x.id = o.id) : opAt (putOp s x) id = some x :=
  find?_replace TileOp.id h hx

theorem id_of_opAt {s : State} {id : Nat} {o : TileOp} (h : opAt s id = some o) : o.id = id := by
  simpa using List.find?_some h

theorem id_of_rangeAt {s : State} {id : Nat} {r : TileRange} (h : rangeAt s id = some r) : r.id = id := by
  simpa using List.find?_some h

theorem rangeAt_mapRange {s : State} {id : Nat} {r r1 : TileRange} (h : rangeAt s id = some r) (hr : r1.id = r.id) :
    rangeAt (mapRange s r.id fun _ => r1) id = some r1 := by
  rw [← hr]
  exact find?_replace TileRange.id h hr

/-! ### A range bound to its engine -/

/-- Tiles apart, the state stands; they stay in canonical form. -/
structure TilesAlone (s s' : State) : Prop where
  rest : s' = { s with tiles := s'.tiles }
  canonical : cellsFrom 0 s.tiles = true → cellsFrom 0 s'.tiles = true

theorem TilesAlone.refl (s : State) : TilesAlone s s := ⟨rfl, id⟩

theorem TilesAlone.trans {s s1 s2 : State} (h : TilesAlone s s1) (k : TilesAlone s1 s2) : TilesAlone s s2 := by
  refine ⟨?_, k.canonical ∘ h.canonical⟩
  have hrest := k.rest
  rw [h.rest] at hrest
  exact hrest

section
variable {s s' : State} (h : TilesAlone s s')
include h

theorem TilesAlone.mem : s'.mem = s.mem := by rw [h.rest]

theorem TilesAlone.ops : s'.tileOps = s.tileOps := by rw [h.rest]

theorem TilesAlone.nextOp : s'.nextOp = s.nextOp := by rw [h.rest]

theorem TilesAlone.rangeAt (id : Nat) : rangeAt s' id = Machine.rangeAt s id := by rw [h.rest]; rfl

theorem TilesAlone.opAt (id : Nat) : opAt s' id = Machine.opAt s id := by rw [h.rest]; rfl

end

theorem tilesAlone_tileSet (s : State) (k : Nat) (v : Word) : TilesAlone s (tileSet s k v) := ⟨rfl, fun h => tileSet_canonical h k v⟩

theorem tilesAlone_zeroTiles (s : State) (r : TileRange) (t0 n : Nat) : TilesAlone s (zeroTiles s r t0 n) :=
  ⟨rfl, fun h => zeroTiles_canonical h r t0 n⟩

theorem tilesAlone_putImage (r : TileRange) : ∀ (im : List (Nat × Word)) (s : State), TilesAlone s (putImage r s im) := by
  intro im
  induction im with
  | nil => exact TilesAlone.refl
  | cons x im ih => exact fun s => (tilesAlone_tileSet s _ _).trans (ih _)

/-- The engine a range is on once one of its operations is dispatched. -/
def engineOf (s : State) (r : TileRange) : Nat := if r.bound then r.engine else chooseEngine s r

def boundRange (s : State) (r : TileRange) : TileRange := { r with engine := engineOf s r, bound := true }

/-- The state with the range of an operation bound. -/
def boundState (s : State) (r : TileRange) : State := if r.bound then s else bindRange s r (chooseEngine s r)

/-- What binding a range leaves. -/
structure BoundIn (s s' : State) (id : Nat) (r : TileRange) : Prop where
  range : rangeAt s' id = some r
  ops : s'.tileOps = s.tileOps
  next : s'.nextOp = s.nextOp
  mem : s'.mem = s.mem
  canonical : cellsFrom 0 s.tiles = true → cellsFrom 0 s'.tiles = true

theorem bindRange_binds {s : State} {id e : Nat} {r : TileRange} (hr : rangeAt s id = some r) :
    BoundIn s (bindRange s r e) id { r with engine := e, bound := true } := by
  let r1 := { r with engine := e, bound := true }
  let s1 := if r.engine = e then s else putImage r1 (zeroTiles s r 0 r.count) (rangeImage s r)
  have halone : TilesAlone s s1 := by
    unfold s1
    split
    · exact TilesAlone.refl s
    · exact (tilesAlone_zeroTiles s r 0 r.count).trans (tilesAlone_putImage r1 _ _)
  exact ⟨rangeAt_mapRange ((halone.rangeAt id).trans hr) rfl, halone.ops, halone.nextOp, halone.mem, halone.canonical⟩

theorem boundState_binds {s : State} {id : Nat} {r : TileRange} (hr : rangeAt s id = some r) :
    BoundIn s (boundState s r) id (boundRange s r) := by
  unfold boundState boundRange engineOf
  split
  · next hb =>
    refine ⟨hr.trans ?_, rfl, rfl, rfl, fun h => h⟩
    rw [← hb]
  · exact bindRange_binds hr

/-! ### The dispatch -/

section
variable {s : State} {o : TileOp} {r : TileRange} (hr : rangeAt s o.range = some r)
include hr

theorem dispatchOp_fence (hk : o.kind = .fence) :
    dispatchOp s o = { boundState s r with tileOps := (boundState s r).tileOps.filter fun x => !decide (x.id = o.id) } := by
  unfold dispatchOp
  rw [hr]
  dsimp only
  rw [if_pos hk]
  rfl

/-- An operation dispatched is the next in order on its engine. -/
def dispatched (s : State) (o : TileOp) : State :=
  putOp { s with nextOp := s.nextOp + 1 } { o with state := .dispatched, order := s.nextOp }

theorem dispatchOp_other (hk : o.kind ≠ .fence) :
    dispatchOp s o = if isTask o && decide (o.fmt.toNat / 256 % 4 = 1) && decide (o.order = 0) then
      zeroTiles (dispatched (boundState s r) o) (boundRange s r) 0 (taskTiles o) else dispatched (boundState s r) o := by
  have hbound : (rangeAt (boundState s r) o.range).getD r = boundRange s r := by rw [(boundState_binds hr).range]; rfl
  rw [← hbound]
  unfold dispatchOp
  rw [hr]
  dsimp only
  rw [if_neg hk]
  rfl

theorem dispatchOp_tiles (hk : o.kind ≠ .fence) : TilesAlone (dispatched (boundState s r) o) (dispatchOp s o) := by
  rw [dispatchOp_other hr hk]
  split
  · exact tilesAlone_zeroTiles _ _ _ _
  · exact TilesAlone.refl _

end

/-- A dispatch binds the range of its operation, and zeroes the region of an overwriting task. -/
theorem taskDispatch_leaves {s : State} {core : Nat} {o : TileOp} {r : TileRange} (ht : cellsFrom 0 s.tiles = true)
    (hf : s.tileOps.find? (fun x => decide (x.core = core) && opReady s x) = some o) (hr : rangeAt s o.range = some r)
    (ho : opAt s o.id = some o) :
    Leaves (.taskDispatch core) s fun s' => s'.mem = s.mem
      ∧ rangeAt s' o.range = some (boundRange s r)
      ∧ (o.kind = .fence → opAt s' o.id = none)
      ∧ (o.kind ≠ .fence → opAt s' o.id = some { o with state := .dispatched, order := s.nextOp })
      ∧ (isTask o = true → o.fmt.toNat / 256 % 4 = 1 → o.order = 0 → ∀ k, k < taskTiles o → ∀ i j, i < 32 → j < 32 →
          tileGet s' (tileKey r.core (engineOf s r) (r.base + k) i j) = 0) := by
  have hexec : exec (.taskDispatch core) s = .next (dispatchOp s o) := by
    change execTaskDispatch core s = _
    unfold execTaskDispatch
    rw [hf]
  obtain ⟨hrange, hops, hnext, hmem, hcanonical⟩ := boundState_binds hr
  refine ⟨_, hexec, ?_⟩
  by_cases hk : o.kind = .fence
  case pos =>
    rw [dispatchOp_fence hr hk]
    refine ⟨hmem, hrange, fun _ => ?_, fun h => absurd hk h, fun htask => ?_⟩
    · unfold opAt
      rw [List.find?_eq_none]
      intro x hx
      simpa using (List.mem_filter.mp hx).2
    · rw [isTask, hk] at htask
      exact absurd htask (by decide)
  case neg =>
    have halone := dispatchOp_tiles hr hk
    refine ⟨halone.mem.trans hmem, (halone.rangeAt _).trans hrange, fun h => absurd h hk, fun _ => (halone.opAt _).trans ?_,
      fun htask hover hfirst k hlt i j hi hj => ?_⟩
    · rw [← hnext]
      have hat : opAt (boundState s r) o.id = some o := by unfold opAt; rw [hops]; exact ho
      exact opAt_putOp (s := { boundState s r with nextOp := (boundState s r).nextOp + 1 }) hat rfl
    · have hzeroed : dispatchOp s o = zeroTiles (dispatched (boundState s r) o) (boundRange s r) 0 (taskTiles o) := by
        rw [dispatchOp_other hr hk, htask, hover, hfirst]
        rfl
      rw [hzeroed]
      exact tileGet_zeroed (r := boundRange s r) (hcanonical ht) hlt hi hj

end Sys2Proof.Machine
end

section
/-! PROOFS. The steps of a task (10 R219, 03 R66): each accumulator element of the region is folded once, from what it held. -/

namespace Sys2Proof.Machine

open Sys2Proof (Byte Word DWord Instr)

set_option Elab.async false

/-! ### What a step's accesses leave -/

/-- Memory, tiles and operations stand. -/
structure WorkAlone (s s' : State) : Prop where
  mem : s'.mem = s.mem
  tiles : s'.tiles = s.tiles
  ops : s'.tileOps = s.tileOps

theorem WorkAlone.refl (s : State) : WorkAlone s s := ⟨rfl, rfl, rfl⟩

theorem WorkAlone.trans {s s1 s2 : State} (h : WorkAlone s s1) (k : WorkAlone s1 s2) : WorkAlone s s2 :=
  ⟨k.mem.trans h.mem, k.tiles.trans h.tiles, k.ops.trans h.ops⟩

theorem CachesAlone.work {s s' : State} (h : CachesAlone s s') : WorkAlone s s' := by
  unfold CachesAlone at h
  rw [h]
  exact ⟨rfl, rfl, rfl⟩

theorem workAlone_operandFetch (o : TileOp) (s : State) (p : DWord) : WorkAlone s (operandFetch o s p) := by
  unfold operandFetch
  split
  · exact WorkAlone.refl s
  · next g loc _ =>
    cases hf : engineFetch s (opUser s o) g loc 1 none with
    | error => exact WorkAlone.refl s
    | ok s1 => exact (cachesAlone_engineFetch hf).work

theorem workAlone_fetches (o : TileOp) : ∀ (ps : List DWord) (s : State), WorkAlone s (ps.foldl (operandFetch o) s) := by
  intro ps
  induction ps with
  | nil => exact WorkAlone.refl
  | cons p ps ih => exact fun s => (workAlone_operandFetch o s p).trans (ih _)

theorem workAlone_start (s : State) (e : Nat) : WorkAlone s (if isIdleLong s e then makeStart s e else s) := by
  split
  · exact ⟨rfl, rfl, rfl⟩
  · exact WorkAlone.refl s

theorem workAlone_count (c k n : Nat) (s : State) : WorkAlone s (count c k n s) :=
  ⟨count_mem c k n s, count_tiles c k n s, count_tileOps c k n s⟩

theorem opAt_of_ops {s s' : State} (h : s'.tileOps = s.tileOps) (id : Nat) : opAt s' id = opAt s id := by
  unfold opAt
  rw [h]

/-! ### Elements folded one after another -/

/-- Elements changed in turn, each from what it holds then. -/
def foldCells {α : Type} (key : α → Nat) (new : α → Word → Word) (l : List α) (s : State) : State :=
  l.foldl (fun s x => tileSet s (key x) (new x (tileGet s (key x)))) s

section
variable {α : Type} {key : α → Nat} {new : α → Word → Word}

theorem tilesAlone_foldCells : ∀ (l : List α) (s : State), TilesAlone s (foldCells key new l s) := by
  intro l
  induction l with
  | nil => exact TilesAlone.refl
  | cons x l ih => exact fun s => (tilesAlone_tileSet s _ _).trans (ih _)

theorem foldCells_other {k : Nat} : ∀ {l : List α} {s : State}, cellsFrom 0 s.tiles = true → k ∉ l.map key →
    tileGet (foldCells key new l s) k = tileGet s k := by
  intro l
  induction l with
  | nil => exact fun _ _ => rfl
  | cons x l ih =>
    intro s hs hk
    rw [List.map_cons, List.mem_cons, not_or] at hk
    obtain ⟨hx, hl⟩ := hk
    exact (ih (tileSet_canonical hs _ _) hl).trans ((tileGet_set hs _ _ _).trans (if_neg hx))

/-- An element whose key no other has is changed once, from what it held at first. -/
theorem foldCells_get {x : α} : ∀ {l : List α} {s : State}, cellsFrom 0 s.tiles = true → (l.map key).Nodup → x ∈ l →
    tileGet (foldCells key new l s) (key x) = new x (tileGet s (key x)) := by
  intro l
  induction l with
  | nil => exact fun _ _ hx => absurd hx List.not_mem_nil
  | cons y l ih =>
    intro s hs hn hx
    rw [List.map_cons, List.nodup_cons] at hn
    obtain ⟨hy, hl⟩ := hn
    have hs1 := tileSet_canonical hs (key y) (new y (tileGet s (key y)))
    rcases List.mem_cons.mp hx with rfl | hx
    · exact (foldCells_other hs1 hy).trans ((tileGet_set hs _ _ _).trans (if_pos rfl))
    · have hne : key x ≠ key y := fun h => hy (h ▸ List.mem_map_of_mem hx)
      refine (ih hs1 hl hx).trans (congrArg (new x) ?_)
      exact (tileGet_set hs _ _ _).trans (if_neg hne)

end

/-! ### The region of a step -/

theorem mem_indexed {α : Type} {l : List α} {i : Nat} {x : α} : (i, x) ∈ indexed l ↔ l[i]? = some x := by
  unfold indexed
  rw [List.mem_iff_getElem?]
  constructor
  · rintro ⟨n, hn⟩
    obtain ⟨hi, hx⟩ := List.getElem?_zip_eq_some.mp hn
    obtain ⟨hlt, hval⟩ := List.getElem?_eq_some_iff.mp hi
    rw [List.getElem_range] at hval
    subst hval
    exact hx
  · intro hx
    obtain ⟨hlt, -⟩ := List.getElem?_eq_some_iff.mp hx
    exact ⟨i, List.getElem?_zip_eq_some.mpr ⟨List.getElem?_range hlt, hx⟩⟩

theorem nodup_indexed {α : Type} (l : List α) : (indexed l).Nodup := by
  refine List.Nodup.of_map Prod.fst ?_
  unfold indexed
  rw [List.map_fst_zip (by rw [List.length_range])]
  exact List.nodup_range

/-- An element of a step's region: a row of A and a column of B, with their numbers. -/
abbrev StepCell : Type := (Nat × List (Option Nat) × Option Nat) × (Nat × List (Option Nat) × Option Nat)

def StepCell.key (o : TileOp) (r : TileRange) (x : StepCell) : Nat := elemKey r 0 (shapeN o.shape) x.1.1 x.2.1

def StepCell.new (o : TileOp) (x : StepCell) (v : Word) : Word :=
  BitVec.ofNat 32 (foldElement o.fmt.toNat v.toNat x.1.2 x.2.2)

def stepCells (p : Panels) : List StepCell := (indexed p.a).product (indexed p.b)

theorem foldStep_cells (o : TileOp) (r : TileRange) (p : Panels) (s : State) :
    foldStep o r p s = foldCells (StepCell.key o r) (StepCell.new o) (stepCells p) s := by
  unfold foldCells stepCells List.product
  rw [List.foldl_flatMap]
  simp only [List.foldl_map]
  rfl

theorem nodup_stepCells {o : TileOp} {r : TileRange} {p : Panels} (hb : p.b.length = 32 * shapeN o.shape) :
    ((stepCells p).map (StepCell.key o r)).Nodup := by
  refine List.Nodup.map_on ?_ ((nodup_indexed p.a).product (nodup_indexed p.b))
  rintro ⟨⟨i, x⟩, j, y⟩ hx ⟨⟨i', x'⟩, j', y'⟩ hx' hkey
  obtain ⟨hi, hj⟩ := List.pair_mem_product.mp hx
  obtain ⟨hi', hj'⟩ := List.pair_mem_product.mp hx'
  rw [mem_indexed] at hi hj hi' hj'
  obtain ⟨hjlt, -⟩ := List.getElem?_eq_some_iff.mp hj
  obtain ⟨hjlt', -⟩ := List.getElem?_eq_some_iff.mp hj'
  obtain ⟨rfl, rfl⟩ := elemKey_inj (hb ▸ hjlt) (hb ▸ hjlt') hkey
  rw [hi] at hi'
  rw [hj] at hj'
  obtain rfl := Option.some.inj hi'
  obtain rfl := Option.some.inj hj'
  rfl

/-- A step folds its row and column into each element of its region (03 R66). -/
theorem foldStep_get {o : TileOp} {r : TileRange} {p : Panels} {s : State} {i j : Nat} {x y : List (Option Nat) × Option Nat}
    (hs : cellsFrom 0 s.tiles = true) (hb : p.b.length = 32 * shapeN o.shape) (hx : p.a[i]? = some x) (hy : p.b[j]? = some y) :
    tileGet (foldStep o r p s) (elemKey r 0 (shapeN o.shape) i j)
      = BitVec.ofNat 32 (foldElement o.fmt.toNat (tileGet s (elemKey r 0 (shapeN o.shape) i j)).toNat x y) := by
  rw [foldStep_cells]
  exact foldCells_get (x := ((i, x), (j, y))) hs (nodup_stepCells hb)
    (List.pair_mem_product.mpr ⟨mem_indexed.mpr hx, mem_indexed.mpr hy⟩)

theorem length_readAll {α β : Type} {f : α → Except EngineStop β} : ∀ {l : List α} {vs : List β}, readAll f l = .ok vs →
    vs.length = l.length := by
  intro l
  induction l with
  | nil => intro vs h; cases h; rfl
  | cons x l ih =>
    intro vs h
    unfold readAll at h
    split at h
    · cases h
    · split at h
      · cases h
      · next hrest =>
        cases h
        rw [List.length_cons, List.length_cons, ih hrest]

theorem panelsRead_columns {s : State} {o : TileOp} {maps : Option Bitmaps} {p : Panels} (h : panelsRead s o maps = .ok p) :
    p.b.length = 32 * shapeN o.shape := by
  unfold panelsRead at h
  dsimp only at h
  split at h
  · cases h
  · split at h
    · cases h
    · next hb =>
      cases h
      exact (length_readAll hb).trans List.length_range

/-! ### A step -/

/-- With no error to show, the residue check lets the step stand (21 R337). -/
theorem checkedStep_clean {s : State} {o : TileOp} {r : TileRange} {maps : Option Bitmaps}
    (he : pendingErrors (coreOf s o.core) r.engine = 0) (hr : (coreOf s o.core).retried.contains (stepKey o r) = false) :
    checkedStep s o r maps = performStep s o r maps := by
  unfold checkedStep
  dsimp only
  split
  · exact checkResidue_clean he hr
  · rfl

/-- What a step needs, brought to its engine, which is started if it stood long. -/
def stepReady (s : State) (o : TileOp) (r : TileRange) (maps : Option Bitmaps) : State :=
  let e := o.core * 4 + r.engine
  (maskPointers o ++ stepPointers o maps).foldl (operandFetch o) (if isIdleLong s e then makeStart s e else s)

theorem workAlone_stepReady (s : State) (o : TileOp) (r : TileRange) (maps : Option Bitmaps) : WorkAlone s (stepReady s o r maps) :=
  (workAlone_start s _).trans (workAlone_fetches o _ _)

/-- A step's folds made, and the step counted. -/
def stepped (s : State) (o : TileOp) (r : TileRange) (maps : Option Bitmaps) (p : Panels) : State :=
  let e := o.core * 4 + r.engine
  let s1 := foldStep o r p (stepReady s o r maps)
  count o.core (0x0304 + 16 * r.engine) 1
    (putOp { s1 with engineLast := putPair e (now s) s1.engineLast } { o with step := o.step + 1 })

theorem performStep_executed {s : State} {o : TileOp} {r : TileRange} {maps : Option Bitmaps} {p : Panels} (he : executes maps = true)
    (hstart : isIdleLong s (o.core * 4 + r.engine) = false ∨ mayStart s (o.core * 4 + r.engine) = true)
    (hp : panelsRead s o maps = .ok p) : performStep s o r maps = stepped s o r maps p := by
  have hgo : ¬ (isIdleLong s (o.core * 4 + r.engine) && !mayStart s (o.core * 4 + r.engine)) = true := by
    rcases hstart with h | h <;> simp [h]
  unfold performStep
  dsimp only
  rw [he, Bool.not_true, if_neg Bool.false_ne_true, if_neg hgo, hp]
  rfl

/-- A step executed folds its region, and the operation is a step on. -/
theorem stepped_leaves {s : State} {id : Nat} {o0 o : TileOp} {r : TileRange} {maps : Option Bitmaps} {p : Panels}
    (ht : cellsFrom 0 s.tiles = true) (ho : opAt s id = some o0) (hid : o.id = o0.id) (hb : p.b.length = 32 * shapeN o.shape) :
    opAt (stepped s o r maps p) id = some { o with step := o.step + 1 } ∧ (stepped s o r maps p).mem = s.mem
      ∧ ∀ i j x y, p.a[i]? = some x → p.b[j]? = some y →
        tileGet (stepped s o r maps p) (elemKey r 0 (shapeN o.shape) i j)
          = BitVec.ofNat 32 (foldElement o.fmt.toNat (tileGet s (elemKey r 0 (shapeN o.shape) i j)).toNat x y) := by
  obtain ⟨hmem, htiles, hops⟩ := workAlone_stepReady s o r maps
  have hfold : TilesAlone (stepReady s o r maps) (foldStep o r p (stepReady s o r maps)) := by
    rw [foldStep_cells]
    exact tilesAlone_foldCells _ _
  refine ⟨(opAt_of_ops (count_tileOps ..) id).trans (opAt_putOp ((hfold.opAt id).trans ((opAt_of_ops hops id).trans ho)) hid),
    (count_mem ..).trans (hfold.mem.trans hmem), fun i j x y hx hy => ?_⟩
  have hget := foldStep_get (r := r) (htiles.symm ▸ ht) hb hx hy
  unfold tileGet at hget ⊢
  rw [htiles] at hget
  unfold stepped
  rw [count_tiles]
  exact hget

/-- A step without present elements only counts. -/
theorem skipped_leaves {s : State} {id : Nat} {o0 o : TileOp} {r : TileRange} {maps : Option Bitmaps} (ho : opAt s id = some o0)
    (hid : o.id = o0.id) (he : executes maps = false) :
    opAt (performStep s o r maps) id = some { o with step := o.step + 1 } ∧ (performStep s o r maps).tiles = s.tiles
      ∧ (performStep s o r maps).mem = s.mem := by
  obtain ⟨hmem, htiles, hops⟩ := workAlone_fetches o (maskPointers o) s
  unfold performStep
  dsimp only
  rw [he, Bool.not_false, if_pos rfl]
  exact ⟨(opAt_of_ops (count_tileOps ..) id).trans (opAt_putOp ((opAt_of_ops hops id).trans ho) hid), (count_tiles ..).trans htiles,
    (count_mem ..).trans hmem⟩

section
variable {s : State} {id : Nat} {o : TileOp} {r : TileRange} {m : Option (List Word)} (ho : opAt s id = some o)
  (hr : rangeAt s o.range = some r) (htask : isTask o = true) (hwork : atWork s o = true) (hstep : o.step < taskSteps o)
  (hm : maskRead s o = .ok m)
include ho hr htask hwork hstep hm

theorem taskStep_dense (hk : o.kind = .task) : exec (.taskStep id) s = .next (checkedStep s { o with rows := m } r none) := by
  change execTaskStep id s = _
  unfold execTaskStep
  rw [ho]
  dsimp only
  rw [hr]
  dsimp only
  rw [htask, hwork, decide_eq_true hstep, Bool.and_self, Bool.and_self, if_pos rfl, hm]
  dsimp only
  rw [if_neg (by rw [hk]; decide)]

theorem taskStep_sparse (hk : o.kind = .sparseTask) {b : Bitmaps} (hb : bitmapsRead s { o with rows := m } = .ok b) :
    exec (.taskStep id) s = .next (checkedStep s { o with rows := m } r (some b)) := by
  change execTaskStep id s = _
  unfold execTaskStep
  rw [ho]
  dsimp only
  rw [hr]
  dsimp only
  rw [htask, hwork, decide_eq_true hstep, Bool.and_self, Bool.and_self, if_pos rfl, hm]
  dsimp only
  rw [if_pos hk, hb]

end

end Sys2Proof.Machine
end

section
/-! PROOFS. The end of a tile operation (10 R212, R214, R222). -/

namespace Sys2Proof.Machine

open Sys2Proof (Byte Word DWord Instr)

set_option Elab.async false

/-! ### Operations complete -/

/-- A complete operation is in no batch of its thread; memory and tiles stand. -/
theorem completeOp_leaves (s : State) (o : TileOp) :
    Reported (completeOp s o) o.launch o.thread o.id ∧ (completeOp s o).mem = s.mem ∧ (completeOp s o).tiles = s.tiles := by
  have halone := rowsAlone_finishFor { putOp s { o with state := .complete } with
    tileOps := pruneOps o (putOp s { o with state := .complete }).tileOps } o.launch o.thread o.id 0
  exact ⟨(cleared_finishFor _ _ _ _ _).reported, halone.mem, halone.tiles⟩

/-! ### Canonical NaNs -/

theorem cellGet_map {n : Nat} {f : Nat → BitVec n → BitVec n} (h0 : ∀ k, f k 0 = 0) (m : List (Nat × BitVec n)) (k : Nat) :
    cellGet (m.map fun x => (x.1, f x.1 x.2)) k = f k (cellGet m k) := by
  induction m with
  | nil => exact (h0 k).symm
  | cons x m ih =>
    rw [List.map_cons, cellGet, cellGet]
    split
    · exact (h0 k).symm
    · split
      · next hk => rw [hk]
      · exact ih

/-- What stands for an element between two keys when its task is complete. -/
def settled (lo hi k : Nat) (v : Word) : Word :=
  if lo ≤ k ∧ k < hi ∧ isNan (fmtF32.decode v.toNat) = true then 0x7FC00000 else v

theorem settled_zero (lo hi k : Nat) : settled lo hi k 0 = 0 := by
  have hzero : isNan (fmtF32.decode (0 : Word).toNat) = false := by decide
  rw [settled, hzero, if_neg]
  simp

theorem canonicalRegion_tiles {o : TileOp} (r : TileRange) (s : State) (hf : o.fmt.toNat % 16 ≠ 6) :
    (canonicalRegion o r s).tiles = s.tiles.map fun x =>
      (x.1, settled (tileKey r.core r.engine r.base 0 0) (tileKey r.core r.engine (r.base + taskTiles o) 0 0) x.1 x.2) := by
  unfold canonicalRegion
  rw [if_neg hf]
  refine List.map_congr_left fun x _ => ?_
  unfold settled
  split <;> rfl

theorem canonicalRegion_mem (o : TileOp) (r : TileRange) (s : State) : (canonicalRegion o r s).mem = s.mem := by
  unfold canonicalRegion
  split <;> rfl

/-- In a complete task's region a NaN is the canonical one; an integer task has none. -/
theorem tileGet_canonicalRegion {o : TileOp} {r : TileRange} {s : State} {i j : Nat} (hi : i < 32 * shapeM o.shape)
    (hj : j < 32 * shapeN o.shape) :
    tileGet (canonicalRegion o r s) (elemKey r 0 (shapeN o.shape) i j)
      = if isNan (fmtF32.decode (tileGet s (elemKey r 0 (shapeN o.shape) i j)).toNat) = true ∧ o.fmt.toNat % 16 ≠ 6 then 0x7FC00000
        else tileGet s (elemKey r 0 (shapeN o.shape) i j) := by
  by_cases hf : o.fmt.toNat % 16 = 6
  · rw [if_neg fun h => h.2 hf, canonicalRegion, if_pos hf]
  · obtain ⟨hlo, hhi⟩ := elemKey_within (r := r) (t0 := 0) hi hj
    unfold tileGet
    rw [canonicalRegion_tiles r s hf, cellGet_map (settled_zero _ _), settled]
    simp only [Nat.add_zero] at hlo hhi
    simp [hf, hlo, show elemKey r 0 (shapeN o.shape) i j < tileKey r.core r.engine (r.base + taskTiles o) 0 0 from hhi]

/-! ### Moves -/

/-- The operation's number and its thread are the same. -/
structure SameOp (o o1 : TileOp) : Prop where
  id : o1.id = o.id
  launch : o1.launch = o.launch
  thread : o1.thread = o.thread

theorem SameOp.refl (o : TileOp) : SameOp o o := ⟨rfl, rfl, rfl⟩

theorem SameOp.trans {o o1 o2 : TileOp} (h : SameOp o o1) (k : SameOp o1 o2) : SameOp o o2 :=
  ⟨k.id.trans h.id, k.launch.trans h.launch, k.thread.trans h.thread⟩

theorem sameOp_moveWrite (s : State) (o : TileOp) (p : DWord) (n v : Nat) : SameOp o (moveWrite s o p n v).2.1 := by
  unfold moveWrite
  split
  · exact SameOp.refl o
  · split
    · exact SameOp.refl o
    · exact ⟨rfl, rfl, rfl⟩

theorem sameOp_moveRead (s : State) (o : TileOp) (p : DWord) (key : Nat) : SameOp o (moveRead s o p key).2.1 := by
  unfold moveRead
  split
  · exact SameOp.refl o
  · split
    · exact SameOp.refl o
    · exact ⟨rfl, rfl, rfl⟩

theorem sameOp_movePiece (s : State) (o : TileOp) (r : TileRange) (i : Nat) : SameOp o (movePiece s o r i).2.1 := by
  unfold movePiece
  dsimp only
  split
  · exact sameOp_moveRead _ _ _ _
  · exact sameOp_moveWrite _ _ _ _ _
  · unfold convertPiece
    dsimp only
    split
    · exact sameOp_moveWrite _ _ _ _ _
    · split
      · exact sameOp_moveWrite _ _ _ _ _
      · exact sameOp_moveWrite _ _ _ _ _
  · exact SameOp.refl o

theorem sameOp_moveSteps (r : TileRange) : ∀ (n : Nat) (s : State) (o : TileOp), SameOp o (moveSteps r n s o).2.1 := by
  intro n
  induction n with
  | zero => exact fun _ o => SameOp.refl o
  | succ n ih =>
    intro s o
    have hfirst := sameOp_movePiece s o r o.progress
    unfold moveSteps
    split
    · next s1 o1 hrun =>
      rw [hrun] at hfirst
      obtain ⟨hid, hlaunch, hthread⟩ := ih s1 { o1 with progress := o1.progress + 1 }
      exact hfirst.trans ⟨hid, hlaunch, hthread⟩
    · exact hfirst

theorem moveRun_of_steps {s s1 : State} {o o1 : TileOp} {r : TileRange}
    (h : moveSteps r (movePieces o - o.progress) s o = (s1, o1, none)) : moveRun s o r = (s1, o1, none) := by
  unfold moveRun
  rw [h]

/-! ### Completion by kind -/

section
variable {s : State} {id : Nat} {o : TileOp} {r : TileRange} (ho : opAt s id = some o) (hr : rangeAt s o.range = some r)
  (hwork : atWork s o = true)
include ho hr hwork

theorem taskComplete_leaves (ht : isTask o = true) (hdone : taskSteps o ≤ o.step) : Leaves (.tileOpComplete id) s fun s' =>
    Reported s' o.launch o.thread id ∧ s'.mem = s.mem
      ∧ ∀ i j, i < 32 * shapeM o.shape → j < 32 * shapeN o.shape →
        tileGet s' (elemKey r 0 (shapeN o.shape) i j)
          = if isNan (fmtF32.decode (tileGet s (elemKey r 0 (shapeN o.shape) i j)).toNat) = true ∧ o.fmt.toNat % 16 ≠ 6
            then 0x7FC00000 else tileGet s (elemKey r 0 (shapeN o.shape) i j) := by
  have hexec : exec (.tileOpComplete id) s = .next (completeOp (canonicalRegion o r s) o) := by
    change execTileOpComplete id s = _
    unfold execTileOpComplete
    rw [ho]
    dsimp only
    rw [hr]
    dsimp only
    rw [hwork, Bool.not_true, if_neg Bool.false_ne_true, ht, if_pos rfl, if_neg (by omega)]
  obtain ⟨hreported, hmem, htiles⟩ := completeOp_leaves (canonicalRegion o r s) o
  refine ⟨_, hexec, id_of_opAt ho ▸ hreported, hmem.trans (canonicalRegion_mem o r s), fun i j hi hj => ?_⟩
  rw [← tileGet_canonicalRegion hi hj]
  unfold tileGet
  rw [htiles]

theorem zeroComplete_leaves (hc : cellsFrom 0 s.tiles = true) (hk : o.kind = .zero) : Leaves (.tileOpComplete id) s fun s' =>
    Reported s' o.launch o.thread id ∧ s'.mem = s.mem
      ∧ ∀ i j, i < 32 * shapeM o.ctl → j < 32 * shapeN o.ctl →
        tileGet s' (elemKey r (moveT0 o.ctl) (shapeN o.ctl) i j) = 0 := by
  have hexec : exec (.tileOpComplete id) s
      = .next (completeOp (zeroTiles s r (moveT0 o.ctl) (shapeM o.ctl * shapeN o.ctl)) o) := by
    have ht : isTask o = false := by rw [isTask, hk]; rfl
    change execTileOpComplete id s = _
    unfold execTileOpComplete
    rw [ho]
    dsimp only
    rw [hr]
    dsimp only
    rw [hwork, Bool.not_true, if_neg Bool.false_ne_true, ht, if_neg Bool.false_ne_true, if_pos hk]
  obtain ⟨hreported, hmem, htiles⟩ := completeOp_leaves (zeroTiles s r (moveT0 o.ctl) (shapeM o.ctl * shapeN o.ctl)) o
  refine ⟨_, hexec, id_of_opAt ho ▸ hreported, hmem, fun i j hi hj => ?_⟩
  obtain ⟨hlo, hhi⟩ := elemKey_within (r := r) (t0 := moveT0 o.ctl) hi hj
  rw [← tileGet_zeroTiles hc hlo hhi]
  unfold tileGet
  rw [htiles]

theorem moveComplete_leaves {s1 : State} {o1 : TileOp} (ht : isTask o = false) (hk : o.kind ≠ .zero)
    (hrun : moveSteps r (movePieces o - o.progress) s o = (s1, o1, none)) : Leaves (.tileOpComplete id) s fun s' =>
    Reported s' o.launch o.thread id ∧ s'.mem = s1.mem ∧ s'.tiles = s1.tiles := by
  have hexec : exec (.tileOpComplete id) s = .next (completeOp s1 o1) := by
    change execTileOpComplete id s = _
    unfold execTileOpComplete
    rw [ho]
    dsimp only
    rw [hr]
    dsimp only
    rw [hwork, Bool.not_true, if_neg Bool.false_ne_true, ht, if_neg Bool.false_ne_true, if_neg hk, moveRun_of_steps hrun]
  obtain ⟨hid, hlaunch, hthread⟩ : SameOp o o1 := by
    have hsame := sameOp_moveSteps r (movePieces o - o.progress) s o
    rw [hrun] at hsame
    exact hsame
  obtain ⟨hreported, hmem, htiles⟩ := completeOp_leaves s1 o1
  rw [hid, hlaunch, hthread, id_of_opAt ho] at hreported
  exact ⟨_, hexec, hreported, hmem, htiles⟩

end

end Sys2Proof.Machine

open Sys2Proof Sys2Proof.Machine

/-- Settles O47, event by event: a copy's run keeps the table of copies and its own number; a report takes the operation out of every
batch in whatever rows its thread has; and the elements of a region have keys of their own, so that a step folds each of them once. -/
theorem engineEvents : Obligations.EngineEvents := by
  rintro s id ⟨-, htiles⟩
  refine ⟨?copyMoves, ?copyAsks, ?unacked, ?copyCompletes, ?dispatch, ?steps, ?completes, ?release, ?pageMove, ?pageMoveComplete⟩
  case copyMoves => exact fun c s1 c1 hc hready hasked hsteps => copyStart_moves hc hready hasked hsteps
  case copyAsks => exact fun c s1 c1 p va loc s2 hc hready hasked hrun hm => copyStart_asks hc hready hasked hrun hm
  case unacked => exact fun c c1 s1 p n v g loc hrun hl => putBytes_unacked hrun hl
  case copyCompletes => exact fun c hc hm => ⟨copyComplete_leaves hc hm, copyComplete_waits hc⟩
  case dispatch => exact fun core o r hf hr ho => taskDispatch_leaves htiles hf hr ho
  case steps =>
    intro o r m ho hr htask hwork hstep hm he hretried o1 nb executed
    have hclean : ∀ maps, checkedStep s o1 r maps = performStep s o1 r maps := fun maps => checkedStep_clean he hretried
    have hexecuted : ∀ maps, exec (.taskStep id) s = .next (checkedStep s o1 r maps) → executed maps := by
      intro maps hexec p hmaps hstart hp
      obtain ⟨hop, hmem, hfold⟩ := stepped_leaves (o := o1) (r := r) (maps := maps) htiles ho rfl (panelsRead_columns hp)
      exact ⟨_, hexec.trans (congrArg _ ((hclean maps).trans (performStep_executed hmaps hstart hp))), hop, hmem,
        fun i j x y _ _ hx hy => hfold i j x y hx hy⟩
    refine ⟨fun hk => hexecuted none (taskStep_dense ho hr htask hwork hstep hm hk), fun hk b hb => ?_⟩
    have hexec := taskStep_sparse ho hr htask hwork hstep hm hk hb
    exact ⟨hexecuted (some b) hexec, fun hskip => ⟨_, hexec.trans (congrArg _ (hclean (some b))), skipped_leaves ho rfl hskip⟩⟩
  case completes =>
    exact fun o r ho hr hwork => ⟨taskComplete_leaves ho hr hwork, zeroComplete_leaves ho hr hwork htiles,
      fun s1 o1 => moveComplete_leaves ho hr hwork⟩
  case release => exact fun core gen r hr hs => tileRangeRelease_leaves htiles hr hs
  case pageMove => exact fun tag page m e f hm hw hb hf => pageMove_begins hm hw hb hf
  case pageMoveComplete => exact fun tag page m f old hm hf => pageMoveComplete_leaves hm hf
end

section
/-! PROOFS. The stream registers of a thread: a stream put in its place, and what materialising, skipping and advancing leave of the
thread and of the stream's binding. -/

namespace Sys2Proof.Machine

open Sys2Proof (Byte Word DWord Instr)

set_option Elab.async false

/-! ### Streams found by their numbers -/

/-- A row inserted where none has its key is the one found under it. -/
theorem find?_insertBy_self {α : Type} (key : α → Nat) (x : α) : ∀ l : List α, (∀ y ∈ l, key y ≠ key x) →
    (insertBy key x l).find? (fun y => decide (key y = key x)) = some x := by
  intro l
  induction l with
  | nil => intro _; simp [insertBy]
  | cons y ys ih =>
    intro h
    have hy := h y List.mem_cons_self
    rw [insertBy]
    split
    · simp
    · rw [List.find?_cons, decide_eq_false hy]
      exact ih fun z hz => h z (List.mem_cons_of_mem _ hz)

theorem streamAt_putStream_self (t : Thread) (x : Stream) : streamAt (putStream t x) x.snum = some x :=
  find?_insertBy_self Stream.snum x _ fun y hy => by simpa using (List.mem_filter.mp hy).2

theorem snum_of_streamAt {t : Thread} {n : Nat} {x : Stream} (h : streamAt t n = some x) : x.snum = n := by
  simpa using List.find?_some h

theorem sourcesOf_bound {t : Thread} {d a b : Stream} (ha : streamAt t d.linkA = some a) (hb : streamAt t d.linkB = some b) :
    sourcesOf t d = (a, b) := by
  unfold sourcesOf; rw [ha, hb]; rfl

/-! ### The rest of the thread -/

/-- Nothing of a thread but its streams has changed. -/
def StreamsAlone (t u : Thread) : Prop := u = { t with streams := u.streams }

theorem StreamsAlone.refl (t : Thread) : StreamsAlone t t := rfl

theorem StreamsAlone.trans {t u v : Thread} (h : StreamsAlone t u) (k : StreamsAlone u v) : StreamsAlone t v := by
  unfold StreamsAlone at h k ⊢
  rw [k, h]

theorem streamsAlone_putStream (t : Thread) (x : Stream) : StreamsAlone t (putStream t x) := rfl

theorem streamsAlone_dropStream (t : Thread) (n : Nat) : StreamsAlone t (dropStream t n) := rfl

theorem streamsAlone_materialiseDerived {s : State} {t u : Thread} {d : Stream} (h : materialiseDerived s t d = .ok u) :
    StreamsAlone t u := by
  unfold materialiseDerived at h
  split at h
  · cases h; exact .refl t
  · dsimp only at h
    split at h
    · split at h
      · cases h
      · cases h; rfl
    · split at h
      · cases h
      · split at h
        · cases h
        · cases h; rfl

theorem streamsAlone_materialise {s : State} {t u : Thread} {x : Stream} (h : materialise s t x = .ok u) : StreamsAlone t u := by
  unfold materialise at h
  split at h
  · split at h
    · cases h
    · cases h; rfl
  · exact streamsAlone_materialiseDerived h
  · exact streamsAlone_materialiseDerived h
  · split at h
    · cases h; exact .refl t
    · exact streamsAlone_materialiseDerived h
  · cases h; exact .refl t

theorem streamsAlone_advanceStream (t : Thread) (n : Nat) : StreamsAlone t (advanceStream t n) := by
  unfold advanceStream
  split
  · exact .refl t
  · split
    · rfl
    · split
      · exact .refl t
      · rfl
    · split
      · exact .refl t
      · rfl
    · exact .refl t

theorem streamsAlone_stepTimes {s : State} {n : Nat} : ∀ (k : Nat) (gone : List Nat) {t u : Thread},
    stepTimes s n k gone t = .ok u → StreamsAlone t u := by
  intro k
  induction k with
  | zero => intro gone t u h; cases h; exact .refl t
  | succ k ih =>
    intro gone t u h
    rw [stepTimes] at h
    split at h
    · cases h; exact .refl t
    · split at h
      · cases h
      · rename_i hm
        have hthread := streamsAlone_materialise hm
        split at h
        · cases h; exact hthread
        · exact (hthread.trans (streamsAlone_advanceStream _ n)).trans (ih _ h)

theorem streamsAlone_doSkip {s : State} {t u : Thread} {n : Nat} {v : Word} (h : doSkip s t n v = .ok u) : StreamsAlone t u := by
  unfold doSkip at h
  split at h
  · cases h
  · dsimp only at h
    split at h
    case h_1 =>
      split at h
      · cases h
      · cases h; rfl
    case h_4 => cases h
    all_goals
      split at h
      · cases h
      · split at h
        · cases h
        · refine StreamsAlone.trans ?_ (streamsAlone_materialiseDerived h)
          rfl

theorem streamsAlone_doSkipN {s : State} {t u : Thread} {n : Nat} {v : Word} (h : doSkipN s t n v = .ok u) : StreamsAlone t u := by
  unfold doSkipN at h
  split at h
  · cases h
  · split at h
    · cases h
    · cases h
    · split at h
      · cases h; exact .refl t
      · split at h
        · cases h
        · split at h
          · exact streamsAlone_stepTimes _ _ h
          · split at h
            · cases h
            · cases h; rfl
    · split at h
      · cases h; exact .refl t
      · exact streamsAlone_stepTimes _ _ h

/-! ### The binding of a stream -/

/-- A stream as it stands later: its number, its role, and the copy of its entry. -/
structure SameBinding (x y : Stream) : Prop where
  snum : y.snum = x.snum
  role : y.role = x.role
  copy : ∀ e, x.copy = some e → y.copy = some e

theorem SameBinding.refl (x : Stream) : SameBinding x x := ⟨rfl, rfl, fun _ h => h⟩

theorem SameBinding.trans {x y z : Stream} (h : SameBinding x y) (k : SameBinding y z) : SameBinding x z :=
  ⟨k.snum.trans h.snum, k.role.trans h.role, fun e he => k.copy e (h.copy e he)⟩

theorem sameBinding_startFibre {s : State} {t : Thread} {x y : Stream} {e : Entry} (h : startFibre s t x e = .ok y) :
    SameBinding x y := by
  unfold startFibre at h
  split at h
  · cases h; exact .refl x
  · split at h
    · cases h
    · split at h
      · cases h
      · split at h
        · cases h
        · cases h; exact ⟨rfl, rfl, fun _ h => h⟩

theorem streamEntry_copy {x : Stream} {e : Entry} (s : State) (t : Thread) (h : x.copy = some e) : streamEntry s t x = .ok e := by
  unfold streamEntry; rw [h]

theorem sameBinding_materialiseLevel {s : State} {t : Thread} {x y : Stream} (h : materialiseLevel s t x = .ok y) :
    SameBinding x y := by
  unfold materialiseLevel at h
  split at h
  · cases h; exact .refl x
  · split at h
    · cases h
    · rename_i e hentry
      have hcopied : SameBinding x { x with copy := some e } :=
        ⟨rfl, rfl, fun e' he => by rw [streamEntry_copy s t he] at hentry; cases hentry; rfl⟩
      split at h
      · cases h
      · rename_i x1 hstart
        have hstarted := hcopied.trans (sameBinding_startFibre hstart)
        split at h
        · cases h
        · dsimp only at h
          split at h
          · cases h; exact hstarted.trans ⟨rfl, rfl, fun _ h => h⟩
          · split at h
            · cases h
            · cases h; exact hstarted.trans ⟨rfl, rfl, fun _ h => h⟩

theorem sameBinding_exhaust (d : Stream) : SameBinding d (exhaust d) := ⟨rfl, rfl, fun _ h => h⟩

theorem sameBinding_intersect {s : State} {t : Thread} {d : Stream} : ∀ (n : Nat) (a b : Stream) {r : Stream × Stream × Stream},
    intersect s t d n a b = .ok r → SameBinding d r.2.2 := by
  intro n
  induction n with
  | zero => intro a b r h; cases h; exact .refl d
  | succ n ih =>
    intro a b r h
    rw [intersect] at h
    split at h
    · cases h
    · split at h
      · cases h; exact sameBinding_exhaust d
      · split at h
        · cases h
        · split at h
          · cases h; exact sameBinding_exhaust d
          · split at h
            · cases h; exact ⟨rfl, rfl, fun _ h => h⟩
            · split at h
              · split at h
                · cases h
                · exact ih _ _ h
              · split at h
                · cases h
                · exact ih _ _ h

theorem sameBinding_intersectAll {s : State} {t : Thread} {d a b : Stream} {r : Stream × Stream × Stream}
    (h : intersectAll s t d a b = .ok r) : SameBinding d r.2.2 := by
  unfold intersectAll at h
  split at h
  · cases h
  · split at h
    · cases h; exact sameBinding_exhaust d
    · split at h
      · cases h
      · exact sameBinding_intersect _ _ _ h

/-- A stream keeps its binding in its own row when it is materialised as a derived one. -/
theorem streamAt_materialiseDerived {s : State} {t u : Thread} {d : Stream} (hd : streamAt t d.snum = some d)
    (h : materialiseDerived s t d = .ok u) : ∃ d1, streamAt u d.snum = some d1 ∧ SameBinding d d1 := by
  have hput : ∀ (v : Thread) (d1 : Stream), SameBinding d d1 →
      ∃ d2, streamAt (putStream v d1) d.snum = some d2 ∧ SameBinding d d2 :=
    fun v d1 hsame => ⟨d1, by rw [← hsame.snum]; exact streamAt_putStream_self v d1, hsame⟩
  unfold materialiseDerived at h
  split at h
  · cases h; exact ⟨d, hd, .refl d⟩
  · dsimp only at h
    split at h
    · split at h
      · cases h
      · rename_i a b d1 hmeet
        cases h
        exact hput _ d1 (sameBinding_intersectAll hmeet)
    · split at h
      · cases h
      · split at h
        · cases h
        · cases h
          refine hput _ _ ?_
          repeat' split
          all_goals exact ⟨rfl, rfl, fun _ h => h⟩

/-- So does an advanced one. -/
theorem streamAt_advanceStream {t : Thread} {n : Nat} {x : Stream} (h : streamAt t n = some x) :
    ∃ y, streamAt (advanceStream t n) n = some y ∧ SameBinding x y := by
  have hput : ∀ (v : Thread) (y : Stream), SameBinding x y → ∃ z, streamAt (putStream v y) n = some z ∧ SameBinding x z :=
    fun v y hsame => ⟨y, by rw [← snum_of_streamAt h, ← hsame.snum]; exact streamAt_putStream_self v y, hsame⟩
  have hderived : ∀ b : Bool, ∃ y, streamAt (if b = true then t else
      putStream (putStream (putStream t (if goesOn x (sourcesOf t x).1 then advanceLevel (sourcesOf t x).1 else (sourcesOf t x).1))
        (if goesOn x (sourcesOf t x).2 then advanceLevel (sourcesOf t x).2 else (sourcesOf t x).2))
        { x with pos := x.pos + 1, valid := false, crd := 0 }) n = some y ∧ SameBinding x y := by
    intro b
    cases b with
    | true => exact ⟨x, h, .refl x⟩
    | false => exact hput _ _ ⟨rfl, rfl, fun _ h => h⟩
  unfold advanceStream
  rw [h]
  dsimp only
  split
  · refine hput _ _ ?_
    unfold advanceLevel
    split
    · exact .refl x
    · exact ⟨rfl, rfl, fun _ h => h⟩
  · exact hderived _
  · exact hderived _
  · exact ⟨x, h, .refl x⟩

end Sys2Proof.Machine
end

section
/-! PROOFS. A run of one word that notes a stream act, in a group of one thread: the act is performed at its word's turn after the run
(12 R253), and the lane then lands. -/

namespace Sys2Proof.Machine

open Sys2Proof (Byte Word DWord Instr)

set_option Elab.async false

/-! ### Passes of one access (04 R88) -/

/-- A greatest value of at most 1, from 1 on. -/
theorem foldl_max_one {f : Nat → Nat} (hf : ∀ b, f b ≤ 1) (l : List Nat) : l.foldl (fun m b => max m (f b)) 1 = 1 := by
  induction l with
  | nil => rfl
  | cons b l ih => rw [List.foldl_cons, Nat.max_eq_left (hf b)]; exact ih

/-- One lane's access of one word takes one pass, or none where it reaches no cell store, and replays none. -/
theorem replayPasses_one (n : Nat) {w : List Nat} (hw : w.length ≤ 1) : replayPasses false 4 [(n, w)] = 0 := by
  have hdistinct : (distinct w).length ≤ 1 := by
    match w, hw with
    | [], _ => exact Nat.zero_le 1
    | [_], _ => exact Nat.le_refl 1
  have hpass : passesOf false [w] = 1 := by
    unfold passesOf
    rw [if_neg (List.cons_ne_nil _ _)]
    simp only [Bool.false_eq_true, if_false, List.flatten_cons, List.flatten_nil, List.append_nil]
    exact foldl_max_one (fun b => (List.length_filter_le _ _).trans hdistinct) _
  have hnone : passesOf false [] = 0 := rfl
  simp [replayPasses, subGroup, List.range_succ, hpass, hnone]

/-! ### The lane after the words of its run -/

/-- A lane that goes on, has read no stream, and has noted one act at its run's word. -/
structure Noted (iss : Issue) (a : StreamAct) (t : Thread) : Prop where
  acts : t.acts = [(iss.pos, a)]
  reads : t.readS = []
  laneEnd : t.laneEnd = none
  next : t.next = .fall
  ask : t.ask = none
  posting : t.posting = none

/-- A lane with such a note, its own. -/
def noting (iss : Issue) (a : StreamAct) (t : Thread) : Thread := { t with acts := [(iss.pos, a)] }

theorem Idle.noted {t : Thread} (h : Idle t) (iss : Issue) (a : StreamAct) : Noted iss a (noting iss a t) := by
  obtain ⟨hreads, -, hend, hnext, -, hask, hposting, -, -⟩ := h
  exact ⟨rfl, hreads, hend, hnext, hask, hposting⟩

theorem Noted.streams {iss : Issue} {a : StreamAct} {t u : Thread} (h : Noted iss a t) (k : StreamsAlone t u) : Noted iss a u := by
  obtain ⟨hacts, hreads, hend, hnext, hask, hposting⟩ := h
  rw [k]; exact ⟨hacts, hreads, hend, hnext, hask, hposting⟩

theorem advanceRead_unread {t : Thread} (h : t.readS = []) : advanceRead t = t := by
  unfold advanceRead; rw [h]; rfl

/-- The run's one lane stands in its row. -/
structure LaneStands (s : State) (iss : Issue) (t : Thread) : Prop where
  issue : s.issue = some iss
  after : iss.after = []
  away : iss.away = []
  lanes : iss.lanes = [t.thread]
  launch : t.launch = iss.launch
  rows : (s.threads.map rowKey).Nodup
  row : t ∈ s.threads

theorem OneLane.stands {s : State} {iss : Issue} {g : BitVec 2} {t : Thread} (h : OneLane s iss g t) : LaneStands s iss t :=
  ⟨h.alone.issue, h.alone.after, h.alone.away, h.lanes, h.launch, h.alone.rows, h.row⟩

section
variable {s : State} {iss : Issue} {t : Thread} (h : LaneStands s iss t)
include h

theorem LaneStands.put {s' : State} {u : Thread} (hs : RunStands s s') (hu : rowKey u = rowKey t) : LaneStands (putThread s' u) iss u := by
  have hname : u.launch = t.launch ∧ u.thread = t.thread := by simpa [rowKey] using hu
  refine ⟨hs.issue.trans h.issue, h.after, h.away, h.lanes.trans (by rw [hname.2]), hname.1.trans h.launch,
    by rw [putThread_keys, hs.threads]; exact h.rows, ?_⟩
  exact List.mem_map.mpr ⟨t, hs.threads ▸ h.row, if_pos ((isThread_key _ _ _).mpr hu.symm)⟩

theorem LaneStands.threadAt : threadAt s iss.launch t.thread = some t := h.launch ▸ threadAt_of_mem h.rows h.row

theorem LaneStands.inGroup_iff {x : Thread} : inGroup iss x = true ↔ isThread t.launch t.thread x = true := by
  rw [Machine.inGroup_iff h.away, h.lanes, List.mem_singleton, ← h.launch, isThread_key]
  simp [rowKey]

theorem LaneStands.eq_of_inGroup {x : Thread} (hx : x ∈ s.threads) (hin : inGroup iss x = true) : x = t :=
  row_unique h.rows hx h.row ((isThread_key _ _ _).mp (h.inGroup_iff.mp hin))

/-- A lane that has read no stream leaves the end of its run by landing. -/
theorem LaneStands.closed (hr : t.readS = []) : Machine.closed iss s = { putThread s (landed iss t) with issue := none } := by
  have hname : (landed iss t).launch = t.launch ∧ (landed iss t).thread = t.thread := by simpa [rowKey] using landed_key iss t
  unfold Machine.closed putThread
  dsimp only
  rw [hname.1, hname.2]
  congr 1
  refine List.map_congr_left fun x hx => ?_
  by_cases hin : inGroup iss x = true
  · rw [if_pos hin, if_pos (h.inGroup_iff.mp hin), h.eq_of_inGroup hx hin, advanceRead_unread hr]
  · rw [if_neg hin, if_neg (fun e => hin (h.inGroup_iff.mpr e))]

theorem LaneStands.settle {a : StreamAct} (ht : Noted iss a t) : Machine.settle s = Machine.closed iss s := by
  have hlane : settleLane iss s t.thread = putThread s (landed iss t) := by
    unfold settleLane landed
    rw [h.threadAt]
    dsimp only
    rw [ht.laneEnd, ht.next]
  rw [settle_one h.issue h.after h.lanes hlane, h.closed ht.reads]

/-! ### The stream effects of the run -/

theorem LaneStands.groupThreads : (groupLanes iss).filterMap (Machine.threadAt s iss.launch) = [t] := by
  rw [groupLanes_all h.away, h.lanes, List.filterMap_cons, h.threadAt]; rfl

/-- At another word position the lane acts on nothing. -/
theorem LaneStands.actsAt_other {a : StreamAct} {p : Nat} (ht : t.acts = [(iss.pos, a)]) (hp : p ≠ iss.pos) : actsAt iss s p = s := by
  have hnone : (t.acts.filter fun a => decide (a.1 = p)) = [] := by simp [ht, hp.symm]
  have happends : appendLanes iss s p = [] := by
    unfold appendLanes
    rw [h.groupThreads]
    simp [appendPointer, hnone]
  unfold actsAt
  rw [happends, replayPasses_nil, count, if_pos rfl, h.lanes, List.foldl_cons, List.foldl_nil]
  unfold laneActs
  rw [h.threadAt]
  dsimp only
  rw [hnone]
  rfl

/-- The one lane's append replays no pass. -/
theorem LaneStands.appendPasses (p : Nat) : replayPasses false 4 (appendLanes iss s p) = 0 := by
  have hword : ∀ (g : Target) (w : List Nat), cellWords 4 g = some w → w.length ≤ 1 := by
    intro g w hw
    cases g <;> cases hw <;> simp
  unfold appendLanes
  rw [h.groupThreads, List.filterMap_cons, List.filterMap_nil]
  split
  · exact replayPasses_nil _ _
  · rename_i x hx
    split at hx
    · cases hx
    · obtain ⟨q, -, hx⟩ := Option.bind_eq_some_iff.mp hx
      split at hx
      · obtain ⟨w, hw, rfl⟩ := Option.map_eq_some_iff.mp hx
        exact replayPasses_one _ (hword _ w hw)
      · cases hx

/-- At its word's position it performs the act. -/
theorem LaneStands.actsAt_same {a : StreamAct} {s' : State} (ht : Noted iss a t) (ha : doAct s t a = .ok s') :
    actsAt iss s iss.pos = s' := by
  unfold actsAt
  rw [h.appendPasses, count, if_pos rfl, h.lanes, List.foldl_cons, List.foldl_nil]
  unfold laneActs
  rw [h.threadAt]
  dsimp only
  rw [ht.acts, List.filter_cons_of_pos (by simp), List.filter_nil, List.foldl_cons, List.foldl_nil, h.threadAt]
  dsimp only
  rw [ht.laneEnd, ha]
  rfl

/-- A lane that has read no stream advances none before its acts. -/
theorem LaneStands.advances (hr : t.readS = []) :
    { s with threads := s.threads.map fun x => if inGroup iss x && x.laneEnd.isNone then advanceRead x else x } = s := by
  have hstep : ∀ x ∈ s.threads, (if inGroup iss x && x.laneEnd.isNone then advanceRead x else x) = x := by
    intro x hx
    split
    · rename_i hin
      rw [h.eq_of_inGroup hx (Bool.and_eq_true_iff.mp hin).1, advanceRead_unread hr]
    · rfl
  rw [List.map_congr_left (g := id) hstep, List.map_id]

/-- The stream effects of the run are the act. -/
theorem LaneStands.streamPhase {a : StreamAct} {s' : State} {u : Thread} (ht : Noted iss a t) (hp : iss.pos < 3)
    (ha : doAct s t a = .ok s') (hs' : LaneStands s' iss u) (hu : Noted iss a u) : streamPhase s = s' := by
  have hbefore : ∀ p, p ≠ iss.pos → actsAt iss s p = s := fun p => h.actsAt_other ht.acts
  have hafter : ∀ p, p ≠ iss.pos → actsAt iss s' p = s' := fun p => hs'.actsAt_other hu.acts
  have hact := h.actsAt_same ht ha
  unfold Machine.streamPhase
  rw [h.issue]
  dsimp only
  rw [← h.issue, h.advances ht.reads]
  simp only [List.foldl_cons, List.foldl_nil]
  obtain hpos | hpos | hpos : iss.pos = 0 ∨ iss.pos = 1 ∨ iss.pos = 2 := by omega
  all_goals rw [hpos] at hbefore hafter hact
  · rw [hact, hafter 1 (by decide), hafter 2 (by decide)]
  · rw [hbefore 0 (by decide), hact, hafter 2 (by decide)]
  · rw [hbefore 0 (by decide), hbefore 1 (by decide), hact]

theorem LaneStands.closeRun {a : StreamAct} (ht : Noted iss a t) : closeRun iss s = s := by
  have hstep : ∀ x ∈ s.threads, (if x.launch = iss.launch ∧ x.thread ∈ iss.lanes then closePosting (closeAsk x) else x) = x := by
    intro x hx
    split
    · rename_i hin
      rw [h.eq_of_inGroup hx ((Machine.inGroup_iff h.away x).mpr hin), closeAsk, ht.ask]
      dsimp only
      rw [closePosting, ht.posting]
    · rfl
  unfold Machine.closeRun
  rw [List.map_congr_left (g := id) hstep, List.map_id]

theorem LaneStands.endedLanes {a : StreamAct} (ht : Noted iss a t) : endedLanes s iss = [] :=
  endedLanes_nil fun _ hx hin => h.eq_of_inGroup hx hin ▸ ht.laneEnd

end

/-! ### The run -/

section
variable {s : State} {iss : Issue} {g : BitVec 2} {t w : Thread} {a : StreamAct} {f : State → Issue → Thread → Except LaneEnd Thread}
  (h : OneLane s iss g t) (hp : iss.pos < 3) (hf : f s iss t = .ok w) (hw : rowKey w = rowKey t) (hn : Noted iss a w)
include h hp hf hw hn

/-- A word that notes an act: what the act leaves, the lane landed. -/
theorem OneLane.laneWord_act {s' : State} {u : Thread} (ha : doAct (putThread s w) w a = .ok s') (hs' : LaneStands s' iss u)
    (hu : Noted iss a u) : laneWord g f s = .next (closed iss s') := by
  have hbody : Machine.mapLanes g f s = putThread s w := h.mapLanes hw (by unfold laneStep; rw [if_pos h.isLive, hf])
  have heffects : runEffects iss (putThread s w) = s' := by
    unfold runEffects
    rw [(h.stands.put (RunStands.refl s) hw).streamPhase hn hp ha hs' hu, hs'.closeRun hu]
  unfold laneWord
  rw [wordRun_settled h.alone.issue h.alone.chained (by rw [hbody, heffects]; exact hs'.endedLanes hu), hbody, heffects, hs'.settle hu]

/-- The same for an act on the lane's own streams. -/
theorem OneLane.laneWord_ownAct {u : Thread} (ha : doAct (putThread s w) w a = .ok (putThread (putThread s w) u))
    (hu : StreamsAlone w u) : laneWord g f s = .next (closed iss (putThread (putThread s w) u)) := by
  have hkey : rowKey u = rowKey w := by rw [hu]; rfl
  exact h.laneWord_act hp hf hw hn ha ((h.stands.put (RunStands.refl s) hw).put (RunStands.refl _) hkey) (hn.streams hu)

end

end Sys2Proof.Machine
end

section
/-! PROOFS. What the stream acts do (12 R253 to R261), and the words that note them. -/

namespace Sys2Proof.Machine

open Sys2Proof (Byte Word DWord Instr)

set_option Elab.async false

/-! ### Skips -/

theorem startFibre_started {x : Stream} (h : x.started = true) (s : State) (t : Thread) (e : Entry) : startFibre s t x e = .ok x := by
  unfold startFibre; rw [if_pos h]

section
variable {s : State} {t : Thread} {n : Nat} {v : Word} {x : Stream} (hx : streamAt t n = some x)
include hx

theorem doSkip_refused (hr : x.role = .slave ∨ x.role = .append) :
    doSkip s t n v = .error (.trap .illegalOperand) ∧ doSkipN s t n v = .error (.trap .illegalOperand) := by
  unfold doSkip doSkipN
  rw [hx]
  rcases hr with hr | hr <;> exact ⟨by simp only [hr], by simp only [hr]⟩

theorem doSkip_level {x1 : Stream} (hr : x.role = .level) (hskip : skipLevel s t x v.toNat = .ok x1) :
    doSkip s t n v = .ok (putStream t x1) := by
  unfold doSkip
  rw [hx]
  simp only [hr, hskip]

theorem doSkip_derived {a b a1 b1 : Stream} (hr : x.role = .intersection ∨ x.role = .union) (ha : streamAt t x.linkA = some a)
    (hb : streamAt t x.linkB = some b) (hskipA : skipLevel s t a v.toNat = .ok a1) (hskipB : skipLevel s t b v.toNat = .ok b1) :
    doSkip s t n v = materialiseDerived s (putStream (putStream (putStream t a1) b1) { x with valid := false, crd := 0 })
      { x with valid := false, crd := 0 } := by
  unfold doSkip
  rw [hx]
  rcases hr with hr | hr <;> simp only [hr, sourcesOf_bound ha hb, hskipA, hskipB]

theorem doSkipN_none (hr : x.role = .intersection ∨ x.role = .union ∨ x.role = .level) : doSkipN s t n 0 = .ok t := by
  unfold doSkipN
  rw [hx]
  rcases hr with hr | hr | hr <;> simp [hr]

/-- A fibre that has begun moves by the count, up to its end, and materialises nothing. -/
theorem doSkipN_begun {e : Entry} (hr : x.role = .level) (hs : x.started = true) (he : streamEntry s t x = .ok e) (hk : e.kind ≠ 2)
    (hv : v ≠ 0) : doSkipN s t n v = .ok (putStream t
      { x with copy := some e, pos := min (x.pos + v.toNat) x.fin, valid := false, done := false, crd := 0 }) := by
  unfold doSkipN
  rw [hx]
  simp only [hr, hv, hk, he, startFibre_started, hs, if_false]

end

/-- A skip by count goes over the stream element by element: it is derived, or a bitmap (12 R260). -/
def ByElements (x : Stream) : Prop :=
  (x.role = .intersection ∨ x.role = .union) ∨ (x.role = .level ∧ ∃ e, x.copy = some e ∧ e.kind = 2)

theorem ByElements.same {x y : Stream} (h : ByElements x) (k : SameBinding x y) : ByElements y := by
  unfold ByElements at h ⊢
  rw [k.role]
  exact h.imp id fun ⟨hr, e, he, hk⟩ => ⟨hr, e, k.copy e he, hk⟩

theorem doSkipN_byElements {t : Thread} {n : Nat} {v : Word} {x : Stream} (s : State) (hx : streamAt t n = some x) (hb : ByElements x)
    (hv : v ≠ 0) : doSkipN s t n v = stepTimes s n v.toNat [] t := by
  unfold doSkipN
  rw [hx]
  rcases hb with (hr | hr) | ⟨hr, e, he, hk⟩
  · simp only [hr, hv, if_false]
  · simp only [hr, hv, if_false]
  · simp only [hr, hv, if_false, streamEntry_copy s t he, hk, if_true]

theorem stepTimes_succ {s : State} {t t1 : Thread} {n : Nat} {x y : Stream} (hx : streamAt t n = some x)
    (hm : materialise s t x = .ok t1) (hy : streamAt t1 n = some y) (k : Nat) (gone : List Nat) :
    stepTimes s n (k + 1) gone t
      = if y.done then .ok t1 else stepTimes s n k (gone ++ advancedBy t1 n) (advanceStream t1 n) := by
  rw [stepTimes, hx]
  dsimp only
  rw [hm]
  dsimp only
  rw [hy]
  rfl

/-- Which streams have been advanced matters to a malformed end alone. -/
theorem stepTimes_gone {s : State} {n : Nat} : ∀ (k : Nat) (gone gone' : List Nat) {t u : Thread},
    stepTimes s n k gone t = .ok u → stepTimes s n k gone' t = .ok u := by
  intro k
  induction k with
  | zero => exact fun _ _ _ _ h => h
  | succ k ih =>
    intro gone gone' t u h
    rw [stepTimes] at h ⊢
    split at h
    · exact h
    · split at h
      · cases h
      · split at h
        · rw [if_pos ‹_›]; exact h
        · rw [if_neg ‹_›]; exact ih _ _ h

theorem materialise_binding {s : State} {t t1 : Thread} {n : Nat} {x y : Stream} (hb : ByElements x) (hx : streamAt t n = some x)
    (hm : materialise s t x = .ok t1) (hy : streamAt t1 n = some y) : SameBinding x y := by
  have hn := snum_of_streamAt hx
  have hderived : materialiseDerived s t x = .ok t1 → SameBinding x y := by
    intro h
    obtain ⟨d1, hd1, hsame⟩ := streamAt_materialiseDerived (hn ▸ hx) h
    rw [hn, hy] at hd1
    cases hd1
    exact hsame
  unfold materialise at hm
  rcases hb with (hr | hr) | ⟨hr, -⟩
  · rw [hr] at hm; exact hderived hm
  · rw [hr] at hm; exact hderived hm
  · rw [hr] at hm
    dsimp only at hm
    split at hm
    · cases hm
    · rename_i x1 hlevel
      have hsame := sameBinding_materialiseLevel hlevel
      cases hm
      rw [← hn, ← hsame.snum, streamAt_putStream_self] at hy
      cases hy
      exact hsame

/-- A skip by count materialises; exhausted the stream stays so, and otherwise it advances and skips the rest. -/
theorem doSkipN_turns {s : State} {t t1 : Thread} {n : Nat} {v : Word} {x y : Stream} (hx : streamAt t n = some x) (hb : ByElements x)
    (hm : materialise s t x = .ok t1) (hy : streamAt t1 n = some y) :
    (y.done = true → v ≠ 0 → doSkipN s t n v = .ok t1)
    ∧ (y.done = false → v = 1 → doSkipN s t n v = .ok (advanceStream t1 n))
    ∧ ∀ u, y.done = false → 1 < v.toNat → doSkipN s (advanceStream t1 n) n (v - 1) = .ok u → doSkipN s t n v = .ok u := by
  have hsame := materialise_binding hb hx hm hy
  refine ⟨fun hdone hv => ?_, fun hdone hv => ?_, fun u hdone hv hrest => ?_⟩
  · obtain ⟨k, hk⟩ : ∃ k, v.toNat = k + 1 := Nat.exists_eq_succ_of_ne_zero fun h => hv (BitVec.eq_of_toNat_eq h)
    rw [doSkipN_byElements s hx hb hv, hk, stepTimes_succ hx hm hy, hdone, if_pos rfl]
  · subst hv
    rw [doSkipN_byElements s hx hb (by decide), show (1 : Word).toNat = 0 + 1 from rfl, stepTimes_succ hx hm hy, hdone]
    rfl
  · obtain ⟨z, hz, hon⟩ := streamAt_advanceStream hy
    have hless : (v - 1).toNat = v.toNat - 1 := by bv_omega
    have hv0 : v ≠ 0 := by rintro rfl; exact absurd hv (by decide)
    have hv1 : v - 1 ≠ 0 := fun h0 => by rw [h0] at hless; exact absurd hless (by simp; omega)
    rw [doSkipN_byElements s hz (hb.same (hsame.trans hon)) hv1, hless] at hrest
    rw [doSkipN_byElements s hx hb hv0, show v.toNat = v.toNat - 1 + 1 by omega, stepTimes_succ hx hm hy, hdone]
    exact stepTimes_gone _ _ _ hrest

/-! ### Binding, deriving, releasing -/

theorem doBind_binds {s : State} {t : Thread} {n : Nat} {a : DWord} {p : Word} {e : Entry} (hn : isTied t n = false)
    (he : readEntry s t a = .ok e) : doBind s t n a p = .ok (putStream t (boundStream n a p e)) := by
  unfold doBind; rw [hn, he]; rfl

/-- Two level streams made the sources of a derived one. -/
def tie (t : Thread) (d a b : Nat) (x y : Stream) (role : Role) : Thread :=
  putStream (putStream (putStream t { x with role := .slave, linkA := d, linkB := 0 }) { y with role := .slave, linkA := d, linkB := 1 })
    { snum := d, role := role, linkA := a, linkB := b }

theorem doDerive_ties {t : Thread} {d a b : Nat} {x y : Stream} (hda : d ≠ a) (hdb : d ≠ b) (hab : a ≠ b)
    (hx : streamAt t a = some x) (hy : streamAt t b = some y) (hrx : x.role = .level) (hry : y.role = .level)
    (hd : isTied t d = false) (isUnion : Bool) :
    doDerive t d a b isUnion = .ok (tie t d a b x y (if isUnion then .union else .intersection)) := by
  have hlevelA : isLevel t a = true := by unfold isLevel; rw [hx]; simp [hrx]
  have hlevelB : isLevel t b = true := by unfold isLevel; rw [hy]; simp [hry]
  have hsources : sourcesOf t { snum := d, linkA := a, linkB := b } = (x, y) := sourcesOf_bound hx hy
  unfold isTied at hd
  unfold doDerive tie
  dsimp only
  rw [hlevelA, hlevelB, decide_eq_false hab, decide_eq_false hda, decide_eq_false hdb, hsources]
  cases hz : streamAt t d with
  | none => rfl
  | some z =>
    rw [hz, Bool.not_eq_false'] at hd
    refine if_neg ?_
    dsimp only
    rw [hd]
    decide

theorem doFree_unbinds {t : Thread} {n : Nat} {x : Stream} (hx : streamAt t n = some x) (hr : x.role = .level ∨ x.role = .append) :
    doFree t n = .ok (dropStream t n) := by
  unfold doFree
  rw [hx]
  rcases hr with hr | hr <;> simp only [hr]

/-- A source that its derived stream gives back. -/
def untied (y : Stream) : Stream := { y with role := .level, linkA := 0, linkB := 0 }

theorem doFree_unties {t : Thread} {n : Nat} {x y z : Stream} (hx : streamAt t n = some x)
    (hr : x.role = .intersection ∨ x.role = .union) (hy : streamAt t x.linkA = some y) (hz : streamAt t x.linkB = some z) :
    doFree t n = .ok (dropStream (putStream (putStream t (untied y)) (untied z)) n) := by
  unfold doFree
  rw [hx]
  rcases hr with hr | hr <;> simp only [hr, sourcesOf_bound hy hz] <;> rfl

/-! ### Appends -/

/-- A store changes memory, the Felt, and of its thread the window, the buffer of stores and the count of those on the Felt. -/
theorem threadStore_row {s s' : State} {t : Thread} {p : DWord} {n v : Nat} (h : threadStore s t p n v = .ok s') :
    ∃ s1 u, s' = putThread s1 u ∧ RunStands s s1 ∧ u = { t with regs := u.regs, sbuf := u.sbuf, dieUnack := u.dieUnack } := by
  unfold threadStore at h
  split at h
  · cases h
  · rename_i g loc _
    unfold postStore at h
    cases g with
    | window off => cases h; exact ⟨_, _, rfl, .refl s, rfl⟩
    | cell l other =>
      dsimp only at h
      split at h
      · split at h
        · cases h; exact ⟨_, _, rfl, by rw [threadPost_felt]; exact ⟨rfl, rfl⟩, rfl⟩
        · cases h
      · cases h; exact ⟨_, _, rfl, ⟨rfl, rfl⟩, rfl⟩
    | virt va code =>
      dsimp only at h
      split at h
      · cases h
      · split at h
        · cases h
        · cases h; exact ⟨_, _, rfl, .refl s, rfl⟩
    | peer q va =>
      dsimp only at h
      split at h
      · cases h
      · split at h
        · cases h
        · split at h
          · cases h
          · cases h; exact ⟨_, _, rfl, .refl s, rfl⟩

theorem doAppend_stores {s : State} {t : Thread} {n : Nat} {v : Word} {x : Stream} {e : Entry} (hx : streamAt t n = some x)
    (hr : x.role = .append) (hroom : x.pos < x.fin) (he : streamEntry s t x = .ok e) :
    doAppend s t n v = threadStore s (putStream t { x with pos := x.pos + 1, copy := some e }) (plusBytes e.a0 (4 * x.pos)) 4 v.toNat := by
  unfold doAppend
  rw [hx]
  simp only [hr, he, ne_eq, not_true, if_false, Nat.not_le.mpr hroom]

/-! ### The words -/

theorem putThread_putThread {s : State} {u v : Thread} (h : rowKey u = rowKey v) : putThread (putThread s u) v = putThread s v := by
  unfold putThread
  dsimp only
  rw [List.map_map]
  congr 1
  refine List.map_congr_left fun x _ => ?_
  simp only [Function.comp]
  by_cases hx : isThread u.launch u.thread x = true
  · have hv : rowKey x = rowKey v := ((isThread_key _ _ _).mp hx).trans h
    rw [if_pos hx, if_pos ((isThread_key _ _ _).mpr h), if_pos ((isThread_key _ _ _).mpr hv)]
  · rw [if_neg hx]

theorem LaneStands.putThread_same {s : State} {iss : Issue} {t : Thread} (h : LaneStands s iss t) : putThread s t = s := by
  have hstep : ∀ x ∈ s.threads, (if isThread t.launch t.thread x then t else x) = x := by
    intro x hx
    split
    · rename_i hk
      exact (h.eq_of_inGroup hx (h.inGroup_iff.mpr hk)).symm
    · rfl
  unfold putThread
  rw [List.map_congr_left (g := id) hstep, List.map_id]

theorem addAct_idle {t : Thread} (h : Idle t) (iss : Issue) (a : StreamAct) : addAct iss a t = noting iss a t := by
  obtain ⟨-, hacts, -⟩ := h
  unfold addAct; rw [hacts]; rfl

/-- Rows of the lane that land alike leave the same run. -/
theorem LaneStands.closed_landed {s : State} {iss : Issue} {t u v w : Thread} (h : LaneStands s iss t) (hu : rowKey u = rowKey t)
    (hv : rowKey v = rowKey t) (hw : rowKey w = rowKey t) (hru : u.readS = []) (hrv : v.readS = []) (hl : landed iss v = landed iss u) :
    Machine.closed iss (putThread (putThread s w) v) = Machine.closed iss (putThread s u) := by
  have hland : rowKey (landed iss u) = rowKey t := (landed_key iss u).trans hu
  rw [((h.put (RunStands.refl s) hw).put (RunStands.refl _) (hv.trans hw.symm)).closed hrv, (h.put (RunStands.refl s) hu).closed hru, hl,
    putThread_putThread (hv.trans hland.symm), putThread_putThread (hw.trans hland.symm), putThread_putThread (hu.trans hland.symm)]

section
variable {s : State} {iss : Issue} {g : BitVec 2} {t u : Thread} {a : StreamAct}
  {f : State → Issue → Thread → Except LaneEnd Thread} (h : OneLane s iss g t) (hp : iss.pos < 3)
include h hp

/-- A word whose act changes its lane's own streams. -/
theorem OneLane.goes_noting (hf : f s iss t = .ok (addAct iss a t)) (hu : StreamsAlone (noting iss a t) u)
    (ha : doAct (putThread s (noting iss a t)) (noting iss a t) a = .ok (putThread (putThread s (noting iss a t)) u)) :
    laneWord g f s = .next (closed iss (putThread (putThread s (noting iss a t)) u)) :=
  h.laneWord_ownAct hp (hf.trans (congrArg _ (addAct_idle h.idle iss a))) rfl (h.idle.noted iss a) ha hu

/-- The same by what the act makes of the lane without its note, which is gone when the lane has landed. -/
theorem OneLane.goes_ownAct (hf : f s iss t = .ok (addAct iss a t)) (hu : StreamsAlone t u)
    (ha : doAct (putThread s (noting iss a t)) (noting iss a t) a
      = .ok (putThread (putThread s (noting iss a t)) (noting iss a u))) :
    laneWord g f s = .next (closed iss (putThread s u)) := by
  have hnoted : StreamsAlone (noting iss a t) (noting iss a u) := by rw [hu]; rfl
  have hkey : rowKey u = rowKey t := by rw [hu]; rfl
  have hreads : u.readS = [] := by
    obtain ⟨hreads, -⟩ := h.idle
    rw [hu]; exact hreads
  have hlanded : landed iss (noting iss a u) = landed iss u := by unfold landed noting; cases u.next <;> rfl
  rw [h.goes_noting hp hf hnoted ha, h.stands.closed_landed (v := noting iss a u) (w := noting iss a t) hkey hkey rfl hreads hreads hlanded]

end

end Sys2Proof.Machine
end

section
/-! PROOFS. The words that note stream acts, and what they leave (12 R253 to R261). -/

namespace Sys2Proof.Machine

open Sys2Proof (Byte Word DWord Instr)

set_option Elab.async false

theorem laneSbind_reads {s : State} {iss : Issue} {t u : Thread} {b : BitVec 7} {v : Word} (d a : BitVec 7)
    (h : src32 s iss t b = .ok (v, u)) :
    laneSbind d a b s iss t = .ok (addAct iss (.bind (streamNo d) (src64 s iss t a) v) u) := by
  unfold laneSbind; rw [h]

theorem laneSkip_reads {s : State} {iss : Issue} {t u : Thread} {b : BitVec 7} {v : Word} (f : Nat → Word → StreamAct) (a : BitVec 7)
    (h : src32 s iss t b = .ok (v, u)) : laneSkip f a b s iss t = .ok (addAct iss (f (streamNo a) v) u) := by
  unfold laneSkip; rw [h]

/-! ### A write of an append stream -/

/-- A result to a stream is noted as an append, and its latch is written at once. -/
theorem result32_append {iss : Issue} {t : Thread} {d : BitVec 7} (ht : Idle t) (hd : isStream d = true) (v : Word) :
    result32 iss .ab d 0 v t = setLatch iss .ab v (noting iss (.append (d.toNat - 68) v) t) := by
  obtain ⟨-, hacts, -⟩ := ht
  unfold result32 put32 addAppend
  rw [hd, if_neg (by decide), if_pos rfl, hacts]
  rfl

theorem Noted.latch {iss : Issue} {a : StreamAct} {t : Thread} (h : Noted iss a t) (p : Pipe) (v : Word) :
    Noted iss a (setLatch iss p v t) := by
  obtain ⟨hacts, hreads, hend, hnext, hask, hposting⟩ := h
  unfold setLatch
  split <;> exact ⟨hacts, hreads, hend, hnext, hask, hposting⟩

theorem Noted.stores {iss : Issue} {a : StreamAct} {t u : Thread} (h : Noted iss a t)
    (hu : u = { t with regs := u.regs, sbuf := u.sbuf, dieUnack := u.dieUnack }) : Noted iss a u := by
  obtain ⟨hacts, hreads, hend, hnext, hask, hposting⟩ := h
  rw [hu]; exact ⟨hacts, hreads, hend, hnext, hask, hposting⟩

/-! ### Acts on the lane's own streams -/

section
variable {s : State} {t u : Thread} {n : Nat}

theorem doAct_bind {p : DWord} {v : Word} (h : doBind s t n p v = .ok u) : doAct s t (.bind n p v) = .ok (putThread s u) := by
  unfold doAct; dsimp only; rw [h]

theorem doAct_derive {a b : Nat} {isUnion : Bool} (h : doDerive t n a b isUnion = .ok u) :
    doAct s t (.derive n a b isUnion) = .ok (putThread s u) := by unfold doAct; dsimp only; rw [h]

theorem doAct_free (h : doFree t n = .ok u) : doAct s t (.free n) = .ok (putThread s u) := by unfold doAct; dsimp only; rw [h]

theorem doAct_skip {v : Word} (h : doSkip s t n v = .ok u) : doAct s t (.skip n v) = .ok (putThread s u) := by
  unfold doAct; dsimp only; rw [h]

theorem doAct_skipN {v : Word} (h : doSkipN s t n v = .ok u) : doAct s t (.skipN n v) = .ok (putThread s u) := by
  unfold doAct; dsimp only; rw [h]

end

/-! ### The words in a group of one thread -/

section
variable {s : State} {iss : Issue} {g : BitVec 2} {t u : Thread} (h : OneLane s iss g t) (hp : iss.pos < 3)
include h hp

theorem OneLane.exec_sbind (c : BitVec 1) (d a b : BitVec 7) (hb : isStream b = false) (e : Entry) :
    let v := plain32 s iss t b
    let w := noting iss (.bind (d.toNat - 68) (src64 s iss t a) v) t
    isTied w (d.toNat - 68) = false → readEntry (putThread s w) w (src64 s iss t a) = .ok e →
    exec (.sbind c g d a b) s
      = .next (closed iss (putThread s (putStream t (boundStream (d.toNat - 68) (src64 s iss t a) v e)))) := by
  intro v w hfree he
  change laneWord g (laneSbind d a b) s = _
  exact h.goes_ownAct hp (laneSbind_reads d a (src32_plain hb)) (streamsAlone_putStream _ _) (doAct_bind (doBind_binds hfree he))

theorem OneLane.exec_derives (c : BitVec 1) (d a b : BitVec 7) {x y : Stream} (hda : d.toNat - 68 ≠ a.toNat - 68)
    (hdb : d.toNat - 68 ≠ b.toNat - 68) (hab : a.toNat - 68 ≠ b.toNat - 68) (hx : streamAt t (a.toNat - 68) = some x)
    (hy : streamAt t (b.toNat - 68) = some y) (hrx : x.role = .level) (hry : y.role = .level)
    (hd : isTied t (d.toNat - 68) = false) :
    exec (.sisect c g d a b) s = .next (closed iss (putThread s (tie t (d.toNat - 68) (a.toNat - 68) (b.toNat - 68) x y .intersection)))
    ∧ exec (.sunion c g d a b) s = .next (closed iss (putThread s (tie t (d.toNat - 68) (a.toNat - 68) (b.toNat - 68) x y .union))) := by
  have hact : ∀ isUnion : Bool, laneWord g
      (fun _ iss t => .ok (addAct iss (.derive (d.toNat - 68) (a.toNat - 68) (b.toNat - 68) isUnion) t)) s
        = .next (closed iss (putThread s
            (tie t (d.toNat - 68) (a.toNat - 68) (b.toNat - 68) x y (if isUnion then .union else .intersection)))) := by
    intro isUnion
    exact h.goes_ownAct hp rfl rfl (doAct_derive (doDerive_ties (t := noting iss _ t) hda hdb hab hx hy hrx hry hd isUnion))
  exact ⟨hact false, hact true⟩

theorem OneLane.exec_sfree (c : BitVec 1) (a : BitVec 7) (hu : StreamsAlone t u)
    (hfree : doFree (noting iss (.free (a.toNat - 68)) t) (a.toNat - 68) = .ok (noting iss (.free (a.toNat - 68)) u)) :
    exec (.sfree c g a) s = .next (closed iss (putThread s u)) := by
  change laneWord g (fun _ iss t => .ok (addAct iss (.free (streamNo a)) t)) s = _
  exact h.goes_ownAct hp rfl hu (doAct_free hfree)

theorem OneLane.exec_sskip (c : BitVec 1) (a b : BitVec 7) (hb : isStream b = false) :
    let v := plain32 s iss t b
    let w := noting iss (.skip (a.toNat - 68) v) t
    doSkip (putThread s w) w (a.toNat - 68) v = .ok u → exec (.sskip c g a b) s = .next (closed iss (putThread (putThread s w) u)) := by
  intro v w hskip
  change laneWord g (laneSkip .skip a b) s = _
  exact h.goes_noting hp (laneSkip_reads _ a (src32_plain hb)) (streamsAlone_doSkip hskip) (doAct_skip hskip)

theorem OneLane.exec_sskipn (c : BitVec 1) (a b : BitVec 7) (hb : isStream b = false) :
    let v := plain32 s iss t b
    let w := noting iss (.skipN (a.toNat - 68) v) t
    doSkipN (putThread s w) w (a.toNat - 68) v = .ok u →
      exec (.sskipn c g a b) s = .next (closed iss (putThread (putThread s w) u)) := by
  intro v w hskip
  change laneWord g (laneSkip .skipN a b) s = _
  exact h.goes_noting hp (laneSkip_reads _ a (src32_plain hb)) (streamsAlone_doSkipN hskip) (doAct_skipN hskip)

/-- A skip by count whose outcome is given without the note. -/
theorem OneLane.exec_sskipn_plain (c : BitVec 1) (a b : BitVec 7) (hb : isStream b = false) (hu : StreamsAlone t u) :
    let v := plain32 s iss t b
    let w := noting iss (.skipN (a.toNat - 68) v) t
    doSkipN (putThread s w) w (a.toNat - 68) v = .ok (noting iss (.skipN (a.toNat - 68) v) u) →
      exec (.sskipn c g a b) s = .next (closed iss (putThread s u)) := by
  intro v w hskip
  change laneWord g (laneSkip .skipN a b) s = _
  exact h.goes_ownAct hp (laneSkip_reads _ a (src32_plain hb)) hu (doAct_skipN hskip)

theorem OneLane.exec_append (c : BitVec 1) (d : BitVec 7) (k : BitVec 8) (hd : isStream d = true) {x : Stream} {e : Entry} {s' : State} :
    let v := k.signExtend 32
    let w := setLatch iss .ab v (noting iss (.append (d.toNat - 68) v) t)
    streamAt t (d.toNat - 68) = some x → x.role = .append → x.pos < x.fin → streamEntry (putThread s w) w x = .ok e →
    threadStore (putThread s w) (putStream w { x with pos := x.pos + 1, copy := some e }) (plusBytes e.a0 (4 * x.pos)) 4 v.toNat
      = .ok s' →
    exec (.movi c g d k) s = .next (closed iss s') := by
  intro v w hx hr hroom he hstore
  have hw : rowKey w = rowKey t := (kept_setLatch iss .ab v _).key
  have hnoted : Noted iss (.append (d.toNat - 68) v) w := (h.idle.noted iss _).latch .ab v
  have hstreams : w.streams = t.streams := by
    change (setLatch iss .ab v _).streams = _
    unfold setLatch; split <;> rfl
  have hxw : streamAt w (d.toNat - 68) = some x := by unfold streamAt; rw [hstreams]; exact hx
  obtain ⟨s1, u, rfl, hstands, hu⟩ := threadStore_row hstore
  have hact : doAct (putThread s w) w (.append (d.toNat - 68) v) = .ok (putThread s1 u) := (doAppend_stores hxw hr hroom he).trans hstore
  have hu' : rowKey u = rowKey w := by rw [hu]; rfl
  change laneWord g (fun _ iss t => .ok (result32 iss .ab d 0 v t)) s = _
  exact h.laneWord_act hp (congrArg _ (result32_append h.idle hd v)) hw hnoted hact
    ((h.stands.put (.refl s) hw).put hstands hu') ((hnoted.streams (streamsAlone_putStream w _)).stores hu)

end

end Sys2Proof.Machine

open Sys2Proof Sys2Proof.Machine

/-- Settles O32: each word's lanes do no more than note their act, their operand read. -/
theorem streamWords : Obligations.StreamWords := by
  intro c g d a b s iss hs
  refine ⟨?sisect, ?sunion, ?sfree, fun x r hr => ⟨?sbind, ?sskip, ?sskipn⟩⟩
  case sisect => exact leads_of_lane hs rfl fun _ _ _ => rfl
  case sunion => exact leads_of_lane hs rfl fun _ _ _ => rfl
  case sfree => exact leads_of_lane hs rfl fun _ _ _ => rfl
  case sbind => exact leads_of_lane hs rfl fun t ht ha => laneSbind_reads d a (hr t ht ha)
  case sskip => exact leads_of_lane hs rfl fun t ht ha => laneSkip_reads .skip a (hr t ht ha)
  case sskipn => exact leads_of_lane hs rfl fun t ht ha => laneSkip_reads .skipN a (hr t ht ha)

/-- Settles O33, act by act: what a skip does by the stream's role, and for each word that the run's one act is performed at its word's
turn, where the lane stands as the word has left it. -/
theorem streamActs : Obligations.StreamActs := by
  refine ⟨fun s t n v x hx => ⟨doSkip_refused hx, fun x1 hr => doSkip_level hx hr,
    fun a b a1 b1 hr ha hb hskipA hskipB => doSkip_derived hx hr ha hb hskipA hskipB, ?none, fun t1 y hb => doSkipN_turns hx hb⟩,
    fun c g d a b k s iss t u h hp hb =>
      ⟨h.exec_sbind hp c d a b hb, ?derive, ?free, ?untie, h.exec_sskip hp c a b hb, ?skipN, ?append⟩⟩
  case none =>
    rintro hr rfl
    exact doSkipN_none hx (hr.imp_right .inl)
  case derive => exact fun x y hda hdb hab hx hy hrx hry hd => h.exec_derives hp c d a b hda hdb hab hx hy hrx hry hd
  case free => exact fun x hx hr => h.exec_sfree hp c a rfl (doFree_unbinds (t := noting iss _ t) hx hr)
  case untie => exact fun x y z hx hr hy hz => h.exec_sfree hp c a rfl (doFree_unties (t := noting iss _ t) hx hr hy hz)
  case skipN =>
    refine ⟨h.exec_sskipn hp c a b hb, fun x e hx hr => ⟨fun hv => ?_, fun hv hs he hk => ?_⟩⟩
    · have hnone := h.exec_sskipn_plain hp c a b hb (.refl t)
      rw [h.stands.putThread_same, hv] at hnone
      exact hnone (doSkipN_none (t := noting iss _ t) hx (.inr (.inr hr)))
    · exact h.exec_sskipn_plain hp c a b hb rfl (doSkipN_begun (t := noting iss _ t) hx hr hs he hk hv)
  case append => exact fun hd x e s2 hx hr hroom he hstore => h.exec_append hp c d k hd hx hr hroom he hstore
end

section
/-! PROOFS. `speek` after a read ahead (12 R259): a lane that already holds the value of a stream for the run delivers that value. -/

namespace Sys2Proof.Machine

open Sys2Proof (Byte Word DWord Instr)

set_option Elab.async false

/-- Lanes that hold a value peeked of the stream deliver it, wherever the stream stands. -/
theorem does_speek_peeked {s : State} {iss : Issue} {g : BitVec 2} {d a : BitVec 7} {v : Thread → Word} (c : BitVec 1)
    (hs : Alone s iss) (hd : isStream d = false)
    (hv : EachActive s iss g fun t => t.peeked.find? (fun x => decide (x.1 = a.toNat - 68)) = some (a.toNat - 68, v t)) :
    Does (.speek c g d a) s iss g fun t => put32 iss d (v t) t := by
  refine does_of_lane hs rfl (fun t ht ha => ?_) fun t _ _ => kept_put32 _ _ _ _ hd
  have hvalue : peekedValue s t (streamNo a) = .ok (v t, t) := by
    unfold peekedValue streamNo
    rw [hv t ht ha]
  unfold laneSpeek
  rw [hvalue]

/-! ### A value that the stream does not have -/

/-- A run of lane 0 alone. -/
def speekIssue : Issue := { pairIssue with lanes := [0] }

/-- A lane whose stream 0 stands at position 1, with 7 held as its value. -/
def holding : Thread := { signalLane 0 1 { ext := 8 } with peeked := [(0, 7)] }

def holdingState : State :=
  { fetchState State.reset 0 with agenda := [], issue := some speekIssue, threads := [holding] }

theorem alone_holdingState : Alone holdingState speekIssue :=
  ⟨rfl, rfl, by decide, rfl, rfl, by decide, by decide, by unfold Idle; decide⟩

theorem eq_holding {t : Thread} (h : t ∈ holdingState.threads) : t = holding := List.mem_singleton.mp h

/-- A read of the stream would deliver its position. -/
theorem peekStream_holding : peekStream holdingState holding 0 = .ok (1, holding) := by decide +kernel

/-- x0 of each thread. -/
def firstRegisters (s : State) : List Word := s.threads.map fun t => regGet t.regs 0

end Sys2Proof.Machine

open Sys2Proof Sys2Proof.Machine

/-- Refutes O34: the clause of `speek` gives the value that `peekStream` finds in the state, but a lane for which the run has already
looked at the stream delivers what was seen then (12 R259), and neither `Idle` nor the clause says that a lane holds no such value. The
lane `holding` holds 7 for stream 0, whose element's value is 1: `speek` writes 7, where the clause has it write 1. -/
theorem not_streamQueries : ¬ Obligations.StreamQueries := by
  rintro ⟨-, -, -, -, -, -, hwords⟩
  obtain ⟨hspeek, -⟩ := hwords 0 0 0 0 68 holdingState speekIssue alone_holdingState
  have hclause : Does (.speek 0 0 0 68) holdingState speekIssue 0 fun t => put32 speekIssue 0 1 t :=
    (hspeek (fun _ => 1) id fun t ht _ => by rw [eq_holding ht]; exact peekStream_holding).1 rfl
  have hheld : Does (.speek 0 0 0 68) holdingState speekIssue 0 fun t => put32 speekIssue 0 7 t :=
    does_speek_peeked (v := fun _ => 7) 0 alone_holdingState rfl fun t ht _ => by rw [eq_holding ht]; rfl
  have hsame := congrArg firstRegisters (Host.Outcome.next.inj (hclause.symm.trans hheld))
  exact absurd hsame (by decide +kernel)
end

section
/-! PROOFS. `ctr` and `tick` (13 R264 to R269): what one lane reads by its selector. -/

namespace Sys2Proof.Machine

open Sys2Proof (Byte Word DWord Instr)

set_option Elab.async false

/-- To note that FPSM is to be cleared (08 R163) changes nothing of how the run ends. -/
theorem kept_flagsClear (t : Thread) : Kept t { t with flagsClear := true } := ⟨rfl, rfl, rfl, rfl, rfl, rfl, rfl⟩

section
variable {s : State} {iss : Issue} {t u : Thread} {d a : BitVec 7} {v : Word} (hr : src32 s iss t a = .ok (v, u))
include hr

theorem laneCtr_fpstat (hv : v.toNat % 2 ^ 16 = 0) : laneCtr d a s iss t = .ok (put64 d ((oldFpsm t).setWidth 64) u) := by
  simp only [laneCtr, hr, hv]

theorem laneCtr_fpstatclr (hv : v.toNat % 2 ^ 16 = 1) :
    laneCtr d a s iss t = .ok (put64 d ((oldFpsm t).setWidth 64) { u with flagsClear := true }) := by
  simp only [laneCtr, hr, hv]

theorem laneCtr_trapword (hv : v.toNat % 2 ^ 16 = 2) : laneCtr d a s iss t = .ok (put64 d t.trapWord u) := by
  simp only [laneCtr, hr, hv]

/-- Of the selectors above group 0's three, a listed one reads its counter. -/
theorem laneCtr_counter (hgroup : 2 < v.toNat % 2 ^ 16) (hlisted : isCounter (v.toNat % 2 ^ 16) = true) :
    laneCtr d a s iss t =
      .ok (put64 d (if (ctxOfLaunch s t.launch).ctren then counterBefore s iss t (v.toNat % 2 ^ 16) else 0) u) := by
  obtain ⟨n, hn⟩ := Nat.exists_eq_add_of_le' hgroup
  simp only [laneCtr, hr, hn] at hlisted ⊢
  simp [hlisted]

end

end Sys2Proof.Machine

open Sys2Proof Sys2Proof.Machine

/-- Settles O35: each lane acts for itself, and `ctr` answers by its selector. -/
theorem counters : Obligations.Counters := by
  intro c g d a s iss hs
  refine ⟨plain_of_lane (fun _ => rfl) fun _ _ _ => kept_put64 _ _ _, fun v r hr => ?_⟩
  intro sel does
  have hkept : ∀ t ∈ s.threads, isActive iss g t = true → ∀ n, Kept t (put64 d n (r t)) :=
    fun t ht ha n => (kept_src32 (hr t ht ha)).trans (kept_put64 d n _)
  refine ⟨fun hsel => ?fpstat, fun hsel => ?fpstatclr, fun hsel => ?trapword, fun hsel => ?counter⟩
  case fpstat =>
    exact does_of_lane hs rfl (fun t ht ha => laneCtr_fpstat (hr t ht ha) (hsel t ht ha)) fun t ht ha => hkept t ht ha _
  case fpstatclr =>
    exact does_of_lane hs rfl (fun t ht ha => laneCtr_fpstatclr (hr t ht ha) (hsel t ht ha)) fun t ht ha =>
      ((kept_src32 (hr t ht ha)).trans (kept_flagsClear _)).trans (kept_put64 _ _ _)
  case trapword =>
    exact does_of_lane hs rfl (fun t ht ha => laneCtr_trapword (hr t ht ha) (hsel t ht ha)) fun t ht ha => hkept t ht ha _
  case counter =>
    exact does_of_lane hs rfl (fun t ht ha => laneCtr_counter (hr t ht ha) (hsel t ht ha).1 (hsel t ht ha).2)
      fun t ht ha => hkept t ht ha _
end

section
/-! PROOFS. Privileged words (19 R286): in a privileged launch the run of the word's own effects, in every other the run of a word
that traps in every lane of the group, whatever its guard. -/

namespace Sys2Proof.Machine

open Sys2Proof (Byte Word DWord Instr)

set_option Elab.async false

/-! ### Effects that agree in every state that a run comes to -/

/-- A run is made of its words' effects in its first state and in what voiding lanes makes of it. -/
theorem conduct_congr {f f' : State → State} {p : State → Prop} (hf : ∀ s, p s → f s = f' s)
    (hp : ∀ s l, p s → p (voidLanes s l)) : ∀ n s, p s → conduct f n s = conduct f' n s := by
  intro n
  induction n with
  | zero => exact fun _ _ => rfl
  | succ n ih =>
    intro s hs
    unfold conduct
    split
    · rfl
    · dsimp only
      rw [hf s hs]
      split
      · rfl
      · exact ih _ (hp s _ hs)

theorem wordRun_congr {f f' : State → State} {p : State → Prop} (hf : ∀ s, p s → f s = f' s)
    (hp : ∀ s l, p s → p (voidLanes s l)) {s : State} (hs : p s) : wordRun f s = wordRun f' s := by
  unfold wordRun
  split
  · rfl
  · rw [hf s hs, conduct_congr hf hp 33 s hs]

/-! ### Privilege -/

/-- A run keeps its launch when lanes of it become void. -/
theorem isPrivileged_voidLanes (s : State) (l : List Thread) : isPrivileged (voidLanes s l) = isPrivileged s := by
  unfold isPrivileged voidLanes
  cases s.issue <;> rfl

theorem isPrivileged_eq {s : State} {iss : Issue} (hi : s.issue = some iss) : isPrivileged s = (launchOf s iss.launch).kernel := by
  unfold isPrivileged; rw [hi]

/-- Without a guard all lanes of the group are active. -/
theorem isActive_unguarded (iss : Issue) (t : Thread) : isActive iss 0 t = inGroup iss t := Bool.and_true _

/-- To trap the whole group is to trap its lanes in a word without a guard. -/
theorem trapGroup_eq (k : Trap) (s : State) : trapGroup k s = mapLanes 0 (fun _ _ _ => .error (.trap k)) s := by
  have hstep : ∀ iss t, laneStep iss 0 (fun _ => .error (.trap k)) t
      = if inGroup iss t && t.laneEnd.isNone then endLane iss t (.trap k) else t := fun iss t => by
    unfold laneStep isLive
    rw [isActive_unguarded]
  unfold trapGroup mapLanes
  cases s.issue with
  | none => rfl
  | some iss => dsimp only; rw [List.map_congr_left fun t _ => hstep iss t]

theorem privWord_privileged {body : State → State} {s : State} (h : isPrivileged s = true) :
    privWord body s = .next (wordRun body s) :=
  congrArg Host.Outcome.next (wordRun_congr (p := fun x => isPrivileged x = true) (fun _ hx => if_pos hx)
    (fun x l hx => (isPrivileged_voidLanes x l).trans hx) h)

theorem privWord_unprivileged {body : State → State} {s : State} (h : isPrivileged s = false) :
    privWord body s = laneWord 0 (fun _ _ _ => .error (.trap .privileged)) s :=
  congrArg Host.Outcome.next (wordRun_congr (p := fun x => isPrivileged x = false)
    (fun x hx => (if_neg (Bool.eq_false_iff.mp hx)).trans (trapGroup_eq .privileged x))
    (fun x l hx => (isPrivileged_voidLanes x l).trans hx) h)

theorem Alone.privWord_traps {s : State} {iss : Issue} {body : State → State} (hs : Alone s iss)
    (hk : (launchOf s iss.launch).kernel = false) :
    privWord body s = .next (settle
      { s with threads := s.threads.map fun t => if inGroup iss t then endLane iss t (.trap .privileged) else t }) := by
  rw [privWord_unprivileged ((isPrivileged_eq hs.issue).trans hk), hs.laneWord_trap]
  simp only [trappedRun, act, isActive_unguarded]

end Sys2Proof.Machine

open Sys2Proof Sys2Proof.Machine

/-- Settles O36: each of the words is one that only a privileged launch may perform, and such a word traps its group as
`Alone.privWord_traps` says. -/
theorem privilegedTraps : Obligations.PrivilegedTraps := by
  intro c g d a b s iss hs hk i hi trapped
  obtain ⟨body, hbody⟩ : ∃ body, exec i s = privWord body s := by
    simp only [List.mem_cons, List.not_mem_nil, or_false] at hi
    rcases hi with rfl | rfl | rfl | rfl | rfl | rfl | rfl | rfl | rfl | rfl | rfl | rfl | rfl <;> exact ⟨_, rfl⟩
  exact hbody.trans (hs.privWord_traps hk)
end

section
/-! PROOFS. Effects that a run leaves for its end (19 R291, R293, R294), and the effective tag of a thread among them. -/

namespace Sys2Proof.Machine

open Sys2Proof (Byte Word DWord Instr)

set_option Elab.async false

/-! ### Runs that leave something for their end -/

/-- A run in which every lane goes on: the end of it, and then what it has left for the end. -/
theorem Going.settles {s : State} {iss : Issue} (h : Going s iss) (hw : iss.away = []) (hd : iss.lanes.Nodup) :
    settle (runEffects iss s) = iss.after.foldl applyAfter (closed iss s) := by
  generalize hdef : { s with threads := s.threads.map fun t => if inGroup iss t then advanceRead t else t } = s1
  have hkeys : ∀ t ∈ s.threads, rowKey (if inGroup iss t then advanceRead t else t) = rowKey t := fun t _ => by
    split
    · exact (kept_advanceRead t).key
    · rfl
  have hrows : (s1.threads.map rowKey).Nodup := by rw [← hdef, map_rowKey _ hkeys]; exact h.rows
  have hlanes : ∀ t ∈ s1.threads, inGroup iss t = true → GoesOn t := by
    rw [← hdef]
    intro t ht hin
    obtain ⟨u, hu, rfl⟩ := List.mem_map.mp ht
    rw [inGroup_key (hkeys u hu)] at hin
    rw [if_pos hin]
    exact goesOn_advance (h.lanes u hu hin)
  have hissue : s1.issue = some iss := by rw [← hdef]; exact h.issue
  unfold runEffects
  rw [streamPhase_goesOn h.issue hw h.lanes, hdef, closeRun_goesOn hw hlanes]
  unfold settle
  rw [hissue]
  dsimp only
  rw [settle_lanes iss.lanes s1 hd hrows fun t ht hl hm => hlanes t ht ((inGroup_iff hw t).mpr ⟨hl, hm⟩)]
  congr 1
  unfold closed
  rw [← hdef]
  congr 1
  dsimp only
  rw [List.map_map]
  refine List.map_congr_left fun t ht => ?_
  simp only [Function.comp]
  by_cases hin : inGroup iss t = true
  · rw [if_pos hin, if_pos hin, if_pos ((inGroup_iff hw _).mp (inGroup_key (kept_advanceRead t).key ▸ hin))]
  · rw [if_neg hin, if_neg hin, if_neg fun e => hin ((inGroup_iff hw _).mpr e)]

/-- A run whose words leave it going, and one effect for its end. -/
theorem wordRun_leaves {s s' : State} {iss : Issue} {body : State → State} {a : AfterRun} (hs : Alone s iss) (hg : Going s' iss)
    (hb : body s = leave s' a) : wordRun body s = applyAfter (closed iss s') a := by
  have hleft : leave s' a = { s' with issue := some { iss with after := [a] } } := by
    unfold leave
    rw [hg.issue]
    dsimp only
    rw [hs.after]
    rfl
  have hgoing : Going (leave s' a) { iss with after := [a] } := by
    rw [hleft]; exact ⟨rfl, hg.rows, hg.lanes⟩
  have hunended : endedLanes (runEffects iss (leave s' a)) iss = [] :=
    endedLanes_unended (iss := { iss with after := [a] }) hgoing.issue hs.away fun t ht hin =>
      have ⟨hend, hacts, _, hask, hposting, _⟩ := hgoing.lanes t ht hin
      ⟨hend, hacts, hask, hposting⟩
  rw [wordRun_settled hs.issue hs.chained (by rw [hb]; exact hunended), hb]
  refine (hgoing.settles hs.away hs.lanes).trans ?_
  rw [hleft]
  rfl

/-! ### A lane's place through its run -/

theorem place_streamsAlone {t u : Thread} (h : StreamsAlone t u) : u.place = t.place := by rw [h]

theorem place_peekStream {s : State} {t u : Thread} {n : Nat} {v : Word} (h : peekStream s t n = .ok (v, u)) : u.place = t.place := by
  unfold peekStream at h
  split at h
  · cases h
  · split at h
    · cases h
    · split at h
      · cases h
      · rename_i hm
        split at h
        · cases h
        · cases h; exact place_streamsAlone (streamsAlone_materialise hm)

theorem place_src32 {s : State} {iss : Issue} {t u : Thread} {a : BitVec 7} {v : Word} (h : src32 s iss t a = .ok (v, u)) :
    u.place = t.place := by
  unfold src32 readStream at h
  split at h
  · split at h
    · cases h; rfl
    · cases h
    · split at h
      · cases h
      · rename_i hpeek
        cases h
        exact (place_peekStream hpeek :)
  · cases h; rfl

theorem place_advanceRead (t : Thread) : (advanceRead t).place = t.place := by
  unfold advanceRead
  generalize t.readS = l
  induction l generalizing t with
  | nil => rfl
  | cons r rs ih => rw [List.foldl_cons, ih, place_streamsAlone (streamsAlone_advanceStream _ r.1)]

theorem place_landed (iss : Issue) (t : Thread) : (landed iss t).place = t.place := by
  unfold landed; split <;> rfl

/-! ### The tag of the one lane (R294) -/

theorem mapThread_congr {s : State} {l n : Nat} {f f' : Thread → Thread}
    (h : ∀ t ∈ s.threads, isThread l n t = true → f t = f' t) : mapThread s l n f = mapThread s l n f' := by
  unfold mapThread
  congr 1
  refine List.map_congr_left fun t ht => ?_
  split
  · exact h t ht ‹_›
  · rfl

section
variable {s : State} {iss : Issue} {g : BitVec 2} {t u : Thread} (h : OneLane s iss g t)
include h

theorem OneLane.foldLanes_ok {f : State → Issue → Thread → Except LaneEnd State} {s' : State} (hf : f s iss t = .ok s') :
    Machine.foldLanes g f s = s' := by
  have ha : threadAt s iss.launch t.thread = some t := h.launch ▸ threadAt_of_mem h.alone.rows h.row
  rw [h.foldLanes]
  unfold laneFold
  rw [ha]
  dsimp only
  rw [h.isLive, if_pos rfl, hf]

/-- After the run the thread's row is the lane, landed. -/
theorem OneLane.row_closed {x : Thread} (hu : rowKey u = rowKey t) (hx : x ∈ (closed iss (putThread s u)).threads)
    (hk : isThread t.launch t.thread x = true) : x = landed iss (advanceRead u) := by
  obtain ⟨y, hy, rfl⟩ := List.mem_map.mp hx
  by_cases hin : inGroup iss y = true
  · rw [if_pos hin, h.eq_of_inGroup_put hu hy hin]
  · rw [if_neg hin] at hk
    exact absurd (h.inGroup_iff.mpr ((isThread_key _ _ _).mp hk)) hin

/-- Left for the end of the run, an effective tag is given to the lane where it holds its window. -/
theorem OneLane.effectiveTag_closed (hu : rowKey u = rowKey t) (hp : u.place = .window) (tag : Nat) :
    applyAfter (closed iss (putThread s u)) (.effectiveTag t.launch t.thread tag)
      = mapThread (closed iss (putThread s u)) t.launch t.thread fun x => { x with efftag := tag } := by
  refine mapThread_congr fun x hx hk => if_pos ?_
  rw [h.row_closed hu hx hk, place_landed, place_advanceRead, hp]

end

section
variable {s : State} {iss : Issue} {t w : Thread} {a : BitVec 7} {v : Word} (hr : src32 s iss t a = .ok (v, w))
  (hv : v.toNat < 4096)
include hr hv

theorem laneCtxtag_refused (hl : liveContext s t v.toNat = false) : laneCtxtag a s iss t = .ok (outcome s w 4 7 0) := by
  unfold laneCtxtag
  rw [hr]
  dsimp only
  rw [if_neg (Nat.not_le.mpr hv), hl]
  rfl

theorem laneCtxtag_leaves (hl : liveContext s t v.toNat = true) :
    laneCtxtag a s iss t = .ok (leave (outcome s w 4 0 0) (.effectiveTag t.launch t.thread v.toNat)) := by
  unfold laneCtxtag
  rw [hr]
  dsimp only
  rw [if_neg (Nat.not_le.mpr hv), hl]
  rfl

end

/-- SYSSTAT written changes nothing of how the lane's run ends. -/
theorem kept_sysstat (t : Thread) (v : DWord) : Kept t { t with sysstat := v } := ⟨rfl, rfl, rfl, rfl, rfl, rfl, rfl⟩

end Sys2Proof.Machine

open Sys2Proof Sys2Proof.Machine

/-- Settles O40: a tag that is not live is refused in the lane's turn; a live one is left for the end of the run, where the lane
still holds its window. -/
theorem contextTags : Obligations.ContextTags := by
  intro c g a s iss t w v h hk hr hv hp answers
  have hword : exec (.ctxtag c g a) s = .next (wordRun (foldLanes g (laneCtxtag a)) s) :=
    privWord_privileged ((isPrivileged_eq h.alone.issue).trans hk)
  have hkept : ∀ n, Kept t { w with sysstat := n } := fun n => (kept_src32 hr).trans (kept_sysstat w n)
  have hgoing : ∀ n, Going (putThread s { w with sysstat := n }) iss := fun n => going_put (going_alone h.alone) h.row (hkept n)
  refine ⟨fun hl => ?refused, fun hl => ?taken⟩
  case refused =>
    have hbody := h.foldLanes_ok (laneCtxtag_refused hr hv hl)
    rw [hword, wordRun_going h.alone (hbody ▸ hgoing _), hbody]
    rfl
  case taken =>
    rw [hword, wordRun_leaves h.alone (hgoing _) (h.foldLanes_ok (laneCtxtag_leaves hr hv hl)),
      h.effectiveTag_closed (hkept (sysstatWord 0 4 0)).key ((place_src32 hr).trans hp)]
    rfl
end

section
/-! PROOFS. The register of the context tags (19 Table 19-2): 12 bits of it hold the effective tag. -/

namespace Sys2Proof.Machine

open Sys2Proof (Byte Word DWord Instr)

set_option Elab.async false

/-- Register 6 holds the context's tag and, above it, as much of the effective tag as its field takes. -/
theorem sysReg_tags (s : State) (t : Thread) :
    sysReg s t 6 = some ((ctxOfLaunch s t.launch).tag + t.efftag % 2 ^ 12 * 2 ^ 12) := rfl

/-- A thread whose effective tag is the least that does not fit in 12 bits. -/
def wideTagged : Thread := { launch := 1, gang := 0, thread := 0, core := 0, efftag := 2 ^ 12 }

end Sys2Proof.Machine

open Sys2Proof Sys2Proof.Machine

/-- Refutes O37: its clause of the tags has register 6 read the whole effective tag above the context's, but the model takes the 12
bits of its field (`sysReg_tags`), and nothing in the statement bounds a thread's effective tag. Of `wideTagged` the register reads
the context's tag alone, where the clause has it read 2^24 more. -/
theorem not_systemRegisters : ¬ Obligations.SystemRegisters := by
  rintro ⟨-, hregisters⟩
  obtain ⟨-, -, -, -, -, htags, -⟩ := hregisters State.reset wideTagged rfl
  rw [sysReg_tags] at htags
  exact absurd (Option.some.inj htags) (by decide)
end

section
/-! PROOFS. `tlbinv` whose acknowledgements have come (19 R296): translations go when its wait begins, and none when it ends. -/

namespace Sys2Proof.Machine

open Sys2Proof (Byte Word DWord Instr)

set_option Elab.async false

/-! ### Privileged words of the elected lane (R288) -/

/-- A privileged word that acts once, where the elected lane's turn goes well and its run goes on. -/
theorem privWord_elects {s s' : State} {iss : Issue} {g : BitVec 2} {t : Thread}
    {f : State → Issue → Thread → Except LaneEnd State} (hs : Alone s iss) (hk : (launchOf s iss.launch).kernel = true)
    (he : electedLane s iss g = some t) (hf : f s iss t = .ok s') (hg : Going s' iss) :
    privWord (electWhole g f) s = .next (closed iss s') := by
  rw [privWord_privileged ((isPrivileged_eq hs.issue).trans hk)]
  exact congrArg Host.Outcome.next (electWord_closed hs he (by rw [hf]) hg)

/-! ### The end of an invalidation -/

section
variable {s : State} {iss : Issue} {t w : Thread} {a b : BitVec 7} {n : Word} (hn : src32 s iss t b = .ok (n, w))
  (hva : (src64 s iss t a).toNat / 2 ^ 60 = 0) (hpage : (src64 s iss t a).toNat % 65536 = 0)
  (hl : liveContext s t ((src64 s iss t a).toNat / 2 ^ 48 % 4096) = true)
  (hack : w.sysWait = .complete ∨ w.sysWait = .clockDone)
include hn hva hpage hl hack

/-- The acknowledged lane writes its SYSSTAT, and invalidates nothing more. -/
theorem laneTlbinv_acknowledged : laneTlbinv a b s iss t = .ok (outcome s w 3 0 0) := by
  unfold laneTlbinv awaitAcks
  rw [hn]
  dsimp only
  rw [if_neg (not_not_intro hva), if_neg (not_not_intro hpage), hl]
  exact if_pos hack

theorem exec_tlbinv_acknowledged {g : BitVec 2} (c : BitVec 1) (hs : Alone s iss) (hk : (launchOf s iss.launch).kernel = true)
    (he : electedLane s iss g = some t) : exec (.tlbinv c g a b) s = .next (closed iss (outcome s w 3 0 0)) :=
  privWord_elects hs hk he (laneTlbinv_acknowledged hn hva hpage hl hack)
    (going_put (going_alone hs) (mem_of_elected he) ((kept_src32 hn).trans (kept_sysstat w _)))

end

/-! ### A translation taken again while the word waited -/

/-- A run of one lane. -/
def tlbinvIssue : Issue :=
  { core := 0, launch := 1, gang := 0, lanes := [0], packet := 0, pos := 2, words := [], fall := (3, 0), mask := 0 }

/-- The lane that has waited for the invalidation of all translations of tag 1: the tag in bits 59 to 48 of d0, the count 0 in x2. -/
def invalidating : Thread :=
  { launch := 1, gang := 0, thread := 0, core := 0, window := 64, regs := 0 :: 0x10000 :: List.replicate 62 0, pos := 2, efftag := 1,
    sysWait := .complete }

/-- Its package, in which core 0 holds a translation of tag 1 again. -/
def refilled : State := { fetchState State.reset 0 with agenda := [], issue := some tlbinvIssue, threads := [invalidating] }

theorem alone_refilled : Alone refilled tlbinvIssue :=
  ⟨rfl, rfl, by decide, rfl, rfl, by decide, by decide, by unfold Idle; decide⟩

theorem privileged_refilled : (launchOf refilled tlbinvIssue.launch).kernel = true := by decide

theorem elected_refilled : electedLane refilled tlbinvIssue 0 = some invalidating := by decide

/-- The word passes its checks there. -/
theorem checks_refilled : let v := (src64 refilled tlbinvIssue invalidating 0).toNat
    v / 2 ^ 60 = 0 ∧ v % 65536 = 0 ∧ liveContext refilled invalidating (v / 2 ^ 48 % 4096) = true := by decide

/-- The translations that core 0 holds. -/
def translations (s : State) : List TlbEntry := (coreOf s 0).tlb

end Sys2Proof.Machine

open Sys2Proof Sys2Proof.Machine

/-- Refutes O39: its clause of `tlbinv` has the word, its acknowledgements come, invalidate its range at that time, but the model
invalidates when the wait begins (`startWait`), and the acknowledged word only writes SYSSTAT (`exec_tlbinv_acknowledged`): a
translation that a core has taken again meanwhile stays. In `refilled` core 0 holds such a one after the word, where the clause has it
hold none. -/
theorem not_systemWords : ¬ Obligations.SystemWords := by
  intro h
  obtain ⟨-, -, -, -, htlbinv, -⟩ :=
    h 0 0 0 2 refilled tlbinvIssue invalidating invalidating 0 alone_refilled privileged_refilled elected_refilled rfl
  obtain ⟨hva, hpage, hl⟩ := checks_refilled
  have hclause := (htlbinv hva hpage).2 hl (.inl rfl)
  have hkeeps := exec_tlbinv_acknowledged (b := 2) rfl hva hpage hl (.inl rfl) 0 alone_refilled privileged_refilled elected_refilled
  have hsame := congrArg translations (Host.Outcome.next.inj (hclause.symm.trans hkeeps))
  exact absurd hsame (by decide)
end
